-- ==== Sys2Proof/Word.lean ====
section
/-! DEFINITION. The two word sizes the manual names (00_scope.md, R5): a byte is 8 bits and a word is 64 bits. -/

namespace Sys2Proof

/-- A byte, 8 bits (R5). -/
abbrev Byte := BitVec 8

/-- A word, 64 bits (R5). -/
abbrev Word := BitVec 64

/-- A 32-bit value: an accumulator element, an FP32 pattern, a sequencer instruction. -/
abbrev W32 := BitVec 32

end Sys2Proof
end

