-- ==== Sys2Proof/Machine/Types.lean ====
section
/-! DEFINITION. The data that the commands of the table carry and the state holds: names of units, monitors and
blocks, what hardware finds at a step, chain images as Lemdo describes them, and fabric records. -/

namespace Sys2Proof

/-- A core, 0 to 63 (00_scope.md, Table 0-1). -/
abbrev CoreId := Fin 64
/-- An agent that executes sequencer instructions: 0 to 63 a core's sequencer, 64 Swifort (R298). -/
abbrev Agent := Fin 65
/-- A mailbox slot (R138). -/
abbrev SlotId := Fin 32
/-- A ring pair (R194). -/
abbrev RingId := Fin 256
/-- A fabric port (R482). -/
abbrev PortId := Fin 6
/-- A general register number (R281). -/
abbrev RegId := Fin 32
/-- A job slot (R205). -/
abbrev JobId := Fin 8192

/-- ADMIN of a unit state record (R153). -/
inductive Admin where
  | online | draining | offline
deriving DecidableEq, Repr

/-- HEALTH of a unit state record (R153). -/
inductive Health where
  | good | suspect | fault
deriving DecidableEq, Repr

/-- The power monitors of Table 3-8, in the cause-mask order of R153. -/
inductive Monitor where
  | thermal | thermalHard | pkgFast | pkgExcursion | pkgSustained | trayInput | current
deriving DecidableEq, Repr

/-- The wake events of R67; a TXN frame carries its DST. -/
inductive WakeCause where
  | doorbell
  | txnFrame (dst : BitVec 12)
  | scrub
  | mailbox
deriving DecidableEq, Repr

/-- The attributes of a PCIe request or completion (R114). -/
structure TlpAttr where
  relaxed : Bool := false
  idBased : Bool := false
  noSnoop : Bool := false
deriving DecidableEq, Repr

/-- What stands beside the address of a memory request: the EP bit and the attributes (R114, R118). -/
structure TlpReq where
  poisoned : Bool := false
  attr : TlpAttr := {}
deriving DecidableEq, Repr

/-- A read of BAR0 (R120, R121). -/
structure Bar0Read where
  offset : Nat
  size : Nat
  attr : TlpAttr := {}
deriving DecidableEq, Repr

/-- A write to a 64-bit register, whole or of one 4-byte half, the high one when true (R121). -/
structure PartWrite where
  half : Option Bool := none
  value : Word
deriving DecidableEq, Repr

/-- The AER errors of Table 5-3, the correctable ones first. -/
inductive AerErr where
  | receiver | badTlp | badDllp | replayTimer | replayNum | advisory
  | dataLink | poisoned | timeout | unexpected | malformed | unsupported | overflow
deriving DecidableEq, Repr

/-- The registers of configuration space with a value that the manual gives (Tables 5-1, 5-2; R115). -/
inductive CfgReg where
  | vendorId | deviceId | revisionId | classCode | subVendorId | subsystemId | bar0 | bar2 | bar4 | bar5 | interruptPin
  | expansionRom
  /-- Whether the capability of this number stands in the list of capabilities, or of extended capabilities. -/
  | capability (extended : Bool) (id : Nat)
  | linkCap | deviceCap | powerState | linkControl | msixControl | deviceControl | deviceControl2
  | bar2Sizes | bar2Control | aerCorrStatus | aerCorrMask | aerStatus | aerMask | aerSeverity
deriving DecidableEq, Repr

/-- What reaches the function's configuration space: a request of the host, or an error that the link's own layers report
there (R113 to R118). -/
inductive CfgAccess where
  /-- The host moves the function to D3hot or back to D0 (R116). -/
  | power (d3hot : Bool)
  /-- The host writes ASPM Control (R115). -/
  | aspm (l1 : Bool)
  /-- The host writes MSI-X Enable and Function Mask (R136). -/
  | msix (enable funcMask : Bool)
  /-- The host writes Device Control: Max Payload Size and Max Read Request Size as 128 B shifted left, 10-Bit Tag
  Requester Enable, and the reporting enables for correctable, non-fatal, fatal errors and Unsupported Requests. -/
  | deviceControl (mps mrrs : Fin 8) (tag10 corr nonFatal fatal unsupported : Bool)
  /-- The host clears AER status bits, by the numbers of Table 5-3 in its order. -/
  | aerClear (errors : List AerErr)
  /-- The host sets the mask of one error. -/
  | aerMask (e : AerErr) (masked : Bool)
  /-- The host sets the severity of one uncorrectable error. -/
  | aerSeverity (e : AerErr) (fatal : Bool)
  /-- A layer of the link reports an error (R118). -/
  | linkError (e : AerErr)
  /-- The host reads a register. -/
  | read (r : CfgReg)
deriving DecidableEq, Repr

/-- Blocks without a unit state record (R564), in the FBLOCK order of Table 26-3. -/
inductive FatalBlock where
  | dispatcher | hostLink | noc | tierPath | swifortMemory | ledgerEngine | eftIsland | fuseShadow | stagingMover
deriving DecidableEq, Repr

/-- What error-correction logic finds at a read: nothing, a corrected error, or an error that every retry of the
level also fails on (R246, R470). `rereads` is how many re-reads were made before one succeeded. -/
inductive EccFind where
  | clean
  | corrected
  | recovered (rereads : Nat)
  | uncorrectable (syndrome : Byte)
deriving DecidableEq, Repr

/-- What comes to the Eft island with a tick: FRZ_N is low (R626), and errors that memory words have taken since the last one, by word address
(R246, R470; log entry 39). -/
structure EftEdge where
  frzLow : Bool
  upsets : List (Nat × EccFind) := []
deriving DecidableEq, Repr

/-- One core's scrub pass in DOZE: what it finds, by word of the core's scratchpad (R250). -/
structure DozeScrub where
  core : CoreId
  finds : List (Nat × EccFind) := []
deriving DecidableEq, Repr

/-- The bytes of the two boot flash slots (R98, R99). -/
structure FlashSlots where
  slotA : List Byte
  slotB : List Byte
deriving DecidableEq, Repr

/-- What self-test fails: units, and scratchpad banks by number (R101, R248). -/
structure SelftestFails where
  units : List Nat
  banks : List Nat := []
deriving DecidableEq, Repr

/-- A unit's acknowledgement of a quench, with the generation it carries (R212, R214). -/
structure AckOf where
  gen : BitVec 16
  unit : Nat
deriving DecidableEq, Repr

/-- A read of host memory: the bytes it returns, or a failed transfer (R119, R162). -/
inductive HostRead where
  | ok (data : List Byte)
  | fault
deriving DecidableEq, Repr

/-- A descriptor read over the host link (R118, R119). -/
inductive DescRead where
  | ok (w0 w1 w2 w3 w4 w5 w6 w7 : Word)
  | timeout
  | poisoned
deriving DecidableEq, Repr

/-- One failed comparison of a pass (R319, R325): its kind and its index in the logical tile. -/
inductive CmpFail where
  | row (m : Nat)
  | column (n : Nat)
deriving DecidableEq, Repr

/-- One line or cell a line test finds faulty (R329): a data row or column by its logical line, a single cell, or a
checksum line. -/
inductive LineFind where
  | row (line : Nat)
  | column (line : Nat)
  | cell (rowLine columnLine : Nat)
  | checksumLine
deriving DecidableEq, Repr

/-- A fold of the array (Table 11-10). -/
inductive Fold where
  | square | wide2 | wide4 | wide8
deriving DecidableEq, Repr

/-- An element type (Tables 11-9, 11-11). -/
inductive EType where
  | int8 | e4m3 | e5m2 | bf16 | fp16 | fp32 | int32 | int4
deriving DecidableEq, Repr

/-- A reference an image makes, in the order the image names them (R176 check 3). -/
inductive ImageRef where
  | commons (coid : Nat)
  | region (id : Nat)
deriving DecidableEq, Repr

/-- One stage of a plan (R433): how many cores it takes, and the remote stage number when another tray runs it. -/
structure StageDesc where
  cores : Nat
  remote : Option Nat
deriving DecidableEq, Repr

/-- A resident scratchpad copy of a plan: `len` bytes from `off` of an object, on a chain position, at a bank of the section's own
layout. -/
structure ScratchDesc where
  source : ImageRef
  pos : Nat
  off : Nat
  len : Nat
  bank : Nat
deriving DecidableEq, Repr

/-- A plan (R433): its stages, and for each round the section of each chain position; `layerOwners` lists, layer by
layer of the model, the (round, stage) pairs that own it. -/
structure PlanDesc where
  stages : List StageDesc
  rounds : List (List Nat)
  layerOwners : List (List (Nat × Nat))
  /-- Input and output size in bytes at this plan's buckets (R201). -/
  inSize : Nat
  outSize : Nat
  /-- Copies that the plan stages into scratchpads (R31, R37, R401). -/
  scratch : List ScratchDesc
deriving DecidableEq, Repr

/-- A walk descriptor (Table 17-2), its four words. -/
structure WalkDesc where
  w0 : Word
  w1 : Word
  w2 : Word
  w3 : Word
deriving DecidableEq, Repr

/-- A feed (R429). -/
structure FeedDesc where
  source : ImageRef
  walk : WalkDesc
  rowBytes : Nat
  rowsPerTile : Nat
  pitch : Nat
  dest : Nat
deriving DecidableEq, Repr

/-- A window setting (Table 9-5), in 64 B units. -/
structure WinDesc where
  base : Nat
  wr : Bool
  size : Nat
deriving DecidableEq, Repr

/-- A circular region setting (Table 9-6); `source` as the section writes it, `0x1000 + q` naming a chain position. -/
structure CircDesc where
  base : Nat
  size : Nat
  source : Nat
  /-- Smallest and largest token of the region in 4 KiB units (R242, R438). -/
  minToken : Nat
  maxToken : Nat
deriving DecidableEq, Repr

/-- A region attribute setting (Table 10-2). -/
structure RattrDesc where
  base : Nat
  limit : Nat
  enable : Bool
  early : Bool
deriving DecidableEq, Repr

/-- The static fields of a table register (Table 16-1), its words as the section writes them. -/
structure TableDesc where
  index : Nat
  w0 : Word
  w1 : Word
  w2 : Word
  w3 : Word
  source : ImageRef
  sourceBytes : Nat
deriving DecidableEq, Repr

/-- The layer whose base a DL block corrects: the commons object and fold of its tiling, and its real extents along k and n (R367, R369). -/
structure DlLayer where
  coid : Nat
  fold : Nat
  k : Nat
  n : Nat
deriving DecidableEq, Repr

/-- What a sealed sparse operand is (Table 14-1): an NM or BK tile of an element type, a fibre operand, or a portion of a DL region with
the layer of each of its blocks, in the order of the directory. -/
inductive SparseKind where
  | nm (t : EType) (fold pattern : Nat)
  | bk (t : EType)
  | fb
  | dl (blocks : List DlLayer)
deriving DecidableEq, Repr

/-- A sealed sparse operand an image names as weights (R369): `len` bytes from `off` of an object. -/
structure SparseDesc where
  source : ImageRef
  off : Nat
  len : Nat
  kind : SparseKind
deriving DecidableEq, Repr

/-- A section (R442, Table 17-5): its parts, the settings of its REG part, and Lemdo's declarations about it. -/
structure SectionDesc where
  code : List W32
  drn : List (List Byte)
  regBytes : Nat
  data : List Byte
  dataOff : Nat
  steered : Bool
  /-- The 64 bytes of the header (R442). -/
  header : List Byte
  entry : Nat
  tvec : Nat
  windows : List WinDesc
  circs : List CircDesc
  rattrs : List RattrDesc
  nmcfg : Nat
  nmPatterns : List Nat
  gthCfg : Nat
  tables : List TableDesc
  walks : List WalkDesc
  fires : List (Nat × Nat)
  feeds : List FeedDesc
  sparse : List SparseDesc
  /-- Chain position and region numbers this section's core writes (R244). -/
  producers : List (Nat × Nat)
  hasSteer : Bool
  reconverges : Bool
  shareable : Bool
  basePlusDelta : Bool
  readsSetByVector : Bool
  hasGather : Bool
deriving DecidableEq, Repr

/-- A shareable layer, with what its share key is computed from (R39): the COID of its base, the layer shape, operand formats and
element types, the folding mode, the accumulation mode, and the section that holds it. -/
structure ShareLayer where
  coid : Nat
  shape : List Nat
  formats : List Nat
  etypes : List Nat
  fold : Nat
  accMode : Nat
  sec : Nat
deriving DecidableEq, Repr

/-- A chain image as the image checker sees it. The manual gives the parts of an image (R201, R426 to R448) and no
container for them, so the command that registers an image carries the parsed parts beside the bytes. -/
structure ImageDesc where
  /-- Format version, `none` when the image is too short to hold one (R176). -/
  format : Option Nat
  headerOk : Bool
  refs : List ImageRef
  buckets : List (List Nat)
  batchDim : Option Nat
  plans : List PlanDesc
  sections : List SectionDesc
  /-- The shareable layers (R39). -/
  shareLayers : List ShareLayer
  remoteStages : Nat
  /-- For each SHARDED table, its shard map entries (NODE, PRESENT, REGION), R402. -/
  shardMaps : List (Nat × Bool × Nat)
deriving DecidableEq, Repr

/-- A link entry of a link-state record (Table 20-7). -/
structure LinkEntry where
  port : Nat
  nport : Nat
  nuid : Nat
deriving DecidableEq, Repr

/-- A link-state record (Table 20-7). -/
structure LsrRec where
  uid : Nat
  seq : BitVec 32
  node : BitVec 12
  tentative : Bool
  withdrawn : Bool
  links : List LinkEntry
deriving DecidableEq, Repr

/-- A virtual channel (Table 20-2). -/
inductive Vc where
  | req | rsp | mgt
deriving DecidableEq, Repr

/-- The payload of a codeword (R484): 20 flits, word 0 of a flit in its lowest bits, and the S bit of each. -/
structure Codeword where
  flits : List (BitVec 256)
  sbits : BitVec 20
deriving DecidableEq, Repr

/-- What the link layer sees of a received frame (R486, R487): its virtual channel, flits, sequence number, and whether every check of
R487 passed. -/
structure RxFrame where
  vc : Vc
  flits : Nat
  lseq : BitVec 16
  valid : Bool
deriving DecidableEq, Repr

/-- A TXN frame to forward (R510). -/
structure FwdFrame where
  dst : BitVec 12
  hops : Nat
  vc : Vc
  flits : Nat
deriving DecidableEq, Repr

/-- The body fields of a request frame (Table 21-3) with its source and destination. -/
structure TxnHdr where
  src : BitVec 12
  attempt : Nat
  last : Bool
  part : Nat
  txid : BitVec 32
  eseq : BitVec 16
  lowOpen : BitVec 16
  tcid : Nat
  slot : Nat
  gen : BitVec 16
deriving DecidableEq, Repr

/-- A response frame (Table 21-3). -/
structure TxnRsp where
  src : BitVec 12
  txid : BitVec 32
  last : Bool
  part : Nat
  status : BitVec 16
  sat : Bool
  nan : Bool
  hold : Bool
  payload : List Byte
deriving DecidableEq, Repr

/-- An entry of a remote sub-bag (R423): the row and, when weighted, its FP32 weight. -/
structure PoolEntry where
  row : Nat
  weight : W32
deriving DecidableEq, Repr

end Sys2Proof
end

