-- ==== Sys2Proof/Syntax.lean ====
section
/-! DEFINITION. The commands of the block: one constructor for each row of spec/opcode_table.json, in the
table's order. The table gives no row any operand bits; each constructor's operands are what the row's own words name,
and what comes from outside the tray at that step (log entry 1). -/

namespace Sys2Proof

/-- A command: one whole, indivisible step of the tray (95_what_each_step_holds.md). -/
inductive Instr where
  /-- POWER_ON (R92): 12 V rises into its operating range and the tray runs the cold start sequence from tray time 0. -/
  | powerOn
  /-- PERST (R86): The host asserts PERST#, which starts a COLD reset unless a frozen tray holds FRZ_N low. -/
  | perst
  /-- HOST_COLD (R87): A write of 0x5A5A_0002 to SYS_RST.CMD starts a COLD reset. -/
  | hostCold
  /-- HOST_WARM (R87): A write of 0x5A5A_0001 to SYS_RST.CMD starts a WARM reset. -/
  | hostWarm
  /-- FLR (R86): A PCIe Function Level Reset starts a WARM reset. -/
  | flr
  /-- HOT_RESET (R117): A PCIe Hot Reset, or a DL_Down that PERST# did not cause, starts a WARM reset. -/
  | hotReset
  /-- EFT_WATCHDOG (R88): The croak counter has not advanced for 2 s outside TORPOR, so the Eft island starts a WARM reset. -/
  | eftWatchdog
  /-- INPUT_UNDERVOLTAGE (R619): 12 V stays below 10.8 V for 100 µs and every power stage turns off. -/
  | inputUndervoltage
  /-- THERMAL_TRIP (R82): Tj reaches 110 °C; the Eft island stops the domains, puts tier memory into self-refresh and removes power. -/
  | thermalTrip
  /-- PIN_FREEZE (R600): FRZ_N is low at two consecutive EFT ticks and freeze latches with cause PIN. -/
  | pinFreeze
  /-- FATAL_REPORT (R564): A block without a unit record reports a fault to the Eft island, which latches FATAL and asserts freeze. -/
  | fatalReport (block : FatalBlock)
  /-- FREEZE_SEQUENCE_STEP (R604): A fixed EFT tick of the freeze sequence arrives and the next domain stops or tier memory enters self-refresh. -/
  | freezeSequenceStep (missed : List Nat)
  /-- SRO_RESTART (R611): SRO_CLK has stayed low for 100 µs after freeze, so the read-out stream restarts at byte 0. -/
  | sroRestart
  /-- IMAGE_VERIFY_DONE (R99): The boot ROM finishes verifying a slot and boots it, falls back to the other slot, or enters recovery. -/
  | imageVerifyDone (flash : FlashSlots)
  /-- SELFTEST_DONE (R101): Self-test finishes and the unit state records take their starting values, or a fatal boot status is set. -/
  | selftestDone (failed : SelftestFails) (fatal : List FatalBlock)
  /-- TRAINING_DONE (R102): Tier memory training finishes, and the trained values are saved or TRAINING_FATAL is set. -/
  | trainingDone (failed : List Nat)
  /-- TIER_INIT_FILL_DONE (R92): Tier memory zero-fill and ECC initialisation finish at cold start. -/
  | tierInitFillDone
  /-- READY (R94): Swifort posts the ready event, setting FW_READY and SYS_BOOT.STATUS and raising vector 1. -/
  | ready
  /-- RECOVER (R100): A write of 1 to SYS_BOOT.RECOVER makes the boot ROM verify and boot the recovery buffer, or is an unlisted encoding. -/
  | recover (value : W32)
  /-- TRIAL_ABANDON (R110): A trial image has not posted ready within 500 ms, so the COMMITTED slot is reloaded and the saved state is restored. -/
  | trialAbandon
  /-- SLEEP_ENTRY (R66): The idle conditions have held for IDLE_SLEEP, so the tray closes admission, enters self-refresh, sets bank states and stops the fast PLLs. -/
  | sleepEntry (steps : Fin 6)
  /-- WAKE (R67): A wake event in SLEEP starts the PLL relock and the self-refresh exit, or stops a SLEEP entry before its point of no return. -/
  | wake (cause : WakeCause)
  /-- WAKE_DONE (R67): The PLLs and tier memory are ready, so the dispatcher is released and the tray is ACTIVE. -/
  | wakeDone
  /-- TORPOR_ENTRY (R70): The tray has been in SLEEP for IDLE_TORPOR with the conditions met, so Swifort withdraws, saves state and requests L1, and power is removed. -/
  | torporEntry
  /-- TORPOR_WAKE (R72): The link leaves L1 in TORPOR and the resume sequence starts. -/
  | torporWake
  /-- TORPOR_WAKE_DONE (R72): Swifort has checked its image and restored its state, tier A is restored, and the dispatcher is released. -/
  | torporWakeDone
  /-- CORE_DOZE (R64): A core has had empty queues and a waiting sequencer for 32 CORE cycles and enters DOZE. -/
  | coreDoze (core : CoreId)
  /-- SCRUB_WAKE (R76): Ten minutes in SLEEP since the last full scrub raise a scrub wake, and the tray scrubs and returns to SLEEP. -/
  | scrubWake
  /-- SP_SCRUB_DOZE (R250): A dozing core whose last full pass ended 8 minutes ago scrubs its ON banks. -/
  | spScrubDoze (pass : DozeScrub)
  /-- MONITOR_SAMPLE (R640): A monitor samples at its grid point and steps its CORE ceiling down or up. -/
  | monitorSample (monitor : Monitor) (reading : Int)
  /-- CURRENT_WARNING (R78): The core power stage asserts its overcurrent warning and the CURRENT monitor steps down every 10 µs. -/
  | currentWarning
  /-- FMAX_STEP (R85): A lowered CORE_FMAX takes its next 25 MHz step after 10 µs. -/
  | fmaxStep
  /-- CLOCK_STEP (R80): A 1 ms step window closes and Swifort posts CLOCK_STEP. -/
  | clockStep
  /-- POWER_FLOOR (R81): A monitor has stayed triggered at 100 MHz for 10 ms, so admission is held; it resumes when readings fall below 95%. -/
  | powerFloor
  /-- LINK_L1_REQUEST (R115): In SLEEP no TLP has crossed the link for 100 µs, so the host link controller requests L1. -/
  | linkL1Request
  /-- POWER_MGMT_STATE (R116): The host moves the function to D3hot or back to D0. -/
  | powerMgmtState (acc : CfgAccess)
  /-- BAR2_RESIZE (R125): The host changes the BAR2 size and every window is disabled and cleared. -/
  | bar2Resize (log2GiB : Nat)
  /-- BAR2_ACCESS (R126): A host read or write through a BAR2 window reaches device memory under the endpoint check. -/
  | bar2Access (write : Bool) (offset : Nat) (len : Nat) (data : List Byte) (req : TlpReq)
  /-- SYS_WIN_BASE_WRITE (R127): A write to SYS_WINn_BASE moves a window, or is an unlisted encoding. -/
  | sysWinBaseWrite (n : Fin 4) (value : PartWrite)
  /-- SYS_WIN_CTL_WRITE (R129): A write to SYS_WINn_CTL sets ENABLE and TCID for later BAR2 requests. -/
  | sysWinCtlWrite (n : Fin 4) (value : W32)
  /-- SYS_TIME_READ (R123): A 4-byte read of SYS_TIME low latches the high half for the following read. -/
  | sysTimeRead (read : Bar0Read)
  /-- BAR0_WRITE (R121): A write to a BAR0 register without a row of its own takes effect by its access code, or is discarded and sets an invalid-write flag. -/
  | bar0Write (offset : Nat) (size : Nat) (value : Word) (poisoned : Bool)
  /-- SQ_DOORBELL (R132): A write to DB_SQTAIL exposes descriptors, is stamped and wakes the tray. -/
  | sqDoorbell (ring : RingId) (value : W32)
  /-- CQ_HEAD_WRITE (R198): A write to DB_CQHEAD consumes completions and frees completion slots. -/
  | cqHeadWrite (ring : RingId) (value : W32)
  /-- MBX_DOORBELL (R145): A write to MBX_DB submits slots, which Swifort accepts in arrival order. -/
  | mbxDoorbell (mask : W32)
  /-- MBX_DONE_CLEAR (R141): A write of 1 to an MBX_DONE bit returns that slot to HOST. -/
  | mbxDoneClear (mask : W32)
  /-- MBX_EVQ_BASE_WRITE (R139): A write to MBX_EVQ_BASE sets the event queue base, or is an unlisted encoding. -/
  | mbxEvqBaseWrite (value : PartWrite)
  /-- MBX_EVQ_CTL_WRITE (R139): A write to ENABLE starts or stops event queue writing, and a new start resets TAIL and PHASE. -/
  | mbxEvqCtlWrite (value : W32)
  /-- MBX_EVQ_HEAD_WRITE (R155): A write to MBX_EVQ_HEAD frees space, so the backlog and any EVQ_OVERFLOW record are written. -/
  | mbxEvqHeadWrite (value : W32)
  /-- CMD_TIMEOUT (R150): A command reaches its class bound and completes with CMD_TIMEOUT. -/
  | cmdTimeout (slot : SlotId) (moved : List Byte)
  /-- CROAK (R151): Swifort increments the croak counter by one. -/
  | croak
  /-- IDENTIFY (R168): Returns the firmware version, SVN, rollback counter, slots, serial, UID and node address. -/
  | identify (slot : SlotId)
  /-- TRAY_STATUS (R168): Returns the time, frequencies, temperature, power state, power draw, jobs, tenants and ledger occupancy. -/
  | trayStatus (slot : SlotId)
  /-- TIME_SET (R61): Steps or slews tray time toward a given value. -/
  | timeSet (slot : SlotId)
  /-- TIME_QUERY (R168): Returns tray time and the slew still to absorb. -/
  | timeQuery (slot : SlotId)
  /-- POWER_SET (R65): Sets IDLE_SLEEP, IDLE_TORPOR, CORE_FMAX and TORPOR_EN. -/
  | powerSet (slot : SlotId)
  /-- POWER_QUERY (R168): Returns the power policy and every monitor's ceiling. -/
  | powerQuery (slot : SlotId)
  /-- TENANT_CREATE (R25): Creates a tenant context with a named or the lowest free TCID. -/
  | tenantCreate (slot : SlotId)
  /-- TENANT_SET (R169): Changes a tenant's RW fields, with pin and quota checks. -/
  | tenantSet (slot : SlotId)
  /-- TENANT_QUERY (R170): Returns a tenant context record. -/
  | tenantQuery (slot : SlotId)
  /-- TENANT_SUSPEND (R170): Moves an ACTIVE tenant to SUSPENDED. -/
  | tenantSuspend (slot : SlotId)
  /-- TENANT_RESUME (R170): Moves a SUSPENDED tenant to ACTIVE. -/
  | tenantResume (slot : SlotId)
  /-- TENANT_DESTROY (R27): Moves a tenant to DESTROYING and, under FORCE, quenches its jobs and staging. -/
  | tenantDestroy (slot : SlotId)
  /-- TENANT_FREED (R27): Once its last job has ended, Swifort frees a DESTROYING tenant's regions and images and moves the TCID to FREE. -/
  | tenantFreed (tcid : Nat)
  /-- COMMONS_ALLOC (R171): Reserves space in tier B and tier A for a commons object. -/
  | commonsAlloc (slot : SlotId)
  /-- COMMONS_LOAD (R171): Loads bytes from a host buffer into an OPEN commons object. -/
  | commonsLoad (slot : SlotId) (buf : HostRead)
  /-- COMMONS_SEAL (R171): Seals a commons object, copies it to tier A and returns its digest. -/
  | commonsSeal (slot : SlotId)
  /-- COMMONS_FREE (R171): Frees an unreferenced commons object and zero-fills both of its copies. -/
  | commonsFree (slot : SlotId)
  /-- COMMONS_QUERY (R169): Returns a commons object's state, size, bases and reference count. -/
  | commonsQuery (slot : SlotId)
  /-- REGION_CREATE (R173): Creates a tenant region, placed by the host or by Swifort. -/
  | regionCreate (slot : SlotId)
  /-- REGION_LOAD (R174): Loads bytes from a host buffer into an unsealed region. -/
  | regionLoad (slot : SlotId) (buf : HostRead)
  /-- REGION_SEAL (R174): Seals a read-only region, which is a pin for a pinned tenant. -/
  | regionSeal (slot : SlotId)
  /-- REGION_FREE (R175): Frees an unused region after zero-filling it. -/
  | regionFree (slot : SlotId)
  /-- REGION_QUERY (R172): Returns a region's flags, copies, size and base. -/
  | regionQuery (slot : SlotId)
  /-- IMAGE_REGISTER (R176): Copies a chain image, checks it, stores it and returns an image identifier. -/
  | imageRegister (slot : SlotId) (buf : HostRead) (desc : ImageDesc)
  /-- IMAGE_UNREGISTER (R177): Unregisters an image without admitted jobs and removes its bindings. -/
  | imageUnregister (slot : SlotId)
  /-- IMAGE_QUERY (R172): Returns an image's sections, format, jobs, size and digest. -/
  | imageQuery (slot : SlotId)
  /-- IMAGE_BIND (R178): Binds a remote stage of an image to a node and a remote image identifier. -/
  | imageBind (slot : SlotId)
  /-- RING_CONFIGURE (R180): Configures a submission and completion ring pair. -/
  | ringConfigure (slot : SlotId)
  /-- RING_DESTROY (R181): Unconfigures a ring, discarding unread descriptors and, under FORCE, quenching its jobs. -/
  | ringDestroy (slot : SlotId)
  /-- RING_QUERY (R179): Returns a ring's configuration, status and stop cause. -/
  | ringQuery (slot : SlotId)
  /-- RING_RESTART (R181): Restarts a STOPPED ring by re-reading the descriptor at HEAD. -/
  | ringRestart (slot : SlotId)
  /-- UNIT_QUERY (R179): Returns a unit's ADMIN, HEALTH, GEN and job count. -/
  | unitQuery (slot : SlotId)
  /-- UNIT_LIST (R182): Writes every unit's state record to a host buffer. -/
  | unitList (slot : SlotId) (hostOk : Bool)
  /-- UNIT_SET_ADMIN (R182): Sets a unit's ADMIN, quenching under FORCE and abandoning a field repair when set ONLINE or DRAINING. -/
  | unitSetAdmin (slot : SlotId)
  /-- UNIT_RETEST (R183): Runs an OFFLINE unit's self-test and sets HEALTH from the result. -/
  | unitRetest (slot : SlotId) (pass : Bool) (stillBad : List Nat)
  /-- FABRIC_QUERY (R184): Returns the node, reachability, route source and port states. -/
  | fabricQuery (slot : SlotId)
  /-- ROUTES_LOAD (R515): Reads host route tables and installs them if they pass the format and acyclicity checks. -/
  | routesLoad (slot : SlotId) (buf : HostRead)
  /-- ROUTES_AUTO (R185): Returns the tray to computed routes and starts recomputation. -/
  | routesAuto (slot : SlotId)
  /-- HOTROW_POLICY (R184): Sets a tenant's hot-row replication mode and its row limit. -/
  | hotrowPolicy (slot : SlotId)
  /-- LEDGER_QUERY (R184): Returns ledger occupancy, sequence numbers, chain number and head digest. -/
  | ledgerQuery (slot : SlotId)
  /-- LEDGER_READ (R579): Copies held ledger entries to a host buffer. -/
  | ledgerRead (slot : SlotId) (hostOk : Bool)
  /-- LEDGER_ACK (R580): Frees entries up to UP_TO, then appends its own entry and any SUPPRESSED entry. -/
  | ledgerAck (slot : SlotId)
  /-- LEDGER_ANCHOR (R187): Returns the UID, chain number and image digest from which the anchor is computed. -/
  | ledgerAnchor (slot : SlotId)
  /-- TRACE_CONFIG (R597): Sets the trace pond mask, destination and host ring. -/
  | traceConfig (slot : SlotId)
  /-- COUNTER_SNAPSHOT (R598): Latches the counters of the chosen scope and writes them to a host buffer. -/
  | counterSnapshot (slot : SlotId) (hostOk : Bool)
  /-- FREEZE (R189): With the right CONFIRM, writes a ledger entry and asserts freeze with cause COMMAND. -/
  | freeze (slot : SlotId)
  /-- FW_STAGE_BEGIN (R191): Starts firmware staging and discards any unfinished staging. -/
  | fwStageBegin (slot : SlotId)
  /-- FW_STAGE_DATA (R191): Copies a part of the firmware image from a host buffer. -/
  | fwStageData (slot : SlotId) (buf : HostRead)
  /-- FW_STAGE_END (R108): Verifies the staged image, writes it to the non-committed slot and keeps a verified copy. -/
  | fwStageEnd (slot : SlotId)
  /-- FW_ACTIVATE (R109): Withdraws the tray, saves state and restarts on the staged trial image. -/
  | fwActivate (slot : SlotId)
  /-- FW_COMMIT (R111): Commits the trial slot and blows rollback fuses up to its SVN. -/
  | fwCommit (slot : SlotId)
  /-- DESCRIPTOR_READ (R195): The read of the descriptor at HEAD completes or fails; a second failure stops the ring with RING_READ_FAULT. -/
  | descriptorRead (ring : RingId) (result : DescRead)
  /-- ADMISSION_CHECK (R203): In a ring's round-robin turn, the dispatcher checks the held copy and refuses, holds or admits it. -/
  | admissionCheck (ring : RingId) (partners : List RingId)
  /-- ZERO_FILL_DONE (R251): An occupant zero-fill of the banks and accumulators ends, and the new occupant's first access may proceed. -/
  | zeroFillDone (core : CoreId)
  /-- STAGING_DONE (R475): A staging order finishes copying and the waiting jobs may access the copy. -/
  | stagingDone (order : Nat) (find : EccFind)
  /-- CONFIG_LOAD (R443): A core's configuration loader finishes loading its section, grants credits and restarts its walks. -/
  | configLoad (core : CoreId) (find : EccFind)
  /-- FEED_TOKEN (R429): The staging movers send a feed tile as a token to a core's circular region within credits. -/
  | feedToken (core : CoreId) (feed : Fin 4)
  /-- DEADLINE_EXPIRY (R214): An admitted job's deadline expires, so it is marked ABORTING and quenched. -/
  | deadlineExpiry (job : JobId)
  /-- QUENCH_ACK (R214): A unit acknowledges a quench, and the status is posted once every unit has done so. -/
  | quenchAck (job : JobId) (ack : AckOf)
  /-- QUENCH_BOUND_EXPIRY (R214): The quench acknowledgement bound runs out, units that did not acknowledge go to FAULT, and the status is posted. -/
  | quenchBoundExpiry (job : JobId) (moverResetOk : Bool)
  /-- COMPLETION_POST (R272): Every core has reported END and every write has been performed, so the dispatcher writes the completion and raises MSI-X. -/
  | completionPost (job : JobId)
  /-- FRAME_RELEASE (R218): A STREAM frame's release tick arrives and the frame starts, waits or is skipped under its policy. -/
  | frameRelease (job : JobId)
  /-- ROUND_ADVANCE (R445): Every core has ended a round, so each core loads its section for the next round. -/
  | roundAdvance (job : JobId)
  /-- UNIT_HEALTH (R543): Swifort receives a hardware HEALTH-change notification, posts UNIT_HEALTH and fences the unit. -/
  | unitHealth (unit : Nat) (health : Health)
  /-- UNIT_STATE_POLL (R543): Swifort's periodic read of the unit records finds any disagreement and posts UNIT_DISAGREE. -/
  | unitStatePoll (silent : List (Nat × Health))
  /-- LINE_TEST_DONE (R330): A field repair's line test ends, so Swifort blows a spare fuse and retests, or writes REPAIR_FAILED. -/
  | lineTestDone (core : CoreId) (found : List LineFind) (retestClean : Bool)
  /-- ERROR_RECORD (R549): Swifort takes a latched fault report, writes an error record and raises ERROR_RECORD. -/
  | errorRecord
  /-- ADD (R286): gd = ga + gb. -/
  | add (ag : Agent) (gd ga gb : RegId)
  /-- SUB (R286): gd = ga - gb. -/
  | sub (ag : Agent) (gd ga gb : RegId)
  /-- AND (R286): Bitwise AND of two registers. -/
  | and (ag : Agent) (gd ga gb : RegId)
  /-- OR (R286): Bitwise OR of two registers. -/
  | or (ag : Agent) (gd ga gb : RegId)
  /-- XOR (R286): Bitwise XOR of two registers. -/
  | xor (ag : Agent) (gd ga gb : RegId)
  /-- SLL (R286): Shift left logical by gb[5:0]. -/
  | sll (ag : Agent) (gd ga gb : RegId)
  /-- SRL (R286): Shift right logical by gb[5:0]. -/
  | srl (ag : Agent) (gd ga gb : RegId)
  /-- SRA (R286): Shift right arithmetic by gb[5:0]. -/
  | sra (ag : Agent) (gd ga gb : RegId)
  /-- SLT (R286): Signed set-less-than. -/
  | slt (ag : Agent) (gd ga gb : RegId)
  /-- SLTU (R286): Unsigned set-less-than. -/
  | sltu (ag : Agent) (gd ga gb : RegId)
  /-- MIN (R286): Signed minimum. -/
  | min (ag : Agent) (gd ga gb : RegId)
  /-- MAX (R286): Signed maximum. -/
  | max (ag : Agent) (gd ga gb : RegId)
  /-- MINU (R286): Unsigned minimum. -/
  | minu (ag : Agent) (gd ga gb : RegId)
  /-- MAXU (R286): Unsigned maximum. -/
  | maxu (ag : Agent) (gd ga gb : RegId)
  /-- MUL (R286): Low 64 bits of the product. -/
  | mul (ag : Agent) (gd ga gb : RegId)
  /-- MULH (R286): High 64 bits of the signed product. -/
  | mulh (ag : Agent) (gd ga gb : RegId)
  /-- MULHU (R286): High 64 bits of the unsigned product. -/
  | mulhu (ag : Agent) (gd ga gb : RegId)
  /-- DIV (R286): Signed division with defined results for a zero divisor and overflow. -/
  | div (ag : Agent) (gd ga gb : RegId)
  /-- DIVU (R286): Unsigned division. -/
  | divu (ag : Agent) (gd ga gb : RegId)
  /-- REM (R286): Signed remainder. -/
  | rem (ag : Agent) (gd ga gb : RegId)
  /-- REMU (R286): Unsigned remainder. -/
  | remu (ag : Agent) (gd ga gb : RegId)
  /-- ADDI (R286): Add an immediate. -/
  | addi (ag : Agent) (gd ga : RegId) (imm : BitVec 15)
  /-- ANDI (R286): AND with an immediate. -/
  | andi (ag : Agent) (gd ga : RegId) (imm : BitVec 15)
  /-- ORI (R286): OR with an immediate. -/
  | ori (ag : Agent) (gd ga : RegId) (imm : BitVec 15)
  /-- XORI (R286): XOR with an immediate. -/
  | xori (ag : Agent) (gd ga : RegId) (imm : BitVec 15)
  /-- SLLI (R286): Shift left logical by an immediate. -/
  | slli (ag : Agent) (gd ga : RegId) (sh : BitVec 6)
  /-- SRLI (R286): Shift right logical by an immediate. -/
  | srli (ag : Agent) (gd ga : RegId) (sh : BitVec 6)
  /-- SRAI (R286): Shift right arithmetic by an immediate. -/
  | srai (ag : Agent) (gd ga : RegId) (sh : BitVec 6)
  /-- SLTI (R286): Signed set-less-than against an immediate. -/
  | slti (ag : Agent) (gd ga : RegId) (imm : BitVec 15)
  /-- SLTIU (R286): Unsigned set-less-than against an immediate. -/
  | sltiu (ag : Agent) (gd ga : RegId) (imm : BitVec 15)
  /-- LUI (R286): gd = imm << 12. -/
  | lui (ag : Agent) (gd : RegId) (imm : BitVec 20)
  /-- AUIPC (R286): gd = pc + (imm << 12). -/
  | auipc (ag : Agent) (gd : RegId) (imm : BitVec 20)
  /-- LD1 (R287): Load 1 byte, sign-extended. -/
  | ld1 (ag : Agent) (gd ga : RegId) (imm : BitVec 15)
  /-- LD2 (R287): Load 2 bytes, sign-extended. -/
  | ld2 (ag : Agent) (gd ga : RegId) (imm : BitVec 15)
  /-- LD4 (R287): Load 4 bytes, sign-extended. -/
  | ld4 (ag : Agent) (gd ga : RegId) (imm : BitVec 15)
  /-- LD8 (R287): Load 8 bytes. -/
  | ld8 (ag : Agent) (gd ga : RegId) (imm : BitVec 15)
  /-- LD1U (R287): Load 1 byte, zero-extended. -/
  | ld1u (ag : Agent) (gd ga : RegId) (imm : BitVec 15)
  /-- LD2U (R287): Load 2 bytes, zero-extended. -/
  | ld2u (ag : Agent) (gd ga : RegId) (imm : BitVec 15)
  /-- LD4U (R287): Load 4 bytes, zero-extended. -/
  | ld4u (ag : Agent) (gd ga : RegId) (imm : BitVec 15)
  /-- LOAD_DATA_RETURN (R230): A load's data returns to the sequencer and the load is performed. -/
  | loadDataReturn (ag : Agent) (find : EccFind)
  /-- ST1 (R260): Store 1 byte through the store buffer. -/
  | st1 (ag : Agent) (gb ga : RegId) (imm : BitVec 15)
  /-- ST2 (R260): Store 2 bytes through the store buffer. -/
  | st2 (ag : Agent) (gb ga : RegId) (imm : BitVec 15)
  /-- ST4 (R260): Store 4 bytes through the store buffer. -/
  | st4 (ag : Agent) (gb ga : RegId) (imm : BitVec 15)
  /-- ST8 (R260): Store 8 bytes through the store buffer. -/
  | st8 (ag : Agent) (gb ga : RegId) (imm : BitVec 15)
  /-- STORE_PERFORMED (R260): The store buffer's head entry is performed at its end point and freed. -/
  | storePerformed (ag : Agent)
  /-- STNT (R262): Non-temporal 8-byte store into the combining buffer. -/
  | stnt (ag : Agent) (gb ga : RegId) (imm : BitVec 15)
  /-- CB_FLUSH_AGE (R262): A combining buffer line reaches 256 CORE cycles of age and is flushed. -/
  | cbFlushAge (ag : Agent)
  /-- GB_FLUSH_AGE (R232): A gathering buffer line stays 64 CORE cycles without a flush and is flushed. -/
  | gbFlushAge (core : CoreId)
  /-- LDRES (R267): Load 8 bytes and place a reservation on its granule. -/
  | ldres (ag : Agent) (gd ga : RegId) (imm : BitVec 15)
  /-- STCOND (R269): Store 8 bytes only if the reservation holds, and report success. -/
  | stcond (ag : Agent) (gd ga gb : RegId)
  /-- RESERVATION_HOLD_EXPIRY (R270): An end point's 128-cycle hold after an LDRES ends. -/
  | reservationHoldExpiry (ag : Agent)
  /-- BR (R291): Conditional branch. -/
  | br (ag : Agent) (cond : BitVec 3) (ga gb : RegId) (imm : BitVec 12)
  /-- JAL (R291): Jump and link. -/
  | jal (ag : Agent) (gd : RegId) (imm : BitVec 20)
  /-- JALR (R291): Jump and link to a register target. -/
  | jalr (ag : Agent) (gd ga : RegId) (imm : BitVec 15)
  /-- SYNC (R274): Waits until every earlier access of the agent has been performed. -/
  | sync (ag : Agent)
  /-- SYNC_WATCHDOG (R276): A SYNC has not completed within its watchdog, so the job ends with WATCHDOG. -/
  | syncWatchdog (ag : Agent)
  /-- QSYNC (R275): Places a barrier entry in every engine queue. -/
  | qsync (ag : Agent)
  /-- TISS (R303): Checks a tile instruction and places it in its engine queue. -/
  | tiss (ag : Agent) (ga gb : RegId)
  /-- WAIT (R286): Waits until any interrupt is pending. -/
  | wait (ag : Agent)
  /-- CRR (R283): Reads a sequencer control register. -/
  | crr (ag : Agent) (gd : RegId) (num : BitVec 12)
  /-- CRW (R283): Writes a sequencer control register. -/
  | crw (ag : Agent) (ga : RegId) (num : BitVec 12)
  /-- ERET (R286): Returns from a trap handler. -/
  | eret (ag : Agent)
  /-- BREAK (R294): Raises BREAK into the handler, or ends the job when it is fatal. -/
  | brk (ag : Agent)
  /-- END (R289): Runs QSYNC and SYNC, then reports the core's part done and latches the section record. -/
  | endSection (ag : Agent)
  /-- PCRR (R298): Swifort reads an MGT control register. -/
  | pcrr (ag : Agent) (gd : RegId) (num : BitVec 12)
  /-- PCRW (R298): Swifort writes an MGT control register. -/
  | pcrw (ag : Agent) (ga : RegId) (num : BitVec 12)
  /-- SEQ_TIMER_EXPIRY (R295): SEQ_TIMER steps from 1 to 0 and sets TIMER pending. -/
  | seqTimerExpiry (ag : Agent)
  /-- INTERRUPT (R296): A pending, unmasked interrupt is taken at an instruction boundary. -/
  | interrupt (ag : Agent)
  /-- WLK_NEXT (R428): A load of WLKn_NEXT returns the walk's next index combination and advances it. -/
  | wlkNext (core : CoreId) (n : Fin 8) (gd : RegId)
  /-- WLK_RESTART (R428): A store to WLKn_RESTART restarts the walk. -/
  | wlkRestart (core : CoreId) (n : Fin 8)
  /-- CHN_RELEASE (R436): A store to CHN_RELEASE releases a region's oldest token and returns its credits. -/
  | chnRelease (core : CoreId) (region : Fin 16)
  /-- MMA (R317): A matrix multiply pass streams on the array. -/
  | mma (core : CoreId)
  /-- PASS_CHECK (R323): A pass's product reaches the check unit and commits, or is re-executed or fails a second time. -/
  | passCheck (core : CoreId) (fails : List CmpFail)
  /-- PRELOAD (R336): Writes an accumulator set from a bias or residual in the scratchpad. -/
  | preload (core : CoreId)
  /-- DRAIN_WINDOW (R344): DRAIN OP 0x01 drains a set through its program into a window of the core's scratchpad. -/
  | drainWindow (core : CoreId)
  /-- DRAIN_TOKEN (R344): DRAIN OP 0x02 drains a set as a token to a circular region of another core. -/
  | drainToken (core : CoreId)
  /-- DRAIN_FABRIC (R527): DRAIN OP 0x03 sends a drained token to a remote position as WRITE transactions. -/
  | drainFabric (core : CoreId)
  /-- VADD (R391): Element-wise add. -/
  | vadd (core : CoreId)
  /-- VSUB (R391): Element-wise subtract. -/
  | vsub (core : CoreId)
  /-- VMUL (R391): Element-wise multiply. -/
  | vmul (core : CoreId)
  /-- VMAX (R391): Element-wise maximum. -/
  | vmax (core : CoreId)
  /-- VMIN (R391): Element-wise minimum. -/
  | vmin (core : CoreId)
  /-- VCVT (R392): Element-wise type conversion. -/
  | vcvt (core : CoreId)
  /-- VCMP (R392): Element-wise compare into a mask register. -/
  | vcmp (core : CoreId)
  /-- VMASKLD (R391): Loads a mask register from scratchpad bits. -/
  | vmaskld (core : CoreId)
  /-- VSEL (R391): Selects x or y per element by mask. -/
  | vsel (core : CoreId)
  /-- RSUM (R394): Sums each row. -/
  | rsum (core : CoreId)
  /-- RMAX (R394): Maximum of each row. -/
  | rmax (core : CoreId)
  /-- RMIN (R394): Minimum of each row. -/
  | rmin (core : CoreId)
  /-- TOPK (R395): Selects the k best elements of each row with their indices. -/
  | topk (core : CoreId)
  /-- COMBINE (R396): Adds partials in ascending source order, deterministically. -/
  | combine (core : CoreId)
  /-- AADD (R397): Sends each unmasked element as an atomic add to a target. -/
  | aadd (core : CoreId)
  /-- TIER_ATOMIC_ADD (R478): A controller's atomic unit performs arriving adds as a read-add-write with one rounding. -/
  | tierAtomicAdd (arrivals : List Nat) (find : EccFind)
  /-- SDMM (R371): Sparse-by-dense multiply on the merge units. -/
  | sdmm (core : CoreId)
  /-- DSMM (R384): Dense-by-sparse multiply, including DL deltas per co-batch entry. -/
  | dsmm (core : CoreId)
  /-- SSMM (R373): Sparse-by-sparse multiply by fibre intersection. -/
  | ssmm (core : CoreId)
  /-- QUANTUM_COMMIT (R375): A merge quantum's result passes its residue check and commits in ascending order. -/
  | quantumCommit (core : CoreId) (residueOk : Bool)
  /-- QUANTA (R378): Reads an FB header and writes its quantum table. -/
  | quanta (core : CoreId)
  /-- FREQ (R416): Counts index frequencies of a bag list and can add them to the job summary. -/
  | freq (core : CoreId)
  /-- GATHER (R404): Resolves, reads, folds and pools embedding rows for a bag list. -/
  | gather (core : CoreId)
  /-- GATHER_ROW_ARRIVAL (R408): A gathered row's data arrives, freeing its slot and feeding pooling. -/
  | gatherRowArrival (core : CoreId) (index : Nat) (find : EccFind)
  /-- ROUTE (R441): STEER sends a token to one side by its predicate. -/
  | route (core : CoreId)
  /-- REMOTE_WRITE (R241): A remote write lands in a circular region and a complete token advances TAIL. -/
  | remoteWrite (index : Nat) (find : EccFind)
  /-- CREDIT_RETURN (R243): A credit grant or return reaches a producer. -/
  | creditReturn (index : Nat)
  /-- SP_SCRUB (R249): A group's scrubber reads and checks one beat in a free cycle. -/
  | spScrub (core : CoreId) (group : Fin 4) (row : Fin 32768) (finds : List (Nat × EccFind))
  /-- SCRUB_FORCE (R249): A group has granted no scrub cycle for 65,536 CORE cycles, so the scrubber takes one at priority 2. -/
  | scrubForce (core : CoreId) (group : Fin 4) (row : Fin 32768) (finds : List (Nat × EccFind))
  /-- TIER_SCRUB (R473): A tier controller's scrubber checks a word in an idle cycle. -/
  | tierScrub (addr : Nat) (find : EccFind) (passEnds : Bool)
  /-- REFRESH (R474): A DRAM refresh command falls due and takes precedence. -/
  | refresh (controller : Fin 36)
  /-- TIER_FILL_DONE (R480): A tier zero-fill ends, FILL clears and the granules return to the free pool. -/
  | tierFillDone (index : Nat)
  /-- HOTROW_SENT (R419): After a job with flagged rows of a sharded table, Swifort replicates them to the shard holders. -/
  | hotrowSent (tcid : Nat) (region : Nat) (rows : List (Nat × List Byte))
  /-- REPLICA_DROP (R422): Once no job reads the table, Swifort drops a hot-row replica and zero-fills it. -/
  | replicaDrop (tcid : Nat) (region : Nat)
  /-- MODULE_INSERT (R483): A module is inserted in a fabric cage, checked and powered, and its port begins training. -/
  | moduleInsert (port : PortId) (fourLanes : Bool) (withinPower : Bool) (optics : Bool)
  /-- MODULE_REMOVE (R21): A module is removed and its link fails. -/
  | moduleRemove (port : PortId)
  /-- TRAINING_STEP (R493): A link training step completes and the next begins, or the port becomes UP. -/
  | trainingStep (port : PortId)
  /-- TRAINING_TIMEOUT (R494): A training step exceeds its bound and the attempt fails. -/
  | trainingTimeout (port : PortId)
  /-- TRAINING_RETRY (R494): The retry or hold-down interval ends and the port trains again. -/
  | trainingRetry (port : PortId)
  /-- FEC_LOCK_LOSS (R494): FEC lock is lost for 4 µs and the port goes down. -/
  | fecLockLoss (port : PortId)
  /-- CODEWORD_RECEIVE (R485): A received codeword is corrected or discarded whole. -/
  | codewordReceive (port : PortId) (find : EccFind) (cw : Codeword)
  /-- LCTL (R490): A received LCTL flit acknowledges frames, returns credits or requests replay. -/
  | lctl (port : PortId) (nak : Bool) (ackSeq crReq crRsp crMgt : BitVec 16)
  /-- LCTL_TIMER (R490): 0.5 µs have passed since the last LCTL, so the port sends one. -/
  | lctlTimer (port : PortId)
  /-- REPLAY_TIMEOUT (R491): The oldest unacknowledged frame has waited 4 µs, so the transmitter resends, or takes the link down at the episode bound. -/
  | replayTimeout (port : PortId)
  /-- HELLO (R496): A received HELLO completes the two-way exchange or takes the port down on a UID mismatch. -/
  | hello (port : PortId) (uid heardUid : Nat) (node : BitVec 12) (nport : PortId) (tentative : Bool)
  /-- HELLO_TIMER (R496): A side sends a HELLO every 1 ms during step 5. -/
  | helloTimer (port : PortId)
  /-- LSR (R499): A received link-state record is stored and flooded, or discarded. -/
  | lsr (port : PortId) (rec : LsrRec)
  /-- LSR_REFRESH (R498): Two seconds pass without change and the tray originates a new LSR. -/
  | lsrRefresh
  /-- LSR_AGE_EXPIRY (R500): The record of an unreachable tray ages out of the LSDB. -/
  | lsrAgeExpiry (uid : Nat)
  /-- ADDR_FIRM (R503): A tentative address has gone 20 ms without conflict and becomes firm. -/
  | addrFirm
  /-- ROUTE_COMPUTE (R511): The 5 ms hold after an LSDB change ends and route computation starts. -/
  | routeCompute
  /-- ROUTES_INSTALLED (R511): Computed tables are installed and ROUTES_INSTALLED is raised. -/
  | routesInstalled
  /-- TXN_FORWARD (R510): A TXN frame for another tray is forwarded by its route entry or dropped. -/
  | txnForward (port : PortId) (frame : FwdFrame)
  /-- AGE_DROP (R510): A frame has waited 250 µs in an output queue and is discarded. -/
  | ageDrop (port : PortId)
  /-- TXN_READ (R530): The performer reads bytes of a region for a remote requester. -/
  | txnRead (h : TxnHdr) (region offset len : Nat) (find : EccFind)
  /-- TXN_WRITE (R527): The performer lands a token piece in a consumer's circular region. -/
  | txnWrite (h : TxnHdr) (dcore : CoreId) (dreg : Fin 16) (score : CoreId) (tend : Bool) (units offset : Nat) (data : List Byte) (tag : Fin 16)
  /-- TXN_AADD (R529): The performer applies remote atomic adds exactly once. -/
  | txnAadd (h : TxnHdr) (target : Nat) (etype : Nat) (addends : List W32) (find : EccFind)
  /-- TXN_POOL (R530): The owner folds and pools a remote sub-bag and returns the vector. -/
  | txnPool (h : TxnHdr) (region row0 etype : Nat) (weighted : Bool) (dim : Nat) (entries : List PoolEntry) (find : EccFind)
  /-- TXN_CLAIM (R524): A remote dispatcher checks a claim and creates a remote part, holds or refuses. -/
  | txnClaim (h : TxnHdr) (image plan q0 npos : Nat) (ext : List Nat)
  /-- TXN_REPORT (R525): The origin counts a remote part's END, or quenches the job on a failure status. -/
  | txnReport (h : TxnHdr) (status : BitVec 16) (sat nan : Bool)
  /-- TXN_RELEASE (R525): A remote dispatcher frees a part. -/
  | txnRelease (h : TxnHdr)
  /-- TXN_QUENCH (R526): A remote dispatcher quenches a part, answers and frees it. -/
  | txnQuench (h : TxnHdr)
  /-- TXN_HOTROW (R420): A recipient inserts a replicated hot row into its replica, or declines. -/
  | txnHotrow (h : TxnHdr) (region row : Nat) (data : List Byte)
  /-- TXN_CREDIT (R528): A producer takes a newer cumulative credit total from a remote consumer. -/
  | txnCredit (h : TxnHdr) (pcore ccore : CoreId) (creg : Fin 16) (total : W32)
  /-- TXN_RESPONSE (R520): A response frame completes an open transaction and frees its tracker entry. -/
  | txnResponse (r : TxnRsp)
  /-- E2E_RETRY (R520): An attempt's 500 µs pass without the last response, so the transaction resends or fails. -/
  | e2eRetry (txid : BitVec 32)
  /-- CREDIT_REFRESH (R528): The consumer core resends CREDIT every 100 µs while a remote part runs. -/
  | creditRefresh (core : CoreId)
  /-- OBS_TSEL_WRITE (R599): A write to OBS_TSEL selects the tenant page shown in the window. -/
  | obsTselWrite (value : Word)
  /-- OBS_TRC_HEAD_WRITE (R585): A write to OBS_TRC_HEAD consumes trace records and frees ring space. -/
  | obsTrcHeadWrite (value : Word)
  /-- TRACE_EXPORT (R595): Gecko sends buffered trace records to the host ring and advances TAIL. -/
  | traceExport
  /-- TIMEBASE (R590): STAMP wraps and Gecko writes a TIMEBASE record. -/
  | timebase
  /-- I2C_TRANSACTION (R628): An I2C transaction reads the FRU record or the temperature registers. -/
  | i2cTransaction (target : BitVec 7) (pointer : BitVec 16) (written : List Byte) (len : Nat)
  /-- TEMP_UPDATE (R630): The board controller updates the temperature registers every 100 ms. -/
  | tempUpdate (tj inlet outlet vr lpddr : Int)
  /-- EFT_TICK (R60): At each EFT tick the Eft island adds 320 ns to tray time, or 312 or 320 + D while a TIME_SET slews or steps. -/
  | eftTick (edge : EftEdge)
  /-- PERST_DEASSERTION (R93): PERST# is deasserted, and the host link controller starts link training within 20 ms and answers configuration requests within 100 ms. -/
  | perstDeassertion
  /-- LINK_L1_EXIT (R67): The host returns the link from L1 to L0 outside TORPOR, HST runs again, and a SLEEP wake's 18 µs counts from this return. -/
  | linkL1Exit
  /-- SRO_CLK_RISING_EDGE (R610): After freeze, each rising edge of SRO_CLK delivers the next nibble of the freeze image on SRO_DAT and advances the stream position. -/
  | sroClkRisingEdge
  /-- DUPLICATE_RECORD_EXPIRY (R522): A performer's duplicate-suppression record of a TXID reaches 100 ms of age and is removed. -/
  | duplicateRecordExpiry (src : BitVec 12) (txid : BitVec 32)
  /-- OVERCURRENT_WARNING_DEASSERT (R78): The core power stage releases its overcurrent warning, so the CURRENT monitor stops stepping down and begins its release. -/
  | overcurrentWarningDeassert
deriving DecidableEq, Repr

end Sys2Proof
end

