-- ==== Sys2Proof/Config.lean ====
section
/-! DEFINITION. What a single tray fixes and the manual gives no value for (log entry 6), and the free values
(log entry 2). None of these constants has a body, so no statement can rest on a particular value. -/

namespace Sys2Proof.Config

/-- The n-th free value drawn, for a value the manual leaves undefined or unstated (log entry 2). -/
opaque freeValue (w : Nat) (n : Nat) : BitVec w

/-- The fused SHA-384 digest of the accepted public key (04_startup_and_reset.md, R98). -/
opaque keyHash : BitVec 384

/-- The fused fabric unique ID of the tray (07, Table 7-2; 20, R497). -/
opaque uid : BitVec 64

/-- The serial number (07, Table 7-2). -/
opaque serial : BitVec 64

/-- Fenhosol's PCI vendor ID (05, Table 5-2). -/
opaque vendorId : BitVec 16

/-- The per-part voltage trim in mV; R59 keeps it within 20 mV either way. -/
opaque trimRaw : Nat

/-- The trim that R59 adds, in mV, as a signed value of at most 20 mV. -/
def trim : Int := (trimRaw % 41 : Int) - 20

/-- The silicon stepping of SYS_ID: 0x01 for the first silicon (05, Table 5-6). -/
def stepping : Nat := 1

/-- The FRU record bytes of the board controller that R629 leaves to the individual tray. -/
opaque fruByte : Nat → Byte

/-- Sign and payload bits of the NaN that an operation of an element type gives. The manual fixes exponent and that the
value is NaN, not these bits (log entry 10). -/
opaque nanBits : Nat → Nat

/-- Byte offset in a feed's source of the tile of an index combination: R429 gives the walk and the row pitch, and no mapping
from indices to places (log entry 16). -/
opaque feedTile (i0 i1 i2 i3 rowBytes rows pitch : Nat) : Nat

/-- The 32-bit share key of a layer, from the numbers that describe it; R39 names what goes in and no function (log entry 87). -/
opaque shareKey (layer : List Nat) : BitVec 32

/-- A byte of the freeze image whose layout the manual leaves open, by the number of the freeze and the byte's offset
(26, Table 26-4; log entry 18). -/
opaque frzByte (freeze offset : Nat) : Byte

/-- The segment that LUT takes when its index computation gives NaN for a v that is a number: R351 gives none (log entry 15). -/
opaque lutIndex (v lo s : Nat) : Nat

end Sys2Proof.Config
end

