-- ==== Sys2Proof/Machine/Bits.lean ====
section
/-! DEFINITION. Bit fields, little-endian bytes (R8) and plain list helpers. -/

namespace Sys2Proof.Machine

/-- Bits [lo + n - 1 : lo] of a number. -/
def bits (x lo n : Nat) : Nat := (x >>> lo) % 2 ^ n

/-- Bit `i` of a number. -/
def bitAt (x i : Nat) : Bool := (x >>> i) % 2 = 1

/-- `x` with bits [lo + n - 1 : lo] replaced by the low n bits of `v`. -/
def setBits (x lo n v : Nat) : Nat := x - (bits x lo n) * 2 ^ lo + (v % 2 ^ n) * 2 ^ lo

/-- A Bool as a bit. -/
def b2n (b : Bool) : Nat := if b then 1 else 0

/-- The `n` little-endian bytes of a number (R8). -/
def leBytes : Nat → Nat → List Byte
  | 0, _ => []
  | n + 1, x => BitVec.ofNat 8 x :: leBytes n (x / 256)

/-- The number that little-endian bytes hold (R8). -/
def ofLeBytes : List Byte → Nat
  | [] => 0
  | b :: bs => b.toNat + 256 * ofLeBytes bs

/-- The `n` big-endian bytes of a number. -/
def beBytes (n x : Nat) : List Byte := (leBytes n x).reverse

/-- `n` zero bytes. -/
def zeros (n : Nat) : List Byte := List.replicate n 0

/-- The first `n` bytes, filled up with zero bytes. -/
def padTo (n : Nat) (bs : List Byte) : List Byte := (bs ++ zeros (n - bs.length)).take n

/-- The `n` bytes from `off`. -/
def slice (bs : List Byte) (off n : Nat) : List Byte := (bs.drop off).take n

/-- The little-endian number of the `n` bytes from `off`, absent bytes reading zero. -/
def leAt (bs : List Byte) (off n : Nat) : Nat := ofLeBytes (slice bs off n)

/-- `bs` with the bytes from `off` replaced by `ds`. -/
def patch (bs : List Byte) (off : Nat) (ds : List Byte) : List Byte :=
  bs.take off ++ zeros (off - bs.length) ++ ds ++ bs.drop (off + ds.length)

/-- Splits a list into pieces of `n` (the last may be shorter); `k` bounds the number of pieces. -/
def chunks {α : Type} (n : Nat) : Nat → List α → List (List α)
  | 0, _ => []
  | k + 1, l => if l.isEmpty then [] else l.take n :: chunks n k (l.drop n)

/-- `x` rounded up to a multiple of `m`. -/
def roundUp (x m : Nat) : Nat := (x + m - 1) / m * m

/-- Ceiling of `x / m`. -/
def cdiv (x m : Nat) : Nat := (x + m - 1) / m

/-- `x` sign-extended from `n` bits to an integer. -/
def sext (n x : Nat) : Int := if bitAt x (n - 1) then (x % 2 ^ n : Int) - 2 ^ n else (x % 2 ^ n : Int)

/-- True of a power of two. -/
def isPow2 (x : Nat) : Bool := x != 0 && x &&& (x - 1) == 0

/-- The numbers of a mask's set bits among the low `n`, rising. -/
def maskBits (mask n : Nat) : List Nat := (List.range n).filter (bitAt mask)

/-- Replaces item `i` of a list. -/
def lset {α : Type} (l : List α) (i : Nat) (v : α) : List α := l.set i v

/-- Removes item `i` of a list. -/
def ldrop {α : Type} (l : List α) (i : Nat) : List α := l.eraseIdx i

/-- The lowest item that passes. -/
def minBy {α : Type} (key : α → Nat) : List α → Option α
  | [] => none
  | x :: xs => match minBy key xs with
    | none => some x
    | some y => if key x ≤ key y then some x else some y

end Sys2Proof.Machine
end

