-- ==== Sys2Proof/Machine/Fp.lean ====
section
/-! DEFINITION. The number formats of the array and the engines (Table 11-9, R313, R338 to R343, R350, Table 13-5): exact
values, one rounding to nearest even, and conversion. -/

namespace Sys2Proof.Machine

/-- A value: NaN, an infinity, or the exact number (-1)^neg × m × 2^e; zero keeps its sign. -/
inductive Fv where
  | nan
  | inf (neg : Bool)
  | fin (neg : Bool) (m : Nat) (e : Int)
deriving DecidableEq, Repr

/-- A binary format: exponent and fraction bits; `ieee` is false for FP8 E4M3, which has no infinity and one NaN per
sign. -/
structure Fmt where
  eb : Nat
  fb : Nat
  ieee : Bool
deriving DecidableEq, Repr

def fp32 : Fmt := { eb := 8, fb := 23, ieee := true }
def bf16 : Fmt := { eb := 8, fb := 7, ieee := true }
def fp16 : Fmt := { eb := 5, fb := 10, ieee := true }
def e4m3 : Fmt := { eb := 4, fb := 3, ieee := false }
def e5m2 : Fmt := { eb := 5, fb := 2, ieee := true }

/-- Exponent bias. -/
def Fmt.bias (f : Fmt) : Nat := 2 ^ (f.eb - 1) - 1

/-- Exponent of the last place of a subnormal. -/
def Fmt.emin (f : Fmt) : Int := 1 - (f.bias : Int) - f.fb

/-- The value a bit pattern holds. -/
def Fmt.decode (f : Fmt) (x : Nat) : Fv :=
  let neg := bitAt x (f.eb + f.fb)
  let ex := bits x f.fb f.eb
  let fr := bits x 0 f.fb
  if f.ieee && ex = 2 ^ f.eb - 1 then (if fr = 0 then .inf neg else .nan)
  else if !f.ieee && ex = 2 ^ f.eb - 1 && fr = 2 ^ f.fb - 1 then .nan
  else if ex = 0 then .fin neg fr f.emin
  else .fin neg (2 ^ f.fb + fr) ((ex : Int) - f.bias - f.fb)

/-- The pattern of NaN: the exponent (and for E4M3 the fraction) all ones, the rest left open (log entry 10). -/
def Fmt.nan (f : Fmt) : Nat :=
  let w := f.eb + f.fb + 1
  if f.ieee then (Config.nanBits w % 2 ^ w) ||| ((2 ^ f.eb - 1) * 2 ^ f.fb) ||| 2 ^ (f.fb - 1)
  else (b2n (bitAt (Config.nanBits w) 0)) * 2 ^ (w - 1) + (2 ^ (w - 1) - 1)

def Fmt.inf (f : Fmt) (neg : Bool) : Nat := b2n neg * 2 ^ (f.eb + f.fb) + (2 ^ f.eb - 1) * 2 ^ f.fb

/-- The largest finite value: for E4M3, 448. -/
def Fmt.maxFin (f : Fmt) (neg : Bool) : Nat :=
  b2n neg * 2 ^ (f.eb + f.fb) +
    (if f.ieee then (2 ^ f.eb - 1) * 2 ^ f.fb - 1 else 2 ^ (f.eb + f.fb) - 2)

/-- Rounds m × 2^e to a multiple of 2^q, to nearest with ties to even, for q at or above e. -/
def rne (m : Nat) (sh : Nat) : Nat :=
  if sh = 0 then m
  else
    let k := m >>> sh
    let r := m % 2 ^ sh
    let h := 2 ^ (sh - 1)
    if h < r || (r = h && k % 2 = 1) then k + 1 else k

/-- Rounds m × 2^e into a format: the pattern without sign, or `none` when the rounded value is beyond the largest finite
one. -/
def Fmt.roundMag (f : Fmt) (m : Nat) (e : Int) : Option Nat :=
  if m = 0 then some 0
  else
    let q : Int := max (e + (Nat.log2 m + 1 : Nat) - (f.fb + 1 : Nat)) f.emin
    let k := if q ≤ e then m <<< (e - q).toNat else rne m (q - e).toNat
    -- k × 2^q with k at most 2^(fb + 1)
    let (k, q) := if k = 2 ^ (f.fb + 1) then (2 ^ f.fb, q + 1) else (k, q)
    if k < 2 ^ f.fb then some k
    else
      let ex := (q + f.fb + f.bias).toNat
      let pat := ex * 2 ^ f.fb + (k - 2 ^ f.fb)
      if f.ieee then (if ex < 2 ^ f.eb - 1 then some pat else none)
      else if ex < 2 ^ f.eb && pat < 2 ^ (f.eb + f.fb) - 1 then some pat else none

/-- Adds the sign bit. -/
def Fmt.sign (f : Fmt) (neg : Bool) (mag : Nat) : Nat := b2n neg * 2 ^ (f.eb + f.fb) + mag

/-- Rounds a value into a format with IEEE 754 overflow. -/
def Fmt.enc (f : Fmt) : Fv → Nat
  | .nan => f.nan
  | .inf neg => f.inf neg
  | .fin neg m e => match f.roundMag m e with
    | some x => f.sign neg x
    | none => f.inf neg

/-- Rounds a value into a format; a finite value beyond the format becomes the largest finite one (R342, R478). Answers
whether that happened. -/
def Fmt.encSat (f : Fmt) : Fv → Nat × Bool
  | .nan => (f.nan, false)
  | .inf neg => (f.inf neg, false)
  | .fin neg m e => match f.roundMag m e with
    | some x => (f.sign neg x, false)
    | none => (f.maxFin neg, true)

/-- The exact sum of IEEE 754; a zero sum of opposite signs is +0. -/
def fvAdd : Fv → Fv → Fv
  | .nan, _ => .nan
  | _, .nan => .nan
  | .inf a, .inf b => if a = b then .inf a else .nan
  | .inf a, .fin .. => .inf a
  | .fin .., .inf b => .inf b
  | .fin sa ma ea, .fin sb mb eb =>
    let e := min ea eb
    let x : Int := (ma <<< (ea - e).toNat : Nat) * (if sa then -1 else 1)
    let y : Int := (mb <<< (eb - e).toNat : Nat) * (if sb then -1 else 1)
    let z := x + y
    if z = 0 then .fin (sa && sb) 0 e else .fin (decide (z < 0)) z.natAbs e

/-- The exact product of R313. -/
def fvMul : Fv → Fv → Fv
  | .nan, _ => .nan
  | _, .nan => .nan
  | .inf a, .inf b => .inf (a != b)
  | .inf a, .fin sb mb _ => if mb = 0 then .nan else .inf (a != sb)
  | .fin sa ma _, .inf b => if ma = 0 then .nan else .inf (sa != b)
  | .fin sa ma ea, .fin sb mb eb => .fin (sa != sb) (ma * mb) (ea + eb)

def fvNeg : Fv → Fv
  | .nan => .nan
  | .inf a => .inf (!a)
  | .fin s m e => .fin (!s) m e

/-- Comparison of numbers: `none` when either is NaN. -/
def fvCmp : Fv → Fv → Option Ordering
  | .nan, _ => none
  | _, .nan => none
  | .inf a, .inf b => some (if a = b then .eq else if a then .lt else .gt)
  | .inf a, .fin .. => some (if a then .lt else .gt)
  | .fin .., .inf b => some (if b then .gt else .lt)
  | .fin sa ma ea, .fin sb mb eb =>
    let e := min ea eb
    let x : Int := (ma <<< (ea - e).toNat : Nat) * (if sa then -1 else 1)
    let y : Int := (mb <<< (eb - e).toNat : Nat) * (if sb then -1 else 1)
    some (compare x y)

/-- A finite value divided by a positive whole number, kept exact enough for one rounding to FP32: the quotient's last bit
is sticky. -/
def fvDivNat (x : Fv) (n : Nat) : Fv :=
  match x with
  | .fin s m e =>
    if n = 0 then .nan
    else
      let q := (m <<< 64) / n
      let r := (m <<< 64) % n
      .fin s (2 * q + (if r = 0 then 0 else 1)) (e - 65)
  | other => other

/-! ## FP32 patterns -/

/-- The value of an FP32 pattern. -/
def f32 (x : Nat) : Fv := fp32.decode x

def isNan32 (x : Nat) : Bool := f32 x == .nan

/-- IEEE 754 addition and multiplication (R350). -/
def add32 (x y : Nat) : Nat := fp32.enc (fvAdd (f32 x) (f32 y))
def mul32 (x y : Nat) : Nat := fp32.enc (fvMul (f32 x) (f32 y))
def sub32 (x y : Nat) : Nat := fp32.enc (fvAdd (f32 x) (fvNeg (f32 y)))

/-- Saturating addition of an FP32 value and an exact value, one rounding (R338, R342). -/
def addSat32 (x : Nat) (y : Fv) : Nat × Bool := fp32.encSat (fvAdd (f32 x) y)

/-- max and min of R350: NaN when either is NaN, and max(−0, +0) is +0. -/
def max32 (x y : Nat) : Nat :=
  match fvCmp (f32 x) (f32 y) with
  | none => fp32.nan
  | some .lt => y
  | some .gt => x
  | some .eq => if bitAt x 31 then y else x

def min32 (x y : Nat) : Nat :=
  match fvCmp (f32 x) (f32 y) with
  | none => fp32.nan
  | some .lt => x
  | some .gt => y
  | some .eq => if bitAt x 31 then x else y

/-- An integer as an exact value. -/
def fvInt (i : Int) : Fv := .fin (decide (i < 0)) i.natAbs 0

/-- INT32 pattern to integer, and back with saturation (R342); answers whether it saturated. -/
def i32 (x : Nat) : Int := sext 32 x

def satInt (n : Nat) (i : Int) : Int × Bool :=
  let hi : Int := 2 ^ (n - 1) - 1
  let lo : Int := -2 ^ (n - 1)
  if hi < i then (hi, true) else if i < lo then (lo, true) else (i, false)

/-- The pattern of an integer in `n` bits. -/
def patInt (n : Nat) (i : Int) : Nat := (i % (2 ^ n : Int)).toNat

/-- Nearest integer to a value, ties to even; `none` for NaN, infinities as their sign. -/
def fvRound : Fv → Option (Int ⊕ Bool)
  | .nan => none
  | .inf neg => some (.inr neg)
  | .fin neg m e =>
    let k := if 0 ≤ e then m <<< e.toNat else rne m (-e).toNat
    some (.inl (if neg then -(k : Int) else k))

/-! ## Element types -/

/-- Element type by code: Table 11-9 with 0x5 FP32 and 0x6 INT32. -/
def etypeOf : Nat → EType
  | 0 => .int8 | 1 => .e4m3 | 2 => .e5m2 | 3 => .bf16 | 4 => .fp16 | 5 => .fp32 | 6 => .int32 | _ => .int4

end Sys2Proof.Machine

namespace Sys2Proof

open Machine

/-- Size in bits. -/
def EType.nbits : EType → Nat
  | .int8 => 8 | .e4m3 => 8 | .e5m2 => 8 | .bf16 => 16 | .fp16 => 16 | .fp32 => 32 | .int32 => 32 | .int4 => 4

/-- Bytes that `n` elements occupy (INT4 packs two to a byte, R314). -/
def EType.size (t : EType) (n : Nat) : Nat := cdiv (n * t.nbits) 8

/-- True of an integer type. -/
def EType.isInt : EType → Bool
  | .int8 | .int32 | .int4 => true
  | _ => false

/-- The value of a pattern of a type. -/
def EType.decode (t : EType) (x : Nat) : Fv :=
  match t with
  | .int8 => fvInt (sext 8 x)
  | .e4m3 => Machine.e4m3.decode x
  | .e5m2 => Machine.e5m2.decode x
  | .bf16 => Machine.bf16.decode x
  | .fp16 => Machine.fp16.decode x
  | .fp32 => Machine.fp32.decode x
  | .int32 => fvInt (sext 32 x)
  | .int4 => fvInt (sext 4 x)

/-- The integer of a pattern of an integer type. -/
def EType.int (t : EType) (x : Nat) : Int := sext t.nbits x

/-- Element `i` of packed bytes. -/
def EType.at (t : EType) (bs : List Byte) (i : Nat) : Nat :=
  match t with
  | .int4 => let b := (bs.getD (i / 2) 0).toNat; if i % 2 = 0 then b % 16 else b / 16
  | _ => leAt bs (i * (t.nbits / 8)) (t.nbits / 8)

/-- A wide input as the engines hold it: FP32 bits, or the INT32 pattern (R388, R337). -/
def EType.widen (t : EType) (x : Nat) : Nat :=
  if t.isInt then patInt 32 (t.int x) else if t = .fp32 then x else Machine.fp32.enc (t.decode x)

end Sys2Proof

namespace Sys2Proof.Machine

/-- m × 2^e lies beyond a format's largest finite value (Table 13-5; the worked case of chapter 13 counts 463.7 as
limited to 448). -/
def beyond (f : Fmt) (m : Nat) (e : Int) : Bool := fvCmp (.fin false m e) (f.decode (f.maxFin false)) == some .gt

/-- Output conversion of Table 13-5 from an FP32 pattern (`isF`) or an INT32 pattern; answers the pattern in the type's
width and whether conversion limited the value. `endOnly` is true when the drain program is END only. -/
def convOut (t : EType) (isF endOnly : Bool) (x : Nat) : Nat × Bool :=
  let clamp (n : Nat) : Nat × Bool :=
    if isF then match fvRound (f32 x) with
      | none => (0, false)
      | some (.inr neg) => (patInt n (if neg then -2 ^ (n - 1) else 2 ^ (n - 1) - 1), true)
      | some (.inl i) => let (j, l) := satInt n i; (patInt n j, l)
    else let (j, l) := satInt n (i32 x); (patInt n j, l)
  let v : Fv := if isF then f32 x else fvInt (i32 x)
  match t with
  | .fp32 => if isF then (x, false) else (fp32.enc v, false)
  | .int32 => if isF then clamp 32 else (if endOnly then (x, false) else (x, false))
  | .int8 => clamp 8
  | .int4 => clamp 4
  | .e4m3 => match v with
    | .nan => (e4m3.nan, false)
    | .inf neg => (e4m3.maxFin neg, true)
    | .fin neg m e => if beyond e4m3 m e then (e4m3.maxFin neg, true) else (e4m3.enc (.fin neg m e), false)
  | .e5m2 => match v with
    | .fin neg m e => if beyond e5m2 m e then (e5m2.maxFin neg, true) else (e5m2.enc (.fin neg m e), false)
    | other => (e5m2.enc other, false)
  | .bf16 => (bf16.enc v, false)
  | .fp16 => (fp16.enc v, false)

end Sys2Proof.Machine
end

