-- ==== Sys2Proof/Machine/Hash.lean ====
section
/-! DEFINITION. The hashes the manual names: SHA-256 of ledger entries (24_change_ledger.md, R573), SHA-384 of
images (04_startup_and_reset.md, R98; 07, R176) and CRC-32. The manual names the functions and does not restate them:
PRESUMED as FIPS 180-4 and the CRC of IEEE 802.3 (log entry 5). -/

namespace Sys2Proof.Machine

/-- Round constants of SHA-256. -/
def sha256K : List (BitVec 32) :=
  [0x428a2f98, 0x71374491, 0xb5c0fbcf, 0xe9b5dba5, 0x3956c25b, 0x59f111f1, 0x923f82a4, 0xab1c5ed5] ++
  [0xd807aa98, 0x12835b01, 0x243185be, 0x550c7dc3, 0x72be5d74, 0x80deb1fe, 0x9bdc06a7, 0xc19bf174] ++
  [0xe49b69c1, 0xefbe4786, 0x0fc19dc6, 0x240ca1cc, 0x2de92c6f, 0x4a7484aa, 0x5cb0a9dc, 0x76f988da] ++
  [0x983e5152, 0xa831c66d, 0xb00327c8, 0xbf597fc7, 0xc6e00bf3, 0xd5a79147, 0x06ca6351, 0x14292967] ++
  [0x27b70a85, 0x2e1b2138, 0x4d2c6dfc, 0x53380d13, 0x650a7354, 0x766a0abb, 0x81c2c92e, 0x92722c85] ++
  [0xa2bfe8a1, 0xa81a664b, 0xc24b8b70, 0xc76c51a3, 0xd192e819, 0xd6990624, 0xf40e3585, 0x106aa070] ++
  [0x19a4c116, 0x1e376c08, 0x2748774c, 0x34b0bcb5, 0x391c0cb3, 0x4ed8aa4a, 0x5b9cca4f, 0x682e6ff3] ++
  [0x748f82ee, 0x78a5636f, 0x84c87814, 0x8cc70208, 0x90befffa, 0xa4506ceb, 0xbef9a3f7, 0xc67178f2]

/-- Initial value of SHA-256. -/
def sha256H : List (BitVec 32) :=
  [0x6a09e667, 0xbb67ae85, 0x3c6ef372, 0xa54ff53a, 0x510e527f, 0x9b05688c, 0x1f83d9ab, 0x5be0cd19]

/-- Round constants of SHA-384. -/
def sha512K : List (BitVec 64) :=
  [0x428a2f98d728ae22, 0x7137449123ef65cd, 0xb5c0fbcfec4d3b2f, 0xe9b5dba58189dbbc, 0x3956c25bf348b538, 0x59f111f1b605d019, 0x923f82a4af194f9b, 0xab1c5ed5da6d8118] ++
  [0xd807aa98a3030242, 0x12835b0145706fbe, 0x243185be4ee4b28c, 0x550c7dc3d5ffb4e2, 0x72be5d74f27b896f, 0x80deb1fe3b1696b1, 0x9bdc06a725c71235, 0xc19bf174cf692694] ++
  [0xe49b69c19ef14ad2, 0xefbe4786384f25e3, 0x0fc19dc68b8cd5b5, 0x240ca1cc77ac9c65, 0x2de92c6f592b0275, 0x4a7484aa6ea6e483, 0x5cb0a9dcbd41fbd4, 0x76f988da831153b5] ++
  [0x983e5152ee66dfab, 0xa831c66d2db43210, 0xb00327c898fb213f, 0xbf597fc7beef0ee4, 0xc6e00bf33da88fc2, 0xd5a79147930aa725, 0x06ca6351e003826f, 0x142929670a0e6e70] ++
  [0x27b70a8546d22ffc, 0x2e1b21385c26c926, 0x4d2c6dfc5ac42aed, 0x53380d139d95b3df, 0x650a73548baf63de, 0x766a0abb3c77b2a8, 0x81c2c92e47edaee6, 0x92722c851482353b] ++
  [0xa2bfe8a14cf10364, 0xa81a664bbc423001, 0xc24b8b70d0f89791, 0xc76c51a30654be30, 0xd192e819d6ef5218, 0xd69906245565a910, 0xf40e35855771202a, 0x106aa07032bbd1b8] ++
  [0x19a4c116b8d2d0c8, 0x1e376c085141ab53, 0x2748774cdf8eeb99, 0x34b0bcb5e19b48a8, 0x391c0cb3c5c95a63, 0x4ed8aa4ae3418acb, 0x5b9cca4f7763e373, 0x682e6ff3d6b2b8a3] ++
  [0x748f82ee5defb2fc, 0x78a5636f43172f60, 0x84c87814a1f0ab72, 0x8cc702081a6439ec, 0x90befffa23631e28, 0xa4506cebde82bde9, 0xbef9a3f7b2c67915, 0xc67178f2e372532b] ++
  [0xca273eceea26619c, 0xd186b8c721c0c207, 0xeada7dd6cde0eb1e, 0xf57d4f7fee6ed178, 0x06f067aa72176fba, 0x0a637dc5a2c898a6, 0x113f9804bef90dae, 0x1b710b35131c471b] ++
  [0x28db77f523047d84, 0x32caab7b40c72493, 0x3c9ebe0a15c9bebc, 0x431d67c49c100d4c, 0x4cc5d4becb3e42b6, 0x597f299cfc657e2a, 0x5fcb6fab3ad6faec, 0x6c44198c4a475817]

/-- Initial value of SHA-384. -/
def sha384H : List (BitVec 64) :=
  [0xcbbb9d5dc1059ed8, 0x629a292a367cd507, 0x9159015a3070dd17, 0x152fecd8f70e5939, 0x67332667ffc00b31, 0x8eb44a8768581511, 0xdb0c2e0d64f98fa7, 0x47b5481dbefa4fa4]

/-- A big-endian word of a message. -/
def beWord (w : Nat) (bs : List Byte) : BitVec w := BitVec.ofNat w (ofLeBytes bs.reverse)

/-- The parameters in which the two functions differ. -/
structure ShaParams (w : Nat) where
  bs0 : BitVec w → BitVec w
  bs1 : BitVec w → BitVec w
  ss0 : BitVec w → BitVec w
  ss1 : BitVec w → BitVec w

/-- SHA-256's functions. -/
def sha256P : ShaParams 32 where
  bs0 x := x.rotateRight 2 ^^^ x.rotateRight 13 ^^^ x.rotateRight 22
  bs1 x := x.rotateRight 6 ^^^ x.rotateRight 11 ^^^ x.rotateRight 25
  ss0 x := x.rotateRight 7 ^^^ x.rotateRight 18 ^^^ (x >>> 3)
  ss1 x := x.rotateRight 17 ^^^ x.rotateRight 19 ^^^ (x >>> 10)

/-- SHA-384's functions. -/
def sha384P : ShaParams 64 where
  bs0 x := x.rotateRight 28 ^^^ x.rotateRight 34 ^^^ x.rotateRight 39
  bs1 x := x.rotateRight 14 ^^^ x.rotateRight 18 ^^^ x.rotateRight 41
  ss0 x := x.rotateRight 1 ^^^ x.rotateRight 8 ^^^ (x >>> 7)
  ss1 x := x.rotateRight 19 ^^^ x.rotateRight 61 ^^^ (x >>> 6)

/-- The message schedule, newest word first, grown by `n` words. -/
def shaSchedule {w : Nat} (p : ShaParams w) : Nat → List (BitVec w) → List (BitVec w)
  | 0, l => l
  | n + 1, l =>
    shaSchedule p n ((p.ss1 (l.getD 1 0) + l.getD 6 0 + p.ss0 (l.getD 14 0) + l.getD 15 0) :: l)

/-- One round on the eight working words. -/
def shaRound {w : Nat} (p : ShaParams w) (st : List (BitVec w)) (kw : BitVec w × BitVec w) : List (BitVec w) :=
  match st with
  | [a, b, c, d, e, f, g, h] =>
    let t1 := h + p.bs1 e + ((e &&& f) ^^^ (~~~e &&& g)) + kw.1 + kw.2
    let t2 := p.bs0 a + ((a &&& b) ^^^ (a &&& c) ^^^ (b &&& c))
    [t1 + t2, a, b, c, d + t1, e, f, g]
  | other => other

/-- One block of 16 words. -/
def shaBlock {w : Nat} (p : ShaParams w) (ks : List (BitVec w)) (h : List (BitVec w)) (blk : List (BitVec w)) :
    List (BitVec w) :=
  let sched := (shaSchedule p (ks.length - 16) blk.reverse).reverse
  List.zipWith (· + ·) h ((ks.zip sched).foldl (shaRound p) h)

/-- Padding to whole blocks of `blk` bytes with a length field of `lf` bytes. -/
def shaPad (blk lf : Nat) (m : List Byte) : List Byte :=
  let z := (blk - (m.length + 1 + lf) % blk) % blk
  m ++ [0x80#8] ++ zeros z ++ beBytes lf (8 * m.length)

/-- The hash words of a message. -/
def shaWords {w : Nat} (p : ShaParams w) (ks h0 : List (BitVec w)) (m : List Byte) : List (BitVec w) :=
  let wb := w / 8
  let padded := shaPad (16 * wb) (2 * wb) m
  (chunks (16 * wb) (padded.length / (16 * wb)) padded).foldl
    (fun h blk => shaBlock p ks h ((chunks wb 16 blk).map (beWord w))) h0

/-- SHA-256 as its 32 bytes. -/
def sha256 (m : List Byte) : List Byte :=
  (shaWords sha256P sha256K sha256H m).flatMap (fun x => beBytes 4 x.toNat)

/-- SHA-384 as its 48 bytes. -/
def sha384 (m : List Byte) : List Byte :=
  ((shaWords sha384P sha512K sha384H m).take 6).flatMap (fun x => beBytes 8 x.toNat)

/-- `n` shifts of the reflected CRC-32. -/
def crcBits : Nat → W32 → W32
  | 0, c => c
  | n + 1, c => crcBits n (if c &&& 1 = 1 then (c >>> 1) ^^^ 0xEDB88320 else c >>> 1)

/-- CRC-32 of bytes. -/
def crc32 (m : List Byte) : W32 :=
  ~~~(m.foldl (fun c b => crcBits 8 (c ^^^ b.zeroExtend 32)) 0xFFFFFFFF)

end Sys2Proof.Machine
end

