-- ==== Sys2Proof/Machine/Mem.lean ====
section
/-! DEFINITION. Memory as a list of cells in one canonical form: addresses strictly rising, no cell of value zero.
An unlisted address reads zero: start-up zero-fills every tier and scratchpad (R92, R105, R251). -/

namespace Sys2Proof.Machine

/-- Memory by device address. -/
abbrev Memory := List Host.Cell

/-- The byte at an address. -/
def mget : Memory → Nat → Byte
  | [], _ => 0
  | (a', b) :: m, a => if a' = a then b else mget m a

/-- Writes one byte, keeping the canonical form. -/
def mset : Memory → Nat → Byte → Memory
  | [], a, b => if b = 0 then [] else [(a, b)]
  | (a', b') :: m, a, b =>
    if a < a' then (if b = 0 then (a', b') :: m else (a, b) :: (a', b') :: m)
    else if a = a' then (if b = 0 then m else (a, b) :: m)
    else (a', b') :: mset m a b

/-- Reads `n` bytes from `a`. -/
def mread (m : Memory) (a : Nat) : Nat → List Byte
  | 0 => []
  | n + 1 => mget m a :: mread m (a + 1) n

/-- Writes bytes from `a`. -/
def mwrite (m : Memory) (a : Nat) : List Byte → Memory
  | [] => m
  | b :: bs => mwrite (mset m a b) (a + 1) bs

/-- Zero-fills `n` bytes from `a`. -/
def mzero (m : Memory) (a n : Nat) : Memory := m.filter (fun c => !(decide (a ≤ c.1) && decide (c.1 < a + n)))

/-- Reads a little-endian number of `n` bytes (R8). -/
def mnum (m : Memory) (a n : Nat) : Nat := ofLeBytes (mread m a n)

/-- Writes a little-endian number of `n` bytes (R8). -/
def mputNum (m : Memory) (a n x : Nat) : Memory := mwrite m a (leBytes n x)

/-- Copies the listed cells of `n` bytes from `src` to `dst`, over a zeroed destination. -/
def mcopy (m : Memory) (src dst n : Nat) : Memory :=
  (m.filter (fun c => decide (src ≤ c.1) && decide (c.1 < src + n))).foldl
    (fun m' c => mset m' (dst + (c.1 - src)) c.2) (mzero m dst n)

/-- The canonical form. -/
def Memory.wf : Memory → Bool
  | [] => true
  | [c] => c.2 != 0
  | c :: d :: m => c.2 != 0 && decide (c.1 < d.1) && Memory.wf (d :: m)

/-- First device address of a core's scratchpad (R224, Table 1-5). -/
def spBase (core : Nat) : Nat := 0x80000000000 + core * 0x800000

/-- True of a tier A address (R463). -/
def inTierA (a : Nat) : Bool := decide (a ≤ 0x02FFFFFFFFF)

/-- True of a tier B address (R463). -/
def inTierB (a : Nat) : Bool := decide (0x10000000000 ≤ a) && decide (a ≤ 0x1FFFFFFFFFF)

/-- True of a scratchpad address. -/
def inSp (a : Nat) : Bool := decide (0x80000000000 ≤ a) && decide (a ≤ 0x8001FFFFFFF)

/-- The core whose scratchpad holds an address. -/
def spCore (a : Nat) : Nat := (a - 0x80000000000) / 0x800000

/-- The bank number, core × 32 + bank, that holds a scratchpad address. -/
def spBank (a : Nat) : Nat := (a - 0x80000000000) / 0x40000

/-- The controller that serves a tier address: 0 to 3 the stacks of tier A, 4 to 35 the channels of tier B (R463). -/
def tierCtl (a : Nat) : Nat := if inTierA a then bits a 16 2 else 4 + bits (a - 0x10000000000) 16 5

/-- The unit identifier of a tier controller (Table 7-1). -/
def ctlUnit (k : Nat) : Nat := if k < 4 then 0x3000 + k else 0x4000 + (k - 4)

/-- The words, as addresses, that `n` bytes from `a` touch. -/
def wordsOf (a n : Nat) : List Nat := (List.range ((a + n + 7) / 8 - a / 8)).map (fun i => (a / 8 + i) * 8)

/-- The words that `n` bytes from `a` cover whole. -/
def wholeWordsOf (a n : Nat) : List Nat := (wordsOf a n).filter (fun w => decide (a ≤ w) && decide (w + 8 ≤ a + n))

end Sys2Proof.Machine
end

