-- ==== Sys2Proof/Machine/Tab.lean ====
section
/-! DEFINITION. Sparse tables: a list of (key, value) pairs with strictly rising keys. Every numbered collection of
the tray (tenants, regions, rings, jobs, cores, counters, ledger entries ...) is one, so equal collections are equal
lists. -/

namespace Sys2Proof

/-- A table from numbers to values, keys strictly rising. -/
abbrev Tab (α : Type) := List (Nat × α)

namespace Machine

/-- The entry of key `k`, if the table has one. -/
def tget {α : Type} : Tab α → Nat → Option α
  | [], _ => none
  | (k', v) :: t, k => if k' = k then some v else tget t k

/-- The entry of key `k`, or `d`. -/
def tgetD {α : Type} (t : Tab α) (k : Nat) (d : α) : α := (tget t k).getD d

/-- Sets the entry of key `k`, keeping keys rising. -/
def tset {α : Type} : Tab α → Nat → α → Tab α
  | [], k, v => [(k, v)]
  | (k', v') :: t, k, v =>
    if k < k' then (k, v) :: (k', v') :: t
    else if k = k' then (k, v) :: t
    else (k', v') :: tset t k v

/-- Removes the entry of key `k`. -/
def tdel {α : Type} (t : Tab α) (k : Nat) : Tab α := t.filter (fun p => p.1 != k)

/-- Changes the entry of key `k`, taken as `d` where the table has none. -/
def tmod {α : Type} (t : Tab α) (k : Nat) (d : α) (f : α → α) : Tab α := tset t k (f (tgetD t k d))

/-- Changes every entry. -/
def tmap {α : Type} (t : Tab α) (f : Nat → α → α) : Tab α := t.map (fun p => (p.1, f p.1 p.2))

/-- Keeps the entries that pass. -/
def tkeep {α : Type} (t : Tab α) (f : Nat → α → Bool) : Tab α := t.filter (fun p => f p.1 p.2)

/-- True of a table whose keys are strictly rising. -/
def tsorted {α : Type} : Tab α → Bool
  | [] => true
  | [_] => true
  | p :: q :: t => decide (p.1 < q.1) && tsorted (q :: t)

/-- The lowest number below `n`, from `k` on, that is not a key of the table. -/
def lowestFree {α : Type} (t : Tab α) (k : Nat) : Nat → Option Nat
  | 0 => none
  | n + 1 => if (tget t k).isNone then some k else lowestFree t (k + 1) n

end Machine
end Sys2Proof
end

