-- ==== Sys2Proof/Machine/StateTray.lean ====
section
/-! DEFINITION. The state of the tray outside its cores and its fabric: the Eft island, power, start-up, the host
link, the mailbox, tenants and tier memory, jobs, units, errors and the ledger. -/

namespace Sys2Proof.Machine

/-- What the tray sends up the host link or out of a pin port, in order (R137). -/
inductive OutMsg where
  /-- A posted write to host memory; a request of the tray carries no attribute (R114). -/
  | write (addr : Nat) (data : List Byte) (attr : TlpAttr := {})
  /-- An MSI-X message: the write of the table entry's data to its address for a vector (R136). -/
  | msix (vector : Nat) (addr : BitVec 64) (data : BitVec 32) (attr : TlpAttr := {})
  /-- The data of a read completion, which carries the attributes of the request (R114). -/
  | read (data : List Byte) (attr : TlpAttr := {})
  /-- A completion of Unsupported Request (R116) or Completer Abort (R607). -/
  | refused (attr : TlpAttr := {})
  /-- The answer to a configuration read. -/
  | config (value : BitVec 64)
  /-- An error message of AER: 0 correctable, 1 non-fatal, 2 fatal (R118). -/
  | error (severity : Nat)
  /-- Bytes read on I2C (R628). -/
  | i2c (data : List Byte)
  /-- One frame of the service connector's trace port (R596). -/
  | tracePort (data : List Byte)
deriving DecidableEq, Repr

/-- Freeze causes, FRZ_CAUSE (R601). -/
inductive FrzCause where
  | none | pin | command | fatal
deriving DecidableEq, Repr

/-- The codes of the boot-flash cause cell (R90). -/
inductive CauseCell where
  | empty | freeze | thermalTrip
deriving DecidableEq, Repr

/-- The Eft island (R60, R61, R88, R600 to R611). -/
structure Eft where
  /-- EFT ticks since EFT started; deadlines and idle timers count these (R62). -/
  tick : Nat := 0
  /-- The tick at which tray time was last 0 for a POWER_ON or COLD reset, the 2 ms row of Table 4-3 (R92). -/
  base : Nat := 0
  /-- Tray time in ns, 64 bits (R60). -/
  time : Nat := 0
  /-- |D| of a slew still to absorb (R61). -/
  slew : Nat := 0
  /-- D of a step that the next tick applies (R61). -/
  stepAdd : Nat := 0
  /-- 12 V in its operating range and the package powered. -/
  power : Bool := true
  /-- PERST# asserted; the host holds it at power-on (log entry 4). -/
  perst : Bool := true
  /-- FRZ_N low, at the last tick and at the one before (R600). -/
  frzLow : Bool := false
  frzLowPrev : Bool := false
  frozen : Bool := false
  frzCause : FrzCause := .none
  /-- The block that a FATAL report named (R564). -/
  frzBlock : Option FatalBlock := .none
  frzTick : Nat := 0
  frzTime : Nat := 0
  /-- Steps of Table 26-1 already taken. -/
  frzStep : Nat := 0
  /-- The model's own number of the freeze, under which the open bytes of its image stand (log entry 18). -/
  frzId : Nat := 0
  /-- Domains running at the latch, as the RUNNING mask of Table 26-3. -/
  frzRunning : Nat := 0
  /-- Tier controllers that missed self-refresh (R605). -/
  noSr : List Nat := []
  /-- Nibbles already delivered by the read-out stream (R610). -/
  sroPos : Nat := 0
  /-- SRO_DAT[3:0]. -/
  sroDat : Nat := 0
  /-- A thermal trip has latched (R82). -/
  tripped : Bool := false
  causeCell : CauseCell := .empty
  /-- The croak counter (R151). -/
  croak : Nat := 0
  /-- The SHA-384 digest of a staged image's copy that the island holds (R108); that of the running image is `Boot.runDigest`
  (R71). -/
  digest : List Byte := []
  /-- The last firm node address (R503). -/
  lastNode : BitVec 12 := 0
deriving DecidableEq, Repr

/-- The tray's power state and the transitions between states (R63 to R72). -/
inductive Power where
  | active
  /-- A SLEEP entry with this many steps of R66 taken. -/
  | entering (steps : Nat)
  | sleep
  | waking
  | torpor
  /-- A wake from TORPOR with this many rows of Table 3-5 after the first reached. -/
  | resuming (steps : Nat)
deriving DecidableEq, Repr

/-- Bank power states (Table 3-6). -/
inductive BankPower where
  | on | retain | off
deriving DecidableEq, Repr

/-- One monitor (Table 3-8, R79, R640). -/
structure Mon where
  /-- Its CORE ceiling in MHz. -/
  ceil : Nat := 900
  triggered : Bool := false
  /-- The EFT tick at which it became triggered (R81). -/
  trigTick : Nat := 0
  /-- The tick of the grid's origin for CURRENT: the instant of the warning, or of its end (R640). -/
  origin : Nat := 0
  /-- The grid point of the last sample, counted in whole periods from the grid's origin (R640). -/
  idx : Option Nat := none
  /-- The grid point at which the trigger condition began to hold. -/
  run : Option Nat := none
  /-- The grid point from which the release period counts. -/
  below : Option Nat := none
  /-- Latest readings, newest first (PKG_SUSTAINED). -/
  hist : List Int := []
  /-- Steps up put off to the end of an activation gap (R109). -/
  deferred : Nat := 0
  /-- The last reading, for the resume test of R81. -/
  last : Int := 0
deriving DecidableEq, Repr

/-- An open CLOCK_STEP window (R80). -/
structure ClkWin where
  /-- The EFT tick at which its first step opened it. -/
  opened : Nat
  steps : Nat
  first : Nat
  last : Nat
  mask : Nat
deriving DecidableEq, Repr

/-- Clocks, power states and limits (03_clocks_power_and_sleep.md). -/
structure Pwr where
  power : Power := .active
  /-- CORE and NOC frequency in MHz, CORE voltage in mV (R58, R59). -/
  coreMhz : Nat := 900
  nocMhz : Nat := 1200
  coreMv : Int := 800 + Config.trim
  /-- IDLE_SLEEP µs, IDLE_TORPOR ms, CORE_FMAX MHz, TORPOR_EN (Table 3-3). -/
  idleSleep : Nat := 10000
  idleTorpor : Nat := 60000
  coreFmax : Nat := 900
  torporEn : Bool := false
  /-- CORE_FMAX as it has taken effect so far (R85). -/
  fmaxNow : Nat := 900
  /-- The monitors in the order of R153. -/
  mons : Tab Mon := []
  win : Option ClkWin := none
  /-- Windows that have closed and whose events wait for the end of an activation gap (R109). -/
  closedWins : List ClkWin := []
  /-- MGT in MHz: 500, 50 in SLEEP and in the boot ROM, 0 in TORPOR (Table 3-1, Table 3-2, Table 4-3). -/
  mgtMhz : Nat := 50
  /-- The EFT tick of the last step of a lowered CORE_FMAX (R85). -/
  fmaxTick : Nat := 0
  /-- Admission held under R81, with its cause mask. -/
  admitHold : Bool := false
  holdMask : Nat := 0
  /-- Ticks for which the idle conditions of R66 have held, and ticks spent in SLEEP (R66, R69). -/
  idleTicks : Nat := 0
  sleepTicks : Nat := 0
  /-- A scrub wake is raised; the tray returns to SLEEP without waiting for IDLE_SLEEP (R76). -/
  scrubWake : Bool := false
  /-- Tier A and tier B in self-refresh (R66, R474). -/
  selfRefresh : Bool := false
  /-- Ticks spent in SLEEP since the last full scrub, and the cores whose pass has ended since then (R76). -/
  scrubTicks : Nat := 0
  scrubDone : List Nat := []
  /-- Readings for TRAY_STATUS: Tj in 0.1 °C, package and tray mW. -/
  tj : Int := 0
  pkgMw : Int := 0
  trayMw : Int := 0
  /-- EFT tick at which the last wake ended (R458). -/
  wokeTick : Nat := 0
  /-- The core power stage asserts its overcurrent warning (R78). -/
  overcurrent : Bool := false
deriving DecidableEq, Repr

/-- Reset types (R86). -/
inductive ResetKind where
  | cold | warm | fwActivate
deriving DecidableEq, Repr

/-- Steps of a start-up still to come (Table 4-3). -/
inductive BootStep where
  | verify | selftest | training | fill
deriving DecidableEq, Repr

/-- Where the running image was booted from. -/
inductive ImgSource where
  | none | slotA | slotB | recovery
deriving DecidableEq, Repr

/-- Staging of a firmware image (R190, R191): its announced length and the bytes received, by offset. -/
structure FwStage where
  length : Nat
  got : Tab Byte
deriving DecidableEq, Repr

/-- The gap of a firmware activation (R109, R110). -/
structure Gap where
  /-- The mailbox slot of FW_ACTIVATE. -/
  slot : Nat
  /-- The withdrawal has been flooded and the state saved (R109); before that Swifort waits. -/
  restarted : Bool
  /-- The trial was abandoned (R110). -/
  reverted : Bool
  /-- Version of the trial image. -/
  trialVersion : Nat
deriving DecidableEq, Repr

/-- Start-up, reset and firmware (04_startup_and_reset.md). -/
structure Boot where
  kind : ResetKind := .cold
  /-- The cause that SYS_RSTCAUSE reports (Table 4-2). -/
  cause : Nat := 0
  todo : List BootStep := [.verify, .selftest, .training, .fill]
  /-- SYS_BOOT.STATUS (Table 4-4). -/
  status : Nat := 0
  fwReady : Bool := false
  /-- SYS_FWVER, and the SVN and digest of the running image. -/
  fwver : Nat := 0
  svn : Nat := 0
  runDigest : List Byte := []
  runFrom : ImgSource := .none
  /-- The version of an image that failed, for FW_REVERTED. -/
  revertOf : Option Nat := none
  /-- The boot record: COMMITTED (false is A) and TRIAL. -/
  committed : Bool := false
  trial : Option Bool := none
  /-- The image slots, as far as their bytes are known (log entry 3). -/
  slotA : Option (List Byte) := none
  slotB : Option (List Byte) := none
  /-- The fused rollback counter. -/
  rollback : Nat := 0
  /-- Blown ARR_MAP fuses by core (R326). -/
  arrMap : Tab Nat := []
  /-- The ledger chain number of the boot flash (R573). -/
  chain : Nat := 0
  staging : Option FwStage := none
  /-- The verified copy of a staged image, and the slot it was written to (R108). -/
  staged : Option (Bool × List Byte) := none
  gap : Option Gap := none
  /-- SYS_STATUS.ROUTED (R104). -/
  routed : Bool := false
  /-- Trained values are saved in the tier B reserve (R102). -/
  trainedSaved : Bool := false
deriving DecidableEq, Repr

/-- A BAR2 window (Table 5-6). -/
structure Bar2Win where
  base : Nat := 0
  enable : Bool := false
  tcid : Nat := 0
deriving DecidableEq, Repr

/-- A host access to a BAR that waits for the tray to be ACTIVE (R72, R636; log entry 25). -/
inductive Parked where
  /-- A read of BAR0. -/
  | bar0 (offset size : Nat) (attr : TlpAttr)
  /-- An access through BAR2. -/
  | bar2 (write : Bool) (offset len : Nat) (data : List Byte) (attr : TlpAttr)
deriving DecidableEq, Repr

/-- The control and status fields of configuration space that the host writes, beside those of power management, ASPM, MSI-X and
the BAR2 size (R113, R118). -/
structure Cfg where
  /-- Max Payload Size and Max Read Request Size in bytes. -/
  mps : Nat := 128
  mrrs : Nat := 512
  tag10 : Bool := false
  /-- The reporting enables of Device Control. -/
  repCorr : Bool := false
  repNonFatal : Bool := false
  repFatal : Bool := false
  repUnsupported : Bool := false
  /-- AER: status bits set, errors masked, and uncorrectable errors whose severity is fatal. -/
  aerStatus : List AerErr := []
  aerMasked : List AerErr := [.advisory]
  aerFatal : List AerErr := [.dataLink, .malformed, .overflow]
deriving DecidableEq, Repr

/-- The host link and the SYS registers (05_host_link_and_registers.md). -/
structure HostLink where
  /-- Link training may start and configuration requests are answered (R93). -/
  up : Bool := false
  l1 : Bool := false
  d3hot : Bool := false
  aspmL1 : Bool := false
  msixEnable : Bool := false
  msixFuncMask : Bool := false
  /-- MSI-X table entries changed since reset: address, data, vector control. -/
  msix : Tab (BitVec 128) := []
  /-- Pending bits set. -/
  pba : List Nat := []
  /-- BAR2 size in GiB (R125). -/
  bar2GiB : Nat := 64
  wins : Tab Bar2Win := []
  sysErr : BitVec 6 := 0
  timeHi : BitVec 32 := 0
  /-- Completions and messages that wait for D0 (R116). -/
  held : List OutMsg := []
  cfg : Cfg := {}
  /-- Host accesses that wait for ACTIVE, oldest first. -/
  parked : List Parked := []
deriving DecidableEq, Repr

/-- Progress of a remote part as its origin sees it (R524, R525). -/
inductive PartSt where
  | claiming | claimed | held | ended
  | refused (status : Nat)
deriving DecidableEq, Repr

/-- A remote part of a job at its origin (R524): its stage, first position, number of positions and their cores there. -/
structure OPart where
  stage : Nat
  node : Nat
  rimage : Nat
  q0 : Nat
  n : Nat
  cores : List Nat := []
  st : PartSt := .claiming
deriving DecidableEq, Repr

/-- What a held copy has claimed at check 15 for a chain that uses the fabric (R524): the job slot and generation, its cores by
position, its tag, and its parts. -/
structure Claim where
  slot : Nat
  gen : BitVec 16
  chain : Tab Nat
  tag : Nat
  parts : List OPart
deriving DecidableEq, Repr

/-- A submission and completion ring pair (R194 to R199). -/
structure Ring where
  configured : Bool := false
  stopped : Bool := false
  held : Bool := false
  log2 : Nat := 4
  tcid : Nat := 0
  sqAddr : Nat := 0
  cqAddr : Nat := 0
  /-- DEADLINE in µs as configured; 0 means 1,000,000. -/
  deadline : Nat := 0
  sqTail : Nat := 0
  sqHead : Nat := 0
  cqHead : Nat := 0
  /-- Next completion index, and the PHASE of the pass (R198). -/
  cqIdx : Nat := 0
  phase : Bool := true
  epoch : BitVec 16 := 0
  /-- The held copy's eight words (R195). -/
  copy : Option (List Word) := none
  reads : Nat := 0
  /-- Pending stamps, oldest first: TAIL and tick (R196). -/
  stamps : List (Nat × Nat) := []
  /-- Completion slots reserved and not yet posted. -/
  reserved : Nat := 0
  /-- Completions written and not yet consumed, at most N (R198). -/
  unread : Nat := 0
  stopCause : Nat := 0
  /-- A RING_READ_FAULT completion waits for a slot (R199). -/
  faultDue : Bool := false
  /-- RING_DESTROY with FORCE waits for the ring's jobs (R181). -/
  destroying : Bool := false
  /-- Claims outstanding for the held copy (R524). -/
  claim : Option Claim := none
deriving DecidableEq, Repr

/-- A request Swifort has copied out of a slot (R142). -/
structure Req where
  opcode : Nat
  force : Bool
  noirq : Bool
  tag : Nat
  payload : List Byte
  /-- Acceptance order (R145). -/
  order : Nat
deriving DecidableEq, Repr

/-- A command that has started and waits, with the response it will give (R170, R175, R149). -/
structure Pend where
  req : Req
  jobs : List Nat
  fills : List Nat
  payload : List Byte
deriving DecidableEq, Repr

/-- One event record (Table 6-7). -/
structure EvRec where
  type : Nat
  seq : Nat
  time : Nat
  p0 : Nat
  p1 : Nat
deriving DecidableEq, Repr

/-- The mailbox (06_mailboxes.md). -/
structure Mbx where
  own : BitVec 32 := 0
  done : BitVec 32 := 0
  slots : Tab (List Byte) := []
  reqs : Tab Req := []
  running : Tab Pend := []
  nextOrder : Nat := 0
  /-- Doorbell bits latched in an activation gap, in TORPOR and in a wake from it (R84, R157). -/
  latched : List Nat := []
  /-- Slots whose commands were accepted, or stood unstarted, while all execution places were taken (R145). -/
  placeWait : List Nat := []
  evqBase : Nat := 0
  evqEnable : Bool := false
  evqHead : Nat := 0
  evqTail : Nat := 0
  evqDrop : Nat := 0
  evqPhase : Bool := true
  evqSeq : Nat := 1
  backlog : List EvRec := []
  /-- Events dropped since the last EVQ_OVERFLOW, and the first one's SEQ. -/
  drops : Nat := 0
  firstDrop : Nat := 0
deriving DecidableEq, Repr

/-- Tenant states (Table 2-2). -/
inductive TState where
  | free | active | suspended | destroying
deriving DecidableEq, Repr

/-- A tenant context (Table 2-2); the USED fields are computed from what the tenant holds. -/
structure Tenant where
  state : TState := .free
  cobatch : Bool := false
  observe : Bool := false
  residency : Nat := 0
  tgen : Nat := 0
  maxJobs : Nat := 0
  spQuota : Nat := 0
  taQuota : Nat := 0
  tbQuota : Nat := 0
  /-- HOTROW_POLICY (R419). -/
  hotMode : Nat := 0
  hotMax : Nat := 0
  /-- Admission number of its most recent job (R32). -/
  lastJob : Nat := 0
deriving DecidableEq, Repr

/-- A copy in tier A: its place, and whether every byte has been performed (R469). -/
structure TaCopy where
  base : Nat
  done : Bool
  poisoned : Bool
  lastUse : Nat
deriving DecidableEq, Repr

/-- A commons object (R36, R171). -/
structure Commons where
  sealed : Bool
  size : Nat
  baseB : Nat
  baseA : Nat
  lastUse : Nat
deriving DecidableEq, Repr

/-- A region (R172 to R175). -/
structure Region where
  owner : Nat
  writable : Bool
  /-- True for tier A. -/
  tierA : Bool
  sealed : Bool
  size : Nat
  base : Nat
  /-- True of a region that IMAGE_REGISTER created. -/
  image : Bool
  copy : Option TaCopy
  /-- Pinned cores of R635, once chosen. -/
  pinned : Option (List Nat)
  lastUse : Nat
deriving DecidableEq, Repr

/-- A registered image (R176, R178). -/
structure Image where
  owner : Nat
  region : Nat
  desc : ImageDesc
  size : Nat
  digest : List Byte
  /-- Bindings of remote stages: NODE and RIMAGE. -/
  binds : Tab (Nat × Nat)
deriving DecidableEq, Repr

/-- What a resident scratchpad copy is a copy of. -/
inductive ObjRef where
  | region (id : Nat)
  | commons (coid : Nat)
deriving DecidableEq, Repr

/-- One object's copy on one core (R31, R32): the part of the object it holds, its banks, and whether it is staged. -/
structure SpCopy where
  obj : ObjRef
  core : Nat
  off : Nat
  len : Nat
  banks : List Nat
  done : Bool
  poisoned : Bool
  lastUse : Nat
deriving DecidableEq, Repr

/-- A scratchpad bank (R31, R74, R248). -/
structure Bank where
  owner : Nat := 0
  res : Bool := false
  retired : Bool := false
  power : BankPower := .off
deriving DecidableEq, Repr

/-- A granule tag (Table 19-2). -/
structure GTag where
  owner : Nat := 0
  wr : Bool := false
  retired : Bool := false
  fill : Bool := false
deriving DecidableEq, Repr

/-- A staging order (R475): the copy it makes, its cores (none for tier B to tier A alone), and the works waiting. The first 16 of the
list run. -/
structure StgOrder where
  obj : ObjRef
  cores : List Nat
  jobs : List Nat
deriving DecidableEq, Repr

/-- A tier zero-fill in progress (R480). -/
structure Fill where
  base : Nat
  size : Nat
deriving DecidableEq, Repr

/-- A hot-row replica of a table (R420): its place in tier A, HLOG2, the length of a row, and the rows held by SLOT. -/
structure Replica where
  base : Nat
  size : Nat
  log2 : Nat
  rp : Nat
  rows : List Nat
deriving DecidableEq, Repr

/-- Tenants, the commons, regions and images. -/
structure Store where
  tenants : Tab Tenant := []
  commons : Tab Commons := []
  regions : Tab Region := []
  images : Tab Image := []
  nextRegion : Nat := 1
  nextImage : Nat := 1
  spCopies : List SpCopy := []
  /-- Banks by core × 32 + bank. -/
  banks : Tab Bank := []
  /-- Granules with RETIRED = 1, by device address / 65,536; the rest of a tag (Table 19-2) follows from the records
  above under R469 and R480, see gtag. -/
  retired : List Nat := []
  fills : List Fill := []
  orders : List StgOrder := []
  /-- Hot-row replicas by tenant × 2^32 + the region of the table's first shard. -/
  replicas : Tab Replica := []
  /-- Flagged rows that Swifort has still to replicate (R419): tenant, region at the owner, row. -/
  hotRows : List (Nat × Nat × Nat) := []
deriving DecidableEq, Repr

/-- Poison and ECC history of tier memory and scratchpads, as word addresses. -/
structure Ecc where
  poison : List Nat := []
  /-- Errors that lie in memory words until the next read of the word finds them: what error correction finds there, by word
  address. The model's own field (log entry 39). -/
  latent : Tab EccFind := []
  rewritten : List Nat := []
  /-- Times of corrected errors of the last second by bank or controller, and of its last CORR_STORM (R554). -/
  corr : Tab (List Nat × Option Nat) := []
  /-- Time of the last uncorrectable flit of a pond port (R557). -/
  flits : Tab Nat := []
deriving DecidableEq, Repr

/-- A unit state record and Swifort's belief of it (R167, R543). -/
structure UnitRec where
  admin : Admin := .online
  health : Health := .good
  gen : BitVec 16 := 0
  belief : Health := .good
deriving DecidableEq, Repr

/-- A HEALTH notification on its way to Swifort (R543). -/
structure HealthNote where
  unit : Nat
  old : Health
  new : Health
  gen : BitVec 16
deriving DecidableEq, Repr

/-- A fault report, the contents of an error record but for its INDEX (Table 23-2). -/
structure ErrRep where
  cls : Nat
  scope : Nat
  unit : Nat
  time : Nat
  tcid : Nat := 0
  status : Nat := 0
  gen : BitVec 16 := 0
  health : Health := .good
  admin : Admin := .online
  addr : Nat := 0
  d0 : Nat := 0
  d1 : Nat := 0
  slot : Nat := 0
  jgen : BitVec 16 := 0
  ring : Nat := 0
  sqIndex : Nat := 0
deriving DecidableEq, Repr

/-- Units, error reports and the error log. -/
structure Errs where
  units : Tab UnitRec := []
  notes : List HealthNote := []
  /-- Report queues by the unit that latched the report, at most 16 each (R549). -/
  queues : Tab (List ErrRep) := []
  /-- The error log by slot: INDEX and report (R551). -/
  log : Tab (Nat × ErrRep) := []
  next : Nat := 1
  lost : Nat := 0
deriving DecidableEq, Repr

/-- A field repair of a core (R329 to R331). -/
structure Repair where
  /-- True once the core has been put OFFLINE and line tests run. -/
  testing : Bool
  /-- Spare fuses blown so far in this repair. -/
  blown : Nat
  /-- ADMIN before the repair. -/
  wasAdmin : Admin
deriving DecidableEq, Repr

/-- The ledger engine (24_change_ledger.md); the entries themselves stand in tier A. -/
structure Ledger where
  oldest : Nat := 0
  next : Nat := 0
  /-- HEAD, the SHA-256 of the newest entry. -/
  head : List Byte := []
  chain : Nat := 0
  /-- The image digest of the chain's CHAIN_OPEN entry (R187). -/
  openDigest : List Byte := []
  warnArmed : Bool := true
  suppressed : Nat := 0
  suppressedAt : Nat := 0
deriving DecidableEq, Repr

/-- The temperature registers and the I2C pointer (R628 to R630). -/
structure Board where
  tj : Int := 0
  inlet : Int := 0
  outlet : Int := 0
  vr : Int := 0
  lpddr : Int := 0
  flags : Nat := 0
  fruPtr : Nat := 0
  tmpPtr : Nat := 0
deriving DecidableEq, Repr

end Sys2Proof.Machine
end

