-- ==== Sys2Proof/Machine/StateJob.lean ====
section
/-! DEFINITION. Admitted jobs as the dispatcher holds them (08_jobs_and_dispatch.md), and the remote parts of jobs
whose origin is another tray (21, R524 to R526). -/

namespace Sys2Proof.Machine

/-- The stream fields of a STREAM job (R218 to R220); times in EFT ticks. -/
structure Stream where
  queue1 : Bool
  period : Nat
  frames : Nat
  nbuf : Nat
  admitted : Nat
  released : Nat := 0
  /-- Frames that have run to their completion. -/
  ran : Nat := 0
  /-- The waiting frame: its number and release tick. -/
  waiting : Option (Nat × Nat) := none
  /-- Frames skipped without a completion since the last completion. -/
  skipped : Nat := 0
  /-- The stream has ended; the end completion follows the running frame. -/
  ending : Bool := false
  /-- A STREAM_STOP that waits for the end completion: SQ_INDEX, COOKIE, IRQ, stamp. -/
  stop : Option (Nat × Word × Bool × Nat) := none
deriving DecidableEq, Repr

/-- A quench under way (R214, R216): the first cause's status and DETAIL, when it started, the units and remote stages
that have not acknowledged, whether it ends one frame of a stream only (R219, R556), and the status and
DETAIL of a cause that came during it and quenches the whole stream (R216, R220). -/
structure Quench where
  status : Nat
  detail : Nat
  start : Nat
  units : List Nat
  remote : List Nat
  frameOnly : Bool
  whole : Option (Nat × Nat) := none
deriving DecidableEq, Repr

/-- An admitted job (R205, R206, R212). -/
structure Job where
  gen : BitVec 16
  /-- Admission number, rising over the tray's life since reset. -/
  order : Nat
  tcid : Nat
  ring : Nat
  sqIndex : Nat
  irq : Bool
  cookie : Word
  epoch : BitVec 16
  image : Nat
  plan : Nat
  exts : List Nat
  buckets : List Nat
  inRegion : Nat
  outRegion : Nat
  inOff : Nat
  outOff : Nat
  /-- Device addresses of the input and output of the run, or of the running frame (R201). -/
  inAt : Nat := 0
  outAt : Nat := 0
  stamp : Nat
  /-- Deadline in ticks, counted from the stamp, or from a frame's release (R213, R218). -/
  deadline : Nat
  /-- Cores by chain position, local positions only. -/
  chain : Tab Nat
  tag : Nat
  /-- The jobs of its co-batch group, itself included, in CORE_CBT order; empty when it runs alone. -/
  group : List Nat
  /-- TCIDs of the jobs of its group, in the same order. -/
  mates : List Nat := []
  /-- Units with the GEN recorded at admission (R206). -/
  units : List (Nat × BitVec 16)
  fabric : Bool
  parts : List OPart := []
  /-- Objects whose copies it uses (R32). -/
  uses : List ObjRef
  round : Nat := 0
  /-- Cores whose part is done. -/
  ended : List Nat := []
  sat : Bool := false
  nan : Bool := false
  /-- Hot keys (R418): the lowest core that flagged one, its first row, and the count over the chain. -/
  hotCore : Nat := 64
  hotFirst : Option Nat := none
  hotCount : Nat := 0
  /-- A stream, and its running frame: number and release tick. -/
  stream : Option Stream := none
  frame : Option (Nat × Nat) := none
  quench : Option Quench := none
  /-- Superseded under R211: no completion is posted. -/
  superseded : Bool := false
  /-- Waits of R458 in ticks: WAKE, TENANT_SWITCH, CONFIG, STAGE, ADMIT_HOLD. -/
  waits : List Nat := [0, 0, 0, 0, 0]
  /-- EFT tick up to which the waits have been counted. -/
  mark : Nat := 0
deriving DecidableEq, Repr

/-- A part of a job of another tray (R524 to R526). -/
structure RPart where
  /-- Origin node, job slot and generation there. -/
  origin : Nat
  slot : Nat
  gen : BitVec 16
  tcid : Nat
  image : Nat
  plan : Nat
  /-- First chain position, and the cores by position from there. -/
  q0 : Nat
  cores : List Nat
  exts : List Nat
  buckets : List Nat
  tag : Nat
  /-- Admission number on this tray. -/
  order : Nat
  uses : List ObjRef
  round : Nat := 0
  ended : List Nat := []
  sat : Bool := false
  nan : Bool := false
  /-- The status reported to the origin, 0 while the part runs. -/
  status : Nat := 0
  /-- A QUENCH is under way: the units that have not acknowledged, and the transaction to answer. -/
  quench : Option (List Nat × BitVec 32) := none
deriving DecidableEq, Repr

/-- The dispatcher. -/
structure Dsp where
  jobs : Tab Job := []
  gens : Tab (BitVec 16) := []
  nextOrder : Nat := 1
  /-- The ring whose turn comes next in the round (R197). -/
  turn : Nat := 0
  parts : List RPart := []
  /-- Admission closed at a SLEEP entry (R66). -/
  closed : Bool := false
deriving DecidableEq, Repr

end Sys2Proof.Machine
end

