-- ==== Sys2Proof/Machine/StateCore.lean ====
section
/-! DEFINITION. The state of a core (09 to 18): its sequencer, scratchpad registers, engine queues and engines, and what
is on its way between cores and to the tier controllers. -/

namespace Sys2Proof.Machine

/-- A store buffer entry (R260): effective address, device address and bytes. -/
structure StEnt where
  ea : Word
  addr : Nat
  data : List Byte
deriving DecidableEq, Repr

/-- A 64 B line of the gathering buffer (R232) or the combining buffer (R262): aligned device address, the valid bit of
each byte, and the bytes. -/
structure Line where
  addr : Nat
  mask : Nat
  data : List Byte
deriving DecidableEq, Repr

/-- A load that waits for its data (R230). -/
structure Load where
  ea : Word
  addr : Nat
  size : Nat
  signed : Bool
  gd : Nat
  /-- An LDRES. -/
  reserve : Bool
deriving DecidableEq, Repr

/-- What a sequencer is doing. -/
inductive SeqRun where
  /-- No job, or stopped by a quench or a fatal trap. -/
  | idle
  | run
  | load (l : Load)
  /-- In SYNC (R274). -/
  | sync
  /-- In WAIT (R286). -/
  | wait
  /-- In END, before its QSYNC and SYNC are complete (R289). -/
  | ending
  /-- END is reported. -/
  | done
deriving DecidableEq, Repr

/-- A sequencer, of a core or Swifort's (R281 to R298). -/
structure Seq where
  /-- g1 to g31; g0 is not stored. -/
  g : Tab Word := []
  pc : Word := 0
  run : SeqRun := .idle
  ie : Bool := false
  intrap : Bool := false
  epc : Word := 0
  cause : Nat := 0
  tval : Word := 0
  tvec : Word := 0
  entry : Word := 0
  timer : Word := 0
  ip : BitVec 2 := 0
  /-- The region whose token set TOKEN (Table 11-6). -/
  tokReg : Nat := 0
  imask : Word := 0
  scratch : Word := 0
  /-- Region attributes, two words each (Table 10-2). -/
  rattr : Tab (Nat × Nat) := []
  /-- Store buffer, oldest first, and EARLY writes accepted and not yet in effect (R260, R266). -/
  sb : List StEnt := []
  early : List StEnt := []
  /-- Combining buffer, oldest first (R262). -/
  cb : List Line := []
  /-- The reserved granule, device address / 64 (R267). -/
  res : Option Nat := none
  /-- The end point still holds off other agents' stores (R270). -/
  hold : Bool := false
  /-- Instructions retired since the LDRES (R296). -/
  since : Nat := 0
  /-- SEQ_IP bits that became pending while a reservation was held, and that still wait for the STCOND or the 16th instruction (R296). -/
  defer : BitVec 2 := 0
  /-- The instruction at `pc` has begun and waits, so the sequencer is at no instruction boundary (R296; 11, At the edges). -/
  begun : Bool := false
deriving DecidableEq, Repr

/-- A landed token (R436). -/
structure Tok where
  tag : Nat
  units : Nat
deriving DecidableEq, Repr

/-- A circular region (Table 9-6, R436). -/
structure Circ where
  base : Nat := 0
  size : Nat := 0
  source : Nat := 0
  head : Nat := 0
  tail : Nat := 0
  toks : List Tok := []
  /-- Cumulative credits granted to a producer on another tray (R528). -/
  total : Nat := 0
deriving DecidableEq, Repr

/-- An engine queue entry (R303): a tile instruction, or the barrier of a QSYNC. -/
structure QEnt where
  inst : Nat
  bar : Bool
  /-- Placement order over all queues of the core. -/
  ord : Nat
deriving DecidableEq, Repr

/-- A range entry of the scoreboard (R238), in bytes of the scratchpad, with the engine queue that owns it and the placement order of its
instruction. -/
structure Rng where
  lo : Nat
  hi : Nat
  write : Bool
  /-- ENGINE code of the owning queue. -/
  eng : Nat := 0
  ord : Nat
deriving DecidableEq, Repr

/-- Row bits of an accumulator set (R332). The owner is a TCID. -/
structure AccRow where
  clear : Bool := true
  sat : Bool := false
  nan : Bool := false
  owner : Nat := 0
deriving DecidableEq, Repr

/-- An accumulator set: its type tag (true FP32) and fold tag, its rows, its words by Table 12-1's word number. -/
structure AccSet where
  tag : Option (Bool × Nat) := none
  rows : Tab AccRow := []
  words : Tab Nat := []
deriving DecidableEq, Repr

/-- One row of a pass or quantum result: SAT and NAN met while it was formed, and the owner's TCID. -/
structure ResRow where
  row : Nat
  sat : Bool
  nan : Bool
  owner : Nat
deriving DecidableEq, Repr

/-- An uncommitted pass (R317, R318). -/
structure Pass where
  inst : Nat
  ord : Nat
  /-- Number within the section. -/
  num : Nat
  /-- The product, by accumulator word; a word left out is zero. -/
  prod : Tab Nat
  rows : List ResRow
  /-- Comparisons that the operands themselves fail, and how many are skipped (R321, R322). -/
  cmp : List CmpFail
  skipped : Nat
  /-- P and, at a re-execution, P with the full load (R323). -/
  p : Nat
  pRetry : Nat
  retried : Bool
  /-- Jobs that own a row (R324). -/
  works : List Nat
deriving DecidableEq, Repr

/-- An uncommitted quantum (R374, R375). -/
structure Quant where
  num : Nat
  prod : Tab Nat
  rows : List ResRow
  nnzA : Nat
  nnzB : Nat
  beats : Nat
  steps : Nat
  matches_ : Nat
  cycles : Nat
  retried : Bool
  works : List Nat
  /-- A coordinate or table entry of it breaks R365. -/
  bad : Bool
  /-- Co-batch table entry under DL (R384). -/
  entry : Nat
deriving DecidableEq, Repr

/-- A MERGE under way: its quanta still to commit, the accumulator words that a quantum has written, and its MRG_CYCLES. -/
structure MergeRun where
  inst : Nat
  ord : Nat
  quanta : List Quant
  seen : Tab Nat
  cycles : Nat
deriving DecidableEq, Repr

/-- A slot of the gather engine (R408): a row read from tier memory, a remote read or a remote pooled lookup. -/
structure GSlot where
  table : Nat
  row : Nat
  /-- Device address and length of a local read; for a remote one, the transaction. -/
  addr : Nat
  len : Nat
  remote : Bool
  txid : Nat
deriving DecidableEq, Repr

/-- A remote sub-bag's result (R423): bag, node, vector, valid and invalid counts. -/
structure SubBag where
  bag : Nat
  node : Nat
  vec : List Nat
  valid : Nat
deriving DecidableEq, Repr

/-- How an entry of a bag list was resolved. -/
inductive GRes where
  /-- Dropped under R415. -/
  | dropped
  /-- Local row of the table, with a partner's row when the table is composed. -/
  | rows (row : Nat) (partner : Option (Nat × Nat))
  /-- Held by another tray: the node and the row number there. -/
  | remote (node region row : Nat)
deriving DecidableEq, Repr

/-- A GATHER under way (R404 to R415). -/
structure GatherRun where
  inst : Nat
  ord : Nat
  nidx : Nat
  nbags : Nat
  ptrs : List Nat
  /-- Entries not yet resolved: bag, key, weight pattern. -/
  todo : List (Nat × Nat × Nat)
  /-- Entries resolved, in list order. -/
  resolved : List (Nat × Nat × GRes)
  slots : List GSlot
  /-- Rows read, by (table, row). -/
  got : List (Nat × Nat × List Byte)
  subs : List SubBag
  /-- Remote sub-bags (bag and node) still to be sent, once every entry is resolved. -/
  subTodo : Option (List (Nat × Nat))
deriving DecidableEq, Repr

/-- A row of the reuse window (R411), oldest use first. -/
structure WinRow where
  table : Nat
  row : Nat
  data : Option (List Byte)
deriving DecidableEq, Repr

/-- A walk register (R427, R428). -/
structure Walk where
  w : WalkDesc := { w0 := 0, w1 := 0, w2 := 0, w3 := 0 }
  c : List Nat := [0, 0, 0, 0]
  r : List Bool := [false, false, false, false]
  done : Bool := false
deriving DecidableEq, Repr

/-- A feed of the loaded section (R429): its walk, and its credits for the destination region. -/
structure Feed where
  desc : FeedDesc
  walk : Walk
  credits : Nat
deriving DecidableEq, Repr

/-- A producer credit counter (R244): destination core and region. -/
structure Cred where
  core : Nat
  region : Nat
  n : Nat
deriving DecidableEq, Repr

/-- A key of the job summary (R417). -/
structure HotKey where
  table : Nat
  row : Nat
  est : Nat
deriving DecidableEq, Repr

/-- An issued instruction that retires once `left` of its operations have been performed: ENGINE code, placement order, and
the compute counter that rises at retirement (word of Table 25-4) with its amount. -/
structure PendI where
  eng : Nat
  ord : Nat
  left : Nat
  word : Nat
  cycles : Nat
  /-- DRN_STATUS once a DRAIN has finished. -/
  drn : Nat := 0
  /-- Owners of a DRAIN's rows, with the SAT and NAN that their works take when it has finished (R346). -/
  flags : List (Nat × Bool × Bool) := []
deriving DecidableEq, Repr

/-- A core. -/
structure Core where
  seq : Seq := {}
  /-- The instruction store by word, and the length of the section's code in bytes (R282). -/
  imem : Tab W32 := []
  codeLen : Nat := 0
  ext : List Nat := [0, 0, 0, 0]
  bkt : List Nat := [0, 0, 0, 0]
  /-- CORE_SPWINn by number, the register's 64 bits (Table 9-5). -/
  spwin : Tab Nat := []
  circ : Tab Circ := []
  gb : List Line := []
  queues : Tab (List QEnt) := []
  nextOrd : Nat := 1
  rngs : List Rng := []
  acc : Tab AccSet := []
  /-- The drain program store: programs of 64 B by number. -/
  drn : Tab (List Byte) := []
  drnStatus : Nat := 0
  nmcfg : Nat := 0
  cbt : Tab Nat := []
  cbn : Nat := 0
  /-- Mask registers (R388). -/
  maskReg : Tab Nat := []
  atgt : Tab Nat := []
  /-- GTH_TBLn: eight words each; GTH_SMAPe; GTH_CFG. -/
  tbl : Tab (List Nat) := []
  smap : Tab Nat := []
  gthCfg : Nat := 0
  walks : Tab Walk := []
  chnMap : Tab Nat := []
  /-- CHN_NODE by chain position (R524). -/
  chnNode : Tab Nat := []
  chnCur : Nat := 0
  /-- CHN_FIREe by ENGINE code. -/
  fire : Tab Nat := []
  feeds : List Feed := []
  creds : List Cred := []
  passes : List Pass := []
  passNum : Nat := 0
  quantNum : Nat := 0
  /-- The previous MMA of the section (R306). -/
  lastMma : Option Nat := none
  /-- The stationary B of the previous MMA, row k by row: `none` for a position that NM or BK weights drop (R306, R315). -/
  heldB : List (List (Option Nat)) := []
  merge : Option MergeRun := none
  gather : Option GatherRun := none
  /-- Entries that the gather engine has read for the current job (R407). -/
  gthRead : Nat := 0
  win : List WinRow := []
  hot : List HotKey := []
  hotN : Nat := 0
  /-- Section records by tag: words of Table 25-4 by index. -/
  recs : Tab (Tab Nat) := []
  /-- The occupant: one TCID, or those of a co-batch group (R47). -/
  occ : List Nat := []
  /-- The job or remote part that runs on the core: a job slot, or 8192 + origin × 8192 + slot for a part. -/
  work : Option Nat := none
  /-- An occupant zero-fill is due or running (R47, R251). -/
  filling : Bool := false
  /-- The loaded section: image and section index. -/
  sec : Option (Nat × Nat) := none
  /-- Sections staged in bank 31: image, section, admission number of the last job that used it (R444). -/
  bank31 : List (Nat × Nat × Nat) := []
  doze : Bool := false
  /-- EFT tick at which the last full scrub pass of the core ended (R250). -/
  scrubbed : Nat := 0
  /-- Issued instructions that wait for their adds or tokens to be performed (R271). -/
  pend : List PendI := []
deriving DecidableEq, Repr

/-- An atomic add on its way to a tier controller (R397, R478). -/
structure Add where
  core : Nat
  ord : Nat
  addr : Nat
  /-- 0 FP32, 1 INT32, 2 BF16. -/
  typ : Nat
  val : Nat
  work : Nat
  gen : BitVec 16
  tcid : Nat
deriving DecidableEq, Repr

/-- A token on its way to a circular region of this tray (R241, R242). -/
structure TokMsg where
  /-- Writer's unit identifier; 0 the staging movers. -/
  writer : Nat
  /-- The writing core and the placement order of its instruction. -/
  core : Nat
  ord : Nat
  dcore : Nat
  dreg : Nat
  tag : Nat
  units : Nat
  data : List Byte
  work : Nat
  gen : BitVec 16
  tcid : Nat
  /-- TCIDs of the rows that a co-batched DRAIN sends in it (R41). -/
  owners : List Nat := []
deriving DecidableEq, Repr

/-- Credits on their way to a producer core (R243). -/
structure CredMsg where
  pcore : Nat
  core : Nat
  region : Nat
  n : Nat
  work : Nat
  gen : BitVec 16
deriving DecidableEq, Repr

/-- What is on its way between cores and to the tiers. -/
structure Net where
  adds : List Add := []
  toks : List TokMsg := []
  creds : List CredMsg := []
deriving DecidableEq, Repr

end Sys2Proof.Machine
end

