-- ==== Sys2Proof/Machine/StateFabric.lean ====
section
/-! DEFINITION. The state of the fabric ports, discovery, routes and transactions (20, 21). -/

namespace Sys2Proof.Machine

/-- A port's link state (R493). -/
inductive PortSt where
  | down
  | training (step : Nat)
  | up
deriving DecidableEq, Repr

/-- A neighbour as its HELLO names it (Table 20-6). -/
structure Nbr where
  uid : Nat
  node : Nat
  nport : Nat
  tentative : Bool
deriving DecidableEq, Repr

/-- A sequenced frame of this port: its virtual channel, flits and LSEQ (R491). -/
structure TxFrame where
  vc : Vc
  flits : Nat
  lseq : BitVec 16
deriving DecidableEq, Repr

/-- Three counts, for REQ, RSP and MGT. -/
structure VcCnt where
  req : BitVec 16 := 0
  rsp : BitVec 16 := 0
  mgt : BitVec 16 := 0
deriving DecidableEq, Repr

/-- A fabric port (R482 to R496). -/
structure Port where
  st : PortSt := .down
  /-- A module is present; it advertises four lanes at the rate (R483), and it is optical. -/
  present : Bool := false
  fits : Bool := false
  optics : Bool := false
  /-- Tray times at which it went down within the last 60 s, and whether the 10 s hold-down holds it (R494). -/
  downs : List Nat := []
  held : Bool := false
  /-- A failed attempt or a fall waits for its retry. -/
  retry : Bool := false
  nbr : Option Nbr := none
  /-- UID last heard, 0 if none; step 5's two-way exchange is complete (R496). -/
  heard : Nat := 0
  twoWay : Bool := false
  /-- Next LSEQ to send, and the last one accepted (none before the first). -/
  txSeq : BitVec 16 := 0
  rxSeq : Option (BitVec 16) := none
  /-- Unacknowledged frames, oldest first. -/
  replay : List TxFrame := []
  /-- Resends of the episode under way and its start (R492). -/
  resends : Nat := 0
  episode : Option Nat := none
  /-- Flits of a frame whose later flits have not arrived (R484). -/
  rx : List (BitVec 256) := []
  /-- A NAK was sent for the discard under way. -/
  nakSent : Bool := false
  /-- Flits sent and the neighbour's totals, by virtual channel (R488, R490). -/
  sent : VcCnt := {}
  granted : VcCnt := {}
  /-- Flits freed at this receiver since training. -/
  freed : VcCnt := {}
  /-- Frames received since the last LCTL. -/
  rxCount : Nat := 0
  /-- Frames waiting in the output queue, oldest first. -/
  outq : List (Vc × Nat) := []
  /-- Frames started since the last MGT frame, up to 7 (R489). -/
  mgtGap : Nat := 7
deriving DecidableEq, Repr

/-- A stored link-state record and the tray time of its arrival (R499, R500). -/
structure LsdbRec where
  lsr : LsrRec
  time : Nat
deriving DecidableEq, Repr

/-- An operation of Table 21-4 that this tray requests. -/
inductive TxnOp where
  | read (region offset len : Nat)
  | write (dcore dreg score : Nat) (tend : Bool) (units offset : Nat) (data : List Byte) (tag : Nat)
  | aadd (target typ : Nat) (addends : List Nat)
  | pool (region row0 etype : Nat) (weighted : Bool) (dim : Nat) (entries : List (Nat × Nat))
  | claim (image plan q0 npos : Nat) (ext : List Nat)
  | report (status : Nat) (sat nan : Bool)
  | release
  | quench
  | hotrow (region row : Nat) (data : List Byte)
deriving DecidableEq, Repr

/-- A request frame of another tray, with what error correction finds where it reads (R518, R521). -/
structure ReqFrame where
  h : TxnHdr
  op : TxnOp
  find : EccFind
deriving DecidableEq, Repr

/-- An open transaction in the tracker (R519, R520). -/
structure Txn where
  dst : Nat
  op : TxnOp
  attempt : Nat
  start : Nat
  /-- First ESEQ and number of request frames. -/
  eseq : BitVec 16
  frames : Nat
  tcid : Nat
  slot : Nat
  gen : BitVec 16
  /-- The work it belongs to (Core.work), none for Swifort and for the dispatcher's own. -/
  work : Option Nat
  /-- The core and the placement order of the instruction that waits. -/
  core : Nat
  ord : Nat
  /-- Response frames received: part and payload. -/
  got : List (Nat × List Byte) := []
  lastPart : Option Nat := none
deriving DecidableEq, Repr

/-- What the tray sends on its fabric ports, in order: whole messages, their frames being the link layer's. -/
inductive FabOut where
  | hello (port : Nat) (heard node : Nat) (tentative : Bool)
  | lsr (port : Nat) (rec : LsrRec)
  | lctl (port : Nat) (nak : Bool) (ackSeq : BitVec 16) (cr : VcCnt)
  | resend (port : Nat) (frames : List TxFrame)
  | request (txid : BitVec 32) (attempt : Nat) (dst : Nat) (eseq lowOpen : BitVec 16) (tcid slot : Nat) (gen : BitVec 16)
      (op : TxnOp)
  | response (dst : Nat) (txid : BitVec 32) (status : Nat) (sat nan hold : Bool) (payload : List Byte)
  | credit (dst : Nat) (tcid slot : Nat) (gen : BitVec 16) (pcore ccore creg total : Nat)
  | forward (port : Nat) (frame : FwdFrame)
deriving DecidableEq, Repr

/-- A performed transaction's record (R522). -/
structure DupRec where
  src : Nat
  txid : BitVec 32
  status : Nat
  sat : Bool
  nan : Bool
deriving DecidableEq, Repr

/-- Where the tray's own address stands (R503). -/
inductive AddrSt where
  | none | tentative | firm
deriving DecidableEq, Repr

/-- The fabric. -/
structure Fab where
  ports : Tab Port := []
  node : BitVec 12 := 0
  addr : AddrSt := .none
  /-- SEQ of the tray's own record, and the record last originated. -/
  seq : BitVec 32 := 0
  own : Option LsrRec := Option.none
  withdrawn : Bool := false
  /-- The link-state database by UID. -/
  lsdb : Tab LsdbRec := []
  /-- UIDs that were reachable at the last installation (R500, R531). -/
  reach : List Nat := []
  /-- An LSDB change waits for its computation (R511); the computation is under way. -/
  dirty : Bool := false
  computing : Bool := false
  /-- The seven route tables: entries of Table 21-1 by node address. -/
  tables : Tab (Tab Nat) := []
  /-- Tables that a computation has made and not yet installed. -/
  nextTables : Tab (Tab Nat) := []
  /-- ROUTE_SRC 1: the host's set is installed; its UID of each node (R517). -/
  hostSet : Option (List (Nat × Nat)) := Option.none
  /-- The tracker by TXID, the next TXID, and the next ESEQ by destination. -/
  txns : Tab Txn := []
  nextTxid : BitVec 32 := 0
  eseqs : Tab (BitVec 16) := []
  /-- The performer: next expected ESEQ by source; frames ahead of their turn, at most 256; requests whose first frames have arrived,
  with what they have brought so far; records (R518, R521, R522). -/
  expect : Tab (BitVec 16) := []
  reorder : List ReqFrame := []
  partials : List ReqFrame := []
  dups : List DupRec := []
  /-- Credit totals that a producer core holds, with the units it has sent (R528); keyed by totKey. -/
  totals : Tab (BitVec 32 × Nat) := []
deriving DecidableEq, Repr

end Sys2Proof.Machine
end

