-- ==== Sys2Proof/Machine/StateObs.lean ====
section
/-! DEFINITION. The state of Gecko, the observation unit (25_observation.md). -/

namespace Sys2Proof.Machine

/-- A trace record (Table 25-6), its two words. -/
structure TrcRec where
  w0 : Nat
  w1 : Nat
deriving DecidableEq, Repr

/-- One pond's trace buffer, and the records dropped since its last DROP record (R593). -/
structure PondBuf where
  recs : List TrcRec := []
  dropped : Nat := 0
deriving DecidableEq, Repr

/-- Gecko (Table 25-1, Table 25-5). -/
structure Obs where
  /-- Every counter by its offset in the counter window (Tables 25-2 and 25-3). -/
  ctr : Tab (BitVec 64) := []
  /-- Latched section records by core × 16 + tag: words by index (Table 25-4). -/
  latched : Tab (Tab Nat) := []
  /-- Tenant pages by TCID: words by index (R588). -/
  pages : Tab (Tab Nat) := []
  /-- The last 16 closed records of each tenant, oldest first (R587). -/
  kept : Tab (List (Tab Nat)) := []
  tsel : Nat := 0
  trcTail : Nat := 0
  trcHead : Nat := 0
  dest : Nat := 0
  /-- Reads as LOG2 − 8 = 0 at reset (Table 25-5). -/
  log2 : Nat := 8
  hostAddr : Nat := 0
  pondMask : Nat := 0
  ponds : Tab PondBuf := []
  staging : List TrcRec := []
  /-- By pond, the records that found the staging buffer full (R594). -/
  stagingDropped : Tab Nat := []
  /-- A TIMEBASE record is due at the next start of export (R590). -/
  timebaseDue : Bool := false
deriving DecidableEq, Repr

end Sys2Proof.Machine
end

