-- ==== Sys2Proof/Machine/State.lean ====
section
/-! DEFINITION. The whole state of the tray, the reasons a step can stop, and the tray right after reset. -/

namespace Sys2Proof.Machine

/-- The reasons a step can fault. No command of the table faults: a hardware fault of the tray is a next state with
its error report (23_faults_checks_and_repair.md). The one constructor is raised by nothing. -/
inductive Fault where
  /-- Raised by no command; safe. -/
  | unreachable
deriving DecidableEq, Repr

/-- The reasons a step can be refused. -/
inductive Refusal where
  /-- A command without a meaning in this model; raised by Dispatch.lean only; safe. -/
  | notModelled (mnemonic : String)
deriving DecidableEq, Repr

/-- The state of the tray, and the queue of commands that wait. -/
structure State where
  /-- Commands that wait, first in, first out. -/
  pending : List Instr := []
  /-- Free values drawn so far: the model's own field (log entry 2). -/
  freeCtr : Nat := 0
  /-- What the tray has sent up the host link and out of its service port, in order (R137). -/
  hostOut : List OutMsg := []
  eft : Eft := {}
  pwr : Pwr := {}
  boot : Boot := {}
  host : HostLink := {}
  rings : Tab Ring := []
  mbx : Mbx := {}
  store : Store := {}
  dsp : Dsp := {}
  errs : Errs := {}
  ecc : Ecc := {}
  repairs : Tab Repair := []
  ledger : Ledger := {}
  cores : Tab Core := []
  /-- Swifort's sequencer (R298). -/
  swi : Seq := {}
  net : Net := {}
  fab : Fab := {}
  /-- What the tray has sent on its fabric ports, in order. -/
  fabOut : List FabOut := []
  obs : Obs := {}
  board : Board := {}
  /-- Memory of the scratchpads, tier A and tier B by device address (R463, R224); an unlisted byte reads zero. -/
  mem : List Host.Cell := []
deriving DecidableEq, Repr

/-- The tray right after POWER_ON: 12 V in range, tray time 0, start-up running (R92, R105). -/
def State.reset : State := {}

/-- The outcome of one step. -/
abbrev Res := Host.Outcome State Fault Refusal

end Sys2Proof.Machine
end

