-- ==== Sys2Proof/Machine/Ops.lean ====
section
/-! DEFINITION. The operations that the meanings share: counters, messages to the host, events, trace records, the
ledger engine, unit state records, error reports, and the tenants' store with the endpoint check. -/

namespace Sys2Proof.Machine

/-! ## Whether a part of the tray acts -/

/-- The tray is powered and neither frozen nor tripped. -/
def alive (s : State) : Bool := s.eft.power && !s.eft.frozen && !s.eft.tripped

/-- The ready event has been posted (R94). -/
def ready (s : State) : Bool := s.boot.fwReady

/-- Swifort runs and carries out its own actions: after the ready event, outside an activation gap and TORPOR. -/
def fwUp (s : State) : Bool :=
  alive s && ready s && (match s.boot.gap with | some g => !g.restarted | none => true)
    && (match s.pwr.power with | .torpor | .resuming _ => false | _ => true)

/-- Swifort's firmware runs: from the start of a verified image on, outside an activation gap, and in a wake from TORPOR once it
has restored its state (Tables 3-5, 4-3). -/
def swiRuns (s : State) : Bool :=
  alive s && s.boot.runFrom != .none && (match s.boot.gap with | some g => !g.restarted | none => true)
    && (match s.pwr.power with | .torpor => false | .resuming k => decide (5 ≤ k) | _ => true)

/-- The fast PLLs and the clocks CORE, NOC, TMA, TMB and OBS run (R57, Table 3-2): not past step 4 of a SLEEP entry (R66). -/
def fastClocks (s : State) : Bool := match s.pwr.power with | .active => true | .entering k => decide (k < 4) | _ => false

/-- CORE, NOC, OBS and both tiers run (Table 3-2). -/
def domainsUp (s : State) : Bool := alive s && s.pwr.power == .active

/-- BAR0 behaves as after the ready event; before it only the SYS block does (00_scope.md, At the edges). -/
def barReady (s : State) : Bool := alive s && ready s

/-- The host link controller serves requests: powered, not in TORPOR, D0 (R116). -/
def linkServes (s : State) : Bool := alive s && s.pwr.power != .torpor

/-- A host request in TORPOR makes the link leave L1, the resume sequence starts, and the request lands in HST (R72, R122). -/
def linkExit (s : State) : State :=
  if alive s && s.pwr.power == .torpor then { s with pwr.power := .resuming 0, host.l1 := false } else s

/-- A doorbell, a command or a part begins to be served, so that the idle conditions of R66 do not hold and their time starts
again. -/
def noteBusy (s : State) : State := { s with pwr.idleTicks := 0 }

/-- In SLEEP MGT runs at 500 MHz for the duration of mailbox commands and at 50 MHz else (R84). -/
def settleMgt (s : State) : State :=
  if s.pwr.power == .sleep then { s with pwr.mgtMhz := if s.mbx.reqs.isEmpty then 50 else 500 } else s

/-! ## Counters -/

/-- Adds to the counter at a window offset (Tables 25-2, 25-3). -/
def ctrAdd (s : State) (off n : Nat) : State :=
  { s with obs.ctr := tmod s.obs.ctr off 0 (· + BitVec.ofNat 64 n) }

/-- The counter at a window offset. -/
def ctr (s : State) (off : Nat) : BitVec 64 := tgetD s.obs.ctr off 0

/-- Window offset of a counter of a core (Table 25-3). -/
def coreCtr (core off : Nat) : Nat := 0x100000 + core * 0x1000 + off

/-- Window offset of a counter of a fabric port (Table 25-2). -/
def portCtr (port k : Nat) : Nat := 0x400 + 0x80 * port + 8 * k

/-! ## Messages to the host -/

/-- Sends a message up the host link; in D3hot it waits for D0 (R116). -/
def send (s : State) (m : OutMsg) : State :=
  if s.host.d3hot then { s with host.held := s.host.held ++ [m] } else { s with hostOut := s.hostOut ++ [m] }

/-- A posted write to host memory. -/
def hostWrite (s : State) (addr : Nat) (data : List Byte) : State := send s (.write addr data)

/-- The MSI-X table entry of a vector; masked at reset (log entry 4). -/
def msixEntry (s : State) (v : Nat) : BitVec 128 := tgetD s.host.msix v (1#128 <<< 96)

/-- Sends the message of a vector: its entry's data to its entry's address (R136). -/
def sendMsix (s : State) (v : Nat) : State :=
  send s (.msix v ((msixEntry s v).setWidth 64) ((msixEntry s v).extractLsb' 64 32))

/-- Raises an MSI-X vector: sent, or pending while masked; nothing when MSI-X is not enabled (R136). -/
def raiseMsix (s : State) (v : Nat) : State :=
  if !s.host.msixEnable then s
  else if s.host.msixFuncMask || (msixEntry s v).getLsbD 96 then
    (if s.host.pba.contains v then s else { s with host.pba := s.host.pba ++ [v] })
  else sendMsix s v

/-- Sets a flag of SYS_ERR (Table 5-6). -/
def sysErr (s : State) (bit : Nat) : State := { s with host.sysErr := s.host.sysErr ||| (1#6 <<< bit) }

/-- INVWR_SYS, INVWR_MBX, INVWR_DB and INVWR_OBS by number. -/
def invwrSys := 0
def invwrMbx := 1
def invwrDb := 2
def invwrObs := 3

/-! ## Free values -/

/-- Draws a free value (log entry 2). -/
def draw (s : State) (w : Nat) : BitVec w × State :=
  (Config.freeValue w s.freeCtr, { s with freeCtr := s.freeCtr + 1 })

/-- Draws `n` free bytes. -/
def drawBytes : Nat → State → List Byte × State
  | 0, s => ([], s)
  | n + 1, s =>
    let (b, s) := draw s 8
    let (bs, s) := drawBytes n s
    (b :: bs, s)

/-! ## Events (R152 to R156) -/

/-- The 32 bytes of an event record with its PHASE (Table 6-7). -/
def evBytes (e : EvRec) (phase : Bool) : List Byte :=
  leBytes 8 (e.type + b2n phase * 2 ^ 16 + (e.seq % 2 ^ 32) * 2 ^ 32) ++ leBytes 8 e.time
    ++ leBytes 8 e.p0 ++ leBytes 8 e.p1

/-- Space remains in the event queue (R155). -/
def evqSpace (s : State) : Bool :=
  s.mbx.evqEnable && decide ((s.mbx.evqTail + 4096 - s.mbx.evqHead) % 4096 < 4095)

/-- Writes one record at TAIL and raises vector 1 (R154). -/
def evqWrite (s : State) (e : EvRec) : State :=
  let s := hostWrite s (s.mbx.evqBase + 32 * s.mbx.evqTail) (evBytes e s.mbx.evqPhase)
  let wrap := s.mbx.evqTail = 4095
  let s := { s with mbx.evqTail := (s.mbx.evqTail + 1) % 4096,
                    mbx.evqPhase := if wrap then !s.mbx.evqPhase else s.mbx.evqPhase }
  raiseMsix s 1

/-- Writes backlog records while space remains, `n` bounding their number. -/
def evqDrain : Nat → State → State
  | 0, s => s
  | n + 1, s =>
    match s.mbx.backlog with
    | [] => s
    | e :: rest => if evqSpace s then evqDrain n (evqWrite { s with mbx.backlog := rest } e) else s

/-- When space returns: EVQ_OVERFLOW is raised if drops have occurred, and the backlog is written (R155). -/
def evqSpaceReturned (s : State) : State :=
  if evqSpace s then
    let s :=
      if s.mbx.drops = 0 then s
      else { s with mbx.backlog := s.mbx.backlog ++
                      [{ type := 0x00F0, seq := s.mbx.evqSeq, time := s.eft.time, p0 := s.mbx.drops % 2 ^ 32, p1 := s.mbx.firstDrop % 2 ^ 32 }],
                    mbx.evqSeq := s.mbx.evqSeq + 1, mbx.drops := 0, mbx.firstDrop := 0 }
    evqDrain 300 s
  else s

/-- Raises an event (R153): written, kept in the backlog of 256, or dropped and counted. DESIGN CHOICE: an EVQ_OVERFLOW record that waits
to be written takes one of the 256 places (R155; log entry 83). -/
def raiseEvent (s : State) (type p0 p1 : Nat) : State :=
  let e : EvRec := { type := type, seq := s.mbx.evqSeq, time := s.eft.time, p0 := p0, p1 := p1 }
  let s := { s with mbx.evqSeq := s.mbx.evqSeq + 1 }
  if s.mbx.backlog.isEmpty && evqSpace s then evqWrite s e
  else if s.mbx.backlog.length < 256 then { s with mbx.backlog := s.mbx.backlog ++ [e] }
  else { s with mbx.evqDrop := min (s.mbx.evqDrop + 1) 0xFFFFFFFF,
                mbx.firstDrop := if s.mbx.drops = 0 then e.seq else s.mbx.firstDrop,
                mbx.drops := s.mbx.drops + 1 }

/-! ## Trace records (R589 to R594) -/

/-- OBS runs and takes records (R594). -/
def obsRuns (s : State) : Bool := s.pwr.power == .active && (match s.boot.gap with | some g => !g.restarted | none => true)

/-- STAMP of a tray time (R590). -/
def stampOf (t : Nat) : Nat := (t / 4) % 2 ^ 32

/-- The pond a record goes to: that of its core, or for a tray record the lowest pond in POND_MASK (R593). -/
def trcPond (s : State) (w0 : Nat) : Option Nat :=
  if bitAt w0 14 then (maskBits s.obs.pondMask 8).head?
  else let p := bits w0 8 6 / 8; if bitAt s.obs.pondMask p then some p else none

/-- Puts a record into a pond buffer, after a DROP record when records were dropped (R593). -/
def pondPut (s : State) (p : Nat) (r : TrcRec) : State :=
  let b := tgetD s.obs.ponds p {}
  let room := 16384 - b.recs.length
  if b.dropped = 0 then
    if 0 < room then ctrAdd { s with obs.ponds := tset s.obs.ponds p { b with recs := b.recs ++ [r] } } 0x808 1
    else ctrAdd { s with obs.ponds := tset s.obs.ponds p { b with dropped := 1 } } 0x810 1
  else
    let d : TrcRec := { w0 := 0x14 + 2 ^ 14 + stampOf s.eft.time * 2 ^ 32, w1 := b.dropped % 2 ^ 32 + 2 ^ (32 + p) }
    if 1 < room then
      ctrAdd { s with obs.ponds := tset s.obs.ponds p { recs := b.recs ++ [d, r], dropped := 0 } } 0x808 2
    else if 0 < room then
      let s := ctrAdd { s with obs.ponds := tset s.obs.ponds p { recs := b.recs ++ [d], dropped := 1 } } 0x808 1
      ctrAdd s 0x810 1
    else ctrAdd { s with obs.ponds := tset s.obs.ponds p { b with dropped := b.dropped + 1 } } 0x810 1

/-- Takes a record that passed the filters: into its pond buffer, or the staging buffer while OBS is stopped. -/
def trcTake (s : State) (r : TrcRec) : State :=
  match trcPond s r.w0 with
  | none => s
  | some p =>
    if obsRuns s then pondPut s p r
    else if s.obs.staging.length < 64 then { s with obs.staging := s.obs.staging ++ [r] }
    else ctrAdd { s with obs.stagingDropped := tmod s.obs.stagingDropped p 0 (· + 1) } 0x810 1

/-- Raises a tray trace record. -/
def traceTray (s : State) (type arg : Nat) : State :=
  trcTake s { w0 := type + 2 ^ 14 + stampOf s.eft.time * 2 ^ 32, w1 := arg }

/-- Raises a record of a core for the tenants that occupy it (R591). -/
def traceCore (s : State) (core : Nat) (tcids : List Nat) (tag type arg : Nat) : State :=
  let w0 := type + core * 2 ^ 8 + b2n (decide (1 < tcids.length)) * 2 ^ 15 + tcids.headD 0 * 2 ^ 16 + tag * 2 ^ 28
    + stampOf s.eft.time * 2 ^ 32
  match trcPond s w0 with
  | none => s
  | some _ =>
    if tcids.all (fun t => (tgetD s.store.tenants t {}).observe) then trcTake s { w0 := w0, w1 := arg }
    else ctrAdd s 0x818 1

/-! ## Poisoned words -/

/-- Words written whole lose their poison, and are known as rewritten (R246, R248). -/
def cure (s : State) (cured : Nat → Bool) : State :=
  let s := if s.ecc.latent.isEmpty then s else { s with ecc.latent := tkeep s.ecc.latent (fun w _ => !cured w) }
  let ws := s.ecc.poison.filter cured
  if ws.isEmpty then s
  else { s with ecc.poison := s.ecc.poison.filter (fun w => !cured w),
                ecc.rewritten := s.ecc.rewritten ++ ws.filter (fun w => !s.ecc.rewritten.contains w) }

/-! ## The ledger engine (24_change_ledger.md) -/

/-- HELD. -/
def ledgerHeld (s : State) : Nat := s.ledger.next - s.ledger.oldest

/-- The ledger is full. -/
def ledgerFull (s : State) : Bool := decide (262144 ≤ ledgerHeld s)

/-- Device address of the entry with a sequence number (R569). -/
def ledgerAddr (seq : Nat) : Nat := 0x02FC0000000 + 64 * (seq % 262144)

/-- The anchor of a chain: SHA-256 of UID, CHAIN and the image digest (R573). -/
def ledgerAnchorBytes (s : State) : List Byte :=
  leBytes 8 Config.uid.toNat ++ leBytes 8 s.ledger.chain ++ padTo 48 s.ledger.openDigest

/-- An entry's fields (Table 24-1); `value` is its eight bytes. -/
structure LEntry where
  origin : Nat
  tcid : Nat := 0
  kind : Nat
  part : Nat := 0
  slot : Nat := 0
  object : Nat := 0
  value : List Byte
deriving DecidableEq, Repr

/-- The 64 bytes of an entry. -/
def ledgerBytes (e : LEntry) (seq time : Nat) (prev : List Byte) : List Byte :=
  leBytes 8 (seq % 2 ^ 48 + e.origin * 2 ^ 48 + e.tcid * 2 ^ 52) ++ leBytes 8 time
    ++ leBytes 8 (e.kind + (e.part % 256) * 2 ^ 16 + e.slot * 2 ^ 24 + (e.object % 2 ^ 32) * 2 ^ 32)
    ++ padTo 8 e.value ++ padTo 32 prev

/-- LEDGER_WARN and LEDGER_FULL after an append (R575). -/
def ledgerEvents (s : State) : State :=
  let s :=
    if ledgerHeld s = 235930 && s.ledger.warnArmed then
      raiseEvent { s with ledger.warnArmed := false } 0x0040 (ledgerHeld s) 0
    else s
  if ledgerFull s then raiseEvent s 0x0041 (ledgerHeld s) 0 else s

/-- Appends an entry (R574), its words written whole (R470), and posts LEDGER_WARN and LEDGER_FULL (R575). A full ledger takes none; only the later
entries of one command or action can meet that (log entry 9). -/
def ledgerAppend (s : State) (e : LEntry) : State :=
  if ledgerFull s then s else
  let seq := s.ledger.next
  let prev := if seq = 0 then sha256 (ledgerAnchorBytes s) else s.ledger.head
  let bytes := ledgerBytes e seq s.eft.time prev
  let s := cure s (fun w => decide (ledgerAddr seq ≤ w) && decide (w < ledgerAddr seq + 64))
  ledgerEvents { s with mem := mwrite s.mem (ledgerAddr seq) bytes, ledger.next := seq + 1, ledger.head := sha256 bytes }

/-- Appends Swifort's or the fabric's own entry; while the ledger is full it is counted instead (R576, R577). -/
def ledgerOwn (s : State) (e : LEntry) : State :=
  if ledgerFull s then
    ctrAdd { s with ledger.suppressedAt := if s.ledger.suppressed = 0 then s.eft.time else s.ledger.suppressedAt,
                    ledger.suppressed := s.ledger.suppressed + 1 } 0x800 1
  else ledgerAppend s e

/-- An FW_SELF entry (Table 24-2). -/
def ledgerSelf (s : State) (kind tcid object value : Nat) : State :=
  ledgerOwn s { origin := 2, tcid := tcid, kind := kind, object := object, value := leBytes 8 value }

/-- One entry of a mailbox command (R161): VALUE is the first 8 bytes of the payload's SHA-256. -/
def ledgerCmd (s : State) (slot : Nat) (r : Req) (tcid object part : Nat) : State :=
  ledgerAppend s { origin := 1, tcid := tcid, kind := r.opcode, part := part, slot := slot, object := object,
                   value := (sha256 r.payload).take 8 }

/-! ## Units (R166, R167) -/

def coreUnit (c : Nat) : Nat := 0x1000 + c
def pondUnit (p : Nat) : Nat := 0x2000 + p
def portUnit (p : Nat) : Nat := 0x5000 + p

/-- All unit identifiers in the order of Table 7-1. -/
def allUnits : List Nat :=
  (List.range 64).map coreUnit ++ (List.range 8).map pondUnit ++ (List.range 4).map (0x3000 + ·)
    ++ (List.range 32).map (0x4000 + ·) ++ (List.range 6).map portUnit

/-- A unit's record. -/
def unitRec (s : State) (u : Nat) : UnitRec := tgetD s.errs.units u {}

/-- A unit is ONLINE and GOOD (R206). -/
def unitGood (s : State) (u : Nat) : Bool := (unitRec s u).admin == .online && (unitRec s u).health == .good

def adminCode : Admin → Nat
  | .online => 0 | .draining => 1 | .offline => 2

def healthCode : Health → Nat
  | .good => 0 | .suspect => 1 | .fault => 2

/-- Hardware changes a unit's HEALTH: GEN advances and Swifort is notified; SUSPECT over FAULT and an equal value change
nothing (R167). -/
def setHealth (s : State) (u : Nat) (h : Health) (notify : Bool) : State :=
  let r := unitRec s u
  if r.health = h || (r.health = .fault && h = .suspect) then s
  else
    let g := r.gen + 1
    let s := { s with errs.units := tset s.errs.units u { r with health := h, gen := g } }
    if notify then { s with errs.notes := s.errs.notes ++ [{ unit := u, old := r.health, new := h, gen := g }] } else s

/-- Writes a unit's ADMIN; a change advances GEN (R167). -/
def writeAdmin (s : State) (u : Nat) (a : Admin) : State :=
  let r := unitRec s u
  if r.admin = a then s
  else { s with errs.units := tset s.errs.units u { r with admin := a, gen := r.gen + 1 } }

/-- Swifort changes ADMIN on its own: with an FW_SELF entry (R560). -/
def fenceAdmin (s : State) (u : Nat) (a : Admin) : State :=
  let r := unitRec s u
  if r.admin = a then s
  else
    let s := writeAdmin s u a
    ledgerSelf s 0x8004 0 u (adminCode a + 4 * adminCode r.admin + (unitRec s u).gen.toNat * 2 ^ 16)

/-! ## Error reports (R549, R554) -/

/-- Latches a report into the queue of the block that detected it; the 17th is lost and counted. -/
def latch (s : State) (queue : Nat) (r : ErrRep) : State :=
  let q := tgetD s.errs.queues queue []
  if q.length < 16 then { s with errs.queues := tset s.errs.queues queue (q ++ [r]) }
  else { s with errs.lost := s.errs.lost + 1 }

/-- A report of a unit, with the unit's state after the fault (Table 23-2). -/
def report (s : State) (cls scope unit tcid status addr d0 d1 : Nat) : ErrRep :=
  let u := unitRec s unit
  { cls := cls, scope := scope, unit := unit, time := s.eft.time, tcid := tcid, status := status, gen := u.gen,
    health := u.health, admin := u.admin, addr := addr, d0 := d0, d1 := d1 }

/-- Adds the job's slot, generation, ring and SQ_INDEX to a report. -/
def withJob (s : State) (r : ErrRep) (job : Option Nat) : ErrRep :=
  match job with
  | none => r
  | some j => match tget s.dsp.jobs j with
    | none => r
    | some jr => { r with slot := j, jgen := jr.gen, ring := jr.ring, sqIndex := jr.sqIndex }

/-- Counts a corrected error of a bank (core × 32 + bank) or of a controller (0x10000 + number), and writes a
CORR_STORM report above 1,000 within one second, at most one per minute (R554). -/
def corrected (s : State) (key : Nat) : State :=
  let (ts, last) := tgetD s.ecc.corr key ([], none)
  let ts := s.eft.time :: ts.filter (fun t => decide (s.eft.time < t + 1000000000))
  let due := decide (1000 < ts.length) && (match last with | none => true | some l => decide (l + 60000000000 ≤ s.eft.time))
  let s := { s with ecc.corr := tset s.ecc.corr key (ts, if due then some s.eft.time else last) }
  if due then
    let unit := if key < 0x10000 then coreUnit (key / 32) else ctlUnit (key - 0x10000)
    let d0 := if key < 0x10000 then key % 32 else 256 + (if key - 0x10000 < 4 then 0 else key - 0x10000 - 4)
    latch s unit (report s 0x0F 0 unit 0 0 0 d0 ts.length)
  else s

/-! ## The tenants' store -/

/-- A tenant's context. -/
def tenant (s : State) (t : Nat) : Tenant := tgetD s.store.tenants t {}

/-- A tenant is ACTIVE. -/
def tenantActive (s : State) (t : Nat) : Bool := (tenant s t).state == .active

/-- A tenant is ACTIVE, SUSPENDED or DESTROYING. -/
def tenantLive (s : State) (t : Nat) : Bool := (tenant s t).state != .free

/-- MiB that a size occupies, rounded up (Table 2-2). -/
def mib (size : Nat) : Nat := cdiv size 0x100000

/-- A bank's record by core × 32 + bank; a configuration bank is tagged 0x000 with RES = 1 (R31, R225), and a bank without a tag
is OFF (R75). -/
def bank (s : State) (b : Nat) : Bank :=
  tgetD s.store.banks b { res := b % 32 == 31, power := if b % 32 = 31 then .on else .off }

/-- Banks tagged to a TCID (SP_USED). -/
def spUsed (s : State) (t : Nat) : Nat := s.store.banks.countP (fun p => p.2.owner == t)

/-- TA_USED in MiB: regions created in tier A, tier A copies, and hot-row replicas (Table 2-2). -/
def taUsed (s : State) (t : Nat) : Nat :=
  s.store.regions.foldl (fun n p =>
    if p.2.owner = t then n + (if p.2.tierA then mib p.2.size else 0) + (if p.2.copy.isSome then mib p.2.size else 0)
    else n) 0
    + s.store.replicas.foldl (fun n p => if p.1 / 2 ^ 32 = t then n + mib p.2.size else n) 0

/-- TB_USED in MiB. -/
def tbUsed (s : State) (t : Nat) : Nat :=
  s.store.regions.foldl (fun n p => if p.2.owner = t && !p.2.tierA then n + mib p.2.size else n) 0

/-- True when two ranges overlap. -/
def overlap (a n b m : Nat) : Bool := decide (a < b + m) && decide (b < a + n)

/-- Ranges of tier memory in use: regions, copies, commons objects, replicas, fills and retired granules. -/
def usedRanges (s : State) : List (Nat × Nat) :=
  s.store.regions.flatMap (fun p => (p.2.base, p.2.size) :: (match p.2.copy with | some c => [(c.base, p.2.size)] | none => []))
    ++ s.store.commons.flatMap (fun p => [(p.2.baseB, p.2.size), (p.2.baseA, p.2.size)])
    ++ s.store.replicas.map (fun p => (p.2.base, p.2.size))
    ++ s.store.fills.map (fun f => (f.base, f.size))
    ++ s.store.retired.map (fun g => (g * 0x10000, 0x10000))

/-- First and one-past-last address of a tier outside its reserve (R35). -/
def tierLo (tierA : Bool) : Nat := if tierA then 0 else 0x10000000000
def tierHi (tierA : Bool) : Nat := if tierA then 0x02FC0000000 else 0x1FF00000000

/-- The lowest place of a tier that holds `size` bytes (the choice of a place is the model's, log entry 8). -/
def allocIn (s : State) (tierA : Bool) (size : Nat) : Option Nat :=
  let used := (usedRanges s).filter (fun r => decide (tierLo tierA ≤ r.1) && decide (r.1 < tierHi tierA))
  minBy id ((tierLo tierA :: used.map (fun r => r.1 + r.2)).filter (fun c =>
    decide (c + size ≤ tierHi tierA) && used.all (fun r => !overlap c size r.1 r.2)))

/-- A granule's tag (Table 19-2), as Swifort has set it under R469 and R480. -/
def gtag (s : State) (g : Nat) : GTag :=
  let a := g * 0x10000
  let hit (b n : Nat) : Bool := decide (b ≤ a) && decide (a < b + n)
  let ret := s.store.retired.contains g
  if s.store.fills.any (fun f => hit f.base f.size) then { retired := ret, fill := true }
  else if s.store.commons.any (fun p => hit p.2.baseB p.2.size || (p.2.sealed && hit p.2.baseA p.2.size)) then
    { owner := 0xFFF, retired := ret }
  else match s.store.regions.find? (fun p => hit p.2.base p.2.size) with
    | some p => { owner := p.2.owner, wr := p.2.writable, retired := ret }
    | none => match s.store.regions.find? (fun p => match p.2.copy with | some c => c.done && hit c.base p.2.size | none => false) with
      | some p => { owner := p.2.owner, retired := ret }
      | none => match s.store.replicas.find? (fun p => hit p.2.base p.2.size) with
        | some p => { owner := p.1 / 2 ^ 32, retired := ret }
        | none => { retired := ret }

/-- Table 2-5 for one target: accessor, owner, and whether the target accepts the owner's writes. -/
def accessOk (tcid owner : Nat) (writable write : Bool) : Bool :=
  if tcid = 0 then true
  else if owner = tcid then !write || writable
  else if owner = 0xFFF then !write
  else false

/-- What the endpoint check answers for an access. -/
inductive EndPoint where
  | ok
  /-- Refused, with the owner found. -/
  | refused (owner : Nat)
  /-- No memory level occupies the address (R464). -/
  | hole
deriving DecidableEq, Repr

/-- The check of one byte range that lies in one granule or bank. -/
def checkAt (s : State) (tcid a : Nat) (write : Bool) : EndPoint :=
  if inTierA a || inTierB a then
    let t := gtag s (a / 0x10000)
    -- the ledger's range takes writes from the ledger engine only (R569)
    if accessOk tcid t.owner t.wr write && !(write && decide (0x02FC0000000 ≤ a) && decide (a ≤ 0x02FC0FFFFFF)) then .ok
    else .refused t.owner
  else if inSp a then
    let b := bank s (spBank a)
    -- a bank that is not ON takes no access (R74, R252)
    if accessOk tcid b.owner (!b.res) write && b.power == .on then .ok else .refused b.owner
  else .hole

/-- The endpoint check of `n` bytes from `a` (R45, R468): every granule and bank that they touch must pass. -/
def endpoint (s : State) (tcid a n : Nat) (write : Bool) : EndPoint :=
  ((List.range ((a + n - 1) / 0x10000 - a / 0x10000 + 1)).map (fun i => (a / 0x10000 + i) * 0x10000)).foldl
    (fun r g => match r with | .ok => checkAt s tcid (max a g) write | other => other) .ok

/-! ## Cores, sequencers and reservations -/

/-- A core. -/
def core (s : State) (c : Nat) : Core := tgetD s.cores c {}

def setCore (s : State) (c : Nat) (k : Core) : State := { s with cores := tset s.cores c k }

/-- Changes a core. -/
def modCore (s : State) (c : Nat) (f : Core → Core) : State := setCore s c (f (core s c))

/-- The sequencer of an agent: of core `ag`, or Swifort's for 64. -/
def seqOf (s : State) (ag : Nat) : Seq := if ag < 64 then (core s ag).seq else s.swi

def setSeq (s : State) (ag : Nat) (q : Seq) : State :=
  if ag < 64 then modCore s ag (fun k => { k with seq := q }) else { s with swi := q }

/-- A sequencer's reservation covers a byte of the range. -/
def resHit (q : Seq) (a n : Nat) : Bool :=
  match q.res with
  | some g => decide (g * 64 < a + n) && decide (a < g * 64 + 64)
  | none => false

/-- A sequencer without its reservation, when the range meets it. -/
def dropRes (q : Seq) (a n : Nat) : Seq := if resHit q a n then { q with res := none, hold := false } else q

/-- A store to a range is performed: every other agent's reservation on it is lost (R268). -/
def breakRes (s : State) (by_ : Option Nat) (a n : Nat) : State :=
  { s with cores := tmap s.cores (fun c k => if by_ = some c then k else { k with seq := dropRes k.seq a n }),
           swi := if by_ = some 64 then s.swi else dropRes s.swi a n }

/-- No end point holds off stores for a reserved load (R270). -/
def noHold (s : State) : Bool := s.cores.all (fun p => !p.2.seq.hold) && !s.swi.hold

/-- A sequencer has lost, by a store of another agent, a reservation for which its end point still held stores off. -/
def holdLost (q r : Seq) : Bool := q.hold && q.res.isSome && r.res.isNone && q.run == r.run

/-- A step of agent `ag` (none: one without a reservation) has stored into a granule that an end point holds off for another
agent (R270). -/
def holdBroken (ag : Option Nat) (s t : State) : Bool :=
  s.cores.any (fun p => ag != some p.1 && holdLost (core s p.1).seq (core t p.1).seq) || (ag != some 64 && holdLost s.swi t.swi)

/-- The effect of a step that stores, held off while a reserved load's 128 cycles last on a granule that it writes: the step waits
(R270). -/
def waitHold (ag : Option Nat) (s t : State) : State := if noHold s || !holdBroken ag s t then t else s

/-! ## Writing memory with poison (R246, R470, R472) -/

/-- The poisoned words among those that `n` bytes from `a` touch. -/
def poisonedIn (s : State) (a n : Nat) : List Nat := (wordsOf a n).filter (fun w => s.ecc.poison.contains w)

/-- Puts bytes into memory: a word covered whole loses its poison, a poisoned word covered in part is not written. Answers whether such a
word was met. -/
def memPut (s : State) (a : Nat) (ds : List Byte) : State × Bool :=
  let whole := wholeWordsOf a ds.length
  let bad := (poisonedIn s a ds.length).filter (fun w => !whole.contains w)
  let s := cure s (fun w => whole.contains w)
  if bad.isEmpty then ({ s with mem := mwrite s.mem a ds }, false)
  else
    let idx := List.range ds.length
    ({ s with mem := idx.foldl (fun m i => if bad.contains ((a + i) / 8 * 8) then m else mset m (a + i) (ds.getD i 0)) s.mem }, true)

/-- A store of an agent (none: one without a reservation) is performed: `memPut`, and other agents' reservations on the bytes are lost
(R268). -/
def memWriteBy (s : State) (by_ : Option Nat) (a : Nat) (ds : List Byte) : State × Bool := memPut (breakRes s by_ a ds.length) a ds

def memWrite (s : State) (a : Nat) (ds : List Byte) : State × Bool := memWriteBy s none a ds

/-- Reads bytes; a poisoned word reads as zeros (R246, R470). -/
def memRead (s : State) (a n : Nat) : List Byte :=
  if (poisonedIn s a n).isEmpty then mread s.mem a n
  else (List.range n).map (fun i => if s.ecc.poison.contains ((a + i) / 8 * 8) then 0 else mget s.mem (a + i))

/-- Zero-fills a range: every word is written with valid check bits, so poison goes (R50, R480). -/
def memZero (s : State) (a n : Nat) : State :=
  let s := cure (breakRes s none a n) (fun w => decide (a ≤ w) && decide (w < a + n))
  { s with mem := mzero s.mem a n }

/-- Copies a range over a zeroed destination. -/
def memCopy (s : State) (src dst n : Nat) : State :=
  let s := memZero s dst n
  { s with mem := mcopy s.mem src dst n }

end Sys2Proof.Machine
end

