-- ==== Sys2Proof/Machine/CoreBase.lean ====
section
/-! DEFINITION. What every part of a core shares: the counters of its section record, the closing of a record, circular
regions, and stopping a core at a quench (09, R236 to R245; 11, R297; 17, R435; 18, R451 to R455; 25, R586 to R588). -/

namespace Sys2Proof.Machine

/-! ## Work: jobs of this tray and parts of jobs of other trays -/

/-- The work number of a remote part. -/
def partWork (origin slot q0 : Nat) : Nat := 8192 + (origin * 8192 + slot) * 64 + q0

def RPart.work (p : RPart) : Nat := partWork p.origin p.slot p.q0

/-- The number that stands for a work in the error record of an access by a job of another tray: TCID, slot and generation. -/
def accessWork (tcid slot : Nat) (gen : BitVec 16) : Nat := 2 ^ 40 + tcid % 4096 + slot % 8192 * 2 ^ 12 + gen.toNat * 2 ^ 25

def isAccess (w : Nat) : Bool := decide (2 ^ 40 ≤ w)

def isPart (w : Nat) : Bool := decide (8192 ≤ w)

/-- The remote part of a work number. -/
def partOf (s : State) (w : Nat) : Option RPart := s.dsp.parts.find? (fun p => p.work == w)

/-- Changes a remote part. -/
def modPart (s : State) (w : Nat) (f : RPart → RPart) : State :=
  { s with dsp.parts := s.dsp.parts.map (fun p => if p.work = w then f p else p) }

/-- TCID of a work. -/
def workTcid (s : State) (w : Nat) : Nat :=
  if isAccess w then bits w 0 12
  else if isPart w then (match partOf s w with | some p => p.tcid | none => 0)
  else match tget s.dsp.jobs w with | some j => j.tcid | none => 0

/-- Job slot and generation that the work's operations carry (R212): the origin's. -/
def workSlot (s : State) (w : Nat) : Nat :=
  if isAccess w then bits w 12 13 else if isPart w then (match partOf s w with | some p => p.slot | none => 0) else w

def workGen (s : State) (w : Nat) : BitVec 16 :=
  if isAccess w then BitVec.ofNat 16 (bits w 25 16)
  else if isPart w then (match partOf s w with | some p => p.gen | none => 0)
  else match tget s.dsp.jobs w with | some j => j.gen | none => 0

def workTag (s : State) (w : Nat) : Nat :=
  if isPart w then (match partOf s w with | some p => p.tag | none => 0)
  else match tget s.dsp.jobs w with | some j => j.tag | none => 0

def workImage (s : State) (w : Nat) : Nat :=
  if isPart w then (match partOf s w with | some p => p.image | none => 0)
  else match tget s.dsp.jobs w with | some j => j.image | none => 0

def workPlan (s : State) (w : Nat) : Nat :=
  if isPart w then (match partOf s w with | some p => p.plan | none => 0)
  else match tget s.dsp.jobs w with | some j => j.plan | none => 0

def workRound (s : State) (w : Nat) : Nat :=
  if isPart w then (match partOf s w with | some p => p.round | none => 0) else match tget s.dsp.jobs w with | some j => j.round | none => 0

/-- Chain positions and cores of a work on this tray. -/
def workChain (s : State) (w : Nat) : Tab Nat :=
  if isPart w then (match partOf s w with
    | some p => (List.range p.cores.length).map (fun i => (p.q0 + i, p.cores.getD i 0))
    | none => [])
  else match tget s.dsp.jobs w with | some j => j.chain | none => []

/-- The work is still admitted and not being quenched. -/
def workLive (s : State) (w : Nat) : Bool :=
  if isPart w then (match partOf s w with | some p => p.quench.isNone && p.status = 0 | none => false)
  else match tget s.dsp.jobs w with | some j => j.quench.isNone | none => false

/-- The works that run together with a work: the members of its co-batch group that are still admitted, or itself. A slot that another
job has taken since is no member. -/
def members (s : State) (w : Nat) : List Nat :=
  if isPart w then [w]
  else match tget s.dsp.jobs w with
    | some j => if j.group.isEmpty then [w]
        else j.group.filter (fun g => match tget s.dsp.jobs g with | some x => x.group == j.group | none => false)
    | none => []

/-- A work or another member of its group is still admitted and not being quenched: what they run together goes on (R44). -/
def groupLive (s : State) (w : Nat) : Bool := (members s w).any (workLive s)

/-- The works that run on a core. -/
def coreWorks (s : State) (c : Nat) : List Nat :=
  match (core s c).work with
  | some w => members s w
  | none => []

/-- TCIDs that occupy a core, for trace and records. -/
def coreTcids (s : State) (c : Nat) : List Nat := (coreWorks s c).map (workTcid s)

/-- The work of a core whose TCID is `t`. -/
def workOfTcid (s : State) (c t : Nat) : Option Nat := (coreWorks s c).find? (fun w => workTcid s w == t)

/-! ## Counters of the section record (Table 25-4) -/

/-- The cumulative core counter behind a word of a section record (Table 25-3). -/
def recOff (word : Nat) : Option Nat :=
  match word with
  | 8 => some 0x40 | 9 => some 0x48 | 10 => some 0x100 | 11 => some 0x80 | 12 => some 0xC0 | 13 => some 0x180
  | 14 => some 0x108
  | 16 => some 0x110 | 17 => some 0x118 | 18 => some 0x120 | 19 => some 0x128 | 20 => some 0x130 | 21 => some 0x138
  | 22 => some 0x140
  | w => if 24 ≤ w && w ≤ 34 then some (0x188 + 8 * (w - 24)) else none

/-- Names of the words. -/
def wARR := 8
def wPRELOAD := 9
def wMRG := 10
def wDRN := 11
def wVEC := 12
def wGTH := 13
def wCEN := 14

/-- Counts into the open record of a core and into the core's counter. -/
def count (s : State) (c word n : Nat) : State :=
  let k := core s c
  let s := if k.work.isSome then
      setCore s c { k with recs := tmod k.recs k.chnCur [] (fun r => tmod r word 0 (fun x => (x + n) % 2 ^ 64)) }
    else s
  match recOff word with
  | some off => ctrAdd s (coreCtr c off) n
  | none => s

/-- Counts a core counter that is in no record. -/
def countCore (s : State) (c off n : Nat) : State := ctrAdd s (coreCtr c off) n

/-- Counts stall cycles: cause code, waiter (0 the sequencer, else the ENGINE code). -/
def countStall (s : State) (c code waiter n : Nat) : State :=
  let s := count s c (64 + code) n
  ctrAdd (ctrAdd s (coreCtr c (0x400 + 8 * code)) n) (coreCtr c (0x600 + 0x100 * waiter + 8 * code)) n

/-- A wait whose number of cycles a rule gives: it is counted, and a run of 4,096 cycles is traced at that point and at its end (R458,
Table 25-7). -/
def stall (s : State) (c code waiter n : Nat) : State :=
  if n = 0 then s
  else
    let s := countStall s c code waiter n
    if n < 4096 then s
    else
      let s := traceCore s c (coreTcids s c) (core s c).chnCur 0x05 (code + waiter * 2 ^ 8)
      traceCore s c (coreTcids s c) (core s c).chnCur 0x06 (code + waiter * 2 ^ 8 + n % 2 ^ 48 * 2 ^ 16)

/-- Cause codes of Table 18-3 whose waits depend on what happens in single CORE cycles, with the waiters that each is charged to (0 the
sequencer). No rule gives their numbers (log entry 11). -/
def openStalls : List (Nat × List Nat) :=
  [(0x01, [0]), (0x05, [1]), (0x07, [1, 2, 3, 4, 5, 6, 7]), (0x0A, [4]), (0x0B, [0, 1, 2, 3, 4, 5, 6, 7]), (0x0C, [1, 2, 3, 4, 5, 6, 7]),
   (0x0D, [1, 2, 3, 4, 5, 6, 7]), (0x0E, [2, 7]), (0x0F, [7]), (0x10, [5]), (0x11, [5]), (0x12, [0]), (0x13, [0]), (0x14, [0])]

/-- Counts the waits of a section whose numbers no rule gives: free values, drawn when its record closes (R231, R240, R243, R457; log
entry 11). -/
def freeStalls (s : State) (c : Nat) : State :=
  let ps := openStalls.flatMap (fun e => e.2.map (fun w => (e.1, w)))
  let (v, s) := draw s (48 * ps.length)
  (List.range ps.length).foldl (fun s i =>
    countStall s c (ps.getD i (0, 0)).1 (ps.getD i (0, 0)).2 (bits v.toNat (48 * i) 48)) s

/-- Adds words w8 to w84 of a record to a tenant's page (R588). -/
def pageRec (s : State) (t : Nat) (r : Tab Nat) : State :=
  if (tenant s t).state = .free then s
  else { s with obs.pages := tmod s.obs.pages t []
                  (fun p => r.foldl (fun p e => if 8 ≤ e.1 && e.1 ≤ 84 then tmod p e.1 0 (fun x => (x + e.2) % 2 ^ 64) else p) p) }

/-- Keeps a copy of a closed record for a tenant: the last 16 (R587). -/
def keepRec (s : State) (t : Nat) (r : Tab Nat) : State :=
  if (tenant s t).state = .free then s
  else { s with obs.kept := tmod s.obs.kept t [] (fun l => (l ++ [r]).drop (l.length + 1 - 16)) }

/-- The lower bound on SEC_CYCLES that a record's counters give (R456). -/
def secBound (r : Tab Nat) : Nat :=
  max (tgetD r wARR 0 + tgetD r wPRELOAD 0) (max (max (tgetD r wDRN 0) (tgetD r wVEC 0))
    (max (max (tgetD r wGTH 0) (tgetD r wCEN 0)) (cdiv (tgetD r wMRG 0) 4)))

/-- Closes the record of a core's current work: Gecko latches it, and each member's page and records take it (R451, R455,
R586 to R588). SEC_CYCLES counts CORE cycles, of which the model has none: at least the bound of R456, and by how much more is a free value, as the waits that no rule numbers are (log
entry 11). -/
def closeRec (s : State) (c : Nat) (incomplete : Bool) : State :=
  match (core s c).work with
  | none => s
  | some w =>
    let s := freeStalls s c
    let k := core s c
    let (extra, s) := draw s 48
    let cyc := secBound (tgetD k.recs k.chnCur []) + extra.toNat
    let tcids := coreTcids s c
    let cob := decide (1 < tcids.length)
    let w0 (t : Nat) : Nat := t + k.chnCur * 2 ^ 12 + c * 2 ^ 16 + 2 ^ 22 + b2n cob * 2 ^ 23 + b2n incomplete * 2 ^ 24
      + (match k.sec with | some (_, i) => i | none => 0) % 256 * 2 ^ 32 + workPlan s w % 64 * 2 ^ 40
      + workRound s w % 8 * 2 ^ 48
    let r := tgetD k.recs k.chnCur []
    let r := tset (tset (tset (tset (tset (tset r 0 (w0 (tcids.headD 0))) 1
      (workImage s w + workSlot s w * 2 ^ 32 + (workGen s w).toNat * 2 ^ 48)) 2
      (k.ext.getD 0 0 + k.ext.getD 1 0 * 2 ^ 32)) 3 (k.ext.getD 2 0 + k.ext.getD 3 0 * 2 ^ 32)) 4 s.eft.time) 5 cyc
    let s := setCore s c { k with recs := tset k.recs k.chnCur [] }
    let s := { s with obs.latched := tset s.obs.latched (c * 16 + k.chnCur) r }
    let s := tcids.foldl (fun s t => keepRec (pageRec s t r) t (tset r 0 (w0 t))) s
    traceCore s c tcids k.chnCur 0x03 (cyc % 2 ^ 48 + b2n incomplete * 2 ^ 48)

/-! ## Circular regions -/

/-- A region with its head, tail and tokens reset (R245). -/
def Circ.reset (r : Circ) : Circ := { r with head := 0, tail := 0, toks := [], total := 0 }

def resetCircs (k : Core) : Core := { k with circ := tmap k.circ (fun _ r => r.reset) }

/-! ## Stopping a core -/

/-- A result, acknowledgement, write or credit of a work that is quenched or whose slot has advanced its generation is discarded and counted
(R212, R44; log entry 37). -/
def lateDrop (s : State) : State := ctrAdd s 0x0020 1

/-- What a work has on its way still counts: it, or a member of its group, is live under that generation (R212). -/
def flightLive (s : State) (w : Nat) (gen : BitVec 16) : Bool := groupLive s w && workGen s w == gen

/-- A work's next frame takes the same generation: what its last one still had on its way has ended with every write suppressed before the
units acknowledged (R214, R219). -/
def endFlight (s : State) (w : Nat) : State :=
  { s with net := { adds := s.net.adds.filter (fun a => a.work != w), toks := s.net.toks.filter (fun t => t.work != w),
                    creds := s.net.creds.filter (fun r => r.work != w) },
           fab.txns := s.fab.txns.filter (fun p => p.2.work != some w) }

/-- Credits for a core's regions are discarded by their producers (R245). -/
def dropCredsOf (s : State) (c : Nat) : State :=
  { s with cores := tmap s.cores (fun _ k => { k with creds := k.creds.filter (fun z => z.core != c) }) }

/-- A core after a quench: its sequencer stands still, its queues and buffers are empty, its regions are reset, its
credits are gone, its section is no longer loaded (R214, R229, R245, R293, R297, R386, R399, R411, R449). -/
def stoppedCore (k : Core) : Core :=
  { resetCircs k with
      seq := { k.seq with run := .idle, sb := [], early := [], cb := [], res := none, hold := false, since := 0,
                              defer := 0, begun := false },
      gb := [], queues := [], rngs := [], pend := [], passes := [], merge := none, gather := none, win := [], creds := [],
      feeds := [], sec := none, work := none, drnStatus := k.drnStatus / 2 * 2 }

/-- The totals that a core holds as a producer for regions of other trays are discarded (R245, R528). -/
def dropTotals (s : State) (c : Nat) : State := { s with fab.totals := s.fab.totals.filter (fun p => p.1 / 2 ^ 22 != c) }

/-- Stops a core: its record closes INCOMPLETE, and nothing of its work goes on. What it has on its way arrives late and is discarded
(R212, R245). -/
def coreStop (s : State) (c : Nat) : State :=
  let s := closeRec s c true
  dropTotals (dropCredsOf (setCore s c (stoppedCore (core s c))) c) c

/-- Stops the cores of a chain for a work that is quenched. A core on which another work runs keeps running; one on which a
co-batch group with other living members runs does too (R44). -/
def stopChain (s : State) (w : Nat) : State :=
  (workChain s w).foldl (fun s p =>
    match (core s p.2).work with
    | none => if s.dsp.jobs.any (fun e => e.1 != w && e.2.quench.isNone && e.2.chain.any (fun q => q.2 == p.2))
          || s.dsp.parts.any (fun x => x.work != w && x.status = 0 && x.quench.isNone && x.cores.contains p.2) then s
        else coreStop s p.2
    | some v =>
      let ms := members s v
      if ms.contains w then
        (if ms.any (fun m => m != w && workLive s m) then s else coreStop s p.2)
      else s) s

end Sys2Proof.Machine
end

