-- ==== Sys2Proof/Machine/FabOps.lean ====
section
/-! DEFINITION. Sending on the fabric: output queues, link credits and replay buffers of a port (20, R486 to R491), the
route tables (21, R509, R510) and the tracker of transactions (R518 to R520). -/

namespace Sys2Proof.Machine

/-- A fabric port. -/
def port (s : State) (p : Nat) : Port := tgetD s.fab.ports p {}

def setPort (s : State) (p : Nat) (x : Port) : State := { s with fab.ports := tset s.fab.ports p x }

def modPort (s : State) (p : Nat) (f : Port → Port) : State := setPort s p (f (port s p))

def fabSend (s : State) (m : FabOut) : State := { s with fabOut := s.fabOut ++ [m] }

/-! ## Link layer -/

def VcCnt.get (v : VcCnt) : Vc → BitVec 16
  | .req => v.req | .rsp => v.rsp | .mgt => v.mgt

def VcCnt.add (v : VcCnt) (c : Vc) (n : Nat) : VcCnt :=
  match c with
  | .req => { v with req := v.req + BitVec.ofNat 16 n }
  | .rsp => { v with rsp := v.rsp + BitVec.ofNat 16 n }
  | .mgt => { v with mgt := v.mgt + BitVec.ofNat 16 n }

/-- Flits the transmitter may still send on a virtual channel (R488, R490). -/
def Port.credit (p : Port) (c : Vc) : Nat := (p.granted.get c - p.sent.get c).toNat

/-- Bytes in the replay buffer. -/
def Port.replayBytes (p : Port) : Nat := p.replay.foldl (fun n f => n + 32 * f.flits) 0

/-- A frame may be sent now: credits for all its flits, and room in the replay buffer of 128 KiB. -/
def Port.canSend (p : Port) (f : Vc × Nat) : Bool :=
  decide (f.2 ≤ p.credit f.1) && decide (p.replayBytes + 32 * f.2 ≤ 131072)

/-- Sends one frame of the output queue. -/
def Port.sendAt (p : Port) (i : Nat) (f : Vc × Nat) : Port :=
  { p with outq := p.outq.eraseIdx i, mgtGap := if f.1 == .mgt then 0 else min 7 (p.mgtGap + 1), sent := p.sent.add f.1 f.2, txSeq := p.txSeq + 1,
           replay := p.replay ++ [{ vc := f.1, flits := f.2, lseq := p.txSeq }] }

/-- The next frame of the queue that goes out: a sendable MGT frame, of which one starts in 8 frame starts while frames of the other
channels wait, else the oldest frame that its own channel lets go (R488, R489). DEDUCED: an MGT frame also goes when none of those that
wait can, for a frame that waits on one channel never blocks another (log entry 91). -/
def Port.nextOut (p : Port) : Option Nat :=
  let first (ok : Vc → Bool) : Option Nat :=
    (List.range p.outq.length).find? (fun i => match p.outq[i]? with
      | some f => ok f.1 && p.canSend f && !((p.outq.take i).any (fun g => g.1 == f.1))
      | none => false)
  match (if p.mgtGap = 7 || p.outq.all (fun f => f.1 == .mgt) then first (· == .mgt) else none) with
  | some i => some i
  | none => match first (· != .mgt) with
    | some i => some i
    | none => first (· == .mgt)

/-- Sends what the credits and the replay buffer let go; `n` bounds the number. -/
def Port.pump : Nat → Port → Port
  | 0, p => p
  | n + 1, p =>
    if p.st = .down then p
    else match p.nextOut with
      | some i => match p.outq[i]? with
        | some f => Port.pump n (p.sendAt i f)
        | none => p
      | none => p

/-- Puts a frame into a port's output queue. -/
def enqueue (s : State) (p : Nat) (vc : Vc) (flits : Nat) : State :=
  modPort s p (fun x => let x := { x with outq := x.outq ++ [(vc, flits)] }; x.pump x.outq.length)

/-! ## Routes -/

/-- An entry of a route table: tables 0 to 5 by arrival port, 6 for frames of this tray (R509). -/
def routeEntry (s : State) (t node : Nat) : Nat := tgetD (tgetD s.fab.tables t []) node 0

def entryValid (e : Nat) : Bool := bitAt e 3
def entryDeliver (e : Nat) : Bool := bitAt e 4
def entryOut (e : Nat) : Nat := bits e 0 3

/-- A destination has a route from this tray (check 13 of Table 8-4). -/
def hasRoute (s : State) (node : Nat) : Bool := entryValid (routeEntry s 6 node)

/-- Issues a frame of this tray toward a node; without a usable route it is discarded and counted (R510). -/
def issueFrame (s : State) (node : Nat) (vc : Vc) (flits : Nat) : State :=
  let e := routeEntry s 6 node
  let p := entryOut e
  if entryValid e && (port s p).st == .up then enqueue s p vc flits
  else ctrAdd s (portCtr p 9) 1

/-! ## Transactions -/

/-- Bytes of parameters, padded to 32, and payload (Table 21-4). -/
def TxnOp.bytes : TxnOp → Nat
  | .read .. => 32
  | .write _ _ _ _ _ _ data _ => 32 + data.length
  | .aadd _ _ l => 32 + 4 * l.length
  | .pool _ _ _ w _ l => 32 + (if w then 8 else 4) * l.length
  | .claim .. => 32
  | .report .. => 32
  | .release => 0
  | .quench => 0
  | .hotrow _ _ d => 32 + d.length

/-- Request frames: 16 data flits of 32 B each. -/
def TxnOp.frames (op : TxnOp) : Nat := max 1 (cdiv op.bytes 512)

/-- Flits of frame `i` of a request. -/
def TxnOp.flits (op : TxnOp) (i : Nat) : Nat := 1 + cdiv (min 512 (op.bytes - 512 * i)) 32

/-- Operations that the performer records (Table 21-4). -/
def TxnOp.dedup : TxnOp → Bool
  | .read .. => false
  | .pool .. => false
  | _ => true

/-- The lowest ESEQ still open to a destination; the next one when none is (Table 21-3). -/
def lowOpen (s : State) (dst : Nat) : BitVec 16 :=
  let next := tgetD s.fab.eseqs dst 0
  (s.fab.txns.filter (fun p => p.2.dst == dst)).foldl
    (fun lo p => if (next - lo).toNat < (next - p.2.eseq).toNat then p.2.eseq else lo) next

/-- Sends every frame of a transaction. -/
def sendFrames (s : State) (txid : Nat) (t : Txn) : State :=
  let s := fabSend s (.request (BitVec.ofNat 32 txid) t.attempt t.dst t.eseq (lowOpen s t.dst) t.tcid t.slot t.gen t.op)
  (List.range t.frames).foldl (fun s i => issueFrame s t.dst .req (t.op.flits i)) s

/-- A tracker entry is free (R519). -/
def trackerFree (s : State) : Bool := decide (s.fab.txns.length < 4096)

/-- Starts a transaction: TXID, tracker entry, ESEQ, and attempt 1 (R518 to R520). -/
def sendTxn (s : State) (dst : Nat) (op : TxnOp) (tcid slot : Nat) (gen : BitVec 16) (work : Option Nat) (core ord : Nat) : State :=
  let id := s.fab.nextTxid
  let t : Txn := { dst := dst, op := op, attempt := 1, start := s.eft.tick, eseq := tgetD s.fab.eseqs dst 0,
                   frames := op.frames, tcid := tcid, slot := slot, gen := gen, work := work, core := core, ord := ord }
  let s := { s with fab.nextTxid := id + 1, fab.txns := tset s.fab.txns id.toNat t,
                    fab.eseqs := tset s.fab.eseqs dst (t.eseq + BitVec.ofNat 16 t.frames) }
  sendFrames s id.toNat t

/-- Sends a response. -/
def sendResponse (s : State) (dst : Nat) (txid : BitVec 32) (status : Nat) (sat nan hold : Bool) (payload : List Byte) : State :=
  let s := fabSend s (.response dst txid status sat nan hold payload)
  (List.range (max 1 (cdiv payload.length 512))).foldl
    (fun s i => issueFrame s dst .rsp (1 + cdiv (min 512 (payload.length - 512 * i)) 32)) s

/-- Records a performed transaction; the last 4,096 of each source are kept (R522). -/
def recordDup (s : State) (d : DupRec) : State :=
  let mine := s.fab.dups.countP (fun x => x.src == d.src)
  let old := if mine < 4096 then s.fab.dups else (match s.fab.dups.find? (fun x => x.src == d.src) with
    | some x => s.fab.dups.erase x
    | none => s.fab.dups)
  { s with fab.dups := old ++ [d] }

/-- Sends a CREDIT (R528). -/
def sendCredit (s : State) (dst tcid slot : Nat) (gen : BitVec 16) (pcore ccore creg total : Nat) : State :=
  let s := { s with fab.nextTxid := s.fab.nextTxid + 1 }
  issueFrame (fabSend s (.credit dst tcid slot gen pcore ccore creg total)) dst .rsp 2

end Sys2Proof.Machine
end

