-- ==== Sys2Proof/Machine/JobOps.lean ====
section
/-! DEFINITION. What a quench, a completion record and a staging cancellation do, shared by commands and events
(08_jobs_and_dispatch.md, R198, R202, R211 to R217; 19, R477). -/

namespace Sys2Proof.Machine

/-! ## Completion records -/

/-- The fields of a completion (Table 8-2) but for PHASE and EPOCH. -/
structure Compl where
  status : Nat
  sat : Bool := false
  nan : Bool := false
  hot : Bool := false
  cobatched : Bool := false
  isEnd : Bool := false
  sqIndex : Nat
  cookie : Word
  frame : Nat := 0
  stamp : Nat
  hotIndex : Nat := 0
  hotCount : Nat := 0
  detail : Nat := 0
  irq : Bool
  /-- The tenant whose page counts it, if any (R639). -/
  tcid : Nat
deriving DecidableEq, Repr

/-- LATENCY: µs from the stamp, saturating (Table 8-2). -/
def latencyOf (s : State) (stamp : Nat) : Nat := min ((s.eft.tick - stamp) * 320 / 1000) 0xFFFFFFFF

/-- The 32 bytes of a completion. -/
def complBytes (s : State) (g : Ring) (c : Compl) : List Byte :=
  leBytes 8 (c.status + b2n g.phase * 2 ^ 16 + b2n c.sat * 2 ^ 17 + b2n c.nan * 2 ^ 18 + b2n c.hot * 2 ^ 19
      + b2n c.cobatched * 2 ^ 20 + b2n c.isEnd * 2 ^ 21 + g.epoch.toNat * 2 ^ 32 + c.sqIndex * 2 ^ 48)
    ++ leBytes 8 c.cookie.toNat ++ leBytes 8 (c.frame + latencyOf s c.stamp * 2 ^ 32)
    ++ leBytes 8 (c.hotIndex + (min c.hotCount 0xFFFF) * 2 ^ 32 + c.detail * 2 ^ 48)

/-- Adds to a word of a tenant page, while its TCID is live (R588). -/
def pageAdd (s : State) (t word n : Nat) : State :=
  if tenantLive s t then
    { s with obs.pages := tmod s.obs.pages t [] (fun p => tmod p word 0 (fun x => (x + n) % 2 ^ 64)) }
  else s

/-- Writes a completion at the ring's next index and raises its vector when asked; `counted` is false only for
RING_READ_FAULT, which counts in the tray counters alone (R198, R639). -/
def postCompl (s : State) (r : Nat) (c : Compl) (counted : Bool) : State :=
  let g := tgetD s.rings r {}
  let s := hostWrite s (g.cqAddr + 32 * g.cqIdx) (complBytes s g c)
  let n := 2 ^ g.log2
  let wrap := g.cqIdx + 1 = n
  let s := { s with rings := tset s.rings r { g with cqIdx := (g.cqIdx + 1) % n,
                                                     phase := if wrap then !g.phase else g.phase,
                                                     reserved := g.reserved - 1, unread := g.unread + 1 } }
  let s := ctrAdd s 0x0008 1
  let s := if counted then pageAdd s c.tcid 1 1 else s
  let s := if counted && c.status = 0x0201 then pageAdd s c.tcid 3 1 else s
  if c.irq then raiseMsix s (2 + r) else s

/-- A completion slot can be reserved (check 1 of Table 8-4). -/
def slotFree (g : Ring) : Bool := decide (g.reserved + g.unread < 2 ^ g.log2)

/-- Reserves a completion slot. -/
def reserve (s : State) (r : Nat) : State :=
  { s with rings := tmod s.rings r {} (fun g => { g with reserved := g.reserved + 1 }) }

/-- Releases a reserved slot without a completion (R211). -/
def unreserve (s : State) (r : Nat) : State :=
  { s with rings := tmod s.rings r {} (fun g => { g with reserved := g.reserved - 1 }) }

/-- The stamp of the descriptor at HEAD (R196). -/
def headStamp (s : State) (g : Ring) : Nat := match g.stamps with | x :: _ => x.2 | [] => s.eft.tick

/-- Posts a RING_READ_FAULT completion that waits for a slot; the ring's vector follows it (R136, R199; log entry 67). -/
def postReadFault (s : State) (r : Nat) : State :=
  let g := tgetD s.rings r {}
  if g.faultDue && slotFree g then
    postCompl (reserve { s with rings := tset s.rings r { g with faultDue := false } } r) r
      { status := 0x0212, sqIndex := g.sqHead, cookie := 0, stamp := headStamp s g, irq := true, tcid := 0 } false
  else s

/-! ## Staging orders -/

/-- The size of an object. -/
def objSize (s : State) : ObjRef → Nat
  | .region r => match tget s.store.regions r with | some g => g.size | none => 0
  | .commons c => match tget s.store.commons c with | some o => o.size | none => 0

/-- Frees a region's tier A copy: the tag is cleared at once and the zero-fill begins (R50, R480). -/
def dropTaCopy (s : State) (r : Nat) : State :=
  match tget s.store.regions r with
  | some g => match g.copy with
    | some c => { s with store.regions := tset s.store.regions r { g with copy := none },
                         store.fills := s.store.fills ++ [{ base := c.base, size := g.size }] }
    | none => s
  | none => s

/-- Retags a bank; a changed owner means a zero-fill first (R48), and a bank without a tag goes OFF (R75). -/
def retag (s : State) (b owner : Nat) (res : Bool) : State :=
  let k := bank s b
  let s := if k.owner = owner && k.res = res then s else memZero s (0x80000000000 + b * 0x40000) 0x40000
  { s with store.banks := tset s.store.banks b { k with owner := owner, res := res, power := if k.retired || (owner = 0 && !res) then .off else .on } }

/-- Drops one scratchpad copy: its banks are zero-filled and untagged (R48). -/
def dropSpCopy (s : State) (c : SpCopy) : State :=
  let s := c.banks.foldl (fun s b => retag s b 0 false) s
  { s with store.spCopies := s.store.spCopies.filter (fun d => !(d.obj == c.obj && d.core == c.core && d.banks == c.banks)) }

/-- Takes a job out of the orders it waits for; an order that no job waits for is cancelled, and what it had allocated is
freed (R217, R477). -/
def cancelStaging (s : State) (j : Nat) : State :=
  let mine := s.store.orders.filter (fun o => o.jobs == [j])
  let s := { s with store.orders := (s.store.orders.filter (fun o => !(o.jobs == [j]))).map
                      (fun o => { o with jobs := o.jobs.filter (· != j) }) }
  mine.foldl (fun s o =>
    let s := (s.store.spCopies.filter (fun c => c.obj == o.obj && !c.done && o.cores.contains c.core)).foldl dropSpCopy s
    match o.obj with
    | .region r => match tget s.store.regions r with
      | some g => match g.copy with
        | some c => if c.done then s else dropTaCopy s r
        | none => s
      | none => s
    | .commons _ => s) s

/-! ## Claims -/

/-- Gives up a ring's claims (R524): open CLAIM transactions are dropped, and every tray that may hold a part is sent RELEASE. -/
def abortClaim (s : State) (r : Nat) : State :=
  let g := tgetD s.rings r {}
  match g.claim with
  | none => s
  | some c =>
    let t := match g.copy with | some ws => bits ((ws.getD 0 0).toNat) 16 12 | none => 0
    let mine (x : Txn) : Bool := (match x.op with | .claim .. => true | _ => false) && x.slot == c.slot && x.gen == c.gen
    let s := { s with fab.txns := s.fab.txns.filter (fun p => !mine p.2), rings := tset s.rings r { g with claim := none } }
    (c.parts.filter (fun p => p.st == .claiming || p.st == .claimed)).foldl
      (fun s p => sendTxn s p.node .release t c.slot c.gen none 64 0) s

/-! ## Quench -/

/-- The model's number for the staging movers among the units a quench waits for. -/
def moverUnit : Nat := 0x6000

/-- The units that hold operations of a job: its cores, the tier controllers behind its data, and the movers while it
waits for staging (R214). -/
def quenchUnits (s : State) (j : Nat) (job : Job) : List Nat :=
  job.chain.map (fun p => coreUnit p.2)
    ++ (job.units.map (·.1)).filter (fun u => decide (0x3000 ≤ u) && decide (u < 0x5000))
    ++ (if s.store.orders.any (fun o => o.jobs.contains j) then [moverUnit] else [])

/-- A QUENCH trace record of the job's first core (Table 25-7), which needs the OBSERVE of every tenant of its group (R43). -/
def traceQuench (s : State) (j : Nat) (job : Job) (status : Nat) : State :=
  match job.chain with
  | [] => s
  | (_, c) :: _ => traceCore s c (job.tcid :: job.mates.filter (· != job.tcid)) job.tag 0x09 (j + job.gen.toNat * 2 ^ 16 + status * 2 ^ 32)

/-- Abandons the open transactions of a quenched work; what a co-batch group runs together goes on while another member lives (R520, R44). -/
def abandonTxns (s : State) (w : Nat) (gen : BitVec 16) : State :=
  let shared := (members s w).any (fun m => m != w && workLive s m)
  { s with fab.txns := s.fab.txns.filter (fun p => !((p.2.work == some w && p.2.gen == gen && !shared)
      || (p.2.work.isNone && !isPart w && p.2.slot == w && p.2.gen == gen && (match p.2.op with | .claim .. => true | _ => false)))) }

/-- Starts the quench of a job, or of the running frame of a stream; a quench already under way keeps its status (R216). -/
def quenchJob (s : State) (j status detail : Nat) (frameOnly : Bool) : State :=
  match tget s.dsp.jobs j with
  | none => s
  | some job =>
    match job.quench with
    | some q =>
      -- a quench of the whole stream widens a quench of one frame, whose cause keeps the frame's status (R216, R220)
      if q.frameOnly && !frameOnly then
        { s with dsp.jobs := tset s.dsp.jobs j { job with quench := some { q with frameOnly := false, whole := some (status, detail) } } }
      else s
    | none =>
      let q : Quench := { status := status, detail := detail, start := s.eft.tick, units := quenchUnits s j job,
                          remote := job.parts.map (·.stage), frameOnly := frameOnly }
      let s := traceQuench s j job status
      let s := { s with dsp.jobs := tset s.dsp.jobs j { job with quench := some q } }
      -- what a co-batch group runs together goes on while another member lives (R44)
      let s := abandonTxns (stopChain s j) j job.gen
      let s := cancelStaging s j
      job.parts.foldl (fun s p => sendTxn s p.node .quench job.tcid j job.gen none 64 0) s

/-- Quenches every job that passes. -/
def quenchWhere (s : State) (p : Nat → Job → Bool) (status detail : Nat) : State :=
  (s.dsp.jobs.filter (fun e => p e.1 e.2)).foldl (fun s e => quenchJob s e.1 status detail false) s

/-- Admitted jobs that recorded a unit. -/
def jobsOfUnit (s : State) (u : Nat) : List Nat :=
  (s.dsp.jobs.filter (fun e => e.2.units.any (fun r => r.1 == u))).map (·.1)

/-- Ends a job with a fault of its data or its program: a stream loses the frame alone (R556), a single job ends. -/
def failJob (s : State) (j status : Nat) : State :=
  match tget s.dsp.jobs j with
  | none => s
  | some job => quenchJob s j status 0 job.stream.isSome

/-- Ends a work for a fault of its data or program: a job is quenched, a remote part reports the status to its origin
(R216, R525). -/
def failWork (s : State) (w status : Nat) : State :=
  if isPart w then
    match partOf s w with
    | none => s
    | some p =>
      if p.status ≠ 0 || p.quench.isSome then s
      else
        let s := stopChain (modPart s w (fun p => { p with status := status })) w
        sendTxn s p.origin (.report status p.sat p.nan) p.tcid p.slot p.gen none 64 0
  else failJob s w status

def failWorks (s : State) (ws : List Nat) (status : Nat) : State := ws.foldl (fun s w => failWork s w status) s

/-- Remote parts that hold a core. -/
def partsOn (s : State) (u : Nat) : List Nat :=
  if u / 0x1000 = 1 then (s.dsp.parts.filter (fun p => p.cores.contains (u % 0x1000))).map (fun p => p.work) else []

/-- Hardware changes HEALTH; a unit that goes to FAULT ends the jobs that recorded an older GEN, and their whole chains
(R207, R447). -/
def hwHealth (s : State) (u : Nat) (h : Health) (notify : Bool) : State :=
  let before := (unitRec s u).health
  let s := setHealth s u h notify
  if h = .fault && before ≠ .fault then
    let g := (unitRec s u).gen
    let hit := (s.dsp.jobs.filter (fun e => e.2.units.any (fun r => r.1 == u && r.2 != g))).flatMap
      (fun e => e.2.chain.map (·.2))
    quenchWhere s (fun _ job => job.units.any (fun r => r.1 == u && r.2 != g)
      || (u / 0x1000 == 1 && job.chain.any (fun p => hit.contains p.2))) 0x0202 u
      |> fun s => failWorks s (partsOn s u) 0x0202
  else s

end Sys2Proof.Machine
end

