-- ==== Sys2Proof/Machine/Pcie.lean ====
section
/-! DEFINITION. Configuration space of the function and its error reporting (05_host_link_and_registers.md, R113 to R118,
Tables 5-1 to 5-3). The places of fields in a register are those of the PCIe specification, which the manual names and does not
restate (PRESUMED, log entry 4). -/

namespace Sys2Proof.Machine

/-- The correctable errors of Table 5-3. -/
def aerCorr : AerErr → Bool
  | .receiver | .badTlp | .badDllp | .replayTimer | .replayNum | .advisory => true
  | _ => false

/-- The bit of an error in its status, mask and severity registers. -/
def aerBit : AerErr → Nat
  | .receiver => 0 | .badTlp => 6 | .badDllp => 7 | .replayNum => 8 | .replayTimer => 12 | .advisory => 13
  | .dataLink => 4 | .poisoned => 12 | .timeout => 14 | .unexpected => 16 | .overflow => 17 | .malformed => 18
  | .unsupported => 20

/-- The severity of an error's message: 0 correctable, 1 non-fatal, 2 fatal. -/
def aerSeverity (s : State) (e : AerErr) : Nat :=
  if aerCorr e then 0 else if s.host.cfg.aerFatal.contains e then 2 else 1

/-- Device Control lets the message of this severity go out. -/
def aerReports (s : State) (sev : Nat) (e : AerErr) : Bool :=
  (match sev with | 0 => s.host.cfg.repCorr | 1 => s.host.cfg.repNonFatal | _ => s.host.cfg.repFatal)
    && (e != .unsupported || s.host.cfg.repUnsupported)

/-- Sets a status bit of AER. -/
def aerMark (s : State) (e : AerErr) : State :=
  if s.host.cfg.aerStatus.contains e then s else { s with host.cfg.aerStatus := s.host.cfg.aerStatus ++ [e] }

/-- Reports an error of Table 5-3: its status bit is set, and its message is sent unless it is masked (R118). -/
def aerReport (s : State) (e : AerErr) : State :=
  let sev := aerSeverity s e
  let s := aerMark s e
  if s.host.cfg.aerMasked.contains e || !aerReports s sev e then s else send s (.error sev)

/-- Reports a non-fatal error that another agent handles as an advisory one: a read answered with Unsupported Request, and a
Completion Timeout after which the request is sent again. -/
def aerAdvisory (s : State) (e : AerErr) : State :=
  if aerSeverity s e ≠ 1 then aerReport s e
  else
    let s := aerMark (aerMark s e) .advisory
    if s.host.cfg.aerMasked.contains e || s.host.cfg.aerMasked.contains .advisory || !aerReports s 0 e then s
    else send s (.error 0)

/-- Answers a host request as Unsupported Request: a read gets its completion, a write none (R116, R118). -/
def unsupportedRequest (s : State) (write : Bool) (attr : TlpAttr) : State :=
  if write then aerReport s .unsupported
  else
    let s := aerAdvisory s .unsupported
    { s with hostOut := s.hostOut ++ [.refused attr] }

/-- A register of AER with the bits of these errors. -/
def aerBits (corr : Bool) (es : List AerErr) : Nat :=
  (es.filter (fun e => aerCorr e == corr)).foldl (fun x e => x ||| 2 ^ (aerBit e)) 0

/-- The capabilities of Table 5-1: power management, PCI Express and MSI-X, and of the extended ones AER and Resizable BAR. -/
def capPresent (extended : Bool) (id : Nat) : Bool :=
  if extended then id == 0x0001 || id == 0x0015 else id == 0x01 || id == 0x10 || id == 0x11

/-- Base-two logarithm of a size in units of `u`, for sizes up to 2^7 units. -/
def log2Of (x u : Nat) : Nat := ((List.range 8).find? (fun n => u * 2 ^ n == x)).getD 0

/-- The value of a configuration register (Tables 5-1, 5-2; R115). -/
def cfgRead (s : State) (r : CfgReg) : Nat :=
  let c := s.host.cfg
  match r with
  | .vendorId | .subVendorId => Config.vendorId.toNat
  | .deviceId | .subsystemId => 0x0400
  | .revisionId => Config.stepping
  | .classCode => 0x120000
  -- 64-bit memory: non-prefetchable BAR0, prefetchable BAR2; the addresses are the host's
  | .bar0 => 0x4
  | .bar2 => 0xC
  | .bar4 | .bar5 | .interruptPin | .expansionRom => 0
  | .capability ext id => b2n (capPresent ext id)
  -- 32 GT/s, x16, ASPM L1 only, L1 exit latency of 8 to 16 µs
  | .linkCap => 5 + 16 * 2 ^ 4 + 2 * 2 ^ 10 + 4 * 2 ^ 15
  | .deviceCap => 2
  | .powerState => (if s.host.d3hot then 3 else 0) + 8
  | .linkControl => if s.host.aspmL1 then 2 else 0
  | .msixControl => 2047 + b2n s.host.msixFuncMask * 2 ^ 14 + b2n s.host.msixEnable * 2 ^ 15
  | .deviceControl =>
    b2n c.repCorr + 2 * b2n c.repNonFatal + 4 * b2n c.repFatal + 8 * b2n c.repUnsupported + log2Of c.mps 128 * 2 ^ 5
      + log2Of c.mrrs 128 * 2 ^ 12
  | .deviceControl2 => b2n c.tag10 * 2 ^ 12
  -- 4 GiB to 256 GiB, bit 4 standing for 1 MiB
  | .bar2Sizes => (List.range 7).foldl (fun x n => x ||| 2 ^ (16 + n)) 0
  | .bar2Control => (10 + log2Of s.host.bar2GiB 1) * 2 ^ 8
  | .aerCorrStatus => aerBits true c.aerStatus
  | .aerStatus => aerBits false c.aerStatus
  | .aerCorrMask => aerBits true c.aerMasked
  | .aerMask => aerBits false c.aerMasked
  | .aerSeverity => aerBits false c.aerFatal

/-- Sets or clears an error's place in a list of errors. -/
def aerSet (es : List AerErr) (e : AerErr) (on : Bool) : List AerErr := es.filter (· != e) ++ (if on then [e] else [])

/-- Sends pending messages that are no longer masked (R136). -/
def msixFlush (s : State) : State :=
  let go := s.host.pba.filter (fun v => s.host.msixEnable && !s.host.msixFuncMask && !(msixEntry s v).getLsbD 96)
  go.foldl (fun s v => sendMsix { s with host.pba := s.host.pba.filter (· != v) } v) s

/-- What one access to configuration space does (R113, R115, R116, R118, R136). The return to D0 sends what has waited for it. -/
def cfgAccess (s : State) : CfgAccess → State
  | .power d3hot =>
    if d3hot then { s with host.d3hot := true }
    else { s with host.d3hot := false, host.held := [], hostOut := s.hostOut ++ s.host.held }
  | .aspm l1 => { s with host.aspmL1 := l1 }
  | .msix enable funcMask => msixFlush { s with host.msixEnable := enable, host.msixFuncMask := funcMask }
  | .deviceControl mps mrrs tag10 corr nonFatal fatal unsupported =>
    { s with host.cfg := { s.host.cfg with
        -- a payload size beyond 512 B and a request size beyond 4,096 B are not supported
        mps := if mps.val ≤ 2 then 128 * 2 ^ mps.val else s.host.cfg.mps,
        mrrs := if mrrs.val ≤ 5 then 128 * 2 ^ mrrs.val else s.host.cfg.mrrs,
        tag10 := tag10, repCorr := corr, repNonFatal := nonFatal, repFatal := fatal, repUnsupported := unsupported } }
  | .aerClear es => { s with host.cfg.aerStatus := s.host.cfg.aerStatus.filter (fun e => !es.contains e) }
  | .aerMask e m => { s with host.cfg.aerMasked := aerSet s.host.cfg.aerMasked e m }
  | .aerSeverity e fatal =>
    if aerCorr e then s else { s with host.cfg.aerFatal := aerSet s.host.cfg.aerFatal e fatal }
  | .linkError e => aerReport s e
  | .read r => { s with hostOut := s.hostOut ++ [.config (BitVec.ofNat 64 (cfgRead s r))] }

/-- POWER_MGMT_STATE: the host moves the function to D3hot or back to D0, or makes another access to configuration space
(R116; log entry 72). -/
def execPowerMgmtState (acc : CfgAccess) (s : State) : Res :=
  let s := linkExit s
  if !alive s then .next s else .next (cfgAccess s acc)

end Sys2Proof.Machine
end

