-- ==== Sys2Proof/Machine/Mailbox.lean ====
section
/-! DEFINITION. Mailbox slots, their handshake, conflicts and the run of one command (06_mailboxes.md; 07, R158 to R163). -/

namespace Sys2Proof.Machine

/-- Every command: opcode, request length, response length, whether it defines FORCE (Tables 7-2 to 7-7). -/
def opTable : List (Nat × Nat × Nat × Bool) :=
  [(0x0001, 0, 32, false), (0x0002, 0, 32, false), (0x0D01, 8, 16, false), (0x0D02, 0, 16, false),
   (0x0701, 16, 0, false), (0x0702, 0, 32, false),
   (0x0101, 32, 32, false), (0x0102, 32, 32, false), (0x0103, 4, 32, false), (0x0104, 4, 0, false),
   (0x0105, 4, 0, false), (0x0106, 4, 8, true),
   (0x0401, 16, 24, false), (0x0402, 24, 0, false), (0x0403, 4, 32, false), (0x0404, 4, 0, false), (0x0405, 4, 32, false)]
  ++ [(0x0301, 24, 16, false), (0x0302, 32, 0, false), (0x0303, 8, 0, false), (0x0304, 8, 0, false), (0x0305, 8, 32, false),
   (0x0201, 16, 16, false), (0x0202, 8, 0, false), (0x0203, 8, 32, false), (0x0204, 16, 0, false),
   (0x0501, 32, 0, false), (0x0502, 4, 8, true), (0x0503, 4, 32, false), (0x0504, 4, 0, false),
   (0x0601, 4, 8, false), (0x0602, 8, 4, false), (0x0603, 4, 8, true), (0x0604, 4, 8, false)]
  ++ [(0x0801, 0, 48, false), (0x0802, 16, 0, false), (0x0803, 0, 0, false), (0x0804, 8, 0, false),
   (0x0901, 0, 64, false), (0x0902, 24, 8, false), (0x0903, 8, 8, false), (0x0904, 0, 64, false),
   (0x0A01, 24, 0, false), (0x0A02, 16, 8, false), (0x0B01, 8, 0, false),
   (0x0C01, 8, 0, false), (0x0C02, 24, 0, false), (0x0C03, 0, 8, false), (0x0C04, 0, 8, false), (0x0C05, 0, 8, false)]

/-- The table's row of an opcode. -/
def opRow (op : Nat) : Option (Nat × Nat × Bool) := (opTable.find? (fun r => r.1 == op)).map (·.2)

/-! ## Slots -/

/-- The 256 bytes of a slot. -/
def slotBytes (s : State) (k : Nat) : List Byte := padTo 256 (tgetD s.mbx.slots k [])

/-- The state HOST of Table 6-4. -/
def slotIsHost (s : State) (k : Nat) : Bool := !s.mbx.own.getLsbD k && !s.mbx.done.getLsbD k

/-- The request in a slot (Table 6-3), its payload PLEN bytes of at most 240. -/
def reqOf (bs : List Byte) (order : Nat) : Req :=
  { opcode := leAt bs 0 2, force := bitAt (leAt bs 2 2) 0, noirq := bitAt (leAt bs 2 2) 1, tag := leAt bs 4 2,
    payload := slice bs 16 (min (leAt bs 6 2) 240), order := order }

/-- Writes a response: header and payload, then DONE, then OWN clears, then vector 0 unless NOIRQ (R142); in SLEEP MGT falls back once
no command is left (R84). DESIGN CHOICE: the slot's bytes beyond the response's PLEN stay those of the request (log entry 80). -/
def respond (s : State) (k : Nat) (r : Req) (status : Nat) (payload : List Byte) : State :=
  let hdr := leBytes 2 r.opcode ++ leBytes 2 (b2n r.force + 2 * b2n r.noirq) ++ leBytes 2 r.tag
    ++ leBytes 2 payload.length ++ leBytes 2 status ++ leBytes 6 (s.eft.time % 2 ^ 48)
  let s := { s with mbx.slots := tset s.mbx.slots k (patch (slotBytes s k) 0 (hdr ++ payload)),
                    mbx.done := s.mbx.done ||| (1#32 <<< k), mbx.own := s.mbx.own &&& ~~~(1#32 <<< k),
                    mbx.reqs := tdel s.mbx.reqs k, mbx.running := tdel s.mbx.running k,
                    mbx.placeWait := s.mbx.placeWait.filter (· != k) }
  settleMgt (if r.noirq then s else raiseMsix s 0)

/-- The header checks of Table 6-5, in order; none when they pass. -/
def headerStatus (bs : List Byte) : Option Nat :=
  match opRow (leAt bs 0 2) with
  | none => some 0x0101
  | some (len, _, force) =>
    if leAt bs 2 2 / 4 ≠ 0 || leAt bs 8 8 ≠ 0 || (bitAt (leAt bs 2 2) 0 && !force) then some 0x0102
    else if leAt bs 6 2 ≠ len then some 0x0103
    else none

/-- The group of the firmware commands (R146). -/
def isFwOp (op : Nat) : Bool := op / 256 == 0x0C

/-- The payload fields of FW_STAGE_BEGIN and FW_STAGE_DATA lie in their ranges (Table 7-7). -/
def fwBeginFields (_ : State) (p : List Byte) : Bool :=
  decide (513 ≤ leAt p 0 4) && decide (leAt p 0 4 ≤ 8389120) && leAt p 4 4 == 0

def fwDataFields (_ : State) (p : List Byte) : Bool :=
  decide (1 ≤ leAt p 4 4) && decide (leAt p 4 4 ≤ 0x100000) && leAt p 8 8 % 64 == 0 && leAt p 16 8 == 0

/-- Counts a refusal for a full ledger (R576). -/
def refuseFull (s : State) (k : Nat) (r : Req) : State := respond (ctrAdd s 0x800 1) k r 0x0106 []

/-- The answer to a firmware command that arrives while another is under way: checks 2 and 3 of R159, then FW_BUSY (R146). -/
def fwBusyAnswer (s : State) (k : Nat) (r : Req) : State :=
  let fields := match r.opcode with
    | 0x0C01 => fwBeginFields s r.payload | 0x0C02 => fwDataFields s r.payload | _ => true
  let writes := r.opcode != 0x0C01 && r.opcode != 0x0C02
  if !fields then respond s k r 0x0102 []
  else if writes && ledgerFull s then refuseFull s k r
  else respond s k r 0x0143 []

/-- A firmware command is under way (R108). -/
def fwUnderWay (s : State) : Bool := s.mbx.reqs.any (fun p => isFwOp p.2.opcode)

/-- Swifort takes a submitted slot: a header refusal, and a firmware command during another, are answered at once; any other request
is accepted, and MGT rises for it in SLEEP (R84, R144 to R146). -/
def takeSlot (s : State) (k : Nat) : State :=
  let r := reqOf (slotBytes s k) s.mbx.nextOrder
  match headerStatus (slotBytes s k) with
  | some st => respond s k r st []
  | none =>
    if isFwOp r.opcode && fwUnderWay s then fwBusyAnswer s k r
    else settleMgt (noteBusy { s with
      mbx.reqs := tset s.mbx.reqs k r, mbx.nextOrder := s.mbx.nextOrder + 1,
      mbx.placeWait := if 8 ≤ s.mbx.running.length then s.mbx.placeWait ++ [k] else s.mbx.placeWait })

/-- A doorbell bit: the slot enters FW; outside Swifort's running time it is latched (R84, R109, R157). -/
def submitSlot (s : State) (k : Nat) : State :=
  if slotIsHost s k then
    let s := { s with mbx.own := s.mbx.own ||| (1#32 <<< k) }
    if fwUp s then takeSlot s k else { s with mbx.latched := s.mbx.latched ++ [k] }
  else sysErr s invwrMbx

/-- MBX_DOORBELL: bits in ascending slot order (R145); ignored before the ready event. -/
def execMbxDoorbell (mask : W32) (s : State) : Res :=
  let s := linkExit s
  if !barReady s || !linkServes s then .next s
  else if s.host.d3hot then .next (unsupportedRequest s true {})
  else .next ((maskBits mask.toNat 32).foldl submitSlot s)

/-- MBX_DONE_CLEAR: slots in DONE return to HOST; a bit of any other slot sets INVWR_MBX (R143). -/
def execMbxDoneClear (mask : W32) (s : State) : Res :=
  let s := linkExit s
  if !barReady s || !linkServes s then .next s
  else if s.host.d3hot then .next (unsupportedRequest s true {})
  else .next ((maskBits mask.toNat 32).foldl (fun s k =>
    if s.mbx.done.getLsbD k && !s.mbx.own.getLsbD k then { s with mbx.done := s.mbx.done &&& ~~~(1#32 <<< k) }
    else sysErr s invwrMbx) s)

/-- A write of a 64-bit register by a row of its own: the whole register, or a 4-byte write to its low or high half. -/
def halfWrite (old : Nat) (half : Option Bool) (value : Nat) : Nat :=
  match half with
  | none => value % 2 ^ 64
  | some false => old / 2 ^ 32 * 2 ^ 32 + value % 2 ^ 32
  | some true => value % 2 ^ 32 * 2 ^ 32 + old % 2 ^ 32

/-- MBX_EVQ_BASE_WRITE (R139): 8 bytes, or 4 bytes of one half with the other half kept (R121). -/
def execMbxEvqBaseWrite (value : PartWrite) (s : State) : Res :=
  let s := linkExit s
  let v := halfWrite s.mbx.evqBase value.half value.value.toNat
  if !barReady s || !linkServes s then .next s
  else if s.host.d3hot then .next (unsupportedRequest s true {})
  else if v % 4096 ≠ 0 || s.mbx.evqEnable then .next (sysErr s invwrMbx)
  else .next { s with mbx.evqBase := v }

/-- MBX_EVQ_CTL_WRITE: a new start resets TAIL and PHASE, and the backlog is written (R139, R155). -/
def execMbxEvqCtlWrite (value : W32) (s : State) : Res :=
  let s := linkExit s
  if !barReady s || !linkServes s then .next s
  else if s.host.d3hot then .next (unsupportedRequest s true {})
  else if value.getLsbD 0 then
    if s.mbx.evqEnable then .next s
    else .next (evqSpaceReturned { s with mbx.evqEnable := true, mbx.evqTail := 0, mbx.evqPhase := true })
  else .next { s with mbx.evqEnable := false }

/-- MBX_EVQ_HEAD_WRITE: space returns (R155). -/
def execMbxEvqHeadWrite (value : W32) (s : State) : Res :=
  let s := linkExit s
  if !barReady s || !linkServes s then .next s
  else if s.host.d3hot then .next (unsupportedRequest s true {})
  else .next (evqSpaceReturned { s with mbx.evqHead := value.toNat % 4096 })

/-- CROAK: the counter rises by one while Swifort runs, from the start of its image on (R151). -/
def execCroak (s : State) : Res :=
  if swiRuns s then .next { s with eft.croak := (s.eft.croak + 1) % 2 ^ 64 } else .next s

/-! ## Conflicts (R146, R163) -/

/-- The groups whose commands all conflict among themselves. -/
def isLedgerOp (op : Nat) : Bool := op / 256 == 0x09
def isPowerOp (op : Nat) : Bool := op / 256 == 0x07

/-- What a command names, as numbers: a TCID, 0x10000 + ring, 0x20000 + COID, 0x30000 + unit, and one number for each of
the ledger and power groups. -/
def namesOf (r : Req) : List Nat :=
  let p := r.payload
  let tc (t : Nat) : List Nat := if t = 0 then [] else [t]
  match r.opcode with
  | 0x0101 => tc (leAt p 0 2 % 4096)
  | 0x0102 => tc (leAt p 0 2 % 4096)
  | 0x0103 | 0x0104 | 0x0105 | 0x0106 => tc (leAt p 0 2)
  | 0x0401 => if leAt p 0 2 = 0 then [] else [0x20000 + leAt p 0 2]
  | 0x0402 | 0x0403 | 0x0404 | 0x0405 => [0x20000 + leAt p 0 2]
  | 0x0301 | 0x0201 | 0x0804 => tc (leAt p 0 2)
  | 0x0302 | 0x0303 | 0x0304 | 0x0305 | 0x0202 | 0x0203 | 0x0204 => tc (leAt p 0 4 % 4096)
  | 0x0501 | 0x0502 | 0x0503 | 0x0504 => [0x10000 + leAt p 0 2]
  | 0x0601 | 0x0603 | 0x0604 => [0x30000 + leAt p 0 2]
  | 0x0802 | 0x0803 => (List.range 6).map (fun i => 0x30000 + portUnit i)
  | op => if isLedgerOp op then [0x90000] else if isPowerOp op then [0x90001] else []

/-- Two commands conflict (R146). -/
def conflicts (a b : Req) : Bool := (namesOf a).any (fun x => (namesOf b).contains x)

/-- A conflicting command accepted before this one is unfinished (R146). -/
def conflictBefore (s : State) (k : Nat) (r : Req) : Bool :=
  s.mbx.reqs.any (fun p => p.1 != k && decide (p.2.order ≤ r.order) && conflicts p.2 r)

/-- The command may start: no conflicting command accepted before it is unfinished, an execution place is free, and no command
accepted before it waits for a place (R145, R146). -/
def mayStart (s : State) (k : Nat) (r : Req) : Bool :=
  decide (s.mbx.running.length < 8) && !conflictBefore s k r
    && s.mbx.reqs.all (fun p => p.1 == k || decide (r.order < p.2.order) || !s.mbx.placeWait.contains p.1
        || (tget s.mbx.running p.1).isSome || conflictBefore s p.1 p.2)

/-! ## Running a command -/

/-- What a command's checks and effect give. -/
inductive CmdOut where
  /-- Refused: nothing changes (R159). -/
  | refuse (status : Nat)
  /-- Ended with a status, a payload and a changed state (R160, R162). -/
  | ended (s : State) (status : Nat) (payload : List Byte)
  /-- Done. -/
  | ok (s : State) (payload : List Byte)
  /-- Started; the response follows once these jobs have ended and these fills are done. -/
  | wait (s : State) (jobs fills : List Nat) (payload : List Byte)
  /-- No response now; the slot stays in FW (R189, R191). -/
  | silent (s : State)

/-- A command has started and waits in an execution place; once all 8 are taken, every command that has not started waits for one
(R145). -/
def takePlace (s : State) (k : Nat) (p : Pend) : State :=
  let run := tset s.mbx.running k p
  { s with mbx.running := run,
           mbx.placeWait := if 8 ≤ run.length then (s.mbx.reqs.map (·.1)).filter (fun j => (tget run j).isNone)
                            else s.mbx.placeWait.filter (· != k) }

/-- Applies what the checks and the effect gave. -/
def finishCmd (s : State) (k : Nat) (r : Req) : CmdOut → State
  | .refuse st => respond s k r st []
  | .ended s' st p => respond s' k r st p
  | .ok s' p => respond s' k r 0 p
  | .wait s' jobs fills p =>
    if jobs.isEmpty && fills.isEmpty then respond s' k r 0 p
    else takePlace s' k { req := r, jobs := jobs, fills := fills, payload := p }
  | .silent s' => s'

/-- The command needs CORE, NOC, OBS, tier A or tier B (R84): every one but the identity commands, the queries that no tier or trace
serves, and the first two of the firmware group. -/
def needsDomains (opcode : Nat) : Bool :=
  !([0x0001, 0x0002, 0x0D02, 0x0702, 0x0103, 0x0203, 0x0305, 0x0405, 0x0503, 0x0601, 0x0602, 0x0801, 0x0901, 0x0904, 0x0C01,
    0x0C02] : List Nat).contains opcode

/-- Runs the command in a slot: accepted with this opcode, free to start, and with the domains it needs (R84). Checks 2 and 3
of R159 come first; the body makes checks 4 to 6 and the effect. Its writes wait for an end point that holds off stores (R270). -/
def runCmd (k opcode : Nat) (ledger : Bool) (fields : State → List Byte → Bool) (body : Req → State → CmdOut) (s : State) :
    State :=
  match tget s.mbx.reqs k with
  | none => s
  | some r =>
    if r.opcode ≠ opcode || (tget s.mbx.running k).isSome || !fwUp s || !mayStart s k r
        || (needsDomains opcode && !domainsUp s) then s
    else if !fields s r.payload then respond s k r 0x0102 []
    else if ledger && ledgerFull s then refuseFull s k r
    else waitHold none s (finishCmd s k r (body r s))

/-- Answers the started commands whose waits are over (R170, R175). -/
def answerWaits (s : State) : State :=
  (s.mbx.running.filter (fun p => p.2.jobs.all (fun j => (tget s.dsp.jobs j).isNone)
      && p.2.fills.all (fun b => !s.store.fills.any (fun f => f.base == b)))).foldl
    (fun s p => respond s p.1 p.2.req 0 p.2.payload) s

end Sys2Proof.Machine
end

