-- ==== Sys2Proof/Machine/Evict.lean ====
section
/-! DEFINITION. Eviction of resident copies (02, R32, R54). -/

namespace Sys2Proof.Machine

/-- A resident copy that may be evicted. -/
inductive CopyRef where
  | ta (region : Nat)
  | sp (c : SpCopy)
deriving DecidableEq, Repr

/-- Lexicographic order of key lists. -/
def lexLe : List Nat → List Nat → Bool
  | [], _ => true
  | _ :: _, [] => false
  | a :: as, b :: bs => decide (a < b) || (a == b && lexLe as bs)

/-- The entry of the least key. -/
def leastBy {α : Type} (key : α → List Nat) : List α → Option α
  | [] => none
  | x :: xs => match leastBy key xs with
    | none => some x
    | some y => if lexLe (key x) (key y) then some x else some y

/-- An admitted job or remote part uses this object, on this core when one is named. -/
def objInUse (s : State) (o : ObjRef) (core : Option Nat) : Bool :=
  s.dsp.jobs.any (fun e => e.2.uses.contains o && (match core with
    | none => true
    | some c => e.2.chain.any (fun p => p.2 == c)))
  || s.dsp.parts.any (fun p => p.uses.contains o && (match core with
    | none => true
    | some c => p.cores.contains c))

/-- The class of R32 that a region's copy falls into; none when it is never evicted. -/
def regionClass (s : State) (g : Region) (core : Option Nat) : Option Nat :=
  let res := (tenant s g.owner).residency
  if g.image || res = 0 then some 1
  else match core with
    | none => none
    | some c =>
      if res = 1 then some 2
      else match g.pinned with
        | some cs => if cs.contains c then none else some 1
        | none => some 1

/-- The eviction key of R32: class, then tenant's last job, TCID, the copy's last use, region and core; the commons by the last job
that read the object on any core, COID and core. None when the copy may not be evicted. -/
def copyKey (s : State) : CopyRef → Option (List Nat)
  | .ta r => match tget s.store.regions r with
    | some g => match g.copy with
      | some c =>
        if objInUse s (.region r) none then none
        else (regionClass s g none).map (fun k => [k, (tenant s g.owner).lastJob, g.owner, c.lastUse, r, 64])
      | none => none
    | none => none
  | .sp c => if objInUse s c.obj (some c.core) then none else match c.obj with
    | .region r => match tget s.store.regions r with
      | some g => (regionClass s g (some c.core)).map (fun k => [k, (tenant s g.owner).lastJob, g.owner, c.lastUse, r, c.core])
      | none => some [0]
    | .commons o => some [3, match tget s.store.commons o with | some x => x.lastUse | none => 0, o, c.core]

/-- Evicts one copy. -/
def evict (s : State) : CopyRef → State
  | .ta r => dropTaCopy s r
  | .sp c => dropSpCopy s c

/-- A resident copy that R247 takes away: its banks are zero-filled and untagged; on a pinned core it is staged again there (R635). -/
def loseCopy (s : State) (c : SpCopy) : State :=
  let pinned := match c.obj with
    | .region r => (match tget s.store.regions r with
      | some g => (match g.pinned with | some cs => cs.contains c.core | none => false)
      | none => false)
    | .commons _ => false
  if !pinned then dropSpCopy s c
  else
    let s := c.banks.foldl (fun s b => memZero s (0x80000000000 + b * 0x40000) 0x40000) s
    let s := { s with store.spCopies := s.store.spCopies.map (fun d => if d = c then { d with done := false, poisoned := false } else d) }
    if s.store.orders.any (fun o => o.obj == c.obj && o.cores.contains c.core) then s
    else { s with store.orders := s.store.orders ++ [{ obj := c.obj, cores := [c.core], jobs := [] }] }

/-- The copy that R32 takes first among those that pass. -/
def nextVictim (s : State) (p : CopyRef → Bool) : Option CopyRef :=
  let all := (s.store.regions.filter (fun e => e.2.copy.isSome)).map (fun e => CopyRef.ta e.1)
    ++ s.store.spCopies.map CopyRef.sp
  leastBy (fun c => (copyKey s c).getD []) (all.filter (fun c => p c && (copyKey s c).isSome))

def isTa : CopyRef → Bool
  | .ta _ => true | .sp _ => false

/-- A place in tier A, evicting copies one at a time until one is found; `n` bounds the number. Evicted space is usable once
its fill is done, so a copy evicted here is filled at once (the caller waits for the fill). -/
def allocTierA (size : Nat) : Nat → State → Option (Nat × State)
  | 0, s => (allocIn s true size).map (fun a => (a, s))
  | n + 1, s => match allocIn s true size with
    | some a => some (a, s)
    | none => match nextVictim s isTa with
      | some v =>
        let s := evict s v
        let s := s.store.fills.foldl (fun s f => if inTierA f.base then memZero s f.base f.size else s) s
        allocTierA size n (answerWaits { s with store.fills := s.store.fills.filter (fun f => !inTierA f.base) })
      | none => none

/-- A place for `size` bytes in a tier. -/
def alloc (s : State) (tierA : Bool) (size : Nat) : Option (Nat × State) :=
  if tierA then allocTierA size s.store.regions.length s else (allocIn s false size).map (fun a => (a, s))

end Sys2Proof.Machine
end

