-- ==== Sys2Proof/Machine/CoreOps.lean ====
section
/-! DEFINITION. Operations of the cores: faults of memory and tags, the gathering buffer, windows, the scoreboard and issue
rules, the start of a work on a core, and what ends by itself once its conditions hold: QSYNC, SYNC and END (09; 10, R274 to
R276; 11, R284, R289, R303 to R306; 17, R431 to R437, R446; 19, R470 to R472; 23). -/

namespace Sys2Proof.Machine

/-! ## Ending a work -/

/-- The status that a work ends with when this fault meets it: that of the first cause (R216; 23, At the edges). -/
def endStatus (s : State) (w status : Nat) : Nat :=
  if isPart w then (match partOf s w with | some p => if p.status ≠ 0 then p.status else status | none => status)
  else match tget s.dsp.jobs w with
    | some j => (match j.quench with | some q => q.status | none => status)
    | none => status

/-- An error report of a work. -/
def workReport (s : State) (cls scope unit : Nat) (w : Option Nat) (status addr d0 d1 : Nat) : ErrRep :=
  match w with
  | none => report s cls scope unit 0 0 addr d0 d1
  | some w =>
    let r := report s cls scope unit (workTcid s w) (endStatus s w status) addr d0 d1
    if isPart w then { r with slot := workSlot s w, jgen := workGen s w } else withJob s r (some w)

/-- Sets SAT and NAN of a work (R346). -/
def flagWork (s : State) (w : Nat) (sat nan : Bool) : State :=
  if isPart w then modPart s w (fun p => { p with sat := p.sat || sat, nan := p.nan || nan })
  else match tget s.dsp.jobs w with
    | some j => { s with dsp.jobs := tset s.dsp.jobs w { j with sat := j.sat || sat, nan := j.nan || nan } }
    | none => s

/-! ## Uncorrectable words -/

def poisonWord (s : State) (a : Nat) : State :=
  if s.ecc.poison.contains a then s else { s with ecc.poison := s.ecc.poison ++ [a] }

/-- Retired banks of a core. -/
def retiredBanks (s : State) (c : Nat) : Nat := s.store.banks.countP (fun p => p.1 / 32 == c && p.2.retired)

/-- DETAIL0 of classes 0x01 to 0x03: bank, RES and row. -/
def spD0 (s : State) (a : Nat) : Nat :=
  spBank a % 32 + b2n (bank s (spBank a)).res * 32 + a % 0x40000 / 64 * 256

/-- Retires a bank (R248): tagged 0x000, OFF, its copies gone; the fifth of a core makes the core SUSPECT. -/
def retireBank (s : State) (a syn : Nat) : State :=
  let b := spBank a
  let c := b / 32
  if (bank s b).retired then s
  else
    let d0 := spD0 s a
    let s := (s.store.spCopies.filter (fun x => x.core == c && x.banks.contains b)).foldl dropSpCopy s
    let s := memZero s (0x80000000000 + b * 0x40000) 0x40000
    let s := { s with store.banks := tset s.store.banks b { retired := true, power := .off } }
    let n := retiredBanks s c
    let s := if 4 < n then hwHealth s (coreUnit c) .suspect true else s
    latch s (coreUnit c) (report s 0x03 (if 4 < n then 2 else 0) (coreUnit c) 0 0 a d0 (syn + n * 256))

/-- A scratchpad word that stays uncorrectable: its record, its poison, the copy it lies in, and its bank's retirement when it
had been rewritten (R246 to R248). -/
def spFault (s : State) (a syn cls : Nat) (w : Option Nat) : State :=
  let a := a / 8 * 8
  let c := spCore a
  let again := s.ecc.rewritten.contains a
  let s := latch s (coreUnit c) (workReport s cls (b2n w.isSome) (coreUnit c) w 0x0301 a (spD0 s a)
    (syn + retiredBanks s c * 256))
  let s := poisonWord s a
  let cs := s.store.spCopies.map (fun x => if x.core == c && x.banks.contains (spBank a) then { x with poisoned := true } else x)
  let s := { s with store.spCopies := cs }
  -- a copy that no admitted job holds goes at once (R247)
  let idle (x : SpCopy) : Bool := x.core == c && x.banks.contains (spBank a) && !objInUse s x.obj (some c)
  let s := (s.store.spCopies.filter idle).foldl loseCopy s
  let s := if spBank a % 32 = 31 then modCore s c (fun k => { k with bank31 := [], sec := if k.work.isSome then k.sec else none })
    else s
  if again then retireBank s a syn else s

/-- Retired granules of a controller. -/
def retiredGranules (s : State) (ctl : Nat) : Nat := s.store.retired.countP (fun g => tierCtl (g * 0x10000) == ctl)

/-- DETAIL0 of classes 0x04 to 0x06: pseudo-channel or channel, and granule index within the controller (R463). -/
def tierD0 (a : Nat) : Nat :=
  if inTierA a then bits a 8 5 + a / 0x40000 * 256
  else bits (a - 0x10000000000) 16 5 + (a - 0x10000000000) / 0x200000 * 256

/-- Withdraws a granule (R471); the 65th of a controller makes it SUSPECT. -/
def retireGranule (s : State) (a syn rereads : Nat) : State :=
  let g := a / 0x10000
  if s.store.retired.contains g then s
  else
    let s := { s with store.retired := s.store.retired ++ [g] }
    let u := ctlUnit (tierCtl a)
    let n := retiredGranules s (tierCtl a)
    let s := if 64 < n then hwHealth s u .suspect true else s
    latch s u (report s 0x06 (if 64 < n then 2 else 0) u 0 0 a (tierD0 a) (syn + rereads * 256 + n * 65536))

/-- Copies a commons object again from tier B into new granules when a word of its tier A copy is poisoned (R471). -/
def recopyCommons (s : State) (a : Nat) : State :=
  match s.store.commons.find? (fun p => p.2.sealed && decide (p.2.baseA ≤ a) && decide (a < p.2.baseA + p.2.size)) with
  | none => s
  | some (id, o) => match alloc s true o.size with
    | none => s
    | some (n, s) =>
      let s := memCopy s o.baseB n o.size
      { s with store.commons := tset s.store.commons id { o with baseA := n },
               store.fills := s.store.fills ++ [{ base := o.baseA, size := o.size }] }

/-- A tier word that stays uncorrectable (R470, R471). -/
def tierFault (s : State) (a syn rereads cls : Nat) (w : Option Nat) : State :=
  let a := a / 8 * 8
  let u := ctlUnit (tierCtl a)
  let again := s.ecc.rewritten.contains a
  let s := latch s u (workReport s cls (b2n w.isSome) u w 0x0301 a (tierD0 a)
    (syn + rereads * 256 + retiredGranules s (tierCtl a) * 65536))
  let s := poisonWord s a
  let rg := tmap s.store.regions (fun _ g => match g.copy with
    | some c => if c.base ≤ a && a < c.base + g.size then { g with copy := some { c with poisoned := true } } else g
    | none => g)
  let s := { s with store.regions := rg }
  let idle (p : Nat × Region) : Bool := (match p.2.copy with | some x => x.poisoned | none => false) && !objInUse s (.region p.1) none
  let s := (s.store.regions.filter idle).foldl (fun s p => dropTaCopy s p.1) s
  let s := if again then retireGranule s a syn rereads else s
  recopyCommons s a

/-- A memory word that stays uncorrectable at a read of a work, which ends (R246, R470); with no work, at a scrub. -/
def wordFault (s : State) (a syn : Nat) (w : Option Nat) : State :=
  let s := if inSp a then spFault s a syn (if w.isSome then 0x01 else 0x02) w
    else tierFault s a syn 3 (if w.isSome then 0x04 else 0x05) w
  match w with
  | some w => failWork s w 0x0301
  | none => s

/-- An error that a read finds in a word: a corrected one and a recovered one are counted, an uncorrectable one is recorded and
poisons the word (R246, R470). -/
def eccFound (s : State) (a : Nat) (find : EccFind) (w : Option Nat) : State :=
  match find with
  | .clean => s
  | .corrected =>
    if inSp a then corrected (countCore s (spCore a) 0x240 1) (spBank a)
    else corrected (ctrAdd s (if inTierA a then 0x200 else 0x208) 1) (0x10000 + tierCtl a)
  | .recovered _ => if inSp a then s else ctrAdd s (if inTierA a then 0x210 else 0x218) 1
  | .uncorrectable syn => wordFault s a syn.toNat w

/-- Errors that lie in the words of `n` bytes from `a`, in address order; a poisoned word is found uncorrectable again, with a free
syndrome. -/
def eccDue (s : State) (a n : Nat) : List (Nat × Option EccFind) :=
  (wordsOf a n).filterMap (fun x =>
    if s.ecc.poison.contains x then some (x, none) else (tget s.ecc.latent x).map (fun f => (x, some f)))

/-- Words are read for work `w`, with the errors that lie in them (R246, R470). Answers whether the data are good. -/
def eccMeet (s : State) (w : Option Nat) (due : List (Nat × Option EccFind)) : State × Bool :=
  due.foldl (fun (r : State × Bool) x =>
    match x.2 with
    | none => let (syn, s) := draw r.1 8; (wordFault s x.1 syn.toNat w, false)
    | some f =>
      let s := { r.1 with ecc.latent := tdel r.1.ecc.latent x.1 }
      (eccFound s x.1 f w, r.2 && (match f with | .uncorrectable _ => false | _ => true))) (s, true)

/-- Every word of `n` bytes from `a` is read for work `w` and checked (R246, R470). Answers whether the data are good. -/
def eccCheck (s : State) (a n : Nat) (w : Option Nat) : State × Bool :=
  if s.ecc.poison.isEmpty && s.ecc.latent.isEmpty then (s, true) else eccMeet s w (eccDue s a n)

/-- The same of a long range, of which only the words with an error are looked at. -/
def eccSweep (s : State) (a n : Nat) (w : Option Nat) : State × Bool :=
  let hit (x : Nat) : Bool := decide (a / 8 * 8 ≤ x) && decide (x < a + n)
  eccMeet s w ((s.ecc.poison.filter hit).map (fun x => (x, none))
    ++ (s.ecc.latent.filter (fun p => hit p.1 && !s.ecc.poison.contains p.1)).map (fun p => (p.1, some p.2)))

/-- A command brings what error correction finds at a word; a word that is already poisoned stays so. -/
def eccLay (s : State) (a : Nat) (find : EccFind) : State :=
  if find = .clean then s else { s with ecc.latent := tset s.ecc.latent (a / 8 * 8) find }

/-- A read of `n` bytes from `a` with what the command says that error correction finds at the first word (R246, R470). -/
def eccRead (s : State) (a n : Nat) (find : EccFind) (w : Option Nat) : State × Bool := eccCheck (eccLay s a find) a n w

/-- A read that no work makes and that leaves its records to its caller: the errors that lie in the range are corrected and
counted, or poison their words. -/
def eccSettle (s : State) (a n : Nat) : State :=
  (eccDue s a n).foldl (fun s x =>
    match x.2 with
    | none => s
    | some f =>
      let s := { s with ecc.latent := tdel s.ecc.latent x.1 }
      match f with
      | .uncorrectable _ => poisonWord s x.1
      | f => eccFound s x.1 f none) s

/-! ## The gathering buffer (R232, R233) -/

/-- Writes the valid bytes of a line, with the word rules of R229 and R472. Answers whether a poisoned word was met. -/
def maskWrite (s : State) (l : Line) : State × Bool :=
  (List.range 8).foldl (fun (r : State × Bool) i =>
    if bits l.mask (8 * i) 8 = 255 then
      let (s, b) := memPut r.1 (l.addr + 8 * i) (slice l.data (8 * i) 8)
      (s, r.2 || b)
    else (List.range 8).foldl (fun (r : State × Bool) j =>
      if bitAt l.mask (8 * i + j) then
        let (s, b) := memPut r.1 (l.addr + 8 * i + j) [l.data.getD (8 * i + j) 0]
        (s, r.2 || b)
      else r) r) (s, false)

/-- Words of a line that its valid bytes cover in part (R229, R472). -/
def partWords (l : Line) : List Nat :=
  ((List.range 8).filter (fun i => bits l.mask (8 * i) 8 != 0 && bits l.mask (8 * i) 8 != 255)).map (fun i => l.addr + 8 * i)

/-- A poisoned word among those that a write of a core's works covers in part was met: the works end, with an error record (R229, R472). -/
def partialFault (s : State) (c : Nat) (ws : List Nat) : State :=
  match ws.find? (fun x => s.ecc.poison.contains x) with
  | none => s
  | some p =>
    let (syn, s) := draw s 8
    let w := (core s c).work
    let s := if inSp p then spFault s p syn.toNat 0x01 w else tierFault s p syn.toNat 0 0x04 w
    failWorks s (coreWorks s c) 0x0301

/-- Flushes one line of a core's gathering buffer, of which the buffer still holds it; a word covered in part costs a cycle under
SP_PARTIAL (R229, R232). Its stores were performed when the buffer accepted them (R233). -/
def flushLine (s : State) (c : Nat) (l : Line) : State :=
  if !(core s c).gb.contains l then s
  else
    let s := modCore s c (fun k => { k with gb := k.gb.filter (fun x => x.addr != l.addr) })
    let ws := partWords l
    let s := stall s c 0x09 0 (b2n (!ws.isEmpty))
    let (s, bad) := maskWrite s l
    if bad then partialFault s c ws else s

/-- Flushes the lines of a core that pass. -/
def flushWhere (s : State) (c : Nat) (p : Line → Bool) : State :=
  ((core s c).gb.filter p).foldl (fun s l => flushLine s c l) s

/-- Another requester accesses a range of a scratchpad: the lines that overlap it are flushed first (R232). -/
def flushGb (s : State) (a n : Nat) : State :=
  if inSp a then flushWhere s (spCore a) (fun l => decide (l.addr < a + n) && decide (a < l.addr + 64)) else s

/-! ## Windows and engine accesses -/

/-- BASE, WR and SIZE of a window (Table 9-5). -/
def winBase (k : Core) (n : Nat) : Nat := bits (tgetD k.spwin n 0) 0 17
def winWr (k : Core) (n : Nat) : Bool := bitAt (tgetD k.spwin n 0) 17
def winSize (k : Core) (n : Nat) : Nat := bits (tgetD k.spwin n 0) 32 18

/-- The scratchpad offset of `n` bytes at a window offset; none when they lie outside the window (R235). -/
def winOff (k : Core) (win off n : Nat) (write : Bool) : Option Nat :=
  if winSize k win = 0 || winSize k win * 64 < off + n || (write && !winWr k win) then none
  else some (winBase k win * 64 + off)

/-- A refused access of a work: error record, and the work ends with TAG_VIOLATION (R46, R235). -/
def tagFault (s : State) (unit w a owner : Nat) (write window : Bool) : State :=
  let s := latch s unit (workReport s 0x07 1 unit (some w) 0x0501 (a % 2 ^ 44) (owner + b2n write * 4096 + b2n window * 8192) 0)
  failWork s w 0x0501

/-- What a read answers: the bytes, or the state after the fault that ended the work. -/
inductive Rd where
  | ok (bytes : List Byte) (s : State)
  | fail (s : State)

/-- The working banks of a core that a co-batch group occupies carry the tag of one member and take the drained rows of every member
(R41, R355; log entry 14). -/
def groupBank (s : State) (c t a : Nat) : Bool :=
  let ts := (core s c).occ
  inSp a && spCore a = c && decide (1 < ts.length) && !(bank s (spBank a)).res && ts.contains (bank s (spBank a)).owner && ts.contains t

/-- A write of a work has met a poisoned word that it covers in part: its record, and the work ends (R229, R472). -/
def partHit (s : State) (w p : Nat) : State :=
  let (syn, s) := draw s 8
  failWork (if inSp p then spFault s p syn.toNat 0x01 (some w) else tierFault s p syn.toNat 0 0x04 (some w)) w 0x0301

/-- An engine reads device memory as the TCID of a work. -/
def devRead (s : State) (c w a n : Nat) : Rd :=
  if n = 0 then .ok [] s
  else
    let s := flushGb s a n
    match endpoint s (workTcid s w) a n false with
    | .refused o => .fail (tagFault s (if inSp a then coreUnit c else ctlUnit (tierCtl a)) w a o false false)
    | .hole => .fail (tagFault s (coreUnit c) w a 0 false false)
    | .ok => match eccRead s a n .clean (some w) with
      | (s, true) => .ok (mread s.mem a n) s
      | (s, false) => .fail s

/-- An engine reads `n` bytes at a window offset. -/
def engRead (s : State) (c w win off n : Nat) : Rd :=
  if n = 0 then .ok [] s
  else match winOff (core s c) win off n false with
    | none => .fail (tagFault s (coreUnit c) w (spBase c + winBase (core s c) win * 64 + off) 0 false true)
    | some o => devRead s c w (spBase c + o) n

/-- Beats of 512 B in which a write of `n` bytes from `a` covers a word in part: at its two ends (R226, R229). -/
def partBeats (a n : Nat) : Nat :=
  let lo := decide (a % 8 ≠ 0 ∧ 0 < n)
  let hi := decide ((a + n) % 8 ≠ 0 ∧ 0 < n)
  if lo && hi && a / 512 == (a + n - 1) / 512 then 1 else b2n lo + b2n hi

/-- Engine `e` writes bytes to device memory for a work, under a TCID; in a scratchpad a beat with a word covered in part takes a second
cycle (R229). Answers whether the work goes on. -/
def devWriteAs (s : State) (c e w t a : Nat) (bs : List Byte) : State × Bool :=
  if bs.isEmpty then (s, true)
  else
    let s := flushGb s a bs.length
    match endpoint s t a bs.length true with
    | .refused o => (tagFault s (if inSp a then coreUnit c else ctlUnit (tierCtl a)) w a o true false, false)
    | .hole => (tagFault s (coreUnit c) w a 0 true false, false)
    | .ok => match memWrite (if inSp a then stall s c 0x09 e (partBeats a bs.length) else s) a bs with
      | (s, false) => (s, true)
      | (s, true) => (partHit s w ((poisonedIn s a bs.length).headD a), false)

/-- Engine `e` writes bytes to device memory as the TCID of a work. -/
def devWrite (s : State) (c e w a : Nat) (bs : List Byte) : State × Bool := devWriteAs s c e w (workTcid s w) a bs

/-- Engine `e` writes bytes at a window offset, under a TCID. -/
def engWriteAs (s : State) (c e w t win off : Nat) (bs : List Byte) : State × Bool :=
  if bs.isEmpty then (s, true)
  else match winOff (core s c) win off bs.length true with
    | none => (tagFault s (coreUnit c) w (spBase c + winBase (core s c) win * 64 + off) 0 true true, false)
    | some o => devWriteAs s c e w t (spBase c + o) bs

/-- Engine `e` writes bytes at a window offset. -/
def engWrite (s : State) (c e w win off : Nat) (bs : List Byte) : State × Bool := engWriteAs s c e w (workTcid s w) win off bs

/-! ## Tile instruction fields, scoreboard and issue -/

def iEngine (i : Nat) : Nat := bits i 0 4
def iOp (i : Nat) : Nat := bits i 4 6
def iAcc (i : Nat) : Nat := bits i 10 4
def iTag (i : Nat) : Nat := bits i 14 4

/-- Accumulator sets an instruction reads and writes (R305). -/
def accReads (i : Nat) : List Nat :=
  if iEngine i = 2 then iAcc i :: (if bitAt i 22 then [bits i 18 4] else [])
  else if iEngine i = 3 && bitAt i 27 then [iAcc i] else []

def accWrites (i : Nat) : List Nat := if iEngine i = 1 || iEngine i = 4 then [iAcc i] else []

/-- Unretired instructions of a core: ENGINE code, placement order, instruction (those whose accumulator work is not yet
done). -/
def inFlight (k : Core) : List (Nat × Nat × Nat) :=
  k.passes.map (fun p => (1, p.ord, p.inst)) ++ (match k.merge with | some m => [(4, m.ord, m.inst)] | none => [])

/-- The accumulator rule of R305. -/
def accReady (k : Core) (e : Nat) (q : QEnt) : Bool :=
  let names := accReads q.inst ++ accWrites q.inst
  let waiting := k.queues.flatMap (fun p => if p.1 = e then [] else
    (p.2.filter (fun x => !x.bar && decide (x.ord < q.ord))).map (fun x => x.inst))
  let flying := ((inFlight k).filter (fun x => x.1 != e && decide (x.2.1 < q.ord))).map (fun x => x.2.2)
  (waiting ++ flying).all (fun i => (accWrites i).all (fun a => !names.contains a))
    && waiting.all (fun i => (accReads i).all (fun a => !(accWrites q.inst).contains a))

/-- Tag firing (R437). -/
def fireOk (k : Core) (e tag : Nat) : Bool :=
  let f := tgetD k.fire e 0
  let carries (r : Nat) : Bool := match (tgetD k.circ r {}).toks with | t :: _ => t.tag == tag | [] => false
  (maskBits (bits f 0 16) 16).all carries && (bits f 16 16 = 0 || (maskBits (bits f 16 16) 16).any carries)

/-- Scratchpad byte range of a window operand for the scoreboard, at 64 B granularity. -/
def opRange (k : Core) (win off len : Nat) (write : Bool) : Rng :=
  let lo := winBase k win * 64 + off
  { lo := lo / 64 * 64, hi := roundUp (lo + len) 64, write := write, ord := 0 }

/-- A range may be taken (R238). -/
def rngFree (k : Core) (r : Rng) : Bool :=
  k.rngs.all (fun x => !(decide (x.lo < r.hi) && decide (r.lo < x.hi) && (r.write || x.write)))

/-- The head of an engine queue. -/
def queueHead (k : Core) (e : Nat) : Option QEnt := (tgetD k.queues e []).head?

/-- Takes the head off an engine queue. -/
def popQueue (k : Core) (e : Nat) : Core := { k with queues := tmod k.queues e [] (fun l => l.drop 1) }

/-- The common issue rule of a queue head (R304): it is this operation, the scoreboard has room and no overlap, the
accumulator rule and tag firing hold. -/
def issues (k : Core) (e : Nat) (ops : List Nat) (ranges : Nat → List Rng) : Option QEnt :=
  match queueHead k e with
  | none => none
  | some q =>
    if !q.bar && ops.contains (iOp q.inst) && k.work.isSome && accReady k e q && fireOk k e (iTag q.inst)
        && (ranges q.inst).all (rngFree k) && decide (k.rngs.length + (ranges q.inst).length ≤ 32)
    then some q else none

/-- Holds an issued instruction's ranges for the queue that owns them (R238). -/
def takeRanges (k : Core) (e ord : Nat) (rs : List Rng) : Core :=
  { k with rngs := k.rngs ++ rs.map (fun r => { r with eng := e, ord := ord }) }

/-- Frees the ranges of an instruction. -/
def freeRanges (k : Core) (ord : Nat) : Core := { k with rngs := k.rngs.filter (fun r => r.ord != ord) }

/-- An issued instruction ends at once because its work has: its ranges are freed when its suppressed operations retire (11, At the
edges). -/
def dropInstr (s : State) (c ord : Nat) : State := modCore s c (fun k => freeRanges k ord)

/-- SAT and NAN of a DRAIN's rows, by owner, reach the owners' works when it has finished (R346). -/
def rowFlags (s : State) (c : Nat) (fs : List (Nat × Bool × Bool)) : State :=
  fs.foldl (fun s f => match workOfTcid s c f.1 with
    | some w => if f.2.1 || f.2.2 then flagWork s w f.2.1 f.2.2 else s
    | none => s) s

/-- One of the operations that an issued instruction waits for has been performed; the last one retires it. -/
def pendDone (s : State) (c ord : Nat) : State :=
  let k := core s c
  match k.pend.find? (fun p => p.ord == ord) with
  | none => s
  | some p =>
    if 1 < p.left then
      setCore s c { k with pend := k.pend.map (fun x => if x.ord = ord then { x with left := x.left - 1 } else x) }
    else
      let k := { k with pend := k.pend.filter (fun x => x.ord != ord),
                        drnStatus := if p.eng = 2 then p.drn else k.drnStatus }
      let s := rowFlags (setCore s c (freeRanges k ord)) c p.flags
      if p.cycles = 0 then s else count s c p.word p.cycles

/-! ## Sections and the start of a work -/

/-- The image's description. -/
def imageDesc (s : State) (img : Nat) : Option ImageDesc := (tget s.store.images img).map (fun i => i.desc)

/-- The place in a work's plan of a chain position: the image of a remote stage holds the plan of that stage alone, so its places count
from the part's first position. -/
def planIx (s : State) (w q : Nat) : Nat :=
  if isPart w then (match partOf s w with | some p => q - p.q0 | none => q) else q

/-- The image and section index that a work runs on a core in its present round. -/
def sectionOf (s : State) (w c : Nat) : Option (Nat × Nat) :=
  match imageDesc s (workImage s w), (workChain s w).find? (fun p => p.2 == c) with
  | some d, some (q, _) => match d.plans[workPlan s w]? with
    | some p => match p.rounds[workRound s w]? with
      | some r => r[planIx s w q]?.map (fun i => (workImage s w, i))
      | none => none
    | none => none
  | _, _ => none

/-- Rounds of a work's plan. -/
def roundsOf (s : State) (w : Nat) : Nat :=
  match imageDesc s (workImage s w) with
  | some d => match d.plans[workPlan s w]? with
    | some p => p.rounds.length
    | none => 1
  | none => 1

def secDesc (s : State) (x : Nat × Nat) : Option SectionDesc :=
  match imageDesc s x.1 with
  | some d => d.sections[x.2]?
  | none => none

def workExts (s : State) (w : Nat) : List Nat :=
  if isPart w then (match partOf s w with | some p => p.exts | none => [])
  else match tget s.dsp.jobs w with | some j => j.exts | none => []

def workBuckets (s : State) (w : Nat) : List Nat :=
  if isPart w then (match partOf s w with | some p => p.buckets | none => [])
  else match tget s.dsp.jobs w with | some j => j.buckets | none => []

/-- The extent registers of a work (R431): a co-batch group holds the sum of the members' batch extents. -/
def extRegs (s : State) (w : Nat) : List Nat :=
  let own := workExts s w
  match imageDesc s (workImage s w) with
  | some d => (List.range 4).map (fun i =>
      if d.batchDim = some i && 1 < (members s w).length then (members s w).foldl (fun n m => n + (workExts s m).getD i 0) 0
      else own.getD i 0)
  | none => (List.range 4).map (fun i => own.getD i 0)

def Walk.restart (x : Walk) : Walk := { w := x.w }

/-- A program counter, whose bits [1:0] are always zero (R281). -/
def pcOf (x : Word) : Word := x &&& ~~~3#64

/-- A sequencer at the start of a job or frame (R284). -/
def Seq.start (q : Seq) : Seq :=
  { q with pc := pcOf q.entry, run := .run, ie := false, intrap := false, timer := 0, ip := 0, tokReg := 0, imask := 0, res := none,
           hold := false, since := 0, defer := 0, begun := false }

/-- A work starts on a core whose section is loaded (R284, R417, R428, R429, R431, R435). -/
def startWork (s : State) (c w : Nat) : State :=
  let k := core s c
  let s := setCore s c
    { k with work := some w, seq := k.seq.start, ext := extRegs s w,
             bkt := (List.range 4).map (fun i => (workBuckets s w).getD i 0), chnCur := workTag s w,
             walks := tmap k.walks (fun _ x => x.restart),
             feeds := k.feeds.map (fun f => { f with walk := f.walk.restart }), hot := [], hotN := 0, gthRead := 0,
             lastMma := none, heldB := [], passNum := 0, quantNum := 0, doze := false }
  let s := countCore s c 0x008 1
  let i := match k.sec with | some (_, i) => i | none => 0
  traceCore s c (coreTcids s c) (workTag s w) 0x02 (i % 256 + workPlan s w % 64 * 256 + workImage s w * 2 ^ 32)

/-- A work that waits for a staging order (R17). -/
def staging (s : State) (w : Nat) : Bool := s.store.orders.any (fun o => o.jobs.contains w)

/-- Works admitted on a core that may run there next, with their admission numbers. -/
def waitingWorks (s : State) (c : Nat) : List (Nat × Nat) :=
  (s.dsp.jobs.filter (fun e => e.2.quench.isNone && e.2.chain.any (fun p => p.2 == c) && !e.2.ended.contains c
      && (e.2.group.isEmpty || (members s e.1).head? == some e.1)
      && (e.2.stream.isNone || e.2.frame.isSome))).map (fun e => (e.2.order, e.1))
    ++ (s.dsp.parts.filter (fun p => p.status = 0 && p.quench.isNone && p.cores.contains c && !p.ended.contains c)).map
      (fun p => (p.order, p.work))

/-- A core with no work takes the one admitted earliest (R435). With its section loaded the work starts at once, else it waits
for the configuration loader. -/
def kick (s : State) (c : Nat) : State :=
  let k := core s c
  if k.work.isSome || k.filling then s
  else match minBy (fun x => x.1) (waitingWorks s c) with
    | none => s
    | some (_, w) =>
      if (members s w).any (staging s) then s
      else if k.sec.isSome && k.sec = sectionOf s w c then startWork s c w
      else setCore s c { k with work := some w, doze := false, chnCur := workTag s w, seq := { k.seq with run := .idle } }

/-! ## END -/

/-- Keys of the job summary that are flagged hot (R417). -/
def flagged (k : Core) : List HotKey := k.hot.filter (fun h => decide (k.hotN < 128 * h.est))

/-- The flagged key with the highest estimate, ties to the lower table and then the lower row (R418). -/
def topHot : List HotKey → Option HotKey
  | [] => none
  | h :: t => match topHot t with
    | none => some h
    | some x =>
      if x.est < h.est || (x.est = h.est && (h.table < x.table || (h.table = x.table && h.row < x.row))) then some h else some x

/-- The dispatcher takes a core's hot flags into a job (R418). -/
def takeFlags (j : Job) (c : Nat) (fs : List HotKey) : Job :=
  match topHot fs with
  | none => j
  | some h =>
    let j := { j with hotCount := j.hotCount + fs.length }
    if c < j.hotCore then { j with hotCore := c, hotFirst := some h.row } else j

/-- Flagged rows of SHARDED tables wait for Swifort to replicate them (R419): owner's region and row. -/
def shardedRows (k : Core) (fs : List HotKey) : List (Nat × Nat) :=
  fs.filterMap (fun h =>
    let t := tgetD k.tbl h.table []
    if bits (t.getD 0 0) 44 2 = 2 then
      let sh := bits (t.getD 3 0) 0 32
      let e := tgetD k.smap (bits (t.getD 3 0) 40 10 + h.row / max 1 sh) 0
      some (bits e 32 32, h.row)
    else none)

/-- Every core of a work has ended its round: the work goes on to the next, for which each core loads its section (R445). A remote part
is advanced by its own tray. -/
def nextRound (s : State) (w : Nat) : State :=
  let s := if isPart w then modPart s w (fun p => { p with round := p.round + 1, ended := [] })
    else { s with dsp.jobs := (members s w).foldl (fun t m => match tget t m with
                                | some j => tset t m { j with round := j.round + 1, ended := [] }
                                | none => t) s.dsp.jobs }
  (workChain s w).foldl (fun s p => modCore s p.2 (fun k => { k with seq := { k.seq with run := .idle } })) s

/-- A core reports its part of its work as done (R289, R446, R451, R411, R417). -/
def reportEnd (s : State) (c : Nat) : State :=
  let k := core s c
  match k.work with
  | none => s
  | some w =>
    if k.circ.any (fun p => decide (0 < p.2.size) && !p.2.toks.isEmpty) then failWorks s (members s w) 0x0102
    else
      let s := closeRec s c false
      let last := decide (roundsOf s w ≤ workRound s w + 1)
      let fs := flagged k
      let ms := members s w
      let s := modCore s c (fun k => { k with seq := { k.seq with run := .done }, win := if last then [] else k.win,
                                              work := if last then none else k.work })
      if isPart w then
        let s := modPart s w (fun p => { p with ended := p.ended ++ [c] })
        match partOf s w with
        | some p =>
          if p.cores.all (fun x => p.ended.contains x) then
            if last then kick (sendTxn s p.origin (.report 0 p.sat p.nan) p.tcid p.slot p.gen none 64 0) c
            else nextRound s w
          else kick s c
        | none => s
      else
        let s := ms.foldl (fun s m => match tget s.dsp.jobs m with
          | some j =>
            let j := takeFlags { j with ended := j.ended ++ [c] } c (if last then fs else [])
            { s with dsp.jobs := tset s.dsp.jobs m j }
          | none => s) s
        let t := workTcid s w
        let s := if last && (tenant s t).hotMode = 1 && !fs.isEmpty then
            let more := ((shardedRows k fs).map (fun x => (t, x.1, x.2))).filter (fun x => !s.store.hotRows.contains x)
            { s with store.hotRows := s.store.hotRows ++ more } else s
        kick s c

/-! ## What ends by itself -/

/-- The placement order of the barrier at the head of every queue, when every earlier instruction has retired (R275). -/
def barrierDone (k : Core) : Bool :=
  match queueHead k 1 with
  | some b => b.bar && (List.range 7).all (fun i => match queueHead k (i + 1) with | some q => q.bar | none => false)
      && k.passes.isEmpty && k.merge.isNone && k.gather.isNone && k.pend.isEmpty
  | none => false

def anyBarrier (k : Core) : Bool := k.queues.any (fun p => p.2.any (fun q => q.bar))

/-- Everything SYNC covers has been performed (R274, R275). -/
def syncDone (q : Seq) (k : Core) : Bool := q.sb.isEmpty && q.early.isEmpty && q.cb.isEmpty && !anyBarrier k

/-- A sequencer whose instruction has retired: at `pc` and at a boundary, the count of R296 advanced; with the 16th instruction since the
LDRES nothing is put off any more. -/
def Seq.next (q : Seq) (pc : Word) : Seq :=
  let n := if q.res.isSome || q.defer != 0 then q.since + 1 else 0
  { q with pc := pc, run := .run, since := n, defer := if 16 ≤ n then 0 else q.defer, begun := false }

/-- An instruction retires: the pc moves on, the count of R296 and INSTR_RETIRED rise. -/
def retireSeq (s : State) (ag : Nat) (pc : Word) : State :=
  let s := setSeq s ag ((seqOf s ag).next pc)
  if ag < 64 then countCore s ag 0x000 1 else s

/-- One round of settling a core: a completed QSYNC leaves the queues, a completed SYNC or END ends. -/
def settle1 (s : State) (c : Nat) : State :=
  let k := core s c
  let s := if barrierDone k then setCore s c ((List.range 7).foldl (fun k i => popQueue k (i + 1)) k) else s
  let k := core s c
  match k.seq.run with
  | .sync => if syncDone k.seq k then retireSeq s c (k.seq.pc + 4) else s
  | .ending => if syncDone k.seq k then reportEnd (countCore s c 0x000 1) c else s
  | _ => s

/-- Settles a core: at most one barrier per queue place, then SYNC and END. -/
def settle (s : State) (c : Nat) : State := (List.range 17).foldl (fun s _ => settle1 s c) s

/-- Settles an agent. -/
def settleAg (s : State) (ag : Nat) : State :=
  if ag < 64 then settle s ag
  else match s.swi.run with
    | .sync => if s.swi.sb.isEmpty && s.swi.early.isEmpty && s.swi.cb.isEmpty then retireSeq s 64 (s.swi.pc + 4) else s
    | _ => s

/-- A row of an engine queue: while the domains run, the queue's head issues when it is this operation and may (R304); a write of
it waits for an end point that holds off stores (R270). -/
def engineRow (s : State) (c e : Nat) (ops : List Nat) (ranges : Core → Nat → List Rng) (ready : Core → Nat → Bool)
    (body : State → Nat → QEnt → State) : State :=
  if !domainsUp s then s
  else
    let k := core s c
    match issues k e ops (ranges k) with
    | none => s
    | some q => match k.work with
      | none => s
      | some w => if ready k q.inst then waitHold none s (settle (body (setCore s c (popQueue k e)) w q) c) else s

end Sys2Proof.Machine
end

