-- ==== Sys2Proof/Machine/TileCheck.lean ====
section
/-! DEFINITION. The fields of tile instructions and TISS's check of them (R299 to R302, Tables 11-7 to 11-11; 13, R336; 14, R357,
R371, R377; 15, R390, R391; 16, R404, R416; 17, R440). A tile instruction is its 128-bit number. -/

namespace Sys2Proof.Machine

/-! ## Folds (Table 11-10) -/

def foldF (f : Nat) : Nat := 2 ^ (f % 4)
/-- K and the largest M of a fold. -/
def foldK (f : Nat) : Nat := 128 / foldF f
/-- N of a fold. -/
def foldN (f : Nat) : Nat := 128 * foldF f

/-! ## Fields -/

-- MMA and PRELOAD (Tables 11-8, 13-1)
def mStat (i : Nat) : Nat := bits i 18 2
def mFold (i : Nat) : Nat := bits i 20 2
def mAfmt (i : Nat) : Nat := bits i 22 3
def mBfmt (i : Nat) : Nat := bits i 25 3
def mAtype (i : Nat) : Nat := bits i 28 4
def mBtype (i : Nat) : Nat := bits i 32 4
def mMv (i : Nat) : Nat := bits i 36 8
def mNv (i : Nat) : Nat := bits i 44 11
def mKv (i : Nat) : Nat := bits i 55 8
def mAccum (i : Nat) : Bool := bitAt i 63
def mHold (i : Nat) : Bool := bitAt i 127
-- operand places shared by MMA, PRELOAD (A), MERGE, CENSUS (S), GATHER (I, D) and DRAIN (D at 64)
def f1Win (i : Nat) : Nat := bits i 64 2
def f1Off (i : Nat) : Nat := bits i 66 17
def f1Len (i : Nat) : Nat := bits i 83 11
def f2Win (i : Nat) : Nat := bits i 94 2
def f2Off (i : Nat) : Nat := bits i 96 17
def f2Len (i : Nat) : Nat := bits i 113 11
-- DRAIN (Table 11-11)
def dAcc2 (i : Nat) : Nat := bits i 18 4
def dMerge2 (i : Nat) : Bool := bitAt i 22
def dShadow (i : Nat) : Bool := bitAt i 23
def dOtype (i : Nat) : Nat := bits i 28 4
def dChain (i : Nat) : Nat := bits i 55 6
def dCore (i : Nat) : Nat := bits i 94 6
def dReg (i : Nat) : Nat := bits i 100 4
-- VECTOR (Table 15-1)
def vXtype (i : Nat) : Nat := bits i 18 4
def vOtype (i : Nat) : Nat := bits i 22 4
def vMasken (i : Nat) : Bool := bitAt i 26
def vXacc (i : Nat) : Bool := bitAt i 27
def vRows (i : Nat) : Nat := bits i 28 7 + 1
def vYbcast (i : Nat) : Bool := bitAt i 35
def vCols (i : Nat) : Nat := bits i 36 12
def vParam (i : Nat) : Nat := bits i 48 16
def vYwin (i : Nat) : Nat := bits i 83 2
def vYoff (i : Nat) : Nat := bits i 85 17
def vDwin (i : Nat) : Nat := bits i 102 2
def vDoff (i : Nat) : Nat := bits i 104 17
def vMsel (i : Nat) : Nat := bits i 121 3
-- MERGE (Table 14-5)
def gAccum (i : Nat) : Bool := bitAt i 18
def gFold (i : Nat) : Nat := bits i 19 2
def gAfmt (i : Nat) : Nat := bits i 21 1
def gBfmt (i : Nat) : Nat := bits i 22 2
def gAtype (i : Nat) : Nat := bits i 24 4
def gBtype (i : Nat) : Nat := bits i 28 4
def gMv (i : Nat) : Nat := bits i 32 8
def gNv (i : Nat) : Nat := bits i 40 11
def gStride (i : Nat) : Nat := bits i 51 3
def gPhase (i : Nat) : Nat := bits i 54 3
-- GATHER and FREQ (Tables 16-3, 16-4)
def hTable (i : Nat) : Nat := bits i 18 4
def hPool (i : Nat) : Nat := bits i 22 2
def hWeighted (i : Nat) : Bool := bitAt i 24
def hOtype (i : Nat) : Nat := bits i 25 4
def hJobsum (i : Nat) : Bool := bitAt i 22
-- STEER (Table 17-4)
def tSreg (i : Nat) : Nat := bits i 18 4
def tRelease (i : Nat) : Bool := bitAt i 22
def tCond (i : Nat) : Nat := bits i 23 2
def tPword (i : Nat) : Nat := bits i 25 14
def tKval (i : Nat) : Nat := bits i 64 32
def tCore0 (i : Nat) : Nat := bits i 96 6
def tReg0 (i : Nat) : Nat := bits i 102 4
def tCore1 (i : Nat) : Nat := bits i 106 6
def tReg1 (i : Nat) : Nat := bits i 112 4

/-! ## Checks -/

def within (lo hi x : Nat) : Bool := decide (lo ≤ x) && decide (x ≤ hi)

/-- A length in 256 B units (1 to 1,024). -/
def lenOk (x : Nat) : Bool := within 1 1024 x

/-- Type pairs of Table 11-9 but for INT4. -/
def pairOk (a b : Nat) : Bool :=
  (a == 0 && b == 0) || ((a == 1 || a == 2) && (b == 1 || b == 2)) || (a == 3 && b == 3) || (a == 4 && b == 4)

/-- INT8 A with INT4 B. -/
def int4Pair (a b : Nat) : Bool := a == 0 && b == 7

def mmaOk (i : Nat) : Bool :=
  decide (mStat i ≤ 2) && mAfmt i == 0 && decide (mBfmt i ≤ 2)
    && (pairOk (mAtype i) (mBtype i) || (int4Pair (mAtype i) (mBtype i) && mStat i == 0))
    && (mFold i == 0 || mStat i == 0) && (mBfmt i == 0 || mStat i == 0)
    && within 1 (foldK (mFold i)) (mMv i) && within 1 (foldN (mFold i)) (mNv i) && within 1 (foldK (mFold i)) (mKv i)
    && lenOk (f1Len i) && lenOk (f2Len i) && bits i 124 3 == 0

def preloadOk (i : Nat) : Bool :=
  decide (bits i 18 2 ≤ 1) && bits i 22 6 == 0 && [0, 3, 4, 5, 6].contains (mAtype i) && bits i 32 4 == 0
    && within 1 (foldK (mFold i)) (mMv i) && within 1 (foldN (mFold i)) (mNv i) && bits i 55 9 == 0
    && lenOk (f1Len i) && bits i 94 34 == 0

def drainOk (i : Nat) : Bool :=
  bits i 24 4 == 0 && decide (dOtype i ≤ 7) && bits i 32 4 == 0 && within 1 128 (mMv i) && within 1 1024 (mNv i)
    && bits i 61 3 == 0
    && (if iOp i = 1 then lenOk (f1Len i) && bits i 94 34 == 0 else bits i 64 30 == 0 && bits i 104 24 == 0)

/-- No Y operand. -/
def noY (i : Nat) : Bool := !vYbcast i && bits i 83 19 == 0
/-- No D operand. -/
def noD (i : Nat) : Bool := bits i 102 19 == 0

def vectorOk (i : Nat) : Bool :=
  decide (vXtype i ≤ 6) && decide (vOtype i ≤ 6) && bits i 124 4 == 0
    && within 1 (if vXacc i then 1024 else 2048) (vCols i)
    && (if vXacc i then bits i 64 19 == 0 else iAcc i == 0)
    && (match iOp i with
      | 0x01 | 0x02 | 0x03 | 0x05 | 0x06 => vParam i == 0
      | 0x07 => vParam i == 0 && noY i
      | 0x08 => vRows i == 1 && noD i && vOtype i == 0 && bits i 50 2 == 0 && bits i 55 9 == 0
      | 0x09 => vRows i == 1 && noD i && noY i && vOtype i == 0 && vXtype i == 0 && !vXacc i && bits i 48 4 == 0
          && bits i 55 9 == 0
      | 0x0A => vMasken i && vParam i == 0
      | 0x10 | 0x11 | 0x12 => vParam i == 0 && noY i
      | 0x18 => !vYbcast i && bits i 57 7 == 0
      | 0x20 => noY i && !vXacc i && (vXtype i == 5 || vXtype i == 6)
      | 0x21 => noY i && noD i && vOtype i == 0 && bits i 50 14 == 0
      | _ => false)

def mergeOk (i : Nat) : Bool :=
  (match iOp i with
    | 1 => gAfmt i == 1 && gBfmt i == 0 && pairOk (gAtype i) (gBtype i)
    | 2 => gAfmt i == 0 && (gBfmt i == 1 || gBfmt i == 2) && (pairOk (gAtype i) (gBtype i) || int4Pair (gAtype i) (gBtype i))
    | 3 => gAfmt i == 1 && gBfmt i == 1 && (pairOk (gAtype i) (gBtype i) || int4Pair (gAtype i) (gBtype i))
    | _ => false)
    && within 1 (foldK (gFold i)) (gMv i) && within 1 (foldN (gFold i)) (gNv i) && decide (gPhase i ≤ gStride i)
    && bits i 57 7 == 0 && lenOk (f1Len i) && (if gBfmt i = 2 then f2Win i == 0 && f2Len i == 0 else lenOk (f2Len i))
    && bits i 124 4 == 0

/-- A table register holds a table. -/
def tblValid (k : Core) (n : Nat) : Bool := bitAt ((tgetD k.tbl n []).getD 0 0) 57

def gatherOk (k : Core) (i : Nat) : Bool :=
  iAcc i == 0 && tblValid k (hTable i) && decide (hPool i ≤ 2) && !(hWeighted i && hPool i == 0)
    && within 3 5 (hOtype i) && bits i 29 35 == 0 && lenOk (f1Len i) && lenOk (f2Len i) && bits i 124 4 == 0

def censusOk (k : Core) (i : Nat) : Bool :=
  iAcc i == 0 && lenOk (f1Len i)
    && (match iOp i with
      | 1 => bits i 18 46 == 0 && bits i 94 34 == 0
      | 2 => tblValid k (hTable i) && bits i 23 41 == 0 && bits i 113 15 == 0
      | _ => false)

def steerOk (i : Nat) : Bool := iAcc i == 0 && bits i 39 25 == 0 && bits i 116 12 == 0

/-- R302: every field that TISS can decode. -/
def tileOk (k : Core) (i : Nat) : Bool :=
  match iEngine i, iOp i with
  | 1, 1 => mmaOk i
  | 1, 2 => preloadOk i
  | 2, 1 | 2, 2 | 2, 3 => drainOk i
  | 3, _ => vectorOk i
  | 4, _ => mergeOk i
  | 5, 1 => gatherOk k i
  | 6, _ => censusOk k i
  | 7, 1 => steerOk i
  | _, _ => false

end Sys2Proof.Machine
end

