-- ==== Sys2Proof/Machine/Array.lean ====
section
/-! DEFINITION. The matrix array: MMA, its checks and commit, and PRELOAD (12; 13, R332 to R343). -/

namespace Sys2Proof.Machine

/-! ## Reading operands -/

/-- What a read of several rows answers. -/
inductive Rows where
  | ok (rows : List (List Byte)) (s : State)
  | fail (s : State)

/-- Reads `cnt` rows of `n` bytes at pitch `pitch`, from row `i` on. -/
def readRows (c w win off pitch n : Nat) : Nat → Nat → State → Rows
  | 0, _, s => .ok [] s
  | cnt + 1, i, s =>
    match engRead s c w win (off + i * pitch) n with
    | .fail s => .fail s
    | .ok bs s => match readRows c w win off pitch n cnt (i + 1) s with
      | .ok rows s => .ok (bs :: rows) s
      | .fail s => .fail s

/-- Cycles beyond the first of a strided beat whose rows have these numbers in the scratchpad: the rows are read bank by bank, and in each
bank a sub-array's rows one by one (R227). -/
def beatStalls (rows : List Nat) : Nat :=
  let banks := rows.foldl (fun l r => if l.contains (r / 4096) then l else l ++ [r / 4096]) []
  banks.foldl (fun n b => n + (List.range 8).foldl (fun m a => max m (rows.countP (fun r => r / 4096 == b && r % 8 == a))) 0) 0 - 1

/-- SP_STRIDE cycles of reading `cnt` rows of `n` bytes at a pitch of `st` rows of 64 B, from row `row` of the scratchpad: rows that do not
adjoin are read with strided beats of eight, for each 64 B column of theirs (R227; log entry 88). -/
def strideStalls (row st n cnt : Nat) : Nat :=
  let cols := cdiv n 64
  if cols = 0 || st ≤ cols || 4095 < st then 0
  else (List.range cols).foldl (fun t j => (List.range (cdiv cnt 8)).foldl (fun t i =>
    t + beatStalls ((List.range (min 8 (cnt - 8 * i))).map (fun k => row + j + (8 * i + k) * st))) t) 0

/-- Engine `e` reads the rows of a tile. -/
def readTile (e c w win off pitch n cnt : Nat) (s : State) : Rows :=
  match readRows c w win off pitch n cnt 0 s with
  | .ok rows s => .ok rows (stall s c 0x08 e (strideStalls (winBase (core s c) win + off / 64) (pitch / 64) n cnt))
  | .fail s => .fail s

/-- Length of a row of `n` elements in the tile layout (R337). -/
def pitchOf (t : EType) (n : Nat) : Nat := roundUp (t.size n) 64

/-- The first `n` elements of packed bytes. -/
def elems (t : EType) (bs : List Byte) (n : Nat) : List Nat := (List.range n).map (t.at bs)

/-! ## Accumulator sets (R332 to R334) -/

/-- Word of element (m, n) of a fold. -/
def accWord (f m n : Nat) : Nat := n % 128 + 128 * (m + n / 128 * foldK f)

/-- Row and column of a word. -/
def wordRow (f wd : Nat) : Nat := wd / 128 % foldK f
def wordCol (f wd : Nat) : Nat := wd / 128 / foldK f * 128 + wd % 128

def accSet (k : Core) (a : Nat) : AccSet := tgetD k.acc a {}
def accRow (x : AccSet) (m : Nat) : AccRow := tgetD x.rows m {}

/-- The value of an element; a CLEAR row reads +0 (R333). -/
def accGet (x : AccSet) (f m n : Nat) : Nat := if (accRow x m).clear then 0 else tgetD x.words (accWord f m n) 0

def allClear (x : AccSet) : Bool := x.rows.all (fun p => p.2.clear)

/-- One addition into a set, with one rounding and saturation (R339, R342); answers whether it saturated. -/
def accAdd (isF : Bool) (a b : Nat) : Nat × Bool :=
  if isF then addSat32 a (f32 b)
  else let (v, sat) := satInt 32 (i32 a + i32 b); (patInt 32 v, sat)

/-- A value of a set is NaN. -/
def accNan (isF : Bool) (x : Nat) : Bool := isF && isNan32 x

/-- The owner of row `m`: the TCID of the co-batch table's entry that holds it (R383), else the work's. -/
def rowOwner (s : State) (c m : Nat) : Nat :=
  let k := core s c
  match (List.range k.cbn).find? (fun i =>
      let e := tgetD k.cbt i 0
      decide (bits e 12 7 ≤ m) && decide (m < bits e 12 7 + bits e 19 8)) with
  | some i => bits (tgetD k.cbt i 0) 0 12
  | none => match k.work with | some w => workTcid s w | none => 0

/-- Works that own the rows of a result. -/
def rowWorks (s : State) (c : Nat) (owners : List Nat) : List Nat :=
  (coreWorks s c).filter (fun w => owners.contains (workTcid s w))

/-- The type and fold tag that uncommitted passes will leave in a set. -/
def pendTag (k : Core) (a : Nat) : Option (Bool × Nat) :=
  (k.passes.reverse.find? (fun p => iAcc p.inst == a)).map (fun p => (!(etypeOf (mAtype p.inst)).isInt, mFold p.inst))

/-- An accumulating instruction agrees with the tags of its set (R333). -/
def tagsAgree (k : Core) (a : Nat) (t : Bool × Nat) : Bool :=
  match pendTag k a with
  | some u => u == t
  | none => allClear (accSet k a) || (accSet k a).tag == some t

/-- A pass result enters its set (R333, R334, R339, R311): rows from MV and columns from NV hold zero products. -/
def commitTile (x : AccSet) (isF : Bool) (fold : Nat) (accum : Bool) (mv nv : Nat) (prod : Tab Nat) (rows : List ResRow)
    (ownerOf : Nat → Nat) : AccSet :=
  let old (wd : Nat) : Nat := if (accRow x (wordRow fold wd)).clear then 0 else tgetD x.words wd 0
  let here (wd : Nat) : Bool := decide (wordRow fold wd < mv) && decide (wordCol fold wd < nv)
  let new (wd : Nat) : Nat × Bool :=
    let p := tgetD prod wd 0
    if !accum then (p, false) else if here wd then accAdd isF (old wd) p else (old wd, false)
  let ws := (List.range 16384).map (fun wd => (wd, new wd))
  let words := (ws.filter (fun e => e.2.1 != 0)).map (fun e => (e.1, e.2.1))
  let row (m : Nat) : AccRow :=
    let r := accRow x m
    let res := rows.find? (fun z => z.row == m)
    let sat := (match res with | some z => z.sat | none => false) || ws.any (fun e => e.2.2 && wordRow fold e.1 == m)
    let nan := words.any (fun e => wordRow fold e.1 == m && accNan isF e.2)
    if !accum then { clear := false, sat := sat, nan := nan, owner := ownerOf m }
    else match res with
      | some _ => { clear := false, sat := r.sat || sat, nan := r.nan || nan, owner := ownerOf m }
      | none => r
  { tag := some (isF, fold), words := words, rows := (List.range (foldK fold)).map (fun m => (m, row m)) }

/-! ## Operand formats of B (R358 to R363) -/

/-- H and G of an N:M pattern (Table 14-2). -/
def nmPattern (p : Nat) : Nat × Nat :=
  match p with
  | 0 => (2, 4) | 1 => (1, 4) | 2 => (4, 8) | 3 => (2, 8) | 4 => (1, 8) | _ => (2, 4)

/-- Copies c of an NM tile (R315). -/
def copies (k : Core) (bfmt : Nat) : Nat := if bfmt = 1 then (nmPattern (bits k.nmcfg 0 3)).2 / (nmPattern (bits k.nmcfg 0 3)).1 else 1

/-- What loading B answers: the rows by k, a refused access, or an operand that breaks its format. -/
inductive LoadB where
  | ok (b : List (List (Option Nat))) (s : State)
  | fail (s : State)
  | invalid (s : State)

/-- Bytes of an NM operand: values, and values with metadata. -/
def nmBytes (t : EType) (fold h g : Nat) : Nat × Nat :=
  let r := foldK fold * h / g
  let v := t.size (r * foldN fold)
  (v, v + cdiv (r * foldN fold * (if g = 4 then 2 else 4)) 8)

/-- Index field of value `j` of NM metadata. -/
def nmIndex (g : Nat) (md : List Byte) (j : Nat) : Nat :=
  let b := (md.getD (j * (if g = 4 then 2 else 4) / 8) 0).toNat
  if g = 4 then b / 2 ^ (2 * (j % 4)) % 4 else b / 2 ^ (4 * (j % 2)) % 16

/-- Every index field is in range and rises with its slot within its group and column (R360, R361). -/
def nmOrdered (fold h g : Nat) (md : List Byte) : Bool :=
  let nt := foldN fold
  (List.range (foldK fold * h / g * nt)).all (fun j =>
    let i := nmIndex g md j
    decide (i < g) && (j / nt % h == 0 || decide (nmIndex g md (j - nt) < i)))

/-- The kept element at (k, n) of an NM operand. -/
def nmAt (t : EType) (fold h g : Nat) (vs md : List Byte) (k n : Nat) : Option Nat :=
  let nt := foldN fold
  ((List.range h).find? (fun sl => nmIndex g md ((k / g * h + sl) * nt + n) == k % g)).map
    (fun sl => t.at vs ((k / g * h + sl) * nt + n))

/-- Stored blocks of a BK mask below bit `b`. -/
def bkRank (mask b : Nat) : Nat := (List.range b).countP (bitAt mask)

/-- The element at (k, n) of a BK operand (R362). -/
def bkAt (t : EType) (fold mask : Nat) (bs : List Byte) (k n : Nat) : Option Nat :=
  let b := k / 16 * (foldN fold / 16) + n / 16
  if bitAt mask b then some (t.at bs (bkRank mask b * 256 + k % 16 * 16 + n % 16)) else none

/-- A rectangle of B: KV rows of NV elements. -/
def rect (kv nv : Nat) (f : Nat → Nat → Option Nat) : List (List (Option Nat)) :=
  (List.range kv).map (fun k => (List.range nv).map (f k))

/-- Reads byte ranges of an operand into their places; bytes that are not read stay zero. -/
def readParts (c w win off : Nat) : List (Nat × Nat) → List Byte → State → Rd
  | [], bs, s => .ok bs s
  | (o, n) :: ps, bs, s =>
    match engRead s c w win (off + o) n with
    | .fail s => .fail s
    | .ok ds s => readParts c w win off ps (patch bs o ds) s

/-- Byte range of `n` packed elements from element `p`, a byte boundary or a single element. -/
def elemBytes (t : EType) (p n : Nat) : Nat × Nat := (p * t.nbits / 8, t.size n)

/-- The values of an NM operand that lie within KV and NV, of which alone the array reads the elements (R301): whole rows of groups that
KV covers, and in the group that it cuts those whose index lies below it. -/
def nmParts (t : EType) (fold h g kv nv : Nat) (md : List Byte) : List (Nat × Nat) :=
  let nt := foldN fold
  (List.range (cdiv kv g * h)).flatMap (fun r =>
    if (r / h + 1) * g ≤ kv then [elemBytes t (r * nt) nv]
    else ((List.range nv).filter (fun n => decide (r / h * g + nmIndex g md (r * nt + n) < kv))).map (fun n => elemBytes t (r * nt + n) 1))

/-- The rows of the stored blocks of a BK operand that lie within KV and NV (R301, R316). -/
def bkParts (t : EType) (fold mask kv nv : Nat) : List (Nat × Nat) :=
  let nb := foldN fold / 16
  ((List.range 64).filter (bitAt mask)).flatMap (fun b =>
    let n := min 16 (nv - b % nb * 16)
    if n = 0 then [] else (List.range (min 16 (kv - b / nb * 16))).map (fun k => elemBytes t (bkRank mask b * 256 + k * 16) n))

/-- Loads the B operand of an MMA: its elements within KV and NV, and the metadata of every group, whose order is checked (R301, R361). -/
def loadB (s : State) (c w i : Nat) : LoadB :=
  let k := core s c
  let t := etypeOf (mBtype i)
  let f := mFold i
  let off := f2Off i * 64
  match mBfmt i with
  | 0 => match readTile 1 c w (f2Win i) off (pitchOf t (foldN f)) (t.size (mNv i)) (mKv i) s with
    | .fail s => .fail s
    | .ok rows s => .ok (rows.map (fun r => (elems t r (mNv i)).map some)) s
  | 1 =>
    let (h, g) := nmPattern (bits k.nmcfg 0 3)
    let (v, all) := nmBytes t f h g
    if f2Len i * 256 < all then .invalid s
    else match engRead s c w (f2Win i) (off + v) (all - v) with
      | .fail s => .fail s
      | .ok md s =>
        if !nmOrdered f h g md then .invalid s
        else match readParts c w (f2Win i) off (nmParts t f h g (mKv i) (mNv i) md) (zeros v) s with
          | .fail s => .fail s
          | .ok vs s => .ok (rect (mKv i) (mNv i) (nmAt t f h g vs md)) s
  | _ => match engRead s c w (f2Win i) off 8 with
    | .fail s => .fail s
    | .ok mb s =>
      let mask := ofLeBytes mb
      let n := t.size (bkRank mask 64 * 256)
      if f2Len i * 256 < 64 + n then .invalid s
      else match readParts c w (f2Win i) (off + 64) (bkParts t f mask (mKv i) (mNv i)) (zeros n) s with
        | .fail s => .fail s
        | .ok bs s => .ok (rect (mKv i) (mNv i) (bkAt t f mask bs)) s

/-! ## Products (R313, R338) -/

/-- Element of held B: beyond what was loaded the cells hold zero (R311). -/
def bAt (b : List (List (Option Nat))) (k n : Nat) : Option Nat :=
  match b[k]? with
  | some r => r.getD n (some 0)
  | none => some 0

/-- The pass sum of one element: from +0, the exact products in ascending k, one rounding each. -/
def passSum (ta tb : EType) (isF : Bool) (a : List Nat) (b : Nat → Option Nat) (kv : Nat) : Nat × Bool :=
  (List.range kv).foldl (fun (r : Nat × Bool) k => match b k with
    | none => r
    | some y =>
      let x := a.getD k 0
      if isF then let (v, sat) := addSat32 r.1 (fvMul (ta.decode x) (tb.decode y)); (v, r.2 || sat)
      else (patInt 32 (i32 r.1 + ta.int x * tb.int y), r.2)) (0, false)

/-! ## Checks (R319 to R322) -/

/-- Rounds m × 2^e upward into FP32. -/
def up32 (m : Nat) (e : Int) : Nat :=
  if m = 0 then 0
  else
    let q : Int := max (e + (Nat.log2 m + 1 : Nat) - 24) fp32.emin
    if q ≤ e then (fp32.roundMag m e).getD (fp32.inf false)
    else
      let sh := (q - e).toNat
      let k := (m + 2 ^ sh - 1) >>> sh
      (fp32.roundMag k q).getD (fp32.inf false)

/-- Sum or product of two non-negative patterns, rounded upward. -/
def upOp (op : Fv → Fv → Fv) (x y : Nat) : Nat :=
  match op (f32 x) (f32 y) with
  | .nan => fp32.nan
  | .inf _ => fp32.inf false
  | .fin _ m e => up32 m e

def abs32 (x : Nat) : Nat := x % 2 ^ 31

def finite32 (x : Nat) : Bool := match f32 x with | .fin .. => true | _ => false

/-- |O − R| ≤ 2^−16 × Q + 2^−126, on finite values. -/
def closeTo (o r q : Nat) : Bool :=
  let d := fvAdd (f32 o) (fvNeg (f32 r))
  let lim := fvAdd (match f32 q with | .fin _ m e => .fin false m (e - 16) | x => x) (.fin false 1 (-126))
  let mag : Fv := match d with | .fin _ m e => .fin false m e | x => x
  match fvCmp mag lim with | some .gt => false | some _ => true | none => false

/-- One comparison: an observed sum over `obs`, and the reference over the pairs of `terms` (an operand and the checksum line's
sum). `none` when it is skipped, else whether it passes. -/
def compare1 (obs : List Nat) (terms : List (Nat × Nat × Nat)) (bad : Bool) : Option Bool :=
  let o := obs.foldl add32 0
  let r := terms.foldl (fun a t => add32 a (mul32 t.1 t.2.1)) 0
  let q := terms.foldl (fun a t => upOp fvAdd a (upOp fvMul (abs32 t.1) t.2.2)) 0
  if bad || !finite32 o || !finite32 r || !finite32 q then none else some (closeTo o r q)

/-- The comparisons of a floating-point pass over the padded tile of `fn` columns: those that fail, and the number skipped. A padded column
has only zeros, so each fails or is skipped as the others are (R319, R322). -/
def floatChecks (a b : List (List Nat)) (cAt : Nat → Nat → Nat) (mv nv kv fn : Nat) : List CmpFail × Nat :=
  let av (m k : Nat) := (a.getD m []).getD k 0
  let bv (k n : Nat) := (b.getD k []).getD n 0
  let ms := List.range mv; let ns := List.range nv; let ks := List.range kv
  let bk := ks.map (fun k => (ns.foldl (fun x n => add32 x (bv k n)) 0, ns.foldl (fun x n => upOp fvAdd x (abs32 (bv k n))) 0))
  let ak := ks.map (fun k => (ms.foldl (fun x m => add32 x (av m k)) 0, ms.foldl (fun x m => upOp fvAdd x (abs32 (av m k))) 0))
  let aBad (m : Nat) := ks.any (fun k => !finite32 (av m k))
  let bBad (n : Nat) := ks.any (fun k => !finite32 (bv k n))
  let allA := ms.any aBad; let allB := ns.any bBad
  let rows := ms.map (fun m => (CmpFail.row m, compare1 (ns.map (cAt m))
    (ks.map (fun k => (av m k, (bk.getD k (0, 0)).1, (bk.getD k (0, 0)).2))) (aBad m || allB)))
  let cols := ns.map (fun n => (CmpFail.column n, compare1 (ms.map (fun m => cAt m n))
    (ks.map (fun k => (bv k n, (ak.getD k (0, 0)).1, (ak.getD k (0, 0)).2))) (bBad n || allA)))
  let pad := compare1 [] (ks.map (fun k => (0, (ak.getD k (0, 0)).1, (ak.getD k (0, 0)).2))) allA
  let padded := (List.range (fn - nv)).map (fun n => (CmpFail.column (nv + n), pad))
  let all := rows ++ cols ++ padded
  ((all.filter (fun x => x.2 == some false)).map (·.1), all.countP (fun x => x.2.isNone))

/-! ## MMA -/

/-- r: CORE cycles per multiply-accumulate of a cell. -/
def cellRate (t : Nat) : Nat := if t = 3 || t = 4 then 2 else 1

/-- P of Table 12-2; `load` says that the stationary operand is loaded. -/
def passLen (k : Core) (i : Nat) (load : Bool) : Nat :=
  let r := cellRate (mAtype i)
  let c := copies k (mBfmt i)
  match mStat i with
  | 0 => max (max (r * cdiv (mMv i) c) (if load then max (r * foldK (mFold i) / c) (cdiv (f2Len i) 2) else 0)) 1
  | 1 => max (r * mKv i) 128
  | _ => max (r * mNv i) (max (r * 128) (cdiv (f1Len i) 2))

/-- The stationary operand's fields, that HOLD compares (R306). -/
def holdKey (i : Nat) : List Nat := [mStat i, mFold i, mBfmt i, mBtype i, f2Win i, f2Off i, f2Len i]

/-- An instruction that R310 or R306 does not let hold, or whose tags conflict (R333). -/
def mmaInvalid (k : Core) (i : Nat) : Bool :=
  (mHold i && (mStat i ≠ 0 || (match k.lastMma with | none => true | some j => holdKey j != holdKey i)))
    || (mAccum i && !tagsAgree k (iAcc i) (!(etypeOf (mAtype i)).isInt, mFold i))

/-- The works of a core end for an invalid field of its program. -/
def invalidField (s : State) (c : Nat) : State := failWorks s (coreWorks s c) 0x0102

/-- Streams a pass: its product, the flags and owners of its rows, its comparisons. -/
def mkPass (s : State) (c : Nat) (q : QEnt) (a : List (List Nat)) (b : List (List (Option Nat))) : Pass :=
  let k := core s c
  let i := q.inst
  let ta := etypeOf (mAtype i); let tb := etypeOf (mBtype i)
  let isF := !ta.isInt
  let f := mFold i
  let el (m n : Nat) : Nat × Bool := passSum ta tb isF (a.getD m []) (fun kk => bAt b kk n) (mKv i)
  let res := (List.range (mMv i)).map (fun m => (List.range (mNv i)).map (el m))
  let at_ (m n : Nat) : Nat × Bool := (res.getD m []).getD n (0, false)
  let prod := (List.range 16384).filterMap (fun wd =>
    let m := wordRow f wd; let n := wordCol f wd
    if m < mMv i && n < mNv i then (let v := (at_ m n).1; if v = 0 then none else some (wd, v)) else none)
  let rows := (List.range (mMv i)).map (fun m => ({
    row := m, sat := (res.getD m []).any (·.2), nan := isF && (res.getD m []).any (fun x => isNan32 x.1),
    owner := rowOwner s c m } : ResRow))
  let chk := if isF then
      floatChecks (a.map (fun r => r.map ta.widen))
        ((List.range (mKv i)).map (fun kk => (List.range (mNv i)).map (fun n => match bAt b kk n with
          | some y => tb.widen y
          | none => 0))) (fun m n => (at_ m n).1) (mMv i) (mNv i) (mKv i) (foldN f)
    else ([], 0)
  { inst := i, ord := q.ord, num := k.passNum, prod := prod, rows := rows, cmp := chk.1, skipped := chk.2,
    p := passLen k i (!mHold i), pRetry := passLen k i true, retried := false,
    works := rowWorks s c (rows.map (·.owner)) }

def mmaRanges (k : Core) (i : Nat) : List Rng :=
  opRange k (f1Win i) (f1Off i * 64) (f1Len i * 256) false
    :: (if mHold i then [] else [opRange k (f2Win i) (f2Off i * 64) (f2Len i * 256) false])

/-- Issues an MMA: both operands are read and the pass streams. -/
def mmaBody (c : Nat) (s : State) (w : Nat) (q : QEnt) : State :=
  let k := core s c
  let i := q.inst
  if mmaInvalid k i then invalidField s c
  else
    let ta := etypeOf (mAtype i)
    let s := setCore s c (takeRanges k 1 q.ord (mmaRanges k i))
    match readTile 1 c w (f1Win i) (f1Off i * 64) (pitchOf ta (foldK (mFold i))) (ta.size (mKv i)) (mMv i) s with
    | .fail s => dropInstr s c q.ord
    | .ok rows s =>
      let a := rows.map (fun r => elems ta r (mKv i))
      match (if mHold i then .ok k.heldB s else loadB s c w i) with
      | .fail s => dropInstr s c q.ord
      | .invalid s => dropInstr (invalidField s c) c q.ord
      | .ok b s =>
        let p := mkPass s c q a b
        modCore s c (fun k => { k with passes := k.passes ++ [p], passNum := k.passNum + 1, lastMma := some i, heldB := b })

/-- MMA (R317): at most 8 passes are uncommitted (R318). -/
def execMma (core : CoreId) (s : State) : Res :=
  .next (engineRow s core.val 1 [1] mmaRanges (fun k _ => decide (k.passes.length < 8)) (mmaBody core.val))

/-! ## PASS_CHECK -/

/-- The line a failed comparison names (R325), as DETAIL0[7:0] of Table 23-3: bit 0 the direction, bits [7:1] the line. -/
def namedLines (stat : Nat) (fs : List CmpFail) : List Nat :=
  let cols := fs.filterMap (fun f => match f with | .column n => some n | .row _ => none)
  let rows := fs.filterMap (fun f => match f with | .row m => some m | .column _ => none)
  (match cols with | [n] => [1 + 2 * (n % 128)] | _ => []) ++ (match rows with | [m] => if stat = 1 then [2 * m] else [] | _ => [])

/-- A report of a check of a core (classes 0x08, 0x09). -/
def checkReport (s : State) (c cls line quantum num : Nat) (w : Option Nat) : ErrRep :=
  workReport s cls (if cls = 8 then 0 else 2) (coreUnit c) w (if cls = 8 then 0 else 0x0601) 0 (line + quantum * 256) num

/-- A first failure: counted, traced, and reported for each line it names (R323, R559). -/
def firstFailure (s : State) (c : Nat) (lines : List Nat) (quantum num cycles waiter : Nat) : State :=
  let s := countCore s c 0x050 1
  let s := stall s c 0x04 waiter cycles
  let s := lines.foldl (fun s l => latch s (coreUnit c) (checkReport s c 0x08 l quantum num (core s c).work)) s
  traceCore s c (coreTcids s c) (core s c).chnCur 0x07 (lines.headD 0xFE + quantum * 256)

/-- A second failure: the core becomes SUSPECT and every work that owns a row ends (R324). -/
def secondFailure (s : State) (c : Nat) (line quantum num : Nat) (works : List Nat) : State :=
  let s := hwHealth s (coreUnit c) .suspect true
  let s := latch s (coreUnit c) (checkReport s c 0x09 line quantum num works.head?)
  failWorks s works 0x0601

/-- A pass commits to its set and its MMA retires (R318, R339). -/
def commitPass (s : State) (c : Nat) (p : Pass) : State :=
  let k := core s c
  let i := p.inst
  let isF := !(etypeOf (mAtype i)).isInt
  let x := commitTile (accSet k (iAcc i)) isF (mFold i) (mAccum i) (mMv i) (mNv i) p.prod p.rows (rowOwner s c)
  let s := setCore s c (freeRanges { k with acc := tset k.acc (iAcc i) x, passes := k.passes.drop 1 } p.ord)
  let s := count s c wARR p.p
  let s := count s c 16 1
  if p.retried then countCore s c 0x058 1 else s

/-- PASS_CHECK: the oldest uncommitted pass reaches the check unit. `fails` are the comparisons that hardware faults make fail. -/
def execPassCheck (core_ : CoreId) (fails : List CmpFail) (s : State) : Res :=
  let c := core_.val
  if !domainsUp s then .next s
  else match (core s c).passes with
    | [] => .next s
    | p :: rest =>
      let s := countCore s c 0x060 p.skipped
      let ok (f : CmpFail) : Bool := match f with | .row m => decide (m < mMv p.inst) | .column n => decide (n < foldN (mFold p.inst))
      let fs := (fails.filter ok).foldl (fun l f => if l.contains f then l else l ++ [f]) p.cmp
      let lines := namedLines (mStat p.inst) fs
      .next (settle (if fs.isEmpty then commitPass s c p
        else if !p.retried then
          modCore (firstFailure s c lines 0 p.num p.pRetry 1) c (fun k => { k with passes := { p with retried := true } :: rest })
        else
          let s := modCore s c (fun k => freeRanges { k with passes := rest } p.ord)
          secondFailure s c (lines.headD 0xFE) 0 p.num p.works) c)

/-! ## PRELOAD (R336, R337) -/

def preloadRanges (k : Core) (i : Nat) : List Rng := [opRange k (f1Win i) (f1Off i * 64) (f1Len i * 256) false]

/-- The set that PRELOAD writes. -/
def preloadSet (s : State) (c i : Nat) (rows : List (List Byte)) : AccSet :=
  let t := etypeOf (mAtype i)
  let f := mFold i
  let v (m n : Nat) : Nat := t.widen (t.at (rows.getD (if bits i 18 2 = 1 then 0 else m) []) n)
  let words := (List.range 16384).filterMap (fun wd =>
    let m := wordRow f wd; let n := wordCol f wd
    if m < mMv i && n < mNv i then (let x := v m n; if x = 0 then none else some (wd, x)) else none)
  let row (m : Nat) : AccRow :=
    { clear := false, sat := false, nan := words.any (fun e => wordRow f e.1 == m && accNan (!t.isInt) e.2),
      owner := rowOwner s c m }
  { tag := some (!t.isInt, f), words := words, rows := (List.range (mMv i)).map (fun m => (m, row m)) }

def preloadBody (c : Nat) (s : State) (w : Nat) (q : QEnt) : State :=
  let i := q.inst
  let t := etypeOf (mAtype i)
  match readTile 1 c w (f1Win i) (f1Off i * 64) (pitchOf t (foldN (mFold i))) (t.size (mNv i))
      (if bits i 18 2 = 1 then 1 else mMv i) s with
  | .fail s => s
  | .ok rows s =>
    let s := modCore s c (fun k => { k with acc := tset k.acc (iAcc i) (preloadSet s c i rows) })
    count s c wPRELOAD (max (mMv i * cdiv (mNv i) 128) (cdiv (f1Len i) 2))

/-- PRELOAD keeps queue order with the passes: it writes once they have committed. -/
def execPreload (core : CoreId) (s : State) : Res :=
  .next (engineRow s core.val 1 [2] preloadRanges (fun k _ => k.passes.isEmpty) (preloadBody core.val))

end Sys2Proof.Machine
end

