-- ==== Sys2Proof/Machine/Bar2.lean ====
section
/-! DEFINITION. Host accesses through BAR2 and their answers (05_host_link_and_registers.md, R125 to R129; 09, R232, R246). -/

namespace Sys2Proof.Machine

/-- The host's BAR accesses reach the tray: powered, not frozen, not in TORPOR, in D0. -/
def barServes (s : State) : Bool := linkServes s && !s.host.d3hot

/-- Bytes of one window: a quarter of the BAR (R125). -/
def bar2WinSize (s : State) : Nat := s.host.bar2GiB * 0x10000000

def win (s : State) (n : Nat) : Bar2Win := tgetD s.host.wins n {}

/-- The error records of the poisoned words that a host access met; no job ends (R229, R246, R470, R472). -/
def hostFaults (s : State) (ws : List Nat) (tcid : Nat) : State :=
  ws.foldl (fun s a =>
    let (syn, s) := draw s 8
    if inSp a then
      let u := coreUnit (spCore a)
      latch s u (report s 0x01 0 u tcid 0 a (spD0 s a) (syn.toNat + retiredBanks s (spCore a) * 256))
    else
      let u := ctlUnit (tierCtl a)
      latch s u (report s 0x04 0 u tcid 0 a (tierD0 a) (syn.toNat + 3 * 256 + retiredGranules s (tierCtl a) * 65536))) s

/-- An access that reaches its window (R126, R128): through an enabled window, under the endpoint check with the window's TCID.
Before the ready event every access completes with zeros or is discarded, but not in recovery. -/
def bar2Perform (s : State) (write : Bool) (offset len : Nat) (data : List Byte) (attr : TlpAttr) : State :=
  let answer (s : State) (ds : List Byte) : State := if write then s else { s with hostOut := s.hostOut ++ [.read ds attr] }
  let n := offset / bar2WinSize s
  let w := win s n
  let a := w.base + (offset - n * bar2WinSize s)
  if !w.enable || !(ready s || s.boot.status == 2) || len = 0 then answer s (zeros len)
  else match endpoint s w.tcid a len write with
    | .hole => answer (sysErr s 4) (zeros len)
    | .refused _ => answer (sysErr s 5) (zeros len)
    | .ok =>
      let s := flushGb s a len
      if write then
        let s := (memWrite s a (data.take len)).1
        hostFaults s (poisonedIn s a len) w.tcid
      else
        let s := eccSettle s a len
        answer (hostFaults s (poisonedIn s a len) w.tcid) (memRead s a len)

/-- From a freeze latch until HST stops, a non-posted request is answered with Completer Abort (R607). -/
def frzAbort (s : State) (s' : State) (attr : TlpAttr) : State :=
  if s.eft.power && !s.eft.tripped && s.eft.frozen && s.host.up && decide (s.eft.frzStep < 8) && bitAt s.eft.frzRunning 6
  then { s' with hostOut := s'.hostOut ++ [.refused attr] } else s'

/-- BAR2_ACCESS (R116, R119, R126, R128). Outside ACTIVE the access waits in the host link controller until the tray is ACTIVE: it is no
wake event of R67, and memory is in self-refresh and its banks are not accessible (DESIGN CHOICE, log entry 25). So does one behind a
write that an end point holds off (R270). -/
def execBar2Access (write : Bool) (offset : Nat) (len : Nat) (data : List Byte) (req : TlpReq) (s : State) : Res :=
  let attr := req.attr
  let s := linkExit s
  if !linkServes s then .next (if write then s else frzAbort s s attr)
  else if s.host.d3hot then .next (unsupportedRequest s write attr)
  else if write && req.poisoned then .next (aerReport s .poisoned)
  else
    let t := bar2Perform s write offset len data attr
    if s.pwr.power != .active || !s.host.parked.isEmpty || !(noHold s || !holdBroken none s t) then
      .next { s with host.parked := s.host.parked ++ [.bar2 write offset len data attr] }
    else .next t

end Sys2Proof.Machine
end

