-- ==== Sys2Proof/Machine/Power.lean ====
section
/-! DEFINITION. Tray time, the CORE frequency and the monitors (03_clocks_power_and_sleep.md, R58 to R61, R78 to R85,
R640). The power states are in PowerStates.lean. -/

namespace Sys2Proof.Machine

/-! ## Tray time -/

/-- What the next EFT tick adds to tray time (R60, R61). -/
def tickAdd (e : Eft) : Nat :=
  if e.stepAdd ≠ 0 then 320 + e.stepAdd
  else if e.slew = 0 then 320
  else 320 - min 8 e.slew

/-- Tray time, 64 bits, the tick count and the slew after one EFT tick. -/
def eftAdvance (e : Eft) : Eft :=
  { e with tick := e.tick + 1, time := (e.time + tickAdd e) % 2 ^ 64,
           slew := if e.stepAdd ≠ 0 then e.slew else e.slew - min 8 e.slew, stepAdd := 0 }

/-- No job is admitted, no staging is under way, no mailbox command is in progress, every ring is empty (R66). -/
def idleNow (s : State) : Bool :=
  ready s && s.boot.gap.isNone && s.dsp.jobs.isEmpty && s.dsp.parts.isEmpty && s.store.orders.isEmpty
    && s.mbx.reqs.isEmpty && s.rings.all (fun p => !p.2.configured || p.2.sqTail == p.2.sqHead)

/-- EFT_TICK: tray time advances; idle and SLEEP time are counted in ticks (R62); the pin FRZ_N is sampled (R600). After a freeze
the tick count goes on until EFT stops, and tray time stands (R604, R606). A trip stops the other domains only, so tray time
goes on (R60, R82). `upsets` are the errors that have come to lie in memory words since the last tick (log entry 39). -/
def execEftTick (edge : EftEdge) (s : State) : Res :=
  let frzLow := edge.frzLow
  let s := { s with ecc.latent := edge.upsets.foldl (fun t x => if x.2 = .clean then t else tset t (x.1 / 8 * 8) x.2) s.ecc.latent }
  if !s.eft.power then .next s
  else if s.eft.frozen then
    .next { s with eft.frzLowPrev := s.eft.frzLow, eft.frzLow := frzLow,
                   eft.tick := if s.eft.frzStep < 11 then s.eft.tick + 1 else s.eft.tick }
  else
    let e := { eftAdvance s.eft with frzLowPrev := s.eft.frzLow, frzLow := frzLow }
    if s.eft.tripped then .next { s with eft := e } else
    .next { s with eft := e,
                   pwr.idleTicks := if idleNow s then s.pwr.idleTicks + 1 else 0,
                   pwr.sleepTicks := if s.pwr.power == .sleep then s.pwr.sleepTicks + 1 else 0,
                   pwr.scrubTicks := if s.pwr.power == .sleep then s.pwr.scrubTicks + 1 else s.pwr.scrubTicks }

/-! ## Frequency and voltage -/

/-- NOC in MHz: 4/3 of CORE rounded up to a multiple of 25, at least 400 (R58). -/
def nocOf (core : Nat) : Nat := max 400 (cdiv (4 * core) 75 * 25)

/-- CORE voltage in mV without trim (R59). -/
def coreVolt (mhz : Nat) : Nat :=
  if mhz ≤ 350 then 550
  else if mhz ≤ 600 then 550 + 7 * ((mhz - 350) / 25)
  else 620 + 15 * ((mhz - 600) / 25)

/-- The monitors in the order of R153. -/
def monIdx : Monitor → Nat
  | .thermal => 0 | .thermalHard => 1 | .pkgFast => 2 | .pkgExcursion => 3 | .pkgSustained => 4 | .trayInput => 5
  | .current => 6

def mon (s : State) (k : Nat) : Mon := tgetD s.pwr.mons k {}

/-- The lowest of CORE_FMAX, as far as it has taken effect, and every monitor's ceiling (R79). -/
def coreTarget (s : State) : Nat := (List.range 7).foldl (fun f k => min f (mon s k).ceil) s.pwr.fmaxNow

/-- Closes the open window once its 1 ms, 3,125 ticks, is over; a step at that instant opens the next one (R62, R80). -/
def closeWin (s : State) : State :=
  match s.pwr.win with
  | some w => if w.opened + 3125 ≤ s.eft.tick then { s with pwr.win := none, pwr.closedWins := s.pwr.closedWins ++ [w] } else s
  | none => s

/-- Applies the CORE frequency that ceilings and CORE_FMAX now give, reporting a change in the three ways of R80 for the
cause bit `k`. In an activation gap the voltage stays (R109). -/
def applyFreq (s : State) (k : Nat) : State :=
  let old := s.pwr.coreMhz
  let new := coreTarget s
  if new = old then s
  else
    let s := { s with pwr.coreMhz := new, pwr.nocMhz := nocOf new,
                      pwr.coreMv := if s.boot.gap.isSome then s.pwr.coreMv else (coreVolt new : Int) + Config.trim }
    let s := ctrAdd s ((if new < old then 0x100 else 0x140) + 8 * k) 1
    let s := traceTray s 0x10 (old + new * 2 ^ 12 + k * 2 ^ 24)
    let s := closeWin s
    let w : ClkWin := match s.pwr.win with
      | some w => { w with steps := w.steps + 1, last := new, mask := w.mask ||| 2 ^ k }
      | none => { opened := s.eft.tick, steps := 1, first := old, last := new, mask := 2 ^ k }
    { s with pwr.win := some w }

/-- Posts the event of a closed window (Table 6-8). -/
def postWin (s : State) (w : ClkWin) : State :=
  raiseEvent s 0x0010 (min w.steps 255 + w.first * 2 ^ 8 + w.last * 2 ^ 20 + w.mask * 2 ^ 32) 0

/-- Posts the events of all closed windows, oldest first. -/
def postWins (s : State) : State := s.pwr.closedWins.foldl postWin { s with pwr.closedWins := [] }

/-- CLOCK_STEP: a window whose 1 ms is over closes and its event is posted; in an activation gap the event waits (R80, R109). -/
def execClockStep (s : State) : Res :=
  if !alive s then .next s
  else
    let s := closeWin s
    .next (if s.boot.gap.isNone then postWins s else s)

/-! ## Monitors -/

/-- One step down of a ceiling: 25 MHz, never below 100 (R79). -/
def stepDown (m : Mon) : Mon := { m with ceil := max 100 (m.ceil - 25) }

/-- One step up; put off in an activation gap (R109). -/
def stepUp (gap : Bool) (m : Mon) : Mon :=
  if gap then { m with deferred := m.deferred + 1 } else { m with ceil := min 900 (m.ceil + 25) }

/-- The period of a monitor's grid in ns: its sample period, and for CURRENT its step (Table 3-8, R640). -/
def monPeriod : Monitor → Nat
  | .thermal | .thermalHard => 100000
  | .pkgSustained => 10000000
  | _ => 10000

/-- The tick from which a monitor's grid counts: the 8 ms row of Table 4-3, 6 ms or 18,750 ticks after tray time 0; for CURRENT
the instant of the warning or of its end (R92, R640). -/
def monOrigin (s : State) (k : Monitor) : Nat := if k = .current then (mon s (monIdx k)).origin else s.eft.base + 18750

/-- The grid point that falls at the present tick, the first at or after a whole multiple of the period, when the monitor has not
sampled there yet (R640). -/
def gridPoint (s : State) (k : Monitor) : Option Nat :=
  let o := monOrigin s k
  let t := (s.eft.tick - o) * 320
  let n := t / monPeriod k
  if s.eft.tick < o then none
  else if (s.eft.tick = o ∨ (t - 320) / monPeriod k ≠ n) ∧ (mon s (monIdx k)).idx ≠ some n then some n else none

/-- The mean of the last 100 samples of PKG_SUSTAINED exceeds `lim`, in sum form; no trigger before 100 samples exist. -/
def sustainedSum (m : Mon) : Int := (m.hist.take 100).foldl (· + ·) 0

/-- Whether the monitor's trigger condition holds for its latest reading (Table 3-8). -/
def monHolds (k : Monitor) (m : Mon) (x : Int) : Bool :=
  match k with
  | .thermal => decide (950 ≤ x)
  | .thermalHard => decide (1050 ≤ x)
  | .pkgFast => decide (175000 < x)
  | .pkgExcursion => decide (150000 < x)
  | .pkgSustained => decide (100 ≤ m.hist.length) && decide (15000000 < sustainedSum m)
  | .trayInput => decide (185000 < x)
  | .current => false

/-- Whether the reading lies below the release level: Tj < 92 °C, or 95% of the limit (Table 3-8). -/
def monBelow (k : Monitor) (m : Mon) (x : Int) : Bool :=
  match k with
  | .thermal | .thermalHard => decide (x < 920)
  | .pkgFast => decide (100 * x < 95 * 175000)
  | .pkgExcursion => decide (100 * x < 95 * 150000)
  | .pkgSustained => m.hist.isEmpty || decide (100 * sustainedSum m < 95 * 150000 * m.hist.length)
  | .trayInput => decide (100 * x < 95 * 185000)
  | .current => true

/-- Grid periods in the 10 ms of a release (R640). -/
def releaseSamples : Monitor → Nat
  | .thermal | .thermalHard => 100
  | .pkgSustained => 1
  | _ => 1000

/-- A grid point `n` at which the reading lies below the release level: one step up for each 10 ms (Table 3-8). -/
def monRelease (gap : Bool) (k : Monitor) (m : Mon) (n : Nat) : Mon :=
  match m.below with
  | none => { m with below := some n }
  | some b => if b + releaseSamples k ≤ n then { stepUp gap m with below := some n } else m

/-- The step that a sample makes when the condition has held for `run` periods (Table 3-8). -/
def monStep (k : Monitor) (m : Mon) (run : Nat) : Mon :=
  match k with
  | .thermal => if run % 10 = 0 then stepDown m else m
  | .thermalHard => { m with ceil := 100 }
  | .pkgExcursion => if 1800 ≤ run && (run - 1800) % 10 = 0 then stepDown m else m
  | _ => stepDown m

/-- Whether the monitor is triggered after `run` periods: PKG_EXCURSION needs 18 ms without a break. -/
def monTriggered (k : Monitor) (run : Nat) : Bool :=
  match k with
  | .pkgExcursion => decide (1800 ≤ run)
  | _ => true

/-- One sample of one monitor, at grid point `n` and the given tick. -/
def monSample (gap : Bool) (k : Monitor) (m0 : Mon) (x : Int) (n tick : Nat) : Mon :=
  let m := { m0 with hist := if k = .pkgSustained then (x :: m0.hist).take 100 else m0.hist, last := x, idx := some n }
  if monHolds k m x then
    let first := m0.run.getD n
    let trig := monTriggered k (n - first)
    let m := { m with triggered := trig, trigTick := if trig && !m0.triggered then tick else m0.trigTick, below := none,
                      run := some first }
    monStep k m (n - first)
  else
    let m := { m with triggered := false, run := none }
    if monBelow k m x then monRelease gap k m n else { m with below := none }

/-- Records the reading for TRAY_STATUS. -/
def noteReading (s : State) (k : Monitor) (x : Int) : State :=
  match k with
  | .thermal | .thermalHard => { s with pwr.tj := x }
  | .pkgFast | .pkgExcursion | .pkgSustained => { s with pwr.pkgMw := x }
  | .trayInput => { s with pwr.trayMw := x }
  | .current => s

/-- The monitors run from the 8 ms row of Table 4-3 on (R640). -/
def monitorsRun (s : State) : Bool := alive s && decide (s.eft.base + 18750 ≤ s.eft.tick)

/-- Resets every monitor's release timer (03, At the edges). -/
def resetReleases (s : State) : State :=
  { s with pwr.mons := tmap s.pwr.mons (fun _ m => { m with below := none }) }

/-- MONITOR_SAMPLE: at a grid point of the monitor (R640). For CURRENT it is a step while the warning stands, and a period of the
release else (Table 3-8). -/
def execMonitorSample (monitor : Monitor) (reading : Int) (s : State) : Res :=
  match gridPoint s monitor with
  | none => .next s
  | some n =>
    if !monitorsRun s then .next s else
    let k := monIdx monitor
    let m := mon s k
    let gap := s.boot.gap.isSome
    let m' :=
      if monitor = .current then
        if s.pwr.overcurrent then { stepDown m with idx := some n, below := none }
        else monRelease gap monitor { m with idx := some n } n
      else monSample gap monitor m reading n s.eft.tick
    let s := noteReading s monitor reading
    let s := { s with pwr.mons := tset s.pwr.mons k m' }
    let s := if monitor = .thermalHard && m'.triggered && !m.triggered then
        { resetReleases s with pwr.mons := tset (resetReleases s).pwr.mons k m' } else s
    .next (applyFreq s k)

/-- CURRENT_WARNING: the warning arrives and the monitor steps down at once (R78, R640). -/
def execCurrentWarning (s : State) : Res :=
  if !monitorsRun s then .next s
  else
    let m := mon s 6
    .next (applyFreq { s with pwr.overcurrent := true,
                              pwr.mons := tset s.pwr.mons 6 { stepDown m with
                                triggered := true, trigTick := if m.triggered then m.trigTick else s.eft.tick,
                                origin := s.eft.tick, idx := some 0, below := none } } 6)

/-- OVERCURRENT_WARNING_DEASSERT: stepping stops and the release begins (R78). -/
def execOvercurrentWarningDeassert (s : State) : Res :=
  if !monitorsRun s || !s.pwr.overcurrent then .next s
  else .next { s with pwr.overcurrent := false,
                      pwr.mons := tset s.pwr.mons 6 { mon s 6 with
                        triggered := false, origin := s.eft.tick, idx := some 0, below := some 0 } }

/-- FMAX_STEP: a lowered CORE_FMAX takes its next 25 MHz step, at the first tick 10 µs or more after the last one (R85). The cause
is HOST. -/
def execFmaxStep (s : State) : Res :=
  if !alive s || s.pwr.fmaxNow ≤ s.pwr.coreFmax || s.eft.tick < s.pwr.fmaxTick + 32 then .next s
  else .next (applyFreq { s with pwr.fmaxNow := max s.pwr.coreFmax (s.pwr.fmaxNow - 25), pwr.fmaxTick := s.eft.tick } 7)

/-- The mask of power and current monitors that have stayed triggered for 10 ms, 31,250 ticks (R62, R81). -/
def powerMask (s : State) : Nat :=
  ([2, 3, 4, 5, 6].filter (fun k => (mon s k).triggered && decide ((mon s k).trigTick + 31250 ≤ s.eft.tick))).foldl
    (fun m k => m ||| 2 ^ k) 0

/-- Every power reading is below 95% of its limit (R81). -/
def powerReleased (s : State) : Bool :=
  monBelow .pkgFast (mon s 2) (mon s 2).last && monBelow .pkgExcursion (mon s 3) (mon s 3).last
    && monBelow .pkgSustained (mon s 4) (mon s 4).last && monBelow .trayInput (mon s 5) (mon s 5).last
    && !s.pwr.overcurrent

/-- POWER_FLOOR: at 100 MHz with a power or current monitor triggered for 10 ms the dispatcher holds new jobs; admission resumes
when every power reading is below 95% of its limit (R81). DESIGN CHOICE: the event of the resumption repeats the cause mask of
the hold, for R153 names no cause of a resumption (log entry 71). -/
def execPowerFloor (s : State) : Res :=
  if !fwUp s then .next s
  else if s.pwr.admitHold then
    if powerReleased s then
      .next (raiseEvent { s with pwr.admitHold := false, pwr.holdMask := 0 } 0x0011 (s.pwr.holdMask * 2 ^ 8) 0)
    else .next s
  else if s.pwr.coreMhz = 100 && powerMask s != 0 then
    .next (raiseEvent { s with pwr.admitHold := true, pwr.holdMask := powerMask s } 0x0011 (1 + powerMask s * 2 ^ 8) 0)
  else .next s

end Sys2Proof.Machine
end

