-- ==== Sys2Proof/Machine/BoardPort.lean ====
section
/-! DEFINITION. The board controller behind the I2C port (27, R628 to R630). -/

namespace Sys2Proof.Machine

/-- Byte `p` of the FRU record; pointers from 0x0800 read 0xFF (R629). -/
def fruAt (p : Nat) : Byte := if p < 0x0800 then Config.fruByte p else 0xFF

/-- A temperature as a signed 16-bit pattern. -/
def temp16 (x : Int) : Nat := (x % 65536).toNat

/-- The bytes of Table 27-6; a pointer beyond them reads zero. -/
def tmpAt (b : Board) (p : Nat) : Byte :=
  (leBytes 2 (temp16 b.tj) ++ leBytes 2 (temp16 b.inlet) ++ leBytes 2 (temp16 b.outlet) ++ leBytes 2 (temp16 b.vr)
    ++ leBytes 2 (temp16 b.lpddr) ++ leBytes 2 b.flags).getD p 0

/-- I2C_TRANSACTION: the pointer is written, then `len` bytes are read, the pointer advancing by one for each. Data bytes written
after the pointer change nothing (R628). The controller answers in every state of the tray that 12 V powers. -/
def execI2cTransaction (target : BitVec 7) (pointer : BitVec 16) (_written : List Byte) (len : Nat) (s : State) : Res :=
  if !s.eft.power then .next s
  else if target = 0x50 then
    let p := pointer.toNat
    .next { s with board.fruPtr := (p + len) % 65536,
                   hostOut := s.hostOut ++ [.i2c ((List.range len).map (fun i => fruAt ((p + i) % 65536)))] }
  else if target = 0x4C then
    let p := pointer.toNat % 256
    .next { s with board.tmpPtr := (p + len) % 256,
                   hostOut := s.hostOut ++ [.i2c ((List.range len).map (fun i => tmpAt s.board ((p + i) % 256)))] }
  else .next s

/-- The junction sensors run: not in a freeze, in TORPOR, or after a trip (R630). -/
def sensorsRun (s : State) : Bool := alive s && (match s.pwr.power with | .torpor | .resuming _ => false | _ => true)

/-- TEMP_UPDATE (R630). -/
def execTempUpdate (tj inlet outlet vr lpddr : Int) (s : State) : Res :=
  if !s.eft.power then .next s
  else
    let run := sensorsRun s
    .next { s with board := { s.board with
      tj := if run then tj else s.board.tj, inlet := inlet, outlet := outlet, vr := vr, lpddr := lpddr,
      flags := b2n (mon s 0).triggered + 2 * b2n (mon s 1).triggered + 4 * b2n s.eft.tripped + 8 * b2n (!run) } }

end Sys2Proof.Machine
end

