-- ==== Sys2Proof/Machine/CmdBasic.lean ====
section
/-! DEFINITION. The identity, time and power commands (07, Table 7-2). -/

namespace Sys2Proof.Machine

/-- A signed value as its 16-bit pattern. -/
def int16 (x : Int) : Nat := (x % 65536).toNat

/-- The tray as a whole is in DOZE: every core is, and no job is admitted (R64). -/
def trayDoze (s : State) : Bool :=
  (List.range 64).all (fun c => (tgetD s.cores c {}).doze) && s.dsp.jobs.isEmpty && s.dsp.parts.isEmpty

/-- SYS_STATUS.PSTATE (R636). -/
def pstate (s : State) : Nat :=
  match s.pwr.power with
  | .entering _ | .sleep | .waking => 2
  | _ => if trayDoze s then 1 else 0

/-- Accepts any payload of the right length: the command has no field to check. -/
def anyFields (_ : State) (_ : List Byte) : Bool := true

/-- COMMITTED or TRIAL as IDENTIFY gives it. -/
def slotCode : Option Bool → Nat
  | some false => 0 | some true => 1 | none => 0xFF

def execIdentify (slot : SlotId) (s : State) : Res :=
  .next (runCmd slot.val 0x0001 false anyFields (fun _ s =>
    .ok s (leBytes 4 s.boot.fwver ++ leBytes 2 s.boot.svn ++ leBytes 2 s.boot.rollback ++ leBytes 1 Config.stepping
      ++ leBytes 1 7 ++ leBytes 1 (slotCode (some s.boot.committed)) ++ leBytes 1 (slotCode s.boot.trial)
      ++ leBytes 8 Config.serial.toNat ++ leBytes 8 Config.uid.toNat ++ leBytes 2 s.fab.node.toNat ++ zeros 2)) s)

def execTrayStatus (slot : SlotId) (s : State) : Res :=
  .next (runCmd slot.val 0x0002 false anyFields (fun _ s =>
    .ok s (leBytes 8 s.eft.time ++ leBytes 2 s.pwr.coreMhz ++ leBytes 2 s.pwr.nocMhz ++ leBytes 2 (int16 s.pwr.tj)
      ++ leBytes 1 (pstate s) ++ leBytes 1 (b2n s.boot.routed + 2 * b2n s.pwr.admitHold)
      ++ leBytes 4 s.pwr.pkgMw.toNat ++ leBytes 4 s.pwr.trayMw.toNat ++ leBytes 2 s.dsp.jobs.length
      ++ leBytes 2 (s.store.tenants.countP (fun p => p.2.state == .active || p.2.state == .suspended))
      ++ leBytes 4 (ledgerHeld s))) s)

/-- Tray time after a set-time: a step at the next tick, or a slew; an earlier slew or step is replaced (R61, R193). -/
def setTime (e : Eft) (t : Nat) : Eft :=
  if e.time ≤ t then { e with stepAdd := t - e.time, slew := 0 } else { e with slew := e.time - t, stepAdd := 0 }

def execTimeSet (slot : SlotId) (s : State) : Res :=
  .next (runCmd slot.val 0x0D01 true anyFields (fun r s =>
    let t := leAt r.payload 0 8
    let before := s.eft.time
    .ok (ledgerCmd { s with eft := setTime s.eft t } slot.val r 0 0 0)
      (leBytes 8 before ++ leBytes 1 (if before ≤ t then 0 else 1) ++ zeros 7)) s)

def execTimeQuery (slot : SlotId) (s : State) : Res :=
  .next (runCmd slot.val 0x0D02 false anyFields (fun _ s =>
    .ok s (leBytes 8 s.eft.time ++ leBytes 8 s.eft.slew)) s)

/-- The POWER_SET values lie in the ranges of Table 3-3 and reserved bytes are zero. -/
def powerFields (_ : State) (p : List Byte) : Bool :=
  let sl := leAt p 0 4; let tor := leAt p 4 4; let fm := leAt p 8 2; let en := leAt p 10 1
  decide (100 ≤ sl) && decide (sl ≤ 10000000) && decide (1 ≤ tor) && decide (tor ≤ 3600000)
    && decide (100 ≤ fm) && decide (fm ≤ 900) && fm % 25 == 0 && decide (en ≤ 1) && leAt p 11 5 == 0

/-- One ledger entry for each change of a list of flags, PART counting the changes (R161, R568). -/
def ledgerChanges (s : State) (slot : Nat) (r : Req) (tcid object : Nat) (changed : List Bool) : State :=
  ((List.range (changed.countP id))).foldl (fun s i => ledgerCmd s slot r tcid object i) s

/-- POWER_SET: one policy change, one entry (R65, R567). A lowered CORE_FMAX takes its first step at once and the next ones by
FMAX_STEP; a raised one lets the frequency rise as the ceilings allow (R85). -/
def execPowerSet (slot : SlotId) (s : State) : Res :=
  .next (runCmd slot.val 0x0701 true powerFields (fun r s =>
    let p := r.payload
    let sl := leAt p 0 4; let tor := leAt p 4 4; let fm := leAt p 8 2; let en := leAt p 10 1 == 1
    let s := { s with pwr.idleSleep := sl, pwr.idleTorpor := tor, pwr.coreFmax := fm, pwr.torporEn := en,
                      pwr.fmaxNow := if s.pwr.fmaxNow ≤ fm then fm else s.pwr.fmaxNow - 25, pwr.fmaxTick := s.eft.tick }
    .ok (ledgerCmd (applyFreq s 7) slot.val r 0 0 0) []) s)

def execPowerQuery (slot : SlotId) (s : State) : Res :=
  .next (runCmd slot.val 0x0702 false anyFields (fun _ s =>
    .ok s (leBytes 4 s.pwr.idleSleep ++ leBytes 4 s.pwr.idleTorpor ++ leBytes 2 s.pwr.coreFmax
      ++ leBytes 1 (b2n s.pwr.torporEn) ++ zeros 5
      ++ (List.range 7).flatMap (fun k => leBytes 2 (mon s k).ceil) ++ zeros 2)) s)

end Sys2Proof.Machine
end

