-- ==== Sys2Proof/Machine/Graph.lean ====
section
/-! DEFINITION. The fabric as a graph of link-state records: links, reachable trays, legal paths, and the seven route tables of a
tray (20, R500; 21, R508, R509). -/

namespace Sys2Proof.Machine

/-- The record of a UID. -/
def recOf (rs : List LsrRec) (uid : Nat) : Option LsrRec := rs.find? (fun r => r.uid == uid)

/-- The links of a record that R500 recognises: the other tray's record lists this one's UID on matching ports. -/
def linksOf (rs : List LsrRec) (a : LsrRec) : List LinkEntry :=
  a.links.filter (fun l => match recOf rs l.nuid with
    | some b => b.links.any (fun m => m.port == l.nport && m.nport == l.port && m.nuid == a.uid)
    | none => false)

/-- One round of reachability over recognised links. -/
def reachStep (rs : List LsrRec) (us : List Nat) : List Nat :=
  us ++ ((rs.filter (fun r => !us.contains r.uid && !r.withdrawn && (linksOf rs r).any (fun l => us.contains l.nuid))).map (·.uid))

/-- UIDs reachable from a tray, itself included, over trays that are not withdrawn (R500, R501). -/
def reachable (rs : List LsrRec) (uid : Nat) : List Nat := (List.range rs.length).foldl (fun us _ => reachStep rs us) [uid]

/-- The records that routes are computed over (R508). -/
def routed (rs : List LsrRec) (own : Nat) : List LsrRec :=
  let us := reachable rs own
  rs.filter (fun r => us.contains r.uid)

/-- The root: the lowest UID. -/
def rootOf (rs : List LsrRec) : Nat := ((rs.map (·.uid)).foldl min (((rs.map (·.uid)).headD 0)))

/-- Levels by UID: the hop distance from the root. -/
def levels (rs : List LsrRec) : Tab Nat :=
  (List.range rs.length).foldl (fun t k =>
    rs.foldl (fun t r =>
      if (tget t r.uid).isNone && (linksOf rs r).any (fun l => tget t l.nuid == some k) then tset t r.uid (k + 1) else t) t)
    [(rootOf rs, 0)]

/-- A hop from tray `a` to tray `b` is up (R508). -/
def isUp (lv : Tab Nat) (a b : Nat) : Bool :=
  let x := tgetD lv a 0
  let y := tgetD lv b 0
  decide (y < x) || (x == y && decide (b < a))

/-- One round of relaxation of distances to a destination: over down hops for `down`, over up hops from `down` or `any`. -/
def relax (rs : List LsrRec) (lv : Tab Nat) (dt : Tab Nat × Tab Nat) : Tab Nat × Tab Nat :=
  rs.foldl (fun dt r => (linksOf rs r).foldl (fun (dt : Tab Nat × Tab Nat) l =>
    let better (t : Tab Nat) (d : Option Nat) : Tab Nat := match d with
      | some n => (match tget t r.uid with
        | some m => if n + 1 < m then tset t r.uid (n + 1) else t
        | none => if n + 1 ≤ 16 then tset t r.uid (n + 1) else t)
      | none => t
    if isUp lv r.uid l.nuid then (dt.1, better dt.2 (tget dt.2 l.nuid))
    else
      let dn := better dt.1 (tget dt.1 l.nuid)
      (dn, better dt.2 (tget dt.1 l.nuid))) dt) dt

/-- Lengths, at most 16, of the shortest down-only and legal paths to a destination, by UID. -/
def distances (rs : List LsrRec) (lv : Tab Nat) (dst : Nat) : Tab Nat × Tab Nat :=
  (List.range 17).foldl (fun dt _ => relax rs lv dt) ([(dst, 0)], [(dst, 0)])

/-- Two records with one NODE are both firm, or this one is tentative, or it has no address: no entry leads to it (R509). -/
def noRouteTo (rs : List LsrRec) (r : LsrRec) : Bool :=
  r.tentative || r.node == 0 || r.node == 0xFFF
    || rs.any (fun x => x.uid != r.uid && x.node == r.node && !x.tentative)

/-- The entry of Table 21-1 for destination `r` in a table whose frames may still go up (`up`) or not. -/
def entryFor (rs : List LsrRec) (lv : Tab Nat) (own : LsrRec) (r : LsrRec) (up : Bool) : Nat :=
  let (dn, any_) := distances rs lv r.uid
  let best := (linksOf rs own).foldl (fun (b : Option (Nat × Nat)) l =>
    let u := isUp lv own.uid l.nuid
    let rest := if u then (if up then tget any_ l.nuid else none) else tget dn l.nuid
    match rest with
    | some n => if n + 1 ≤ 16 then (match b with
        | some (h, p) => if n + 1 < h || (n + 1 = h && l.port < p) then some (n + 1, l.port) else b
        | none => some (n + 1, l.port)) else b
    | none => b) none
  match best with
  | some (h, p) => p + 8 + h * 256
  | none => 0

/-- One route table. -/
def routeTable (all : List LsrRec) (own : LsrRec) (up : Bool) : Tab Nat :=
  let rs := routed all own.uid
  let lv := levels rs
  let t := rs.foldl (fun t r =>
    if r.uid = own.uid || noRouteTo all r then t
    else
      let e := entryFor rs lv own r up
      if e = 0 then t else tset t r.node.toNat e) []
  if own.node = 0 then t else tset t own.node.toNat 0b11000

/-- The seven tables of a tray: a frame that arrived by an up hop, or that the tray originated, may still go up (R509). -/
def routeTables (all : List LsrRec) (own : LsrRec) : Tab (Tab Nat) :=
  let lv := levels (routed all own.uid)
  let by_ (p : Nat) : Bool := match own.links.find? (fun l => l.port == p) with
    | some l => isUp lv l.nuid own.uid
    | none => true
  (List.range 6).map (fun p => (p, routeTable all own (by_ p))) ++ [(6, routeTable all own true)]

end Sys2Proof.Machine
end

