-- ==== Sys2Proof/Machine/LinkOps.lean ====
section
/-! DEFINITION. What goes on at every change of a link: link-state records, HELLOs, the fall of a port, the start of training, and
the trays that are lost (20, R493 to R506; 21, R517). -/

namespace Sys2Proof.Machine

/-- Swifort handles the fabric: it runs, in SLEEP too, outside an activation gap and TORPOR. -/
def fabRuns (s : State) : Bool := swiRuns s

/-! ## The tray's own record -/

/-- Link entries: every port that is UP and whose unit is ONLINE, in ascending port order (R497). -/
def ownLinks (s : State) : List LinkEntry :=
  (List.range 6).filterMap (fun p =>
    let x := port s p
    match x.nbr with
    | some n => if x.st == .up && (unitRec s (portUnit p)).admin == .online then some { port := p, nport := n.nport, nuid := n.uid }
        else none
    | none => none)

/-- The record as it now stands. -/
def selfRec (s : State) : LsrRec :=
  { uid := Config.uid.toNat, seq := s.fab.seq, node := s.fab.node, tentative := s.fab.addr == .tentative,
    withdrawn := s.fab.withdrawn, links := ownLinks s }

/-- Every record that the tray holds, its own first. -/
def allRecs (s : State) : List LsrRec := selfRec s :: s.fab.lsdb.map (fun p => p.2.lsr)

/-- Flits of an LSR frame (Tables 20-6, 20-7). -/
def lsrFlits (r : LsrRec) : Nat := 1 + cdiv (16 + 16 * r.links.length) 32

/-- Sends a record on a port. -/
def sendLsr (s : State) (r : LsrRec) (p : Nat) : State := enqueue (fabSend s (.lsr p r)) p .mgt (lsrFlits r)

/-- Sends a record on every UP port but one. -/
def floodLsr (s : State) (r : LsrRec) (except_ : Option Nat) : State :=
  ((List.range 6).filter (fun p => (port s p).st == .up && except_ != some p)).foldl (fun s p => sendLsr s r p) s

/-- Sends a HELLO (R496). -/
def sendHello (s : State) (p : Nat) : State :=
  enqueue (fabSend s (.hello p (port s p).heard s.fab.node.toNat (s.fab.addr == .tentative))) p .mgt 2

/-- Trays that stopped being reachable: TRAY_LOST for each whose last record is not withdrawn (R500). -/
def checkReach (s : State) : State :=
  let now := reachable (allRecs s) Config.uid.toNat
  let lost := s.fab.reach.filter (fun u => !now.contains u)
  let s := { s with fab.reach := now }
  lost.foldl (fun s u => match tget s.fab.lsdb u with
    | some r => if r.lsr.withdrawn then s else raiseEvent s 0x0052 r.lsr.node.toNat 0
    | none => s) s

/-- Originates the tray's record with the next SEQ, floods it, and says HELLO again when NODE or TENTATIVE changed (R496, R498). -/
def originateNow (s : State) : State :=
  let s := { s with fab.seq := s.fab.seq + 1 }
  let r := selfRec s
  let hello := match s.fab.own with
    | some o => o.node != r.node || o.tentative != r.tentative
    | none => true
  let changed := match s.fab.own with
    | some o => o.node != r.node || o.tentative != r.tentative || o.withdrawn != r.withdrawn || o.links != r.links
    | none => true
  let s := floodLsr { s with fab.own := some r, fab.dirty := s.fab.dirty || changed } r none
  let s := if hello then ((List.range 6).filter (fun p => (port s p).st == .up)).foldl sendHello s else s
  checkReach s

/-- Originates a record when the list, NODE or FLAGS have changed (R498). -/
def originate (s : State) : State :=
  match s.fab.own with
  | some o =>
    let r := selfRec s
    if o.node = r.node && o.tentative = r.tentative && o.withdrawn = r.withdrawn && o.links = r.links then s else originateNow s
  | none => originateNow s

/-! ## Host routes -/

/-- Leaves the host's routes: a ledger entry, and recomputation begins (R517). Cause 0 a link down, 1 an address. -/
def revertRoutes (s : State) (cause : Nat) : State :=
  match s.fab.hostSet with
  | none => s
  | some _ => ledgerSelf { s with fab.hostSet := none, fab.dirty := true, fab.computing := false } 0x8007 0 0 cause

/-- The tray's own tables route over a port. -/
def usesPort (s : State) (p : Nat) : Bool :=
  s.fab.tables.any (fun t => t.2.any (fun e => entryValid e.2 && !entryDeliver e.2 && entryOut e.2 == p))

/-! ## Ports -/

/-- LINK_CHANGE, with its trace record (R495; 25, Table 25-7). -/
def linkChange (s : State) (p : Nat) (up : Bool) : State :=
  let n := match (port s p).nbr with | some n => if n.tentative then 0 else n.node | none => 0
  let p0 := p + b2n up * 256 + n * 65536
  traceTray (raiseEvent s 0x0050 p0 0) 0x13 p0

/-- A port goes down (R492, R494, R558): frames of its replay buffer are discarded and counted, the fourth fall within 60 s holds it
and makes it SUSPECT, and the tray's record loses the link. -/
def portDown (s : State) (p : Nat) (retry : Bool) : State :=
  let x := port s p
  match x.st with
  | .down => s
  | .training _ => setPort s p { x with st := .down, retry := retry, nbr := none, heard := 0, twoWay := false, replay := [], rx := [], resends := 0, episode := none }
  | .up =>
    let s := ctrAdd s (portCtr p 4) x.replay.length
    let s := linkChange s p false
    let downs := s.eft.time :: x.downs.filter (fun t => decide (s.eft.time < t + 60000000000))
    let flap := decide (4 ≤ downs.length)
    let s := setPort s p { x with st := .down, retry := retry, nbr := none, heard := 0, twoWay := false, replay := [], rx := [], resends := 0,
                                  episode := none, downs := downs, held := flap }
    let s := if flap then
        let s := setHealth s (portUnit p) .suspect true
        latch s (portUnit p) (report s 0x13 2 (portUnit p) 0 0 0 downs.length 0)
      else s
    let s := if usesPort s p then revertRoutes s 0 else s
    originate s

/-- FAB runs: in every power state but TORPOR, and in a wake from it from the row of Table 3-5 at which the ports begin training. -/
def fabClock (s : State) : Bool :=
  alive s && (match s.pwr.power with | .torpor => false | .resuming k => decide (6 ≤ k) | _ => true)

/-- The port may train: self-test is over, a module that fits is present, and the unit is neither OFFLINE nor at FAULT (R104, R494,
R622; 20, At the edges). -/
def mayTrain (s : State) (p : Nat) : Bool :=
  let u := unitRec s (portUnit p)
  fabClock s && !s.boot.todo.contains .verify && !s.boot.todo.contains .selftest && (port s p).present && u.admin != .offline && u.health != .fault && !(port s p).held

/-- A training attempt begins, with the check of the module (R483, R493). -/
def startTraining (s : State) (p : Nat) : State :=
  let x := port s p
  if !mayTrain s p || x.st != .down then s
  else if x.fits then setPort s p { x with st := .training 1, retry := false, twoWay := false }
  else ctrAdd (setPort s p { x with retry := true }) (portCtr p 7) 1

/-- Ports with a module begin training: after self-test, and at the end of TORPOR. -/
def trainAll (s : State) : State := (List.range 6).foldl startTraining s

/-- ADMIN or HEALTH of a fabric port has changed: the record follows, and OFFLINE or FAULT takes the link down (R494, R506). -/
def portUnitChanged (s : State) (u : Nat) : State :=
  if u / 0x1000 ≠ 5 then s
  else
    let p := u % 0x1000
    let r := unitRec s u
    let s := if r.admin == .offline || r.health == .fault then portDown s p true else s
    if (port s p).st == .up then originate s else s

/-- The tray floods a withdrawal (R70, R109, R501). -/
def withdraw (s : State) : State := originate { s with fab.withdrawn := true }

/-- Ends every link without a withdrawal of its own, in TORPOR; a port that was UP leaves UP (R495). -/
def dropPorts (s : State) : State :=
  let s := ((List.range 6).filter (fun p => (port s p).st == .up)).foldl (fun s p => linkChange s p false) s
  { s with fab.ports := tmap s.fab.ports (fun _ x => { present := x.present, fits := x.fits, optics := x.optics, downs := x.downs }) }

/-- A withdrawn tray returns: its records carry no WITHDRAWN, and it claims its address again (R501, R503). -/
def rejoin (s : State) : State := { s with fab.withdrawn := false, fab.addr := .none, fab.node := 0 }

/-! ## Node addresses (R503, R504) -/

/-- An address is held by a record of another UID. -/
def nodeHeld (s : State) (n : Nat) : Bool := s.fab.lsdb.any (fun r => r.2.lsr.node.toNat == n && r.1 != Config.uid.toNat)

/-- The first free address from `n` on; `k` bounds the search. -/
def freeNode (s : State) : Nat → Nat → Option Nat
  | 0, _ => none
  | k + 1, n => if nodeHeld s n then freeNode s k (if n = 4094 then 1 else n + 1) else some n

/-- Claims a candidate as tentative, or stays without an address (R503, R505). -/
def claimFrom (s : State) (n : Nat) : State :=
  match freeNode s 4094 n with
  | some n => originate { s with fab.node := BitVec.ofNat 12 n, fab.addr := .tentative }
  | none => originate { s with fab.node := 0, fab.addr := .none }

/-- The claim of a tray that has no address. -/
def claimAddr (s : State) : State :=
  if s.fab.addr == .none then
    claimFrom s (if s.eft.lastNode = 0 then 1 + Config.uid.toNat % 4094 else s.eft.lastNode.toNat)
  else s

/-- No port has a cable (R104). -/
def uncabled (s : State) : Bool := (List.range 6).all (fun p => !(port s p).present)

/-- A tray without a cable has no records to wait for and claims its address at once (R503; log entry 46). -/
def claimAlone (s : State) : State := if uncabled s then claimAddr s else s

/-- A record in conflict with the tray's own claim: a firm claim beats a tentative one, and the lower UID keeps the address
between two of a kind (R504). -/
def losesTo (s : State) (r : LsrRec) : Bool :=
  let firm := s.fab.addr == .firm
  s.fab.addr != .none && r.node == s.fab.node
    && ((!firm && !r.tentative) || (firm == !r.tentative && decide (r.uid < Config.uid.toNat)))

/-- Gives the address up for the next candidate; a firm one with a ledger entry. -/
def yieldAddr (s : State) : State :=
  let old := s.fab.node
  let firm := s.fab.addr == .firm
  let s := claimFrom s (if old.toNat = 4094 then 1 else old.toNat + 1)
  if firm then ledgerSelf s 0x8006 0 old.toNat s.fab.node.toNat else s

end Sys2Proof.Machine
end

