-- ==== Sys2Proof/Machine/Staging.lean ====
section
/-! DEFINITION. Copies in tier A and the scratchpads: which banks a plan needs on a core, where its resident copies go, eviction
and quotas, and staging orders (01, R17; 02, R30 to R33, R47, R48, R54, R635; 09, R235, R237; 17, R444; 19, R475). -/

namespace Sys2Proof.Machine

def refObj : ImageRef → ObjRef
  | .commons c => .commons c
  | .region r => .region r

/-! ## What a plan needs at a position -/

/-- The distinct sections of a plan's place, over all rounds. -/
def secsAt (d : ImageDesc) (p : PlanDesc) (i : Nat) : List (Nat × SectionDesc) :=
  ((p.rounds.map (fun r => r.getD i 0)).eraseDups).filterMap (fun n => (d.sections[n]?).map (fun x => (n, x)))

/-- Scratchpad ranges of a section's working space (R31, R234, R236, R410, R442): windows it may write, circular regions, DATA, and the
reuse window. -/
def workRanges (x : SectionDesc) : List (Nat × Nat) :=
  (x.windows.filter (·.wr)).map (fun w => (w.base * 64, w.size * 64)) ++ x.circs.map (fun z => (z.base * 4096, z.size * 4096))
    ++ [(x.dataOff * 64, x.data.length)]
    ++ (if bitAt x.gthCfg 5 then [(bits x.gthCfg 0 5 * 0x40000, 0x80000)] else [])

/-- Working banks of a position. The model lays them where the section names them (log entry 19). -/
def workBanks (d : ImageDesc) (p : PlanDesc) (i : Nat) : List Nat :=
  let rs := (secsAt d p i).flatMap (fun x => workRanges x.2)
  (List.range 31).filter (fun b => rs.any (fun r => decide (0 < r.2) && overlap r.1 r.2 (b * 0x40000) 0x40000))

/-- Resident copies of a position. -/
def slicesAt (p : PlanDesc) (i : Nat) : List ScratchDesc := p.scratch.filter (fun x => x.pos == i)

def sliceBanks (x : ScratchDesc) : Nat := max 1 (cdiv x.len 0x40000)

/-- Sources of the TIER tables of a place (R401). -/
def tierTables (d : ImageDesc) (p : PlanDesc) (i : Nat) : List ObjRef :=
  (secsAt d p i).flatMap (fun x => (x.2.tables.filter (fun t => bits t.w0.toNat 44 2 == 0)).map (fun t => refObj t.source))

/-- Objects that a plan reads through copies, for the places that this tray runs: the image, the sources of resident copies, and the
sources of TIER tables (R401). -/
def planUses (d : ImageDesc) (p : PlanDesc) (imageRegion : Nat) (ixs : List Nat) : List ObjRef :=
  (.region imageRegion :: ixs.flatMap (fun i => (slicesAt p i).map (fun x => refObj x.source) ++ tierTables d p i)).eraseDups

/-! ## Banks of a core -/

/-- The scratchpad copy that holds a bank of a core. -/
def copyAt (s : State) (c b : Nat) : Option SpCopy := s.store.spCopies.find? (fun x => x.core == c && x.banks.contains (c * 32 + b))

/-- A bank takes a new tag at once: it is not retired and holds no resident copy. -/
def bankFree (s : State) (c b : Nat) : Bool := !(bank s (c * 32 + b)).retired && (copyAt s c b).isNone

/-- A bank takes a new tag once its copy is evicted (R32). -/
def bankOpen (s : State) (c b : Nat) : Bool :=
  !(bank s (c * 32 + b)).retired && (match copyAt s c b with
    | some x => (copyKey s (.sp x)).isSome
    | none => true)

/-- The copy that a position needs is on the core, outside its working banks. -/
def haveSlice (s : State) (c : Nat) (work : List Nat) (x : ScratchDesc) : Option SpCopy :=
  s.store.spCopies.find? (fun y => y.core == c && y.obj == refObj x.source && y.off == x.off && y.len == x.len && !y.poisoned
    && y.banks.all (fun b => !work.contains (b % 32)))

/-- A core's bank 31 holds a section of an image. -/
def has31 (s : State) (c image n : Nat) : Bool := (core s c).bank31.any (fun b => b.1 == image && b.2.1 == n)

/-- Scratchpads lack a part of an object that their places need: a copy that is missing or not yet staged, or, of the image's own region,
a section. `at_` lists places with their cores. -/
def scratchLacks (s : State) (d : ImageDesc) (p : PlanDesc) (image imageRegion : Nat) (at_ : List (Nat × Nat)) (o : ObjRef) : Bool :=
  at_.any (fun x =>
    (slicesAt p x.1).any (fun z => refObj z.source == o && (match haveSlice s x.2 (workBanks d p x.1) z with
      | some y => !y.done
      | none => true))
    || (o == .region imageRegion && (secsAt d p x.1).any (fun y => !has31 s x.2 image y.1)))

/-- An object must be in tier A: a table reads it there, or it still has to be staged from there. Step 5 of R16 is skipped for one that the
scratchpads hold. -/
def needsTier (s : State) (d : ImageDesc) (p : PlanDesc) (image imageRegion : Nat) (at_ : List (Nat × Nat)) (o : ObjRef) : Bool :=
  at_.any (fun x => (tierTables d p x.1).contains o) || scratchLacks s d p image imageRegion at_ o

/-- Those of a plan's objects that must be in tier A. -/
def tierUses (s : State) (d : ImageDesc) (p : PlanDesc) (image imageRegion : Nat) (at_ : List (Nat × Nat)) : List ObjRef :=
  (planUses d p imageRegion (at_.map (·.1))).filter (needsTier s d p image imageRegion at_)

/-- Contiguous banks for each size in turn, lowest first; none when one does not fit. -/
def placeAll (free : Nat → Bool) : List Nat → List Nat → Option (List (List Nat))
  | [], _ => some []
  | n :: ns, taken =>
    let run (b : Nat) : List Nat := (List.range n).map (b + ·)
    match (List.range (32 - n)).find? (fun b => (run b).all (fun x => free x && !taken.contains x)) with
    | none => none
    | some b => (placeAll free ns (taken ++ run b)).map (run b :: ·)

/-- Slices that a core still lacks, and the banks it must not use for them. -/
def lacking (s : State) (c : Nat) (work : List Nat) (xs : List ScratchDesc) : List ScratchDesc × List Nat :=
  (xs.filter (fun x => (haveSlice s c work x).isNone),
   work ++ xs.flatMap (fun x => match haveSlice s c work x with
     | some y => y.banks.map (· % 32)
     | none => []))

/-- Places for what a core lacks, with banks that pass; the working banks must pass too. -/
def placesFor (s : State) (c : Nat) (work : List Nat) (xs : List ScratchDesc) (ok : Nat → Bool) : Option (List (List Nat)) :=
  let (need, avoid) := lacking s c work xs
  if work.all ok then placeAll ok (need.map sliceBanks) avoid else none

/-- A core can hold a position's working banks and copies, evicting what may be evicted; its configuration bank is not retired. -/
def fits (s : State) (c : Nat) (work : List Nat) (xs : List ScratchDesc) : Bool :=
  !(bank s (c * 32 + 31)).retired && (placesFor s c work xs (bankOpen s c)).isSome

/-- Evicts copies of a core, in the order of R32, until the working banks are clear and every missing copy has a place; `n` bounds the
number. Copies that the position itself uses stay. -/
def makeRoom (c : Nat) (work : List Nat) (xs : List ScratchDesc) : Nat → State → Option (State × List (List Nat))
  | 0, _ => none
  | n + 1, s => match placesFor s c work xs (bankFree s c) with
    | some ps => some (s, ps)
    | none =>
      let keep (y : SpCopy) : Bool := xs.any (fun x => haveSlice s c work x == some y)
      match nextVictim s (fun v => match v with | .sp y => y.core == c && !keep y | .ta _ => false) with
      | some v => makeRoom c work xs n (evict s v)
      | none => none

/-- Untags the banks of a core's earlier occupants outside the new working banks, and tags the working banks (R31, R48, R75). -/
def tagWork (s : State) (c t : Nat) (work : List Nat) : State :=
  (List.range 31).foldl (fun s b =>
    let k := bank s (c * 32 + b)
    if k.retired || k.res then s
    else if work.contains b then retag s (c * 32 + b) t false
    else if k.owner = 0 then s
    else retag s (c * 32 + b) 0 false) s

/-- The owner tag of a copy of an object. -/
def objOwner (s : State) : ObjRef → Nat
  | .commons _ => 0xFFF
  | .region r => match tget s.store.regions r with | some g => g.owner | none => 0

/-- An admitted work other than this one uses an object on a core. -/
def usedByOther (s : State) (w : Option Nat) (o : ObjRef) (c : Nat) : Bool :=
  s.dsp.jobs.any (fun e => some e.1 != w && e.2.uses.contains o && e.2.chain.any (fun p => p.2 == c))
    || s.dsp.parts.any (fun p => some p.work != w && p.uses.contains o && p.cores.contains c)

/-- Adds the copies that a core lacks, tagged and to be staged, for a work once it is admitted. Another copy of the object on the core goes,
unless another admitted job holds it (R247). -/
def addCopies (s : State) (w : Option Nat) (c : Nat) (need : List ScratchDesc) (ps : List (List Nat)) (order : Nat) : State :=
  (List.range need.length).foldl (fun s i => match need[i]?, ps[i]? with
    | some x, some bs =>
      let bs := bs.map (c * 32 + ·)
      let s := (s.store.spCopies.filter (fun y => y.core == c && y.obj == refObj x.source && !usedByOther s w y.obj c)).foldl dropSpCopy s
      let s := bs.foldl (fun s b => retag s b (objOwner s (refObj x.source)) true) s
      { s with store.spCopies := s.store.spCopies ++
                 [{ obj := refObj x.source, core := c, off := x.off, len := x.len, banks := bs, done := false, poisoned := false,
                    lastUse := order }] }
    | _, _ => s) s

/-! ## Quotas (R54) -/

/-- Banks that a tenant's work needs on a core beyond those it holds there, as working space and as copies. -/
def bankNeed (s : State) (t c : Nat) (work : List Nat) (xs : List ScratchDesc) : Nat :=
  let old := work.countP (fun b => let k := bank s (c * 32 + b); k.owner == t && !k.res)
  (work.length - old)
    + ((lacking s c work xs).1.filter (fun x => objOwner s (refObj x.source) == t)).foldl (fun n x => n + sliceBanks x) 0

/-- Working banks of a tenant on a core that the new assignment gives up. -/
def bankGiven (s : State) (t c : Nat) (work : List Nat) : Nat :=
  (List.range 31).countP (fun b => let k := bank s (c * 32 + b); k.owner == t && !k.res && !k.retired && !work.contains b)

/-- MiB that a tenant's part of some objects needs in tier A beyond the copies held. -/
def tierNeed (s : State) (t : Nat) (os : List ObjRef) : Nat :=
  os.foldl (fun n o => match o with
    | .region r => (match tget s.store.regions r with
      | some g => if g.owner = t && !g.tierA && g.copy.isNone then n + mib g.size else n
      | none => n)
    | .commons _ => n) 0

/-- What a quota check answers. -/
inductive Quota where
  | fits (s : State)
  | hold (s : State)
  | refuse

/-- A pinned region of a tenant (R33). -/
def isPinned (s : State) (g : Region) : Bool := !g.image && (tenant s g.owner).residency != 0

/-- Evicts a tenant's own copies that pass, oldest-used first, until the usage fits; `n` bounds the number. -/
def shedOwn (used : State → Nat) (limit : Nat) (all : State → List (Nat × CopyRef)) : Nat → State → State × Bool
  | 0, s => (s, decide (used s ≤ limit))
  | n + 1, s =>
    if used s ≤ limit then (s, true)
    else match minBy (fun x => x.1) (all s) with
      | some x => shedOwn used limit all n (evict s x.2)
      | none => (s, false)

/-- A tenant's own scratchpad copies that R54 lets go: not in use, not on a pinned core, not among those kept. -/
def ownSp (t : Nat) (keep : SpCopy → Bool) (s : State) : List (Nat × CopyRef) :=
  (s.store.spCopies.filter (fun y => objOwner s y.obj == t && !keep y && (copyKey s (.sp y)).isSome)).map (fun y => (y.lastUse, .sp y))

/-- A tenant's own tier A copies that R54 lets go. -/
def ownTa (t : Nat) (keep : List ObjRef) (s : State) : List (Nat × CopyRef) :=
  s.store.regions.filterMap (fun p => match p.2.copy with
    | some x => if p.2.owner = t && !isPinned s p.2 && !keep.contains (.region p.1) && !objInUse s (.region p.1) none
        then some (x.lastUse, .ta p.1) else none
    | none => none)

/-- The checks of R54 for a tenant that needs `banks` banks, gives `given` back, and uses some objects. -/
def quotaCheck (s : State) (t banks given : Nat) (os : List ObjRef) (keep : SpCopy → Bool) : Quota :=
  let x := tenant s t
  let mibs := tierNeed s t os
  if x.spQuota < banks || x.taQuota < mibs then .refuse
  else match shedOwn (fun s => spUsed s t - given + banks) x.spQuota (ownSp t keep) s.store.spCopies.length s with
    | (s, false) => .hold s
    | (s, true) => match shedOwn (fun s => taUsed s t + mibs) x.taQuota (ownTa t os) s.store.regions.length s with
      | (s, false) => .hold s
      | (s, true) => .fits s

/-! ## Tier A copies and orders -/

/-- Gives every listed object that is a tier B region without a tier A copy a place in tier A; none when one does not fit. -/
def addTaCopies (order : Nat) : List ObjRef → State → Option State
  | [], s => some s
  | .commons _ :: os, s => addTaCopies order os s
  | .region r :: os, s => match tget s.store.regions r with
    | none => addTaCopies order os s
    | some g =>
      if g.tierA || g.copy.isSome then addTaCopies order os s
      else match alloc s true g.size with
        | none => none
        | some (a, s) =>
          let rs := tmod s.store.regions r g (fun g => { g with copy := some { base := a, done := false, poisoned := false, lastUse := order } })
          addTaCopies order os { s with store.regions := rs }

/-- A region's tier A copy is complete, or its home is in tier A. -/
def taReady (s : State) : ObjRef → Bool
  | .commons _ => true
  | .region r => match tget s.store.regions r with
    | some g => g.tierA || (match g.copy with | some x => x.done | none => false)
    | none => true

/-- Cores of a work whose staging of an object is not complete: copies not yet performed, and, for the image, sections that bank 31
lacks. -/
def coresLacking (s : State) (w : Nat) (o : ObjRef) : List Nat :=
  let mine := (workChain s w).map (·.2)
  let sp := (s.store.spCopies.filter (fun y => y.obj == o && !y.done && mine.contains y.core)).map (·.core)
  let img := match tget s.store.images (workImage s w) with
    | some m =>
      if o = .region m.region then
        (match m.desc.plans[workPlan s w]? with
          | some p => ((workChain s w).filter (fun q => (secsAt m.desc p (planIx s w q.1)).any (fun x =>
              !has31 s q.2 (workImage s w) x.1))).map (·.2)
          | none => [])
      else []
    | none => []
  (sp ++ img).eraseDups

/-- A TIER table of a work's plan reads this object. -/
def readsTier (s : State) (w : Nat) (o : ObjRef) : Bool :=
  match tget s.store.images (workImage s w) with
  | some m => (match m.desc.plans[workPlan s w]? with
    | some p => (workChain s w).any (fun q => (tierTables m.desc p (planIx s w q.1)).contains o)
    | none => false)
  | none => false

/-- The orders that a work waits for: one for each object of which a core lacks a part, or whose tier A copy a table reads and that is not
complete; an order under way for the object takes the work and its cores (R16, R17, R475). -/
def orderStaging (s : State) (w : Nat) (os : List ObjRef) : State :=
  os.foldl (fun s o =>
    let cs := coresLacking s w o
    if (taReady s o || !readsTier s w o) && cs.isEmpty then s
    else if s.store.orders.any (fun x => x.obj == o) then
      { s with store.orders := s.store.orders.map (fun x => if x.obj = o then
          { x with jobs := if x.jobs.contains w then x.jobs else x.jobs ++ [w], cores := (x.cores ++ cs).eraseDups } else x) }
    else { s with store.orders := s.store.orders ++ [{ obj := o, cores := cs, jobs := [w] }] }) s

/-- Marks the objects of an admitted work as read by it (R32). -/
def touch (s : State) (os : List ObjRef) (cs : List Nat) (order : Nat) : State :=
  let rs := tmap s.store.regions (fun r g => match g.copy with
    | some x => if os.contains (.region r) then { g with copy := some { x with lastUse := order } } else g
    | none => g)
  let co := tmap s.store.commons (fun c o => if os.contains (.commons c) then { o with lastUse := order } else o)
  let sp := s.store.spCopies.map (fun y => if os.contains y.obj && cs.contains y.core then { y with lastUse := order } else y)
  { s with store.regions := rs, store.commons := co, store.spCopies := sp }

/-- The pinned cores of a PIN_SCRATCH region are those that receive a copy of it at its first staging (R635). -/
def pinCores (s : State) (o : ObjRef) (cs : List Nat) : State :=
  let rs := tmap s.store.regions (fun r g =>
    if o = .region r && !cs.isEmpty && !g.image && g.sealed && g.pinned.isNone && (tenant s g.owner).residency = 2 then
      { g with pinned := some cs }
    else g)
  { s with store.regions := rs }

/-- Copies that hold a poisoned word and that no admitted job uses any more are dropped (R247, R471). -/
def dropPoisoned (s : State) : State :=
  let s := (s.store.spCopies.filter (fun y => y.poisoned && !objInUse s y.obj (some y.core))).foldl loseCopy s
  (s.store.regions.filter (fun p => (match p.2.copy with | some x => x.poisoned | none => false) && !objInUse s (.region p.1) none)).foldl
    (fun s p => dropTaCopy s p.1) s

/-- The poisoned copies that a stream's frame met are zero-filled and staged again before its next frame (R556). -/
def restage (s : State) (w : Nat) : State :=
  let mine := (workChain s w).map (·.2)
  let hit (y : SpCopy) : Bool := y.poisoned && mine.contains y.core
  let s := (s.store.spCopies.filter hit).foldl (fun s y => y.banks.foldl (fun s b => memZero s (0x80000000000 + b * 0x40000) 0x40000) s) s
  { s with store.spCopies := s.store.spCopies.map (fun y => if hit y then { y with done := false, poisoned := false } else y) }

end Sys2Proof.Machine
end

