-- ==== Sys2Proof/Machine/JobEnd.lean ====
section
/-! DEFINITION. How a job ends: its completion, the end of a stream, the release of its slot, chain and units, and what
waits for that (08, R202, R211 to R220; 17, R446; 23, R560). -/

namespace Sys2Proof.Machine

/-- The completion of a job's single run, or of a stream's running frame. -/
def jobCompl (job : Job) (status detail : Nat) : Compl :=
  { status := status, sat := job.sat, nan := job.nan, hot := job.hotFirst.isSome, cobatched := !job.group.isEmpty,
    sqIndex := job.sqIndex, cookie := job.cookie,
    frame := match job.frame with | some f => (if job.stream.isSome then f.1 else 0) | none => 0,
    stamp := job.stamp,
    hotIndex := job.hotFirst.getD 0, hotCount := job.hotCount, detail := detail, irq := job.irq, tcid := job.tcid }

/-- A completion of frame `k` that did not run. -/
def skipCompl (job : Job) (k : Nat) : Compl :=
  { status := 0x0204, sqIndex := job.sqIndex, cookie := job.cookie, frame := k, stamp := job.stamp, irq := job.irq,
    tcid := job.tcid, cobatched := !job.group.isEmpty }

def setJob (s : State) (j : Nat) (job : Job) : State := { s with dsp.jobs := tset s.dsp.jobs j job }

/-- Completes a stream's waiting frame with FRAME_SKIPPED. -/
def skipWaiting (s : State) (j : Nat) : State :=
  match tget s.dsp.jobs j with
  | some job => match job.stream with
    | some st => match st.waiting with
      | some (k, _) => setJob (postCompl s job.ring (skipCompl job k) true) j
          { job with stream := some { st with waiting := none, skipped := 0 } }
      | none => s
    | none => s
  | none => s

/-- A unit in DRAINING that no admitted job uses goes OFFLINE when it is a pond port or a fabric port that is not GOOD
(R506, R560). -/
def finishFencing (s : State) : State :=
  (s.errs.units.filter (fun p => p.2.admin == .draining && p.2.health != .good && (p.1 / 0x1000 == 2 || p.1 / 0x1000 == 5)
      && (jobsOfUnit s p.1).isEmpty)).foldl (fun s p => portUnitChanged (fenceAdmin s p.1 .offline) p.1) s

/-- Jobs and remote parts that use a unit. -/
def unitUsed (s : State) (u : Nat) : Bool :=
  !(jobsOfUnit s u).isEmpty || (u / 0x1000 == 1 && s.dsp.parts.any (fun p => p.cores.contains (u % 0x1000)))

/-- A repair whose core no job uses any more: the core goes OFFLINE and the line test runs (R329). -/
def advanceRepairs (s : State) : State :=
  if !fwUp s then s
  else (s.repairs.filter (fun p => !p.2.testing && !unitUsed s (coreUnit p.1))).foldl (fun s p =>
    { fenceAdmin s (coreUnit p.1) .offline with repairs := tset s.repairs p.1 { p.2 with testing := true } }) s

/-- Rows of a job in its co-batch group: its batch extent. -/
def batchRows (s : State) (job : Job) : Nat :=
  match imageDesc s job.image with
  | some d => (match d.batchDim with | some n => job.exts.getD n 0 | none => 0)
  | none => 0

/-- The job belongs to a group of several tenants (R43; 02, At the edges). -/
def sharedGroup (job : Job) : Bool := job.mates.any (· != job.tcid)

/-- A job of a group of several tenants adds itself and its rows to its tenant's page (R43). -/
def pageGroup (s : State) (job : Job) : State :=
  if sharedGroup job then pageAdd (pageAdd s job.tcid 4 1) job.tcid 5 (batchRows s job) else s

/-- A job's completion adds its waits (R458, R588) and its co-batched rows (R43) to its tenant's page; the waits of a stream's next frame
start at zero. -/
def pageJob (s : State) (j : Nat) : State :=
  match tget s.dsp.jobs j with
  | none => s
  | some job =>
    let s := (List.range 5).foldl (fun s i => pageAdd s job.tcid (96 + i) (job.waits.getD i 0)) s
    setJob (pageGroup s job) j { job with waits := [0, 0, 0, 0, 0] }

/-- What a group has on its way under a member's slot goes on under another's (R44). -/
def passNet (s : State) (j m : Nat) : State :=
  let gen := workGen s m
  let t := workTcid s m
  { s with net := { adds := s.net.adds.map (fun a => if a.work = j then { a with work := m, gen := gen, tcid := t } else a),
                    toks := s.net.toks.map (fun x => if x.work = j then { x with work := m, gen := gen, tcid := t } else x),
                    creds := s.net.creds.map (fun x => if x.work = j then { x with work := m, gen := gen } else x) },
           fab.txns := tmap s.fab.txns (fun _ x => if x.work = some j then { x with work := some m } else x) }

/-- The working banks of a core's group take the tag of the member that leads it now; the group stays the core's occupant, so nothing is
zero-filled (log entry 14). -/
def passBanks (s : State) (c t t' : Nat) : State :=
  { s with store.banks := tmap s.store.banks (fun b k => if b / 32 = c && k.owner = t && !k.res then { k with owner := t' } else k) }

/-- The cores that run a job's group go on under another member that still lives, with their working banks and what is on its way
(R44, R55). -/
def passLead (s : State) (j : Nat) (job : Job) : State :=
  match (members s j).find? (fun m => m != j) with
  | none => s
  | some m => passNet (job.chain.foldl (fun s p =>
      if (core s p.2).work = some j then
        passBanks (modCore s p.2 (fun k => { k with work := some m })) p.2 job.tcid (workTcid s m)
      else s) s) j m

/-- Releases a job: its slot's generation advances, its chain, units and remote parts are free, copies that it alone held poisoned are
dropped, a ring that waits for its last job is unconfigured, and what waits for all this goes on (R205, R212, R181, R247, R525). -/
def releaseJob (s : State) (j : Nat) : State :=
  match tget s.dsp.jobs j with
  | none => s
  | some job =>
    let s := passLead s j job
    let s := { s with dsp.jobs := tdel s.dsp.jobs j, dsp.gens := tset s.dsp.gens j (job.gen + 1) }
    let s := if job.quench.isSome then s
      else job.parts.foldl (fun s p => sendTxn s p.node .release job.tcid j job.gen none 64 0) s
    let g := tgetD s.rings job.ring {}
    let s := if g.destroying && !s.dsp.jobs.any (fun e => e.2.ring == job.ring)
      then { s with rings := tset s.rings job.ring {} } else s
    let s := job.chain.foldl (fun s p => kick s p.2) (dropPoisoned (advanceRepairs (finishFencing s)))
    answerWaits s

/-- Frees a remote part: what still runs of it stops, and its cores, copies and slot are free (R525, R526). -/
def freePart (s : State) (w : Nat) : State :=
  match partOf s w with
  | none => s
  | some p =>
    let s := if p.cores.all (fun c => p.ended.contains c) && !p.cores.any (fun c => (core s c).work == some w) then s else stopChain s w
    let s := cancelStaging s w
    let s := { s with dsp.parts := s.dsp.parts.filter (fun x => x.work != w) }
    p.cores.foldl kick (dropPoisoned (advanceRepairs (finishFencing s)))

/-- Places and orders again what a work's plan needs and no longer has: a copy whose staging failed, or one a frame met poisoned. -/
def ensureCopies (s : State) (w order : Nat) (uses : List ObjRef) : State :=
  let s := match tget s.store.images (workImage s w) with
    | none => s
    | some m => match m.desc.plans[workPlan s w]? with
      | none => s
      | some p =>
        let at_ := (workChain s w).map (fun q => (planIx s w q.1, q.2))
        let s := at_.foldl (fun s q =>
          let work := workBanks m.desc p q.1
          let need := (lacking s q.2 work (slicesAt p q.1)).1
          if need.isEmpty then s
          else match makeRoom q.2 work (slicesAt p q.1) 32 s with
            | some (s, ps) => addCopies s (some w) q.2 need ps order
            | none => s) s
        (addTaCopies order (uses.filter (needsTier s m.desc p (workImage s w) m.region at_)) s).getD s
  orderStaging s w uses

/-- Claims a job's remote parts again for the next frame (log entry 20). -/
def reclaim (s : State) (j : Nat) (job : Job) : State :=
  job.parts.foldl (fun s p => sendTxn s p.node (.claim p.rimage job.plan p.q0 p.n job.exts) job.tcid j job.gen none 64 0) s

/-- Device address of the input or the output of frame `k`: the descriptor's offset, and (k mod NBUF) times the size in 64 B units for a
STREAM (R201). -/
def frameAt (s : State) (job : Job) (region off size k : Nat) : Nat :=
  let n := match job.stream with | some st => k % max 1 st.nbuf | none => 0
  (match tget s.store.regions region with | some g => g.base | none => 0) + off * 64 + n * roundUp size 64

/-- The plan of a job. -/
def planOf (s : State) (job : Job) : Option PlanDesc :=
  match imageDesc s job.image with | some d => d.plans[job.plan]? | none => none

/-- A job with the places of the input and output of frame `k`. -/
def placeFrame (s : State) (job : Job) (k : Nat) : Job :=
  match planOf s job with
  | some p => { job with inAt := frameAt s job job.inRegion job.inOff p.inSize k, outAt := frameAt s job job.outRegion job.outOff p.outSize k }
  | none => job

/-- After TIMEOUT, QUENCHED or UNIT_FAULT the output range of a job, or of its running frame, holds undefined bytes: free values (R215,
log entry 82). -/
def scrambleOut (s : State) (job : Job) (status : Nat) : State :=
  match planOf s job with
  | none => s
  | some p =>
    if !([0x0201, 0x0202, 0x0205] : List Nat).contains status || p.outSize = 0 || (job.stream.isSome && job.frame.isNone)
        || (tget s.store.regions job.outRegion).isNone then s
    else
      let (v, s) := draw s (8 * p.outSize)
      (memWrite s job.outAt (leBytes p.outSize v.toNat)).1

/-- Starts frame `k` of a stream (R219). -/
def startFrame (s : State) (j k rel : Nat) : State :=
  match tget s.dsp.jobs j with
  | none => s
  | some job =>
    let job := placeFrame s job k
    let s := setJob s j { job with frame := some (k, rel), ended := [], sat := false, nan := false, hotCore := 64, hotFirst := none,
                                   hotCount := 0, round := 0, mark := s.eft.tick,
                                   parts := if k = 0 then job.parts else job.parts.map (fun p => { p with st := .claiming }) }
    let s := if k = 0 then s else reclaim s j job
    let s := ensureCopies (restage s j) j job.order job.uses
    job.chain.foldl (fun s p => kick s p.2) s

/-- Posts the end completion of a stream, then that of its STREAM_STOP, and releases the job (R220). -/
def finishStream (s : State) (j status detail : Nat) : State :=
  match tget s.dsp.jobs j with
  | none => s
  | some job => match job.stream with
    | none => s
    | some st =>
      let s := postCompl s job.ring
        { status := status, isEnd := true, sqIndex := job.sqIndex, cookie := job.cookie, frame := st.released,
          stamp := job.stamp, detail := detail, irq := job.irq, tcid := job.tcid, cobatched := !job.group.isEmpty } true
      let s := match st.stop with
        | some (ix, ck, irq, stamp) =>
          postCompl s job.ring { status := 0, sqIndex := ix, cookie := ck, stamp := stamp, irq := irq, tcid := job.tcid } true
        | none => s
      releaseJob s j

/-- Ends a stream: no further frame is released; the waiting frame is skipped; with no running frame the end completion
follows at once (R220). A superseded stream posts no completion (R211). -/
def endStream (s : State) (j : Nat) : State :=
  match tget s.dsp.jobs j with
  | none => s
  | some job => match job.stream with
    | none => s
    | some st =>
      let s := setJob s j { job with stream := some { st with ending := true } }
      if job.superseded then s else
      let s := skipWaiting s j
      if job.frame.isNone && job.quench.isNone then finishStream s j 0 0 else s

/-- Ends every stream of a tenant that leaves ACTIVE (R220). -/
def endStreamsOf (s : State) (t : Nat) : State :=
  (s.dsp.jobs.filter (fun e => e.2.tcid == t && e.2.stream.isSome)).foldl (fun s e => endStream s e.1) s

/-- Units a quench was still waiting for, counting a remote part as one (R541, Table 8-3). -/
def unacked (q : Quench) : Nat := q.units.length + q.remote.length

/-- The remote parts of a job that have not acknowledged its quench are sent RELEASE (R541). -/
def releaseUnacked (s : State) (j : Nat) (job : Job) (q : Quench) : State :=
  (job.parts.filter (fun p => q.remote.contains p.stage)).foldl (fun s p => sendTxn s p.node .release job.tcid j job.gen none 64 0) s

/-- Ends a stream whose remote parts a quench has freed. -/
def finishQuenched (s : State) (j status detail : Nat) : State :=
  match tget s.dsp.jobs j with
  | some job => finishStream (setJob s j { job with parts := [] }) j status detail
  | none => s

/-- Posts a quench's outcome once every unit has acknowledged or the bound has run out, and frees what it held (R211, R214,
R219, R220). -/
def finishQuench (s : State) (j : Nat) : State :=
  match tget s.dsp.jobs j with
  | none => s
  | some job => match job.quench with
    | none => s
    | some q =>
      let detail := if q.status = 0x0201 then unacked q else q.detail
      if job.superseded then
        let n := match job.stream with
          | some st => 1 + b2n job.frame.isSome + b2n st.waiting.isSome + b2n st.stop.isSome
          | none => 1
        let s := postReadFault ((List.range n).foldl (fun s _ => unreserve s job.ring) s) job.ring
        releaseJob (releaseUnacked (ctrAdd (pageGroup (scrambleOut s job q.status) job) 0x0018 1) j job q) j
      else match job.stream with
        | none => releaseJob (releaseUnacked (pageJob (postCompl (scrambleOut s job q.status) job.ring (jobCompl job q.status detail) true) j) j job q) j
        | some st =>
          let s := scrambleOut s job q.status
          let s := if job.frame.isSome then pageJob (postCompl s job.ring (jobCompl job q.status detail) true) j else s
          let s := releaseUnacked s j job q
          let ran := st.ran + b2n job.frame.isSome
          let st := { st with skipped := 0, ran := ran }
          let job' := { job with quench := none, frame := none, ended := [], sat := false, nan := false, hotFirst := none,
                                 hotCount := 0, waits := [0, 0, 0, 0, 0], stream := some st }
          let s := setJob s j job'
          if q.frameOnly then
            let s := endFlight s j
            (if st.ending then finishQuenched s j 0 0
             else if st.frames ≠ 0 && st.frames ≤ ran then finishQuenched (skipWaiting s j) j 0 0
             else match st.waiting with
              | some (k, rel) => startFrame (setJob s j { job' with stream := some { st with waiting := none } }) j k rel
              | none => job.chain.foldl (fun s p => kick s p.2) s)
          else
            let e := q.whole.getD (q.status, detail)
            finishQuenched (skipWaiting s j) j e.1 e.2

/-- Posts a quench's outcome once nothing is still to acknowledge. -/
def quenchDone (s : State) (j : Nat) : State :=
  match tget s.dsp.jobs j with
  | some job => match job.quench with
    | some q => if q.units.isEmpty && q.remote.isEmpty then finishQuench s j else s
    | none => s
  | none => s

end Sys2Proof.Machine
end

