-- ==== Sys2Proof/Machine/CmdTenant.lean ====
section
/-! DEFINITION. Tenants: the context record, the counts of R33 and R52, and the tenant commands (02; 07, Table 7-3). -/

namespace Sys2Proof.Machine

def tstateCode : TState → Nat
  | .free => 0 | .active => 1 | .suspended => 2 | .destroying => 3

/-- The 32-byte tenant context record (Table 2-2). -/
def tenantRecord (s : State) (t : Nat) : List Byte :=
  let c := tenant s t
  leBytes 8 (t + tstateCode c.state * 2 ^ 12 + b2n c.cobatch * 2 ^ 16 + b2n c.observe * 2 ^ 17 + c.residency * 2 ^ 18
      + c.tgen * 2 ^ 32 + c.maxJobs * 2 ^ 48)
    ++ leBytes 8 (c.spQuota + (spUsed s t) * 2 ^ 16 + c.taQuota * 2 ^ 32) ++ leBytes 8 c.tbQuota
    ++ leBytes 8 (taUsed s t + tbUsed s t * 2 ^ 32)

/-- The TCID of a record. -/
def recTcid (p : List Byte) : Nat := leAt p 0 8 % 4096

/-- The RW fields of a record in a context. -/
def recRw (p : List Byte) (c : Tenant) : Tenant :=
  let w0 := leAt p 0 8; let w1 := leAt p 8 8
  { c with observe := bitAt w0 17, residency := bits w0 18 2, maxJobs := bits w0 48 16, spQuota := bits w1 0 12,
           taQuota := bits w1 32 32, tbQuota := leAt p 16 4 }

/-- Check 2 for a record: reserved bits and the fields that must be zero, RESIDENCY, MAX_JOBS and SP_QUOTA (R169). -/
def tenantFields (_ : State) (p : List Byte) : Bool :=
  let w0 := leAt p 0 8; let w1 := leAt p 8 8
  bits w0 12 4 == 0 && bits w0 20 28 == 0 && bits w0 18 2 != 3 && decide (1 ≤ bits w0 48 16)
    && decide (bits w0 48 16 ≤ 8192) && decide (bits w1 0 12 ≤ 2048) && bits w1 12 20 == 0 && leAt p 20 4 == 0
    && leAt p 24 8 == 0

/-- Check 2 for TCID (2); reserved (2). -/
def tcidFields (_ : State) (p : List Byte) : Bool := decide (leAt p 0 2 < 4096) && leAt p 2 2 == 0

/-- A TCID that the host may name (Table 2-1). -/
def tcidOk (t : Nat) : Bool := t != 0 && t != 0xFFF

/-- The lowest FREE TCID (R25). -/
def lowestFreeTcid (s : State) : Option Nat :=
  minBy id (((List.range 0xFFE).map (· + 1)).filter (fun t => (tenant s t).state == .free))

def execTenantCreate (slot : SlotId) (s : State) : Res :=
  .next (runCmd slot.val 0x0101 true tenantFields (fun r s =>
    let named := recTcid r.payload
    if named = 0xFFF then .refuse 0x0120
    else if named ≠ 0 && (tenant s named).state ≠ .free then .refuse 0x0121
    else match (if named = 0 then lowestFreeTcid s else some named) with
      | none => .refuse 0x0124
      | some t =>
        let old := tenant s t
        let c := recRw r.payload { state := .active, cobatch := bitAt (leAt r.payload 0 8) 16,
                                   tgen := if old.tgen = 0xFFFF then 1 else old.tgen + 1 }
        let s := { s with store.tenants := tset s.store.tenants t c, obs.pages := tset s.obs.pages t [],
                          obs.kept := tdel s.obs.kept t }
        .ok (ledgerCmd s slot.val r t t 0) (tenantRecord s t)) s)

/-- Sealed read-only regions of a tenant other than its image regions: what a pin counts (R33). -/
def pinRegions (s : State) (t : Nat) : List (Nat × Region) :=
  s.store.regions.filter (fun p => p.2.owner == t && p.2.sealed && !p.2.writable && !p.2.image)

/-- TA_USED in MiB as if every pinned region's tier A copy were held (R33); copies held count once. -/
def taIfPinned (s : State) (t : Nat) (extra : Option Nat) : Nat :=
  taUsed s t + ((pinRegions s t).filter (fun p => p.2.copy.isNone)).foldl (fun n p => n + mib p.2.size) 0
    + (match extra with | some z => mib z | none => 0)

/-- Banks that a pinned region counts, whatever staging has placed of it (R33). -/
def banksCounted (g : Region) : Nat := cdiv g.size 0x40000

/-- Banks held of a region's copies. -/
def banksHeld (s : State) (r : Nat) : Nat :=
  ((s.store.spCopies.filter (fun c => c.obj == .region r)).map (fun c => c.banks.length)).foldl (· + ·) 0

/-- SP_USED as if every pinned region's copies were held, and those held counted once (R33). -/
def spIfPinned (s : State) (t : Nat) (extra : Option Nat) : Nat :=
  (spUsed s t - (pinRegions s t).foldl (fun n p => n + banksHeld s p.1) 0) + (pinRegions s t).foldl (fun n p => n + banksCounted p.2) 0
    + (match extra with | some z => cdiv z 0x40000 | none => 0)

/-- Banks of PIN_SCRATCH tenants on the tray, with tenant `t` taken as pinned to scratchpads when `scratch` (R33). -/
def pinScratchBanks (s : State) (t : Nat) (scratch : Bool) (extra : Option Nat) : Nat :=
  (s.store.tenants.filter (fun p => p.2.state != .free && (if p.1 == t then scratch else p.2.residency == 2))).foldl
    (fun n p => n + (pinRegions s p.1).foldl (fun n q => n + banksCounted q.2) 0) 0
    + (match extra with | some z => if scratch then cdiv z 0x40000 else 0 | none => 0)

/-- MiB of tier A that the commons, writable regions in tier A and pinned tenants need, with tenant `t` taken as pinned when
`pinned` (R33). -/
def taNeeded (s : State) (t : Nat) (pinned : Bool) (extra : Option Nat) : Nat :=
  s.store.commons.foldl (fun n p => n + mib p.2.size) 0
    + s.store.regions.foldl (fun n p => if p.2.writable && p.2.tierA then n + mib p.2.size else n) 0
    + (s.store.tenants.filter (fun p => p.2.state != .free && (if p.1 == t then pinned else p.2.residency != 0))).foldl
        (fun n p => n + (pinRegions s p.1).foldl (fun n q => n + mib q.2.size) 0) 0
    + (match extra with | some z => if pinned then mib z else 0 | none => 0)

/-- The status a pin is refused with, if any: quotas first, then residency (R33, R52). `extra` is the size of a region
that is being sealed. -/
def pinStatus (s : State) (t : Nat) (residency spQuota taQuota : Nat) (extra : Option Nat) : Option Nat :=
  if taQuota < taIfPinned s t extra || (residency = 2 && spQuota < spIfPinned s t extra) then some 0x0122
  else if (residency = 2 && 1536 < pinScratchBanks s t true extra) || 191 * 1024 < taNeeded s t true extra then some 0x0310
  else none

def execTenantSet (slot : SlotId) (s : State) : Res :=
  .next (runCmd slot.val 0x0102 true tenantFields (fun r s =>
    let t := recTcid r.payload
    let c := tenant s t
    let n := recRw r.payload c
    if !tcidOk t then .refuse 0x0120
    else if c.state ≠ .active && c.state ≠ .suspended then .refuse 0x0125
    else if bitAt (leAt r.payload 0 8) 16 ≠ c.cobatch then .refuse 0x0102
    else match (if n.residency ≠ 0 && n.residency ≠ c.residency
                then pinStatus s t n.residency n.spQuota n.taQuota none else none) with
      | some st => .refuse st
      | none =>
        let changed := [n.observe != c.observe, n.residency != c.residency, n.maxJobs != c.maxJobs,
                        n.spQuota != c.spQuota, n.taQuota != c.taQuota, n.tbQuota != c.tbQuota]
        let s := { s with store.tenants := tset s.store.tenants t n,
                          store.regions := if n.residency = c.residency then s.store.regions
                            else tmap s.store.regions (fun _ g => if g.owner = t then { g with pinned := none } else g) }
        .ok (ledgerChanges s slot.val r t t changed) (tenantRecord s t)) s)

def execTenantQuery (slot : SlotId) (s : State) : Res :=
  .next (runCmd slot.val 0x0103 false tcidFields (fun r s =>
    let t := leAt r.payload 0 2
    if !tcidOk t then .refuse 0x0120 else .ok s (tenantRecord s t)) s)

/-- Moves a tenant to another state. -/
def setTState (s : State) (t : Nat) (st : TState) : State :=
  { s with store.tenants := tset s.store.tenants t { tenant s t with state := st } }

def execTenantSuspend (slot : SlotId) (s : State) : Res :=
  .next (runCmd slot.val 0x0104 true tcidFields (fun r s =>
    let t := leAt r.payload 0 2
    if !tcidOk t then .refuse 0x0120
    else if (tenant s t).state ≠ .active then .refuse 0x0125
    else .ok (ledgerCmd (endStreamsOf (setTState s t .suspended) t) slot.val r t t 0) []) s)

def execTenantResume (slot : SlotId) (s : State) : Res :=
  .next (runCmd slot.val 0x0105 true tcidFields (fun r s =>
    let t := leAt r.payload 0 2
    if !tcidOk t then .refuse 0x0120
    else if (tenant s t).state ≠ .suspended then .refuse 0x0125
    else .ok (ledgerCmd (setTState s t .active) slot.val r t t 0) []) s)

/-- TENANT_DESTROY: under FORCE the tenant's jobs are quenched, and the response waits for them (R27, R55, R170). -/
def execTenantDestroy (slot : SlotId) (s : State) : Res :=
  .next (runCmd slot.val 0x0106 true tcidFields (fun r s =>
    let t := leAt r.payload 0 2
    if !tcidOk t then .refuse 0x0120
    else if (tenant s t).state ≠ .active && (tenant s t).state ≠ .suspended then .refuse 0x0125
    else
      let mine := s.dsp.jobs.filter (fun e => e.2.tcid == t)
      let regions := s.store.regions.countP (fun p => p.2.owner == t)
      let s := setTState s t .destroying
      if r.force then
        let s := failWorks (quenchWhere s (fun _ j => j.tcid == t) 0x0205 0) ((s.dsp.parts.filter (fun p => p.tcid == t)).map (fun p => p.work)) 0x0205
        let s := ledgerCmd s slot.val r t t 0
        .wait s (mine.map (·.1)) [] (leBytes 4 mine.length ++ leBytes 4 regions)
      else .ok (ledgerCmd (endStreamsOf s t) slot.val r t t 0) (leBytes 4 0 ++ leBytes 4 regions)) s)

/-- Starts the zero-fill of a freed range (R480). -/
def startFill (s : State) (base size : Nat) : State := { s with store.fills := s.store.fills ++ [{ base := base, size := size }] }

/-- Takes a region out of every table and starts its zero-fills: its copies on cores, in tier A, and its home (R50). -/
def freeRegion (s : State) (id : Nat) : State :=
  match tget s.store.regions id with
  | none => s
  | some g =>
    let s := (s.store.spCopies.filter (fun c => c.obj == .region id)).foldl dropSpCopy s
    let s := match g.copy with | some c => startFill s c.base g.size | none => s
    startFill { s with store.regions := tdel s.store.regions id } g.base g.size

/-- Drops the hot-row replicas of a tenant's table, or of all its tables (R422). -/
def dropReplicas (s : State) (p : Nat → Bool) : State :=
  let gone := s.store.replicas.filter (fun e => p e.1)
  gone.foldl (fun s e => startFill { s with store.replicas := tdel s.store.replicas e.1 } e.2.base e.2.size) s

/-- Unregisters an image: its bindings go with it (R178), and its region is freed. -/
def dropImage (s : State) (id : Nat) : State :=
  match tget s.store.images id with
  | none => s
  | some g => freeRegion { s with store.images := tdel s.store.images id } g.region

/-- TENANT_FREED: with its last job ended, a DESTROYING tenant's images are unregistered and its regions freed, one RECLAIMED
entry for each image and each region, an image's own included (log entry 66), then the TCID moves to FREE with TENANT_FREED (R27, R587, R588). -/
def execTenantFreed (tcid : Nat) (s : State) : Res :=
  let c := tenant s tcid
  if !fwUp s || !domainsUp s || c.state ≠ .destroying || s.dsp.jobs.any (fun e => e.2.tcid == tcid) || s.dsp.parts.any (fun p => p.tcid == tcid) then .next s
  else
    let images := s.store.images.filter (fun p => p.2.owner == tcid)
    let regions := s.store.regions.filter (fun p => p.2.owner == tcid && !p.2.image)
    let s := images.foldl (fun s p => ledgerSelf (ledgerSelf (dropImage s p.1) 0x800A tcid p.1 1) 0x800A tcid p.2.region 0) s
    let s := regions.foldl (fun s p => ledgerSelf (freeRegion s p.1) 0x800A tcid p.1 0) s
    let s := dropReplicas s (fun k => k / 2 ^ 32 == tcid)
    -- every region is zero-filled before the move (R27)
    let s := s.store.fills.foldl (fun s f => memZero s f.base f.size) s
    let s := { s with store.fills := [] }
    let s := s.store.banks.foldl (fun s p => if p.2.owner == tcid then retag s p.1 0 false else s) s
    let s := { s with store.tenants := tset s.store.tenants tcid { tgen := c.tgen },
                      obs.pages := tdel s.obs.pages tcid, obs.kept := tdel s.obs.kept tcid,
                      store.hotRows := s.store.hotRows.filter (fun x => x.1 != tcid) }
    let s := ledgerSelf s 0x800B tcid tcid c.tgen
    .next (answerWaits (raiseEvent s 0x0060 (tcid + c.tgen * 2 ^ 32) 0))

end Sys2Proof.Machine
end

