-- ==== Sys2Proof/Machine/CmdLedger.lean ====
section
/-! DEFINITION. The ledger commands (07, Table 7-6, R186, R187; 24, R575 to R580). -/

namespace Sys2Proof.Machine

/-- A sequence number names a held entry. -/
def ledgerHas (s : State) (n : Nat) : Bool := decide (s.ledger.oldest ≤ n) && decide (n < s.ledger.next)

def execLedgerQuery (slot : SlotId) (s : State) : Res :=
  .next (runCmd slot.val 0x0901 false anyFields (fun _ s =>
    .ok s (leBytes 4 (ledgerHeld s) ++ leBytes 4 262144 ++ leBytes 8 s.ledger.oldest ++ leBytes 8 s.ledger.next
      ++ leBytes 8 s.ledger.chain ++ padTo 32 s.ledger.head)) s)

def ledgerReadFields (_ : State) (p : List Byte) : Bool :=
  leAt p 8 8 % 64 == 0 && decide (1 ≤ leAt p 16 4) && decide (leAt p 16 4 ≤ 1024) && leAt p 20 4 == 0

/-- A TIER_UNCORR report for each poisoned word that a firmware read met (R579). -/
def reportPoison (s : State) (ws : List Nat) : State :=
  ws.foldl (fun s w => latch s 0 (report s 0x04 0 (ctlUnit (tierCtl w)) 0 0 w 0 0)) s

/-- LEDGER_READ: entries are copied up to NEXT; a poisoned word is copied as zeros and recorded (R579). -/
def execLedgerRead (slot : SlotId) (hostOk : Bool) (s : State) : Res :=
  .next (runCmd slot.val 0x0902 false ledgerReadFields (fun r s =>
    let from_ := leAt r.payload 0 8
    let n := min (leAt r.payload 16 4) (s.ledger.next - from_)
    if !ledgerHas s from_ then .refuse 0x0170
    else if !hostOk then .refuse 0x0104
    else
      let idx := (List.range n).map (fun i => from_ + i)
      let s' := reportPoison s (idx.flatMap (fun q => poisonedIn s (ledgerAddr q) 64))
      let data := idx.flatMap (fun q => memRead s (ledgerAddr q) 64)
      .ok (hostWrite s' (leAt r.payload 8 8) data) (leBytes 4 n ++ zeros 4)) s)

/-- Frees every entry up to `n`; the warning is armed again at 209,715 held or fewer (R575). -/
def ledgerFree (s : State) (n : Nat) : State :=
  let s := { s with ledger.oldest := n + 1 }
  if ledgerHeld s ≤ 209715 then { s with ledger.warnArmed := true } else s

/-- The SUPPRESSED entry of R577, when entries were suppressed and the ledger has room. -/
def ledgerSuppressed (s : State) : State :=
  if s.ledger.suppressed = 0 || ledgerFull s then s
  else
    let s' := ledgerAppend s { origin := 2, kind := 0x8009, object := s.ledger.suppressed,
                               value := leBytes 8 s.ledger.suppressedAt }
    { s' with ledger.suppressed := 0, ledger.suppressedAt := 0 }

def execLedgerAck (slot : SlotId) (s : State) : Res :=
  .next (runCmd slot.val 0x0903 false anyFields (fun r s =>
    let upTo := leAt r.payload 0 8
    if !ledgerHas s upTo then .refuse 0x0170
    else
      let s := ledgerSuppressed (ledgerCmd (ledgerFree s upTo) slot.val r 0 (upTo % 2 ^ 32) 0)
      .ok s (leBytes 4 (ledgerHeld s) ++ zeros 4)) s)

def execLedgerAnchor (slot : SlotId) (s : State) : Res :=
  .next (runCmd slot.val 0x0904 false anyFields (fun _ s => .ok s (ledgerAnchorBytes s)) s)

end Sys2Proof.Machine
end

