-- ==== Sys2Proof/Machine/Ecdsa.lean ====
section
/-! DEFINITION. ECDSA P-384 verification (04_startup_and_reset.md, R98). The manual names the scheme and does not restate it: PRESUMED as
FIPS 186-4 with the curve P-384 (log entry 5). Coordinates, R and S are numbers of 48 bytes, little-endian by R8 (DEDUCED). -/

namespace Sys2Proof.Machine

/-- The field's prime. -/
def p384P : Nat := 2 ^ 384 - 2 ^ 128 - 2 ^ 96 + 2 ^ 32 - 1

/-- The coefficient b of the curve y² = x³ − 3x + b. -/
def p384B : Nat :=
  0xb3312fa7e23ee7e4988e056be3f82d19181d9c6efe8141120314088f5013875ac656398d8a2ed19d2a85c8edd3ec2aef

/-- The order of the base point. -/
def p384N : Nat :=
  0xffffffffffffffffffffffffffffffffffffffffffffffffc7634d81f4372ddf581a0db248b0a77aecec196accc52973

/-- The base point. -/
def p384G : Nat × Nat :=
  (0xaa87ca22be8b05378eb1c71ef320ad746e1d3b628ba79b9859f741e082542a385502f25dbf55296c3a545e3872760ab7,
   0x3617de4a96262c6f5d9e98bf9292dc29f8f41dbd289a147ce9da3113b5f0b8c00a60b1ce1d7e819d7a431d7c90ea0e5f)

/-- The inverse of `x` modulo a prime of 384 bits: its power m − 2. -/
def modInv (m x : Nat) : Nat :=
  (List.range 384).foldr (fun i acc =>
    let sq := acc * acc % m
    if bitAt (m - 2) i then sq * x % m else sq) 1

/-- A point of the curve, none for the point at infinity. -/
abbrev CurvePt := Option (Nat × Nat)

/-- The sum of two points. -/
def curveAdd (a b : CurvePt) : CurvePt :=
  match a, b with
  | none, q => q
  | q, none => q
  | some (x1, y1), some (x2, y2) =>
    if x1 = x2 ∧ (y1 + y2) % p384P = 0 then none
    else
      let m := if x1 = x2 then (3 * x1 * x1 + (p384P - 3)) * modInv p384P (2 * y1 % p384P) % p384P
               else (y2 + p384P - y1) * modInv p384P ((x2 + p384P - x1) % p384P) % p384P
      let x := (m * m + 2 * p384P - x1 - x2) % p384P
      some (x, (m * (x1 + p384P - x) + p384P - y1) % p384P)

/-- `k` times a point. -/
def curveMul (k : Nat) (a : CurvePt) : CurvePt :=
  (List.range 384).foldr (fun i acc =>
    let d := curveAdd acc acc
    if bitAt k i then curveAdd d a else d) none

/-- A pair of coordinates is a point of the curve. -/
def onCurve (x y : Nat) : Bool :=
  decide (x < p384P) && decide (y < p384P) && (x * x * x + (p384P - 3) * x + p384B) % p384P == y * y % p384P

/-- The signature R, S verifies under the key X, Y over this digest, whose first byte is the highest of the number it stands for. -/
def ecdsaVerify (pubkey signature digest : List Byte) : Bool :=
  let x := leAt pubkey 0 48
  let y := leAt pubkey 48 48
  let r := leAt signature 0 48
  let t := leAt signature 48 48
  decide (0 < r) && decide (r < p384N) && decide (0 < t) && decide (t < p384N) && onCurve x y
    && (let w := modInv p384N t
        let z := ofLeBytes digest.reverse
        match curveAdd (curveMul (z * w % p384N) (some p384G)) (curveMul (r * w % p384N) (some (x, y))) with
        | none => false
        | some (x1, _) => x1 % p384N == r)

end Sys2Proof.Machine
end

