-- ==== Sys2Proof/Machine/Boot.lean ====
section
/-! DEFINITION. Resets, start-up, secure boot and the ready event (04_startup_and_reset.md). -/

namespace Sys2Proof.Machine

/-! ## What each reset leaves (Table 4-6) -/

/-- The Eft island as 12 V brings it up. -/
def eft0 : Eft := {}

/-- The codes of Table 4-2. -/
def causePowerOn := 0
def causePerst := 1
def causeHostCold := 2
def causeFlr := 3
def causeHotReset := 4
def causeHostWarm := 5
def causeWatchdog := 6
def causeThermalTrip := 7
def causeFreeze := 8
def causeFwRevert := 9
def causeFwActivate := 10

/-- The code that SYS_RSTCAUSE reports after a COLD or POWER_ON reset: that of the cause cell when it is written (R89,
R90). -/
def coldCause (cell : CauseCell) (trigger : Nat) : Nat :=
  match cell with
  | .empty => trigger | .freeze => causeFreeze | .thermalTrip => causeThermalTrip

/-- The fabric ports after a reset: DOWN, with the modules that stand in their cages (20, At the edges). -/
def portsAfter (s : State) : Tab Port :=
  tmap s.fab.ports (fun _ p => { present := p.present, fits := p.fits, optics := p.optics })

/-- Retired banks stay so until the self-test passes them (R248). -/
def keptBanks (s : State) : Tab Bank := (s.store.banks.filter (fun p => p.2.retired)).map (fun p => (p.1, { retired := true }))

/-- The tray after a COLD or POWER_ON reset: everything at its Reset value but the boot flash, the fuses and the pins; the
cause cell is read and erased. DESIGN CHOICE: TRIAL is cleared, also outside an activation gap, where R111 says only that the
COMMITTED slot is booted (log entry 70). -/
def coldReset (s : State) (trigger : Nat) (eft : Eft) : State :=
  { State.reset with
    pending := s.pending, freeCtr := s.freeCtr, hostOut := s.hostOut, fabOut := s.fabOut, fab.ports := portsAfter s,
    eft := { eft with causeCell := .empty },
    boot := { State.reset.boot with
              cause := coldCause s.eft.causeCell trigger, committed := s.boot.committed, slotA := s.boot.slotA,
              slotB := s.boot.slotB, rollback := s.boot.rollback, arrMap := s.boot.arrMap, chain := s.boot.chain },
    store.banks := keptBanks s,
    board := s.board }

/-- The Eft island after a COLD reset: EFT and its tick phase are kept, tray time restarts at 0 (R92). -/
def eftAfterCold (e : Eft) (perst : Bool) : Eft :=
  { eft0 with tick := e.tick, base := e.tick, perst := perst, frzLow := e.frzLow, frzLowPrev := e.frzLowPrev }

/-- Tier memory that a WARM reset keeps: the TCID 0x000 reserves (R35, Table 4-6). -/
def inReserve (a : Nat) : Bool :=
  (decide (0x02FC0000000 ≤ a) && decide (a ≤ 0x02FFFFFFFFF)) || (decide (0x1FF00000000 ≤ a) && decide (a ≤ 0x1FFFFFFFFFF))

/-- What a WARM reset does to configuration space (Table 4-6). -/
inductive LinkReset where
  | kept | flr | hot
deriving DecidableEq, Repr

/-- The control and status fields of configuration space after a WARM reset, as PCIe defines for an FLR and a Hot Reset (PRESUMED,
log entry 4): the AER registers are sticky, and an FLR leaves Max Payload Size. -/
def cfgAfter (c : Cfg) : LinkReset → Cfg
  | .kept => c
  | .flr => { aerStatus := c.aerStatus, aerMasked := c.aerMasked, aerFatal := c.aerFatal, mps := c.mps }
  | .hot => { aerStatus := c.aerStatus, aerMasked := c.aerMasked, aerFatal := c.aerFatal }

/-- The tray after a WARM reset. After an FLR, a Hot Reset or a DL_Down configuration space and BAR2 return to their reset values (05,
At the edges), but an FLR leaves ASPM Control, as PCIe has it. DESIGN CHOICE: TRIAL is cleared, also outside an activation gap
(log entry 70). -/
def warmReset (s : State) (cause : Nat) (link : LinkReset) : State :=
  let linkReset := link != .kept
  { State.reset with
    pending := s.pending, freeCtr := s.freeCtr, hostOut := s.hostOut, fabOut := s.fabOut, fab.ports := portsAfter s,
    eft := { s.eft with croak := 0 },
    boot := { s.boot with
              kind := .warm, cause := cause, status := 0,
              -- saved trained values are used where there are any (R102)
              todo := if s.boot.trainedSaved then [.verify, .selftest, .fill] else [.verify, .selftest, .training, .fill], fwReady := false, fwver := 0,
              svn := 0, runDigest := [], runFrom := .none, revertOf := none, trial := none, staging := none, gap := none,
              routed := false },
    host := { State.reset.host with
              up := s.host.up, aspmL1 := s.host.aspmL1 && link != .hot, cfg := cfgAfter s.host.cfg link, d3hot := s.host.d3hot && !linkReset,
              msixEnable := s.host.msixEnable && !linkReset, msixFuncMask := s.host.msixFuncMask && !linkReset,
              bar2GiB := if linkReset then 64 else s.host.bar2GiB },
    store := { State.reset.store with retired := s.store.retired, banks := keptBanks s },
    errs := { State.reset.errs with log := s.errs.log, next := s.errs.next, lost := s.errs.lost },
    ecc := { State.reset.ecc with poison := s.ecc.poison.filter inReserve, rewritten := s.ecc.rewritten.filter inReserve },
    ledger := s.ledger,
    board := s.board,
    mem := s.mem.filter (fun c => inReserve c.1) }

/-- POWER_ON (R92). Only the boot flash, the fuses and the level of FRZ_N outlive a loss of 12 V. -/
def execPowerOn (s : State) : Res :=
  .next (coldReset s causePowerOn { eft0 with frzLow := s.eft.frzLow })

/-- PERST: a COLD reset in every power state, but not while a frozen tray holds FRZ_N low (R86, R91, R608). -/
def execPerst (s : State) : Res :=
  if !s.eft.power then .next s
  else if s.eft.frozen && s.eft.frzLow then .next { s with eft.perst := true }
  else .next (coldReset s causePerst (eftAfterCold s.eft true))

/-- PERST_DEASSERTION: the host link controller starts link training and answers configuration requests (R93). -/
def execPerstDeassertion (s : State) : Res :=
  if !s.eft.power then .next s
  else if s.eft.frozen || s.eft.tripped then .next { s with eft.perst := false }
  else .next { s with eft.perst := false, host.up := true, host.l1 := false }

/-- HOST_COLD: 0x5A5A_0002 written to SYS_RST.CMD (R87); ignored on a frozen tray (R608). -/
def execHostCold (s : State) : Res :=
  let s := linkExit s
  if !linkServes s then .next s
  else if s.host.d3hot then .next (unsupportedRequest s true {})
  else
    let r := coldReset s causeHostCold (eftAfterCold s.eft s.eft.perst)
    .next { r with host.up := s.host.up }

/-- HOST_WARM: 0x5A5A_0001 written to SYS_RST.CMD (R87). -/
def execHostWarm (s : State) : Res :=
  let s := linkExit s
  if !linkServes s then .next s
  else if s.host.d3hot then .next (unsupportedRequest s true {})
  else .next (warmReset s causeHostWarm .kept)

/-- FLR (R86). -/
def execFlr (s : State) : Res := if alive s then .next (warmReset s causeFlr .flr) else .next s

/-- HOT_RESET, and a DL_Down that PERST# did not cause (R117). -/
def execHotReset (s : State) : Res := if alive s then .next (warmReset s causeHotReset .hot) else .next s

/-- EFT_WATCHDOG: Swifort has not advanced the croak counter for 2 s outside TORPOR (R88), and not in an activation gap
(R109). -/
def execEftWatchdog (s : State) : Res :=
  if alive s && s.pwr.power != .torpor && s.boot.gap.isNone then .next (warmReset s causeWatchdog .kept) else .next s

/-- INPUT_UNDERVOLTAGE: every power stage turns off; what is not in the boot flash or the fuses is lost (R619, R633). -/
def execInputUndervoltage (s : State) : Res :=
  let r := coldReset s s.boot.cause { eft0 with frzLow := s.eft.frzLow, power := false }
  .next { r with eft.causeCell := s.eft.causeCell, boot.cause := 0 }

/-- Programs the cause cell, which keeps the first code written (R90). -/
def programCell (e : Eft) (c : CauseCell) : Eft := if e.causeCell = .empty then { e with causeCell := c } else e

/-- THERMAL_TRIP: the tray is failed until a cold reset (R82). -/
def execThermalTrip (s : State) : Res :=
  if !s.eft.power || s.eft.tripped then .next s
  else .next { s with eft := { programCell s.eft .thermalTrip with tripped := true }, pwr.selfRefresh := true, pwr.mgtMhz := 0,
                      host.up := false }

/-! ## Secure boot -/

/-- What a verification under R98 finds. -/
inductive Verify where
  | ok
  /-- Only the SVN check fails. -/
  | rollback
  | bad
deriving DecidableEq, Repr

/-- The header fields of an image (Table 4-5). -/
def imgSvn (b : List Byte) : Nat := leAt b 6 2
def imgVersion (b : List Byte) : Nat := leAt b 8 4
def imgLength (b : List Byte) : Nat := leAt b 12 4

/-- Every check of R98 but the SVN. -/
def imgSound (b : List Byte) : Bool :=
  leAt b 0 4 == 0x4E525746 && leAt b 4 2 == 1 && decide (imgSvn b ≤ 64)
    && decide (1 ≤ imgLength b) && decide (imgLength b ≤ 8388608) && decide (512 + imgLength b ≤ b.length)
    && (slice b 16 48).all (· == 0) && (slice b 304 208).all (· == 0)
    && sha384 (slice b 112 96) == beBytes 48 Config.keyHash.toNat
    && ecdsaVerify (slice b 112 96) (slice b 208 96) (sha384 (b.take 208))
    && sha384 (slice b 512 (imgLength b)) == slice b 64 48

/-- Verification of an image against the rollback counter (R98). -/
def verifyImage (b : List Byte) (rollback : Nat) : Verify :=
  if !imgSound b then .bad else if imgSvn b < rollback then .rollback else .ok

/-- The image itself: header and body. -/
def imgBytes (b : List Byte) : List Byte := b.take (512 + imgLength b)

/-- A slot's bytes; where they are not known, the boot ROM's read supplies them (log entry 3). -/
def slotOf (s : State) (slot : Bool) (flash : List Byte) : List Byte :=
  (if slot then s.boot.slotB else s.boot.slotA).getD flash

/-- Records a slot's bytes. -/
def keepSlot (s : State) (slot : Bool) (b : List Byte) : State :=
  if slot then { s with boot.slotB := some b } else { s with boot.slotA := some b }

/-- Swifort's sequencer starts an image; where it starts is not given, offset 0 here (log entry 3). -/
def startSwifort (q : Seq) : Seq :=
  { q with pc := 0, run := .run, ie := false, intrap := false, sb := [], early := [], cb := [], res := none, hold := false,
           since := 0 }

/-- Runs a verified image: SYS_FWVER takes its version, and MGT goes to 500 MHz (Table 4-3). -/
def bootImage (s : State) (b : List Byte) (src : ImgSource) : State :=
  { s with pwr.mgtMhz := 500, boot.fwver := imgVersion b, boot.svn := imgSvn b, boot.runDigest := sha384 (imgBytes b), boot.runFrom := src,
           boot.todo := s.boot.todo.filter (· != .verify), swi := startSwifort s.swi }

def srcOf (slot : Bool) : ImgSource := if slot then .slotB else .slotA

/-- The 128 banks of cores 0 to 3 that hold the recovery buffer, ON in recovery and OFF once it has ended (R75, R100). -/
def recoveryBanks (s : State) (p : BankPower) : State :=
  { s with store.banks := (List.range 128).foldl (fun t b => if b % 32 = 31 then t else tset t b { bank s b with power := p }) s.store.banks }

/-- Enters recovery: window 0 maps the recovery buffer (R99, R100, R127). -/
def enterRecovery (s : State) : State :=
  recoveryBanks { s with boot.status := 2, host.wins := tset s.host.wins 0 { base := 0x80000000000, enable := true, tcid := 0 } } .on

/-- The boot ROM's choice of R99 on a start-up other than an activation: the COMMITTED slot, else the other one, else recovery. -/
def chooseImage (s : State) (b1 b2 : List Byte) : State :=
  let first := s.boot.committed
  if verifyImage b1 s.boot.rollback = .ok then bootImage s b1 (srcOf first)
  else if verifyImage b2 s.boot.rollback = .ok then
    let s := bootImage s b2 (srcOf (!first))
    { s with boot.revertOf := some (imgVersion b1) }
  else enterRecovery s

/-- IMAGE_VERIFY_DONE: the boot ROM's choice of R99 over the bytes of slots A and B; on the resume path of an activation, the check of the tier A copy against
the digest in the Eft island (R109). -/
def execImageVerifyDone (flash : FlashSlots) (s : State) : Res :=
  if !alive s || s.boot.todo.head? ≠ some .verify || (s.boot.status ≠ 0 && s.boot.gap.isNone) then .next s
  else match s.boot.kind, s.boot.staged with
    | .fwActivate, some (slot, b) =>
      if sha384 b = s.eft.digest then .next (bootImage s b (srcOf slot)) else .next s
    | _, _ =>
      let a := slotOf s false flash.slotA
      let b := slotOf s true flash.slotB
      let s := keepSlot (keepSlot s false a) true b
      .next (if s.boot.committed then chooseImage s b a else chooseImage s a b)

/-- RECOVER: a write to SYS_BOOT with RECOVER = 1. Outside recovery it is an unlisted encoding (R124); in recovery the image in
the recovery buffer is verified and booted, or the tray stays in recovery (R100). DESIGN CHOICE: once the image runs, window 0
returns to its reset value and the buffer's banks go OFF (log entry 78). -/
def execRecover (value : W32) (s : State) : Res :=
  let s := linkExit s
  if !linkServes s then .next s
  else if s.host.d3hot then .next (unsupportedRequest s true {})
  else if !value.getLsbD 8 then .next s
  else if s.boot.status ≠ 2 then .next (sysErr s invwrSys)
  else
    let hdr := memRead s 0x80000000000 512
    let b := memRead s 0x80000000000 (min (512 + imgLength hdr) 0x2000000)
    if verifyImage b s.boot.rollback = .ok then
      let s := bootImage s b .recovery
      .next (recoveryBanks { s with boot.status := 0, host.wins := tset s.host.wins 0 {} } .off)
    else .next s

/-- A unit that fails self-test starts FAULT and OFFLINE with GEN 0, and its SELFTEST report is latched. The step that failed, DETAIL0,
is a free value, for the manual does not number the steps (R101; log entry 79). -/
def selftestFailed (s : State) (u : Nat) : State :=
  let s := { s with errs.units := tset s.errs.units u { admin := .offline, health := .fault, gen := 0, belief := .fault } }
  let (step, s) := draw s 64
  latch s u (report s 0x0E 2 u 0 0 0 step.toNat 0)

/-- SELFTEST_DONE: the unit state records take their starting values; a failed unit is FAULT and OFFLINE; a failed block, or tier
controller, is fatal (R101, R103). A retired bank that is not among those that fail returns to use, OFF until it is tagged (R248). -/
def execSelftestDone (failed : SelftestFails) (fatal : List FatalBlock) (s : State) : Res :=
  if !alive s || s.boot.todo.head? ≠ some .selftest || s.boot.status ≠ 0 then .next s
  else
    let bad := failed.units.filter (fun u => allUnits.contains u)
    let ctl := bad.any (fun u => decide (0x3000 ≤ u) && decide (u < 0x5000))
    let s := { s with errs.units := [], errs.notes := [], boot.todo := s.boot.todo.tail,
                      store.banks := s.store.banks.filter (fun p => !p.2.retired || failed.banks.contains p.1) }
    let s := bad.foldl selftestFailed s
    if ctl || !fatal.isEmpty then .next { s with boot.status := 3 }
    else
      -- fabric ports train from 135 ms on (R104)
      .next (trainAll s)

/-- TRAINING_DONE (R101, R102). -/
def execTrainingDone (failed : List Nat) (s : State) : Res :=
  if !alive s || s.boot.todo.head? ≠ some .training || s.boot.status ≠ 0 then .next s
  else if failed.isEmpty then .next { s with boot.todo := s.boot.todo.tail, boot.trainedSaved := true }
  else .next { s with boot.todo := s.boot.todo.tail, boot.status := 4 }

/-- TIER_INIT_FILL_DONE: tier memory is zero-filled and its ECC initialised; a WARM reset keeps the reserves (R92, R105). -/
def execTierInitFillDone (s : State) : Res :=
  if !alive s || s.boot.todo.head? ≠ some .fill || s.boot.status ≠ 0 then .next s
  else
    let keep := s.boot.kind = .warm
    .next { s with boot.todo := s.boot.todo.tail, mem := if keep then s.mem.filter (fun c => inReserve c.1) else [],
                   ecc.poison := if keep then s.ecc.poison.filter inReserve else [],
                   ecc.latent := if keep then s.ecc.latent.filter (fun p => inReserve p.1) else [] }

/-! ## The ready event -/

/-- Opens a new chain: CHAIN rises, the anchor is that of the running image, and the first entry is CHAIN_OPEN (R95, R573). -/
def openChain (s : State) : State :=
  let n := s.boot.chain + 1
  let s := { s with boot.chain := n,
                    ledger := { chain := n, openDigest := s.boot.runDigest } }
  ledgerSelf s 0x8001 0 (n % 2 ^ 32) (s.boot.fwver + s.boot.cause * 2 ^ 32)

/-- Records held in the staging buffer go to the pond buffers at the next start of OBS, and what found it full is reported by each pond's next
DROP record (R593, R594). -/
def flushTrcStaging (s : State) : State :=
  let rs := s.obs.staging
  let lost := s.obs.stagingDropped
  let s := rs.foldl trcTake { s with obs.staging := [], obs.stagingDropped := [], obs.timebaseDue := true }
  lost.foldl (fun s e => { s with obs.ponds := tmod s.obs.ponds e.1 {} (fun b => { b with dropped := b.dropped + e.2 }) }) s

/-- Posts the ready event: FW_READY, STATUS OK, READY, and vector 1 (R94). -/
def postReady (s : State) : State :=
  let s := { s with boot.fwReady := true, boot.status := 1 }
  -- a record that is written raises vector 1 itself; else the ready event does (R94, R137)
  let written := s.mbx.backlog.isEmpty && evqSpace s
  let s := raiseEvent s 0x0001 (s.boot.fwver + s.boot.cause * 2 ^ 32) 0
  let s := if written then s else raiseMsix s 1
  match s.boot.revertOf with
  | some v => raiseEvent { s with boot.revertOf := none } 0x0002 s.boot.fwver v
  | none => s

/-- A monitor takes the steps up that it put off in an activation gap, each a change of its own ceiling (R79, R80, R109). -/
def takeDeferred (s : State) (k : Nat) : State :=
  (List.range (mon s k).deferred).foldl (fun s _ =>
    let m := mon s k
    applyFreq { s with pwr.mons := tset s.pwr.mons k { stepUp false m with deferred := m.deferred - 1 } } k) s

/-- The end of an activation gap: SYS_RSTCAUSE takes FW_ACTIVATE or FW_REVERT, the chain continues with FW_RESUMED, steps up
that were put off are taken, the voltage follows, FW_ACTIVATE is answered and latched doorbells are served (R109, R110, R157,
R191). -/
def endGap (s : State) (g : Gap) : State :=
  let s := { s with boot.cause := if g.reverted then causeFwRevert else causeFwActivate, boot.gap := none,
                    boot.revertOf := if g.reverted then some g.trialVersion else none }
  let s := postReady s
  let s := ledgerSelf s 0x8003 0 0 (s.boot.fwver + s.boot.cause * 2 ^ 32)
  let s := postWins (closeWin s)
  let s := { s with pwr.coreMv := (coreVolt s.pwr.coreMhz : Int) + Config.trim }
  let s := (List.range 7).foldl takeDeferred s
  let s := flushTrcStaging s
  -- the tray returns to the fabric (R501), and fencing and repairs go on
  let s := advanceRepairs (finishFencing (claimAddr (rejoin s)))
  let s := match tget s.mbx.reqs g.slot with
    | some r => respond s g.slot r (if g.reverted then 0x0144 else 0)
        (if g.reverted then [] else leBytes 4 s.boot.fwver ++ zeros 4)
    | none => s
  let latched := s.mbx.latched
  latched.foldl takeSlot { s with mbx.latched := [] }

/-- READY: the ready event of a start-up, or of an activation (R94, R95, R109). -/
def execReady (s : State) : Res :=
  if !alive s || !s.boot.todo.isEmpty || s.boot.runFrom = .none then .next s
  else match s.boot.gap with
    | some g => if g.restarted then .next (endGap s g) else .next s
    | none =>
      if s.boot.fwReady || s.boot.status ≠ 0 then .next s
      else
        let s := claimAlone { s with boot.routed := s.boot.routed || uncabled s }
        let s := if s.boot.kind = .cold || s.ledger.next = 0 then openChain s else ledgerSelf s 0x8002 0 0 s.boot.cause
        .next (postReady s)

/-- TRIAL_ABANDON: the trial image did not post the ready event; the COMMITTED slot is reloaded with full verification (R110). When the
COMMITTED slot fails the verification nothing runs, and the tray waits for a reset (log entry 77). -/
def execTrialAbandon (s : State) : Res :=
  match s.boot.gap with
  | some g =>
    if !alive s || !g.restarted || g.reverted then .next s
    else
      let b := slotOf s s.boot.committed []
      let s := { s with boot.trial := none, boot.gap := some { g with reverted := true }, boot.runFrom := .none, swi.run := .idle }
      .next (if verifyImage b s.boot.rollback = .ok then
               bootImage { s with boot.todo := [] } b (srcOf s.boot.committed) else s)
  | none => .next s

end Sys2Proof.Machine
end

