-- ==== Sys2Proof/Machine/CmdStore.lean ====
section
/-! DEFINITION. The commons and region commands (07, Tables 7-3 and 7-4, R171 to R175). -/

namespace Sys2Proof.Machine

/-- A size of a commons object or region: a multiple of 64 KiB from 64 KiB to 64 GiB (R171, R173). -/
def sizeOk (z : Nat) : Bool := z % 0x10000 == 0 && decide (0x10000 ≤ z) && decide (z ≤ 0x1000000000)

/-- Writes bytes into tier memory; a partial write over a poisoned word is reported (R470). -/
def loadBytes (s : State) (addr : Nat) (data : List Byte) : State :=
  let (s, bad) := memWrite s addr data
  if bad then latch s 0 (report s 0x04 0 (ctlUnit (tierCtl addr)) 0 0 addr 0 0) else s

/-- Writes what a host buffer gives into tier memory; a buffer that ends early, or fails, ends the command with
HOST_BUFFER_FAULT and leaves the rest as it was (R162). -/
def loadBuffer (s : State) (addr len : Nat) (buf : HostRead) (k : State → CmdOut) : CmdOut :=
  match buf with
  | .fault => .refuse 0x0104
  | .ok data =>
    let s' := loadBytes s addr (data.take len)
    if data.length < len then .ended s' 0x0104 [] else k s'

/-! ## Commons -/

def commonsAllocFields (_ : State) (p : List Byte) : Bool :=
  leAt p 0 2 != 0xFFFF && leAt p 2 6 == 0 && sizeOk (leAt p 8 8)

def execCommonsAlloc (slot : SlotId) (s : State) : Res :=
  .next (runCmd slot.val 0x0401 true commonsAllocFields (fun r s =>
    let named := leAt r.payload 0 2
    let size := leAt r.payload 8 8
    if named ≠ 0 && (tget s.store.commons named).isSome then .refuse 0x0126
    else if 1024 ≤ s.store.commons.length then .refuse 0x0127
    else match (if named = 0 then lowestFree s.store.commons 1 0xFFFE else some named) with
      | none => .refuse 0x0127
      | some coid =>
        if 191 * 1024 < taNeeded s 0 false none + mib size then .refuse 0x0311
        else match allocIn s false size with
          | none => .refuse 0x0311
          | some b => match alloc s true size with
            | none => .refuse 0x0311
            | some (a, s) =>
              let s := { s with store.commons := tset s.store.commons coid
                                  { sealed := false, size := size, baseB := b, baseA := a, lastUse := 0 } }
              .ok (ledgerCmd s slot.val r 0 coid 0) (leBytes 2 coid ++ zeros 6 ++ leBytes 8 b ++ leBytes 8 a)) s)

/-- A COID a command may name (R171). -/
def coidOk (c : Nat) : Bool := c != 0 && c != 0xFFFF

def commonsLoadFields (_ : State) (p : List Byte) : Bool :=
  coidOk (leAt p 0 2) && leAt p 2 2 == 0 && leAt p 16 8 % 64 == 0

def execCommonsLoad (slot : SlotId) (buf : HostRead) (s : State) : Res :=
  .next (runCmd slot.val 0x0402 true commonsLoadFields (fun r s =>
    let coid := leAt r.payload 0 2
    let len := leAt r.payload 4 4
    let off := leAt r.payload 8 8
    match tget s.store.commons coid with
    | none => .refuse 0x0128
    | some o =>
      if o.sealed || o.size < off + len then .refuse 0x0128
      else loadBuffer s (o.baseB + off) len buf (fun s => .ok (ledgerCmd s slot.val r 0 coid 0) [])) s)

def coidFields (_ : State) (p : List Byte) : Bool := coidOk (leAt p 0 2) && leAt p 2 2 == 0

def execCommonsSeal (slot : SlotId) (s : State) : Res :=
  .next (runCmd slot.val 0x0403 true coidFields (fun r s =>
    let coid := leAt r.payload 0 2
    match tget s.store.commons coid with
    | none => .refuse 0x0128
    | some o =>
      if o.sealed then .refuse 0x0128
      else
        let s := memCopy s o.baseB o.baseA o.size
        let s := { s with store.commons := tset s.store.commons coid { o with sealed := true } }
        .ok (ledgerCmd s slot.val r 0 coid 0) (sha256 (mread s.mem o.baseB o.size))) s)

/-- Images that reference an object. -/
def imagesWith (s : State) (p : ImageRef → Bool) : Nat := s.store.images.countP (fun e => e.2.desc.refs.any p)

def execCommonsFree (slot : SlotId) (s : State) : Res :=
  .next (runCmd slot.val 0x0404 true coidFields (fun r s =>
    let coid := leAt r.payload 0 2
    match tget s.store.commons coid with
    | none => .refuse 0x0128
    | some o =>
      if imagesWith s (· == .commons coid) ≠ 0 then .refuse 0x0123
      else
        let s := (s.store.spCopies.filter (fun c => c.obj == .commons coid)).foldl dropSpCopy s
        let s := startFill (startFill { s with store.commons := tdel s.store.commons coid } o.baseB o.size) o.baseA o.size
        .wait (ledgerCmd s slot.val r 0 coid 0) [] [o.baseB, o.baseA] []) s)

def execCommonsQuery (slot : SlotId) (s : State) : Res :=
  .next (runCmd slot.val 0x0405 false coidFields (fun r s =>
    let coid := leAt r.payload 0 2
    let (st, size, b, a) := match tget s.store.commons coid with
      | none => (0, 0, 0, 0)
      | some o => (if o.sealed then 2 else 1, o.size, o.baseB, o.baseA)
    .ok s (leBytes 2 coid ++ leBytes 1 st ++ zeros 1 ++ leBytes 4 (imagesWith s (· == .commons coid)) ++ leBytes 8 size
      ++ leBytes 8 b ++ leBytes 8 a)) s)

/-! ## Regions -/

def regionCreateFields (_ : State) (p : List Byte) : Bool :=
  let f := leAt p 2 2
  decide (leAt p 0 2 < 4096) && decide (f < 8) && leAt p 4 4 == 0 && sizeOk (leAt p 8 8)
    && (bitAt f 2 || leAt p 16 8 == 0) && !(!bitAt f 0 && bitAt f 1)

/-- Where a placed region may not lie (R173). -/
def addrConflict (s : State) (tierA : Bool) (addr size : Nat) : Bool :=
  addr % 0x10000 != 0 || decide (addr < tierLo tierA) || decide (tierHi tierA < addr + size)
    || s.store.regions.any (fun p => overlap addr size p.2.base p.2.size)
    || s.store.commons.any (fun p => overlap addr size p.2.baseB p.2.size || overlap addr size p.2.baseA p.2.size)
    || s.store.retired.any (fun g => overlap addr size (g * 0x10000) 0x10000)

/-- A placed region's range is free: nothing lies in it and no fill of it is pending (R173, R480). DESIGN CHOICE: a copy or a replica that lies
there is not evicted for it (log entry 84). -/
def placeFree (s : State) (addr size : Nat) : Bool := (usedRanges s).all (fun r => !overlap addr size r.1 r.2)

/-- The identifier of a region or image: owner and serial (R165). -/
def objectId (owner serial : Nat) : Nat := owner + serial * 2 ^ 12

/-- A tenant accepts new regions and images (R170). -/
def tenantOpen (s : State) (t : Nat) : Bool := (tenant s t).state == .active || (tenant s t).state == .suspended

def execRegionCreate (slot : SlotId) (s : State) : Res :=
  .next (runCmd slot.val 0x0301 true regionCreateFields (fun r s =>
    let t := leAt r.payload 0 2
    let f := leAt r.payload 2 2
    let size := leAt r.payload 8 8
    let addr := leAt r.payload 16 8
    let tierA := bitAt f 1
    let c := tenant s t
    if !tcidOk t then .refuse 0x0120
    else if !tenantOpen s t then .refuse 0x0125
    else if bitAt f 2 && addrConflict s tierA addr size then .refuse 0x0312
    else if (if tierA then decide (c.taQuota < taUsed s t + mib size) else decide (c.tbQuota < tbUsed s t + mib size)) then
      .refuse 0x0122
    else match (if bitAt f 2 then (if placeFree s addr size then some (addr, s) else none) else alloc s tierA size) with
      | none => .refuse 0x0311
      | some (base, s') =>
        if 0xFFFFF < s.store.nextRegion then .refuse 0x0107
        else
          let id := objectId t s.store.nextRegion
          let g : Region := { owner := t, writable := bitAt f 0, tierA := tierA, sealed := false, size := size,
                              base := base, image := false, copy := none, pinned := none, lastUse := 0 }
          let s := { s' with store.regions := tset s'.store.regions id g, store.nextRegion := s'.store.nextRegion + 1 }
          .ok (ledgerCmd s slot.val r t id 0) (leBytes 4 id ++ zeros 4 ++ leBytes 8 base)) s)

def regionLoadFields (_ : State) (p : List Byte) : Bool := leAt p 16 8 % 64 == 0 && leAt p 24 8 == 0

def execRegionLoad (slot : SlotId) (buf : HostRead) (s : State) : Res :=
  .next (runCmd slot.val 0x0302 true regionLoadFields (fun r s =>
    let id := leAt r.payload 0 4
    let len := leAt r.payload 4 4
    let off := leAt r.payload 8 8
    match tget s.store.regions id with
    | none => .refuse 0x0314
    | some g =>
      if g.sealed || g.size < off + len then .refuse 0x0313
      else loadBuffer s (g.base + off) len buf (fun s => .ok (ledgerCmd s slot.val r g.owner id 0) [])) s)

def idFields (_ : State) (p : List Byte) : Bool := leAt p 4 4 == 0

def execRegionSeal (slot : SlotId) (s : State) : Res :=
  .next (runCmd slot.val 0x0303 true idFields (fun r s =>
    let id := leAt r.payload 0 4
    match tget s.store.regions id with
    | none => .refuse 0x0314
    | some g =>
      let c := tenant s g.owner
      if g.writable || g.sealed then .refuse 0x0313
      else match (if c.residency ≠ 0 then pinStatus s g.owner c.residency c.spQuota c.taQuota (some g.size) else none) with
        | some st => .refuse st
        | none =>
          let s := { s with store.regions := tset s.store.regions id { g with sealed := true } }
          .ok (ledgerCmd s slot.val r g.owner id 0) []) s)

/-- A region is referenced by a registered image, holds one, or is used by an admitted job (R175). -/
def regionInUse (s : State) (id : Nat) : Bool :=
  imagesWith s (· == .region id) != 0 || s.store.images.any (fun e => e.2.region == id)
    || s.dsp.jobs.any (fun e => e.2.inRegion == id || e.2.outRegion == id || e.2.uses.contains (.region id))

def execRegionFree (slot : SlotId) (s : State) : Res :=
  .next (runCmd slot.val 0x0304 true idFields (fun r s =>
    let id := leAt r.payload 0 4
    match tget s.store.regions id with
    | none => .refuse 0x0314
    | some g =>
      if regionInUse s id then .refuse 0x0315
      else .wait (ledgerCmd (freeRegion s id) slot.val r g.owner id 0) []
        [g.base] []) s)

def execRegionQuery (slot : SlotId) (s : State) : Res :=
  .next (runCmd slot.val 0x0305 false idFields (fun r s =>
    let id := leAt r.payload 0 4
    match tget s.store.regions id with
    | none => .refuse 0x0314
    | some g =>
      .ok s (leBytes 4 id
        ++ leBytes 2 (b2n g.writable + 2 * b2n g.tierA + 4 * b2n g.sealed
            + 8 * b2n (match g.copy with | some c => c.done | none => false))
        ++ leBytes 2 (banksHeld s id) ++ leBytes 8 g.size ++ leBytes 8 g.base ++ zeros 8)) s)

end Sys2Proof.Machine
end

