-- ==== Sys2Proof/Machine/Merge.lean ====
section
/-! DEFINITION. The sparse path: fibres, intersection, MERGE and its quanta, and QUANTA of the census unit (14, R364 to
R387; 18, R453). -/

namespace Sys2Proof.Machine

/-! ## Fibre operands (R364, R365) -/

/-- What the header of an FB operand says (Table 14-3). -/
structure FbHdr where
  nfib : Nat
  minor : Nat
  nq : Nat
  qvalid : Bool
  major : Nat
  nnz : Nat
  ptrOff : Nat
  crdOff : Nat
  valOff : Nat
  qtOff : Nat
  /-- FOLD of a DL block (Table 14-4). -/
  fold : Nat

def fbHdr (b : List Byte) : FbHdr :=
  { nfib := leAt b 0 2, minor := leAt b 2 2, nq := leAt b 4 2, qvalid := bitAt (leAt b 6 2) 0, major := bits (leAt b 6 2) 1 1,
    nnz := leAt b 8 4, ptrOff := leAt b 16 2 * 64, crdOff := leAt b 18 2 * 64, valOff := leAt b 20 2 * 64,
    qtOff := leAt b 22 2 * 64, fold := bits (leAt b 24 8) 48 2 }

/-- The limits of Table 14-10 that a header shows. -/
def FbHdr.inLimits (h : FbHdr) : Bool := within 1 1024 h.nfib && decide (h.nnz ≤ 65536)

/-- Segment pointers that R365 allows. -/
def ptrsOk (h : FbHdr) (ptrs : List Nat) : Bool :=
  ptrs.headD 1 == 0 && ptrs.getD h.nfib 0 == h.nnz
    && (List.range h.nfib).all (fun f => decide (ptrs.getD f 0 ≤ ptrs.getD (f + 1) 0))

/-- An FB operand as read. -/
structure Fb where
  h : FbHdr
  ptrs : List Nat
  crds : List Nat
  vals : List Nat
  qt : List Nat

inductive FbRead where
  | ok (f : Fb) (s : State)
  | fail (s : State)
  | invalid (s : State)

def words (n : Nat) (bs : List Byte) : List Nat := (List.range (bs.length / n)).map (fun i => leAt bs (n * i) n)

/-- Reads an FB operand through `rd` (state, byte offset in the operand, length). `req` is the header requirement of Table
14-6, `table` says that its quanta are the instruction's, so that its quantum table is read. -/
def readFb (rd : State → Nat → Nat → Rd) (t : EType) (table : Bool) (req : FbHdr → Bool) (s : State) : FbRead :=
  match rd s 0 64 with
  | .fail s => .fail s
  | .ok hb s =>
    let h := fbHdr hb
    if !h.inLimits || !req h || !h.qvalid || h.nq ≠ cdiv h.nnz 2048 then .invalid s
    else match rd s h.ptrOff (4 * (h.nfib + 1)) with
      | .fail s => .fail s
      | .ok pb s =>
        if !ptrsOk h (words 4 pb) then .invalid s
        else match rd s h.crdOff (2 * h.nnz) with
          | .fail s => .fail s
          | .ok cb s => match rd s h.valOff (t.size h.nnz) with
            | .fail s => .fail s
            | .ok vb s => match (if table then rd s h.qtOff (4 * h.nq) else .ok [] s) with
              | .fail s => .fail s
              | .ok qb s => .ok { h := h, ptrs := words 4 pb, crds := words 2 cb, vals := elems t vb h.nnz, qt := words 4 qb } s

def Fb.ptr (x : Fb) (f : Nat) : Nat := x.ptrs.getD f 0

/-- Coordinate `i` of fibre `f` is in range and above the one before it. -/
def Fb.crdOk (x : Fb) (f i : Nat) : Bool :=
  decide (x.crds.getD i 0 ≤ x.h.minor) && (i == x.ptr f || decide (x.crds.getD (i - 1) 0 < x.crds.getD i 0))

/-- Nonzeros of quantum `q`: its fibres with the part of each that it covers. -/
def Fb.parts (x : Fb) (q : Nat) : List (Nat × Nat × Nat) :=
  (List.range x.h.nfib).filterMap (fun f =>
    let lo := max (x.ptr f) (2048 * q); let hi := min (x.ptr (f + 1)) (2048 * (q + 1))
    if lo < hi then some (f, lo, hi) else none)

/-- Quantum `q`'s coordinates and its table entry obey R365. -/
def Fb.quantOk (x : Fb) (q : Nat) : Bool :=
  let e := x.qt.getD q 0
  decide (x.ptr e ≤ 2048 * q) && decide (2048 * q < x.ptr (e + 1)) && decide (e < 65536)
    && (x.parts q).all (fun p => (List.range (p.2.2 - p.2.1)).all (fun i => x.crdOk p.1 (p.2.1 + i)))

/-- Nonzeros of a quantum. -/
def Fb.nnzOf (x : Fb) (q : Nat) : Nat := min (2048 * (q + 1)) x.h.nnz - 2048 * q

/-! ## Intersection (R373) -/

/-- The skip of R373, from trial `sk` on. -/
def skipFrom (x : List Nat) (i n t : Nat) : Nat → Nat → Nat
  | 0, sk => min (i + 8 * sk) n
  | fuel + 1, sk =>
    if sk < 32 && i + 8 * sk < n && x.getD (min (i + 8 * sk + 7) (n - 1)) 0 < t then skipFrom x i n t fuel (sk + 1)
    else min (i + 8 * sk) n

/-- Steps and matches (places in a and b) of two fibres, `fuel` bounding the steps. -/
def intersect (a b : List Nat) : Nat → Nat → Nat → Nat × List (Nat × Nat)
  | 0, _, _ => (0, [])
  | fuel + 1, ia, ib =>
    let na := a.length; let nb := b.length
    if !(ia < na && ib < nb) then (0, [])
    else
      let ea := min (ia + 8) na - 1; let eb := min (ib + 8) nb - 1
      if a.getD ea 0 < b.getD ib 0 then
        let r := intersect a b fuel (skipFrom a ia na (b.getD ib 0) 32 1) ib
        (r.1 + 1, r.2)
      else if b.getD eb 0 < a.getD ia 0 then
        let r := intersect a b fuel ia (skipFrom b ib nb (a.getD ia 0) 32 1)
        (r.1 + 1, r.2)
      else
        let ms := (List.range (ea + 1 - ia)).flatMap (fun i => (List.range (eb + 1 - ib)).filterMap (fun j =>
          if a.getD (ia + i) 0 = b.getD (ib + j) 0 then some (ia + i, ib + j) else none))
        let r := intersect a b fuel (if a.getD ea 0 ≤ b.getD eb 0 then ea + 1 else ia)
          (if b.getD eb 0 ≤ a.getD ea 0 then eb + 1 else ib)
        (r.1 + 1, ms ++ r.2)

/-! ## Quanta (R374, R375) -/

/-- From +0, the exact products in order, with one rounding each (R375, R338). -/
def sumProducts (ta tb : EType) (isF : Bool) (ps : List (Nat × Nat)) : Nat × Bool :=
  ps.foldl (fun (r : Nat × Bool) p =>
    if isF then let (v, sat) := addSat32 r.1 (fvMul (ta.decode p.1) (tb.decode p.2)); (v, r.2 || sat)
    else let (v, sat) := satInt 32 (i32 r.1 + ta.int p.1 * tb.int p.2); (patInt 32 v, r.2 || sat)) (0, false)

/-- A dense operand: element (row, column). -/
abbrev Dense := List (List Nat)

def Dense.at (d : Dense) (i j : Nat) : Nat := (d.getD i []).getD j 0

/-- The values of one quantum: element (m, n), result, saturation. -/
abbrev Vals := List (Nat × Nat × Nat × Bool)

/-- SDMM: rows of A's fibres against a dense B. -/
def sdmmVals (ta tb : EType) (isF : Bool) (x : Fb) (b : Dense) (nv q : Nat) : Vals :=
  (x.parts q).flatMap (fun p => (List.range nv).map (fun n =>
    let r := sumProducts ta tb isF ((List.range (p.2.2 - p.2.1)).map (fun i =>
      (x.vals.getD (p.2.1 + i) 0, b.at (x.crds.getD (p.2.1 + i) 0) n)))
    (p.1, n, r.1, r.2)))

/-- DSMM: a dense A's rows against columns of B's fibres. -/
def dsmmVals (ta tb : EType) (isF : Bool) (a : Dense) (x : Fb) (rows : List Nat) (q : Nat) : Vals :=
  (x.parts q).flatMap (fun p => rows.map (fun m =>
    let r := sumProducts ta tb isF ((List.range (p.2.2 - p.2.1)).map (fun i =>
      (a.at m (x.crds.getD (p.2.1 + i) 0), x.vals.getD (p.2.1 + i) 0)))
    (m, p.1, r.1, r.2)))

/-- SSMM: the values, the steps and the matches. -/
def ssmmVals (ta tb : EType) (isF : Bool) (x y : Fb) (nv q : Nat) : Vals × Nat × Nat :=
  (x.parts q).foldl (fun (r : Vals × Nat × Nat) p => (List.range nv).foldl (fun (r : Vals × Nat × Nat) n =>
    let a := slice' x.crds p.2.1 (p.2.2 - p.2.1)
    let b := slice' y.crds (y.ptr n) (y.ptr (n + 1) - y.ptr n)
    let z := intersect a b (a.length + b.length) 0 0
    let v := sumProducts ta tb isF (z.2.map (fun m => (x.vals.getD (p.2.1 + m.1) 0, y.vals.getD (y.ptr n + m.2) 0)))
    ((if z.2.isEmpty then r.1 else r.1 ++ [(p.1, n, v.1, v.2)]), r.2.1 + z.1, r.2.2 + z.2.length)) r) ([], 0, 0)
where
  /-- `n` items of a list from `i`. -/
  slice' (l : List Nat) (i n : Nat) : List Nat := (l.drop i).take n

/-- A quantum from its values. -/
def mkQuant (s : State) (c i num : Nat) (vals : Vals) (bad : Bool) (nnzA nnzB beats steps matches_ cycles entry : Nat) : Quant :=
  let isF := !(etypeOf (gAtype i)).isInt
  let ms := (vals.map (·.1)).foldl (fun l m => if l.contains m then l else l ++ [m]) []
  let rows : List ResRow := ms.map (fun m =>
    let mine := vals.filter (fun v => v.1 == m)
    { row := m, sat := mine.any (fun v => v.2.2.2), nan := mine.any (fun v => accNan isF v.2.2.1), owner := rowOwner s c m })
  { num := num, prod := vals.foldl (fun t v => tset t (accWord (gFold i) v.1 v.2.1) v.2.2.1) [], rows := rows, nnzA := nnzA,
    nnzB := nnzB, beats := beats, steps := steps, matches_ := matches_, cycles := cycles, retried := false,
    works := rowWorks s c (rows.map (·.owner)), bad := bad, entry := entry }

/-- The quanta that this core processes, of `n` from number `base` on (R374). -/
def myQuanta (i base n : Nat) : List Nat := (List.range n).filter (fun q => (base + q) % (gStride i + 1) == gPhase i)

/-! ## MERGE -/

def mergeRanges (k : Core) (i : Nat) : List Rng :=
  opRange k (f1Win i) (f1Off i * 64) (f1Len i * 256) false
    :: (if gBfmt i = 2 then [] else [opRange k (f2Win i) (f2Off i * 64) (f2Len i * 256) false])

/-- Reads a dense operand of the sparse path: `rows` rows of `n` elements (R358); more than 64 KiB is invalid (R372, R385). -/
inductive DenseRead where
  | ok (d : Dense) (s : State)
  | fail (s : State)
  | invalid (s : State)

def readDense (c w win off len rows pitchN n : Nat) (t : EType) (s : State) : DenseRead :=
  if 65536 < len * 256 || 65536 < rows * pitchOf t pitchN then .invalid s
  else match readTile 4 c w win off (pitchOf t pitchN) (t.size n) rows s with
    | .fail s => .fail s
    | .ok rs s => .ok (rs.map (fun r => elems t r n)) s

/-- What forming a MERGE's quanta answers: its quanta and the rows of its row set. -/
inductive Formed where
  | ok (qs : List Quant) (rowSet : List Nat) (s : State)
  | fail (s : State)
  | invalid (s : State)

def winRd (c w win off : Nat) (s : State) (o n : Nat) : Rd := engRead s c w win (off + o) n

def formSdmm (c w i : Nat) (s : State) : Formed :=
  let ta := etypeOf (gAtype i); let tb := etypeOf (gBtype i); let nt := foldN (gFold i)
  match readFb (winRd c w (f1Win i) (f1Off i * 64)) ta true (fun h => h.major == 0 && h.nfib == gMv i) s with
  | .fail s => .fail s
  | .invalid s => .invalid s
  | .ok x s => match readDense c w (f2Win i) (f2Off i * 64) (f2Len i) (x.h.minor + 1) nt (gNv i) tb s with
    | .fail s => .fail s
    | .invalid s => .invalid s
    | .ok b s =>
      let qs := (myQuanta i 0 x.h.nq).map (fun q =>
        let n := x.nnzOf q
        let cq := cdiv (n * cdiv (gNv i) 128) 8
        mkQuant s c i q (sdmmVals ta tb (!ta.isInt) x b (gNv i) q) (!x.quantOk q) n 0 cq 0 0 cq 0)
      .ok qs (List.range (gMv i)) s

def formSsmm (c w i : Nat) (s : State) : Formed :=
  let ta := etypeOf (gAtype i); let tb := etypeOf (gBtype i); let nt := foldN (gFold i)
  match readFb (winRd c w (f1Win i) (f1Off i * 64)) ta true (fun h => h.major == 0 && h.nfib == gMv i) s with
  | .fail s => .fail s
  | .invalid s => .invalid s
  | .ok x s => match readFb (winRd c w (f2Win i) (f2Off i * 64)) tb false
      (fun h => h.major == 1 && h.nfib == nt && h.minor == x.h.minor) s with
    | .fail s => .fail s
    | .invalid s => .invalid s
    | .ok y s =>
      let yOk := (List.range (gNv i)).all (fun f => (List.range (y.ptr (f + 1) - y.ptr f)).all (fun j => y.crdOk f (y.ptr f + j)))
      let qs := (myQuanta i 0 x.h.nq).map (fun q =>
        let (vals, steps, matches_) := ssmmVals ta tb (!ta.isInt) x y (gNv i) q
        mkQuant s c i q vals (!x.quantOk q || !yOk) (x.nnzOf q) 0 0 steps matches_ steps 0)
      .ok qs (List.range (gMv i)) s

/-- Quanta of one fibre B against a dense A over some rows. -/
def dsmmQuanta (s : State) (c i : Nat) (a : Dense) (y : Fb) (rows : List Nat) (base entry : Nat) : List Quant :=
  let ta := etypeOf (gAtype i); let tb := etypeOf (gBtype i)
  (myQuanta i base y.h.nq).map (fun q =>
    let n := y.nnzOf q
    mkQuant s c i (base + q) (dsmmVals ta tb (!ta.isInt) a y rows q) (!y.quantOk q) 0 n (cdiv n 8) 0 0 (cdiv n 8) entry)

def formDsmmFb (c w i : Nat) (s : State) : Formed :=
  let ta := etypeOf (gAtype i); let tb := etypeOf (gBtype i)
  match readFb (winRd c w (f2Win i) (f2Off i * 64)) tb true (fun h => h.major == 1 && h.nfib == foldN (gFold i)) s with
  | .fail s => .fail s
  | .invalid s => .invalid s
  | .ok y s =>
    if y.ptr (gNv i) ≠ y.h.nnz then .invalid s
    else match readDense c w (f1Win i) (f1Off i * 64) (f1Len i) (gMv i) (y.h.minor + 1) (y.h.minor + 1) ta s with
      | .fail s => .fail s
      | .invalid s => .invalid s
      | .ok a s => .ok (dsmmQuanta s c i a y (List.range (gMv i)) 0 0) (List.range (gMv i)) s

/-! ### Deltas (R367, R368, R382 to R384) -/

def cbTcid (k : Core) (e : Nat) : Nat := bits (tgetD k.cbt e 0) 0 12
def cbRow0 (k : Core) (e : Nat) : Nat := bits (tgetD k.cbt e 0) 12 7
def cbRows (k : Core) (e : Nat) : Nat := bits (tgetD k.cbt e 0) 19 8
def cbBase (k : Core) (e : Nat) : Nat := bits (tgetD k.cbt e 0) 32 17 * 64

/-- Rows of an entry that lie below MV. -/
def cbRowsOf (k : Core) (e mv : Nat) : List Nat :=
  ((List.range (cbRows k e)).map (cbRow0 k e + ·)).filter (fun m => decide (m < mv))

/-- Reads a core's scratchpad with an entry's TCID (R384). -/
def dlRead (c t off : Nat) (s : State) (o n : Nat) : Rd :=
  let a := spBase c + off + o
  let w := workOfTcid s c t
  let refuse (o : Nat) : Rd := match w with
    | some w => .fail (tagFault s (coreUnit c) w a o false false)
    | none => .fail s
  if n = 0 then .ok [] s
  else if 0x800000 < off + o + n then refuse 0
  else match endpoint s t a n false with
    | .refused o => refuse o
    | .hole => refuse 0
    | .ok => match eccRead (flushGb s a n) a n .clean w with
      | (s, true) => .ok (mread s.mem a n) s
      | (s, false) => .fail s

/-- One entry's job ends for its block. -/
def entryInvalid (s : State) (c t : Nat) : State :=
  match workOfTcid s c t with
  | some w => failWork s w 0x0102
  | none => s

/-- The entries of the co-batch table in order: their quanta, numbered on. An entry whose block cannot be used ends its own job
alone. -/
def formDl (c w i : Nat) : List Nat → Nat → State → List Quant × List Nat × State
  | [], _, s => ([], [], s)
  | e :: es, base, s =>
    let k := core s c
    let t := cbTcid k e
    let tb := etypeOf (gBtype i); let ta := etypeOf (gAtype i); let f := gFold i
    let rows := cbRowsOf k e (gMv i)
    let skip (s : State) : List Quant × List Nat × State := formDl c w i es base s
    match dlRead c t (cbBase k e) s (8 * f2Off i) 8 with
    | .fail s => skip s
    | .ok d s =>
      let dw := ofLeBytes d
      if !within 1 1024 (bits dw 32 11) || bits dw 43 21 ≠ 0 then skip (entryInvalid s c t)
      else match readFb (dlRead c t (cbBase k e + bits dw 0 32 * 64)) tb true
          (fun h => h.major == 1 && h.nfib == foldN f && h.minor + 1 == foldK f && decide (h.nnz ≤ 4096) && h.fold == f) s with
        | .fail s => skip s
        | .invalid s => skip (entryInvalid s c t)
        | .ok y s =>
          if y.ptr (gNv i) ≠ y.h.nnz then skip (entryInvalid s c t)
          else match readDense c w (f1Win i) (f1Off i * 64) (f1Len i) (gMv i) (y.h.minor + 1) (y.h.minor + 1) ta s with
            | .fail s => ([], [], s)
            | .invalid s => ([], [], invalidField s c)
            | .ok a s =>
              let qs := dsmmQuanta s c i a y rows base e
              let r := formDl c w i es (base + y.h.nq) s
              (qs ++ r.1, rows ++ r.2.1, r.2.2)

def formMerge (c w i : Nat) (s : State) : Formed :=
  match iOp i, gBfmt i with
  | 1, _ => formSdmm c w i s
  | 2, 1 => formDsmmFb c w i s
  | 2, _ =>
    if (core s c).cbn = 0 then .invalid s
    else
      let r := formDl c w i (List.range (core s c).cbn) 0 s
      if (core r.2.2 c).work.isNone then .fail r.2.2 else .ok r.1 r.2.1 r.2.2
  | _, _ => formSsmm c w i s

/-- The set at the start of a MERGE (R375, R333, R334): with ACCUM = 0 rows outside the row set become CLEAR and the row set reads
+0. -/
def mergeStart (x : AccSet) (isF : Bool) (fold : Nat) (accum : Bool) (rowSet : List Nat) (ownerOf : Nat → Nat) : AccSet :=
  if accum then (if allClear x then { x with tag := some (isF, fold) } else x)
  else { tag := some (isF, fold), words := [],
         rows := (List.range (foldK fold)).map (fun m =>
           (m, if rowSet.contains m then { clear := false, owner := ownerOf m } else {})) }

/-- A quantum enters the set (R375). -/
def commitQuant (x : AccSet) (isF : Bool) (fold : Nat) (accum : Bool) (seen : Tab Nat) (q : Quant) : AccSet :=
  let fresh (m : Nat) : Bool := (accRow x m).clear
  let words := x.words.filter (fun e => !(fresh (wordRow fold e.1)))
  let new := q.prod.map (fun e =>
    if !accum && (tget seen e.1).isNone then (e.1, e.2, false)
    else let r := accAdd isF (tgetD words e.1 0) e.2; (e.1, r.1, r.2))
  let words := new.foldl (fun t e => if e.2.1 = 0 then tdel t e.1 else tset t e.1 e.2.1) words
  let rows := q.rows.foldl (fun t z =>
    let r := accRow x z.row
    let mine := new.filter (fun e => wordRow fold e.1 == z.row)
    tset t z.row { clear := false, sat := (!r.clear && r.sat) || z.sat || mine.any (fun e => e.2.2),
                   nan := (!r.clear && r.nan) || z.nan || mine.any (fun e => accNan isF e.2.1), owner := z.owner }) x.rows
  { x with words := words, rows := rows }

/-- A MERGE with no quantum left retires (R374, R375). -/
def mergeEnd (s : State) (c : Nat) : State :=
  match (core s c).merge with
  | some m =>
    if m.quanta.isEmpty then
      count (modCore s c (fun k => freeRanges { k with merge := none } m.ord)) c wMRG m.cycles
    else s
  | none => s

def mergeBody (c : Nat) (s : State) (w : Nat) (q : QEnt) : State :=
  let i := q.inst
  let isF := !(etypeOf (gAtype i)).isInt
  let k := core s c
  if gAccum i && !tagsAgree k (iAcc i) (isF, gFold i) then invalidField s c
  else
    let s := setCore s c (takeRanges k 4 q.ord (mergeRanges k i))
    match formMerge c w i s with
    | .fail s => dropInstr s c q.ord
    | .invalid s => dropInstr (invalidField s c) c q.ord
    | .ok qs rowSet s =>
      let cycles := qs.foldl (fun n q => n + q.cycles) 4
      let x := mergeStart (accSet (core s c) (iAcc i)) isF (gFold i) (gAccum i) rowSet (rowOwner s c)
      mergeEnd (modCore s c (fun k => { k with
        acc := tset k.acc (iAcc i) x, quantNum := k.quantNum + qs.length,
        merge := some { inst := i, ord := q.ord, quanta := qs, seen := [], cycles := cycles } })) c

/-- The merge units take one MERGE at a time. -/
def mergeRow (c op : Nat) (s : State) : Res :=
  .next (engineRow s c 4 [op] mergeRanges (fun k _ => k.merge.isNone) (mergeBody c))

/-- SDMM (R371). -/
def execSdmm (core : CoreId) (s : State) : Res := mergeRow core.val 1 s
/-- DSMM, with a fibre B or with the deltas of the co-batch table (R371, R384). -/
def execDsmm (core : CoreId) (s : State) : Res := mergeRow core.val 2 s
/-- SSMM (R373). -/
def execSsmm (core : CoreId) (s : State) : Res := mergeRow core.val 3 s

/-! ## QUANTUM_COMMIT -/

/-- Census counts of a quantum (R380, R453). -/
def censusQuant (s : State) (c : Nat) (q : Quant) : State :=
  count (count (count (count (count (count s c 17 q.nnzA) c 18 q.nnzB) c 19 1) c 20 q.matches_) c 21 q.steps) c 22 q.beats

/-- QUANTUM_COMMIT: the next quantum in ascending order passes its residue check and commits, is re-executed, or fails a second
time (R375, R376, R387); one that breaks R365 ends its job (R366). -/
def execQuantumCommit (core_ : CoreId) (residueOk : Bool) (s : State) : Res :=
  let c := core_.val
  if !domainsUp s then .next s
  else match (core s c).merge with
    | none => .next s
    | some m => match m.quanta with
      | [] => .next s
      | q :: rest =>
        let i := m.inst
        let isDl := iOp i == 2 && gBfmt i == 2
        let isF := !(etypeOf (gAtype i)).isInt
        -- under DL the other entries go on when one entry's job ends
        let after : List Quant := if isDl then rest.filter (fun r => r.entry != q.entry) else rest
        let drop (s : State) : State := modCore s c (fun k => { k with merge := k.merge.map (fun m => { m with quanta := after }) })
        .next (settle (
          if q.bad then
            mergeEnd (if isDl then drop (entryInvalid s c (cbTcid (core s c) q.entry)) else invalidField s c) c
          else if residueOk then
            let k := core s c
            let x := commitQuant (accSet k (iAcc i)) isF (gFold i) (gAccum i) m.seen q
            let m' := { m with quanta := rest, seen := q.prod.foldl (fun t e => tset t e.1 0) m.seen }
            let s := setCore s c { k with acc := tset k.acc (iAcc i) x, merge := some m' }
            let s := censusQuant s c q
            mergeEnd (if q.retried then countCore s c 0x058 1 else s) c
          else if !q.retried then
            modCore (firstFailure s c [] 1 q.num q.cycles 4) c
              (fun k => { k with merge := some { m with quanta := { q with retried := true } :: rest } })
          else mergeEnd (secondFailure (drop s) c 0xFE 1 q.num q.works) c) c)

/-! ## QUANTA (R378) -/

/-- The operand range is a W entry of the scoreboard. -/
def quantaRanges (k : Core) (i : Nat) : List Rng := [opRange k (f1Win i) (f1Off i * 64) (f1Len i * 256) true]

/-- The fibre of entry `q`. -/
def quantFibre (ptrs : List Nat) (nfib q : Nat) : Nat :=
  ((List.range nfib).find? (fun f => decide (ptrs.getD f 0 ≤ 2048 * q) && decide (2048 * q < ptrs.getD (f + 1) 0))).getD 0

def quantaBody (c : Nat) (s : State) (w : Nat) (q : QEnt) : State :=
  let i := q.inst
  let win := f1Win i; let off := f1Off i * 64
  if !winWr (core s c) win then (engWrite s c 6 w win off [0]).1
  else match engRead s c w win off 64 with
    | .fail s => s
    | .ok hb s =>
      let h := fbHdr hb
      if !h.inLimits then invalidField s c
      else match engRead s c w win (off + h.ptrOff) (4 * (h.nfib + 1)) with
        | .fail s => s
        | .ok pb s =>
          let ptrs := words 4 pb
          if !ptrsOk h ptrs then invalidField s c
          else
            let nq := cdiv h.nnz 2048
            let qt := (List.range nq).flatMap (fun j => leBytes 4 (quantFibre ptrs h.nfib j))
            let w0 := setBits (setBits (leAt hb 0 8) 32 16 nq) 48 1 1
            match engWrite s c 6 w win (off + h.qtOff) qt with
            | (s, false) => s
            | (s, true) => match engWrite s c 6 w win off (leBytes 8 w0) with
              | (s, false) => s
              | (s, true) => count s c wCEN (2 + cdiv (4 * (h.nfib + 1)) 512)

/-- QUANTA. -/
def execQuanta (core : CoreId) (s : State) : Res :=
  .next (engineRow s core.val 6 [1] quantaRanges (fun _ _ => true) (quantaBody core.val))

end Sys2Proof.Machine
end

