-- ==== Sys2Proof/Machine/SeqWord.lean ====
section
/-! DEFINITION. The 32-bit words of the sequencer's instructions (R285, R286, Tables 11-3 and 11-4): a decoder, total on every
word, and an encoder. -/

namespace Sys2Proof.Machine

/-- A register field. -/
def regAt (x lo : Nat) : RegId := ⟨x / 2 ^ lo % 32, Nat.mod_lt _ (by decide)⟩

/-- The instruction of a word on an agent: `none` for what R286 makes ILLEGAL, and for the opcodes that R298 keeps to or from
Swifort (agent 64). -/
def seqDecode (ag : Agent) (x : Nat) : Option Instr :=
  let gd := regAt x 7
  let ga := regAt x 12
  let gb := regAt x 17
  let i15 : BitVec 15 := BitVec.ofNat 15 (x / 2 ^ 17)
  let i20 : BitVec 20 := BitVec.ofNat 20 (x / 2 ^ 12)
  let i12 : BitVec 12 := BitVec.ofNat 12 (x / 2 ^ 20)
  let n12 : BitVec 12 := BitVec.ofNat 12 (x / 2 ^ 17)
  let sh : BitVec 6 := BitVec.ofNat 6 (x / 2 ^ 17)
  let cond : BitVec 3 := BitVec.ofNat 3 (x / 2 ^ 17)
  let funct := x / 2 ^ 22
  let swi := ag.val = 64
  if 2 ^ 32 ≤ x then none
  else match x % 128 with
  | 0x01 => match funct with
    | 0x000 => some (.add ag gd ga gb) | 0x001 => some (.sub ag gd ga gb) | 0x002 => some (.and ag gd ga gb)
    | 0x003 => some (.or ag gd ga gb) | 0x004 => some (.xor ag gd ga gb) | 0x005 => some (.sll ag gd ga gb)
    | 0x006 => some (.srl ag gd ga gb) | 0x007 => some (.sra ag gd ga gb) | 0x008 => some (.slt ag gd ga gb)
    | 0x009 => some (.sltu ag gd ga gb) | 0x00A => some (.min ag gd ga gb) | 0x00B => some (.max ag gd ga gb)
    | 0x00C => some (.minu ag gd ga gb) | 0x00D => some (.maxu ag gd ga gb)
    | 0x010 => some (.mul ag gd ga gb) | 0x011 => some (.mulh ag gd ga gb) | 0x012 => some (.mulhu ag gd ga gb)
    | 0x018 => some (.div ag gd ga gb) | 0x019 => some (.divu ag gd ga gb)
    | 0x01A => some (.rem ag gd ga gb) | 0x01B => some (.remu ag gd ga gb)
    | _ => none
  | 0x02 => some (.addi ag gd ga i15) | 0x03 => some (.andi ag gd ga i15)
  | 0x04 => some (.ori ag gd ga i15) | 0x05 => some (.xori ag gd ga i15)
  | 0x06 => if x / 2 ^ 23 = 0 then some (.slli ag gd ga sh) else none
  | 0x07 => if x / 2 ^ 23 = 0 then some (.srli ag gd ga sh) else none
  | 0x08 => if x / 2 ^ 23 = 0 then some (.srai ag gd ga sh) else none
  | 0x09 => some (.slti ag gd ga i15) | 0x0A => some (.sltiu ag gd ga i15)
  | 0x0B => some (.lui ag gd i20) | 0x0C => some (.auipc ag gd i20)
  | 0x10 => some (.ld1 ag gd ga i15) | 0x11 => some (.ld2 ag gd ga i15) | 0x12 => some (.ld4 ag gd ga i15)
  | 0x13 => some (.ld8 ag gd ga i15) | 0x14 => some (.ld1u ag gd ga i15) | 0x15 => some (.ld2u ag gd ga i15)
  | 0x16 => some (.ld4u ag gd ga i15)
  | 0x18 => some (.st1 ag gd ga i15) | 0x19 => some (.st2 ag gd ga i15) | 0x1A => some (.st4 ag gd ga i15)
  | 0x1B => some (.st8 ag gd ga i15) | 0x1C => some (.stnt ag gd ga i15) | 0x1D => some (.ldres ag gd ga i15)
  | 0x1E => if funct = 0 then some (.stcond ag gd ga gb) else none
  | 0x20 => if cond.toNat < 6 then some (.br ag cond gd ga i12) else none
  | 0x21 => some (.jal ag gd i20)
  | 0x22 => some (.jalr ag gd ga i15)
  | 0x30 => if x / 128 = 0 then some (.sync ag) else none
  | 0x31 => if x / 128 = 0 ∧ ¬swi then some (.qsync ag) else none
  | 0x32 => if x / 128 % 32 = 0 ∧ funct = 0 ∧ ¬swi then some (.tiss ag ga gb) else none
  | 0x33 => if x / 128 = 0 then some (.wait ag) else none
  | 0x34 => if x / 2 ^ 12 % 32 = 0 ∧ x / 2 ^ 29 = 0 then some (.crr ag gd n12) else none
  | 0x35 => if x / 128 % 32 = 0 ∧ x / 2 ^ 29 = 0 then some (.crw ag ga n12) else none
  | 0x36 => if x / 128 = 0 then some (.eret ag) else none
  | 0x37 => if x / 128 = 0 then some (.brk ag) else none
  | 0x38 => if x / 128 = 0 ∧ ¬swi then some (.endSection ag) else none
  | 0x40 => if x / 2 ^ 12 % 32 = 0 ∧ x / 2 ^ 29 = 0 ∧ swi then some (.pcrr ag gd n12) else none
  | 0x41 => if x / 128 % 32 = 0 ∧ x / 2 ^ 29 = 0 ∧ swi then some (.pcrw ag ga n12) else none
  | _ => none

/-- Format R. -/
def wordR (op funct : Nat) (gd ga gb : RegId) : Nat := op + gd.val * 2 ^ 7 + ga.val * 2 ^ 12 + gb.val * 2 ^ 17 + funct * 2 ^ 22

/-- Formats I and S: the immediate in [31:17]. -/
def wordI (op : Nat) (gd ga : RegId) (imm : Nat) : Nat := op + gd.val * 2 ^ 7 + ga.val * 2 ^ 12 + imm * 2 ^ 17

/-- Formats J and U: the immediate in [31:12]. -/
def wordU (op : Nat) (gd : RegId) (imm : BitVec 20) : Nat := op + gd.val * 2 ^ 7 + imm.toNat * 2 ^ 12

/-- The word of an instruction; zero for a command that is no sequencer instruction. -/
def seqEncode : Instr → Nat
  | .add _ d a b => wordR 0x01 0x000 d a b
  | .sub _ d a b => wordR 0x01 0x001 d a b
  | .and _ d a b => wordR 0x01 0x002 d a b
  | .or _ d a b => wordR 0x01 0x003 d a b
  | .xor _ d a b => wordR 0x01 0x004 d a b
  | .sll _ d a b => wordR 0x01 0x005 d a b
  | .srl _ d a b => wordR 0x01 0x006 d a b
  | .sra _ d a b => wordR 0x01 0x007 d a b
  | .slt _ d a b => wordR 0x01 0x008 d a b
  | .sltu _ d a b => wordR 0x01 0x009 d a b
  | .min _ d a b => wordR 0x01 0x00A d a b
  | .max _ d a b => wordR 0x01 0x00B d a b
  | .minu _ d a b => wordR 0x01 0x00C d a b
  | .maxu _ d a b => wordR 0x01 0x00D d a b
  | .mul _ d a b => wordR 0x01 0x010 d a b
  | .mulh _ d a b => wordR 0x01 0x011 d a b
  | .mulhu _ d a b => wordR 0x01 0x012 d a b
  | .div _ d a b => wordR 0x01 0x018 d a b
  | .divu _ d a b => wordR 0x01 0x019 d a b
  | .rem _ d a b => wordR 0x01 0x01A d a b
  | .remu _ d a b => wordR 0x01 0x01B d a b
  | .addi _ d a i => wordI 0x02 d a i.toNat
  | .andi _ d a i => wordI 0x03 d a i.toNat
  | .ori _ d a i => wordI 0x04 d a i.toNat
  | .xori _ d a i => wordI 0x05 d a i.toNat
  | .slli _ d a n => wordI 0x06 d a n.toNat
  | .srli _ d a n => wordI 0x07 d a n.toNat
  | .srai _ d a n => wordI 0x08 d a n.toNat
  | .slti _ d a i => wordI 0x09 d a i.toNat
  | .sltiu _ d a i => wordI 0x0A d a i.toNat
  | .lui _ d i => wordU 0x0B d i
  | .auipc _ d i => wordU 0x0C d i
  | .ld1 _ d a i => wordI 0x10 d a i.toNat
  | .ld2 _ d a i => wordI 0x11 d a i.toNat
  | .ld4 _ d a i => wordI 0x12 d a i.toNat
  | .ld8 _ d a i => wordI 0x13 d a i.toNat
  | .ld1u _ d a i => wordI 0x14 d a i.toNat
  | .ld2u _ d a i => wordI 0x15 d a i.toNat
  | .ld4u _ d a i => wordI 0x16 d a i.toNat
  | .st1 _ b a i => wordI 0x18 b a i.toNat
  | .st2 _ b a i => wordI 0x19 b a i.toNat
  | .st4 _ b a i => wordI 0x1A b a i.toNat
  | .st8 _ b a i => wordI 0x1B b a i.toNat
  | .stnt _ b a i => wordI 0x1C b a i.toNat
  | .ldres _ d a i => wordI 0x1D d a i.toNat
  | .stcond _ d a b => wordR 0x1E 0 d a b
  | .br _ c a b i => 0x20 + a.val * 2 ^ 7 + b.val * 2 ^ 12 + c.toNat * 2 ^ 17 + i.toNat * 2 ^ 20
  | .jal _ d i => wordU 0x21 d i
  | .jalr _ d a i => wordI 0x22 d a i.toNat
  | .sync _ => 0x30
  | .qsync _ => 0x31
  | .tiss _ a b => wordR 0x32 0 0 a b
  | .wait _ => 0x33
  | .crr _ d n => wordI 0x34 d 0 n.toNat
  | .crw _ a n => wordI 0x35 0 a n.toNat
  | .eret _ => 0x36
  | .brk _ => 0x37
  | .endSection _ => 0x38
  | .pcrr _ d n => wordI 0x40 d 0 n.toNat
  | .pcrw _ a n => wordI 0x41 0 a n.toNat
  | _ => 0

/-- The instructions that a branch, jump, or return from a trap is (R290, R291). -/
def seqJumps : Instr → Bool
  | .br .. | .jal .. | .jalr .. | .eret _ => true
  | _ => false

end Sys2Proof.Machine
end

