-- ==== Sys2Proof/Machine/SeqBase.lean ====
section
/-! DEFINITION. What every sequencer instruction shares: registers, fetch, traps and interrupts (11, R281 to R298). -/

namespace Sys2Proof.Machine

/-! ## Registers -/

/-- A general register; g0 reads zero (R281). -/
def gget (q : Seq) (r : RegId) : Word := if r.val = 0 then 0 else tgetD q.g r.val 0

/-- Writes a general register; a write to g0 is discarded (R281). -/
def gset (q : Seq) (r : RegId) (v : Word) : Seq := if r.val = 0 then q else { q with g := tset q.g r.val v }

/-- Sign extension of an immediate (R285). -/
def immX {n : Nat} (i : BitVec n) : Word := i.signExtend 64

/-! ## Running -/

/-- The agent's sequencer can act: a core while its clock runs, Swifort while it runs an image. -/
def agRuns (s : State) (ag : Nat) : Bool :=
  if ag < 64 then domainsUp s
  else alive s && s.boot.runFrom != .none && (match s.pwr.power with | .torpor => false | .resuming k => decide (4 ≤ k) | _ => true)

/-- The word at an offset of a core's instruction store (R282). -/
def fetchWord (k : Core) (pc : Word) : Nat := (tgetD k.imem (pc.toNat / 4) 0).toNat

/-- The offset lies in the section's code; Swifort has no section (R292). -/
def inCode (s : State) (ag : Nat) (pc : Word) : Bool := if ag < 64 then decide (pc.toNat < (core s ag).codeLen) else true

/-- Counts a line read of a core's fetch unit (R290). -/
def fetchLine (s : State) (ag : Nat) : State := if ag < 64 then countCore s ag 0x008 1 else s

/-! ## Traps -/

/-- The status codes of Table 7-8 but OK (R192). -/
def statusCodes : List Nat :=
  [0x0101, 0x0102, 0x0103, 0x0104, 0x0105, 0x0106, 0x0107, 0x0120, 0x0121, 0x0122, 0x0123, 0x0124, 0x0125, 0x0126, 0x0127, 0x0128, 0x0130,
   0x0131, 0x0132, 0x0133, 0x0134, 0x0135, 0x0140, 0x0141, 0x0142, 0x0143, 0x0144, 0x0145, 0x0150, 0x0151, 0x0160, 0x0161, 0x0170, 0x0201,
   0x0202, 0x0203, 0x0204, 0x0205, 0x0206, 0x0207, 0x0208, 0x0210, 0x0211, 0x0212, 0x0301, 0x0310, 0x0311, 0x0312, 0x0313, 0x0314, 0x0315,
   0x0401, 0x0402, 0x0410, 0x0411, 0x0501, 0x0601]

/-- Status of a fatal cause (Table 11-6). A fatal interrupt has none in the table: a free choice among the codes of Table 7-8 (R192). -/
def trapStatus (s : State) (cause : Nat) : Nat × State :=
  if cause = 3 then (0x0501, s)
  else if cause = 5 then (0x0301, s)
  else if cause < 0x10 then (0x0102, s)
  else let (v, s) := draw s 16; (statusCodes.getD (v.toNat % statusCodes.length) 0x0102, s)

/-- A fatal cause (R293): the sequencer stops where it is, with SEQ_CAUSE and SEQ_TVAL of Tables 11-1 and 11-6; an error record that names
work `w` is latched, and the works of the core end.
Swifort's stops with the record alone (log entry 12). -/
def trapFatalOf (s : State) (w : Option Nat) (ag cause tval addr : Nat) : State :=
  let pc := (seqOf s ag).pc.toNat
  let d1 := pc % 2 ^ 15 + (tval % 2 ^ 48) * 2 ^ 16
  let s := setSeq s ag { seqOf s ag with cause := cause, tval := BitVec.ofNat 64 tval, run := .idle, res := none, hold := false, defer := 0,
                                          begun := false }
  let (st, s) := trapStatus s cause
  if ag < 64 then
    let s := latch s (coreUnit ag) (workReport s 0x0B 1 (coreUnit ag) w st addr cause d1)
    failWorks s (coreWorks s ag) st
  else latch s 0 (report s 0x0B 1 0 0 0 addr cause d1)

/-- A fatal cause met by the work that runs on the core. -/
def trapFatal (s : State) (ag cause tval addr : Nat) : State := trapFatalOf s (core s ag).work ag cause tval addr

/-- A handled cause (R294). `epc` is the offset saved. -/
def trapHandled (s : State) (ag cause : Nat) (tval epc : Word) : State :=
  let q := seqOf s ag
  if !inCode s ag q.tvec then trapFatal s ag cause tval.toNat 0
  else
    let s := if ag < 64 then
        traceCore (flushWhere s ag (fun _ => true)) ag (coreTcids s ag) (core s ag).chnCur 0x08
          (cause + q.pc.toNat % 2 ^ 15 * 2 ^ 8)
      else s
    -- a flush that met a poisoned word has ended the work, and the handler does not start (R229, R297)
    if ag < 64 && q.run == .run && (seqOf s ag).run != .run then s
    else
      let q := seqOf s ag
      fetchLine (setSeq s ag { q with epc := epc, cause := cause, tval := tval, intrap := true, ie := false,
                                      pc := pcOf q.tvec, run := .run, res := none, hold := false, since := 0, defer := 0,
                                      begun := false }) ag

/-! ## Interrupts -/

/-- A pending bit that is not masked, nor put off because it became pending under a reservation (R296). -/
def ipLive (q : Seq) (i : Nat) : Bool := q.ip.getLsbD i && q.imask.getLsbD i && !q.defer.getLsbD i

/-- An interrupt is to be taken now (R296): at an instruction boundary, with one pending that no reservation puts off. -/
def intDue (q : Seq) : Bool := q.run == .run && q.ie && !q.begun && (ipLive q 0 || ipLive q 1)

/-- Sets a pending bit; WAIT ends when any interrupt is pending (R286). -/
def raiseIp (s : State) (ag i reg : Nat) : State :=
  let q := seqOf s ag
  let q := { q with ip := q.ip ||| (1#2 <<< i), tokReg := if i = 1 && !q.ip.getLsbD 1 then reg else q.tokReg,
                    defer := if q.res.isSome && q.since < 16 && !q.ip.getLsbD i then q.defer ||| (1#2 <<< i) else q.defer }
  let s := setSeq s ag q
  if q.run = .wait then retireSeq s ag (q.pc + 4) else s

/-! ## One instruction -/

/-- A waiting STCOND is at its end point once the store buffer has drained: its own hold ends (R269, R270). -/
def arrived (i : Instr) (q : Seq) : Bool :=
  match i with
  | .stcond .. => q.sb.isEmpty
  | _ => false

/-- A row of a sequencer instruction. A core's sequencer that runs takes the word at its program counter: one that R286 does
not define raises ILLEGAL, one that is this instruction executes, and with any other the row does not apply. Swifort's program
is not part of the interface, so its rows stand for themselves (log entry 12). `body` answers none while the instruction
waits: it has begun, so no interrupt comes before it retires (11, At the edges). A line that it flushes waits for an end point that
holds off stores (R270). -/
def seqRow (ag : Agent) (i : Instr) (body : State → Option State) (s : State) : Res :=
  let q := seqOf s ag.val
  if !agRuns s ag.val || q.run ≠ .run || intDue q then .next s
  else
    let w := if ag.val < 64 then fetchWord (core s ag.val) q.pc else seqEncode i
    -- the next line is read with the last instruction of a line, a branch or jump apart (R290)
    let line (s : State) : State := if q.pc.toNat % 32 = 28 then fetchLine s ag.val else s
    match seqDecode ag w with
    | none => .next (trapFatal (line s) ag.val 1 w 0)
    | some j =>
      if j = i then
        match body (if seqJumps i then s else line s) with
        | some t => .next (waitHold (some ag.val) s (settleAg t ag.val))
        | none => .next (setSeq s ag.val { q with begun := true, hold := q.hold && !arrived i q })
      else .next s

/-- The instruction retires with a result in gd. -/
def retireGd (s : State) (ag : Nat) (gd : RegId) (v : Word) : State :=
  let q := seqOf s ag
  retireSeq (setSeq s ag (gset q gd v)) ag (q.pc + 4)

/-- The instruction retires without a result. -/
def retireNext (s : State) (ag : Nat) : State := retireSeq s ag ((seqOf s ag).pc + 4)

/-- A taken branch or jump retires at its target, whose line is fetched; a target outside the code raises ILLEGAL then
(R291, R292). -/
def retireJump (s : State) (ag : Nat) (target : Word) : State :=
  let s := fetchLine (retireSeq s ag target) ag
  if inCode s ag target then s else trapFatal s ag 1 target.toNat 0

end Sys2Proof.Machine
end

