-- ==== Sys2Proof/Machine/Tokens.lean ====
section
/-! DEFINITION. Walks, and tokens and credits of circular regions (09, R236, R241 to R245; 17, R426 to R428, R434 to R436;
21, R527, R528). -/

namespace Sys2Proof.Machine

/-! ## Walks (R426 to R428) -/

def walkE (d : WalkDesc) (i : Nat) : Nat := bits d.w0.toNat (16 * i) 16
/-- The index at loop position `j`. -/
def walkPos (d : WalkDesc) (j : Nat) : Nat := bits d.w1.toNat (2 * j) 2
def walkSerp (d : WalkDesc) (j : Nat) : Bool := bitAt d.w1.toNat (8 + j)
def walkDyn (d : WalkDesc) (i : Nat) : Bool := bitAt d.w1.toNat (12 + i)
def walkSel (d : WalkDesc) (i : Nat) : Nat := bits d.w1.toNat (16 + 2 * i) 2
def walkTsz (d : WalkDesc) (i : Nat) : Nat := bits d.w2.toNat (16 * i) 16

/-- Extent of index `i` (R427). -/
def walkExt (d : WalkDesc) (ext : List Nat) (i : Nat) : Nat :=
  if walkDyn d i then cdiv (ext.getD (walkSel d i) 0) (walkTsz d i) else walkE d i

/-- Every extent is within 1 to 16,383 (R428). -/
def walkOk (d : WalkDesc) (ext : List Nat) : Bool :=
  (List.range 4).all (fun i => decide (1 ≤ walkExt d ext i) && decide (walkExt d ext i ≤ 16383))

/-- The advance of next(): position `j` steps and, at its extent, wraps into the position outside it. `n` is `j + 1`. -/
def walkStep (x : Walk) (ext : List Nat) : Nat → Walk
  | 0 => { x with done := true }
  | n + 1 =>
    let c := x.c.getD n 0 + 1
    if c < walkExt x.w ext (walkPos x.w n) then { x with c := x.c.set n c }
    else walkStep { x with c := x.c.set n 0,
                           r := if 0 < n && walkSerp x.w n then x.r.set n (!(x.r.getD n false)) else x.r } ext n

/-- Index values of the present combination. -/
def walkIdx (x : Walk) (ext : List Nat) (i : Nat) : Nat :=
  match (List.range 4).find? (fun j => walkPos x.w j == i) with
  | some j => if x.r.getD j false then walkExt x.w ext i - 1 - x.c.getD j 0 else x.c.getD j 0
  | none => 0

/-- One call of next(): the value of WLKn_NEXT (Table 17-3) and the walk after it. -/
def walkNext (x : Walk) (ext : List Nat) : Nat × Walk :=
  if x.done then (2 ^ 63, x)
  else
    let v := (List.range 4).foldl (fun n i =>
      n + (walkIdx x ext i % 2 ^ 14) * 2 ^ (14 * i)
        + b2n (decide (walkIdx x ext i + 1 = walkExt x.w ext i)) * 2 ^ (56 + i)) 0
    (v, walkStep x ext 4)

/-! ## Chain positions (R434, R523, R528) -/

/-- Chain position of a core in a work. -/
def posOf (s : State) (w c : Nat) : Option Nat := ((workChain s w).find? (fun p => p.2 == c)).map (·.1)

/-- The position that writes region `r` of core `c`: the one that the section's SOURCE names (R434), else the one whose section of the
present round declares it (R244). -/
def producerPos (s : State) (w c r : Nat) : Option Nat :=
  let named : Option Nat := match sectionOf s w c with
    | some x => match secDesc s x with
      | some sec => match sec.circs[r]? with
        | some z => if 0x1000 ≤ z.source && z.source < 0x1040 then some (z.source - 0x1000) else none
        | none => none
      | none => none
    | none => none
  match named with
  | some q => some q
  | none => match imageDesc s (workImage s w), posOf s w c with
    | some d, some p => match d.plans[workPlan s w]? with
      | some pl => match pl.rounds[workRound s w]? with
        | some rs => ((workChain s w).map (·.1)).find? (fun q => match d.sections[rs.getD (planIx s w q) 0]? with
          | some sec => sec.producers.contains (p, r)
          | none => false)
        | none => none
      | none => none
    | _, _ => none

/-- CHN_MAP and CHN_NODE of a position. -/
def mapValid (k : Core) (q : Nat) : Bool := bitAt (tgetD k.chnMap q 0) 6
def mapCore (k : Core) (q : Nat) : Nat := bits (tgetD k.chnMap q 0) 0 6
def mapNode (k : Core) (q : Nat) : Nat := bits (tgetD k.chnNode q 0) 0 12

/-! ## Credits (R243, R244, R528) -/

/-- The model's number for a feed as a producer. -/
def feedProducer : Nat := 64

/-- A circular region of a core. -/
def circ (s : State) (c r : Nat) : Circ := tgetD (core s c).circ r {}

def setCirc (s : State) (c r : Nat) (x : Circ) : State := modCore s c (fun k => { k with circ := tset k.circ r x })

/-- Sends CREDIT with the present total for a region that a remote position writes (R528). -/
def sendTotal (s : State) (c r : Nat) : State :=
  match (core s c).work with
  | none => s
  | some w => match producerPos s w c r with
    | none => s
    | some q =>
      let k := core s c
      sendCredit s (mapNode k q) (workTcid s w) (workSlot s w) (workGen s w) (mapCore k q) c r (circ s c r).total

/-- Grants or returns `n` credits of a region to its producer. -/
def grantCredits (s : State) (c r n : Nat) : State :=
  match (core s c).work with
  | none => s
  | some w =>
    let x := circ s c r
    if 0x5000 ≤ x.source then sendTotal (setCirc s c r { x with total := (x.total + n) % 2 ^ 32 }) c r
    else
      let p := if 0x1000 ≤ x.source then x.source - 0x1000
        else match producerPos s w c r with
          | some q => mapCore (core s c) q
          | none => feedProducer
      { s with net.creds := s.net.creds ++ [{ pcore := p, core := c, region := r, n := n, work := w, gen := workGen s w }] }

/-- Credits that a core holds for a region. -/
def creditOf (k : Core) (dcore dreg : Nat) : Nat :=
  match k.creds.find? (fun x => x.core == dcore && x.region == dreg) with
  | some x => x.n
  | none => 0

/-- Adds credits to a counter: a core has 16, one for each region that it writes (R244); credits for a 17th region find none (log entry
89). -/
def addCredit (k : Core) (dcore dreg n : Nat) : Core :=
  if k.creds.any (fun x => x.core == dcore && x.region == dreg) then
    { k with creds := k.creds.map (fun x => if x.core = dcore && x.region = dreg then { x with n := x.n + n } else x) }
  else if k.creds.length < 16 then { k with creds := k.creds ++ [{ core := dcore, region := dreg, n := n }] }
  else k

/-- Spends credits. -/
def spendCredit (k : Core) (dcore dreg n : Nat) : Core :=
  { k with creds := k.creds.map (fun x => if x.core = dcore && x.region = dreg then { x with n := x.n - n } else x) }

/-! ## Tokens -/

/-- Bytes of a region. -/
def Circ.bytes (x : Circ) : Nat := x.size * 4096

/-- Releases the oldest token of a region; none when the region holds none (R436, R243). -/
def releaseTok (s : State) (c r : Nat) : Option State :=
  let x := circ s c r
  match x.toks with
  | [] => none
  | t :: rest =>
    let s := setCirc s c r { x with toks := rest, head := (x.head + t.units * 4096) % (2 * x.bytes) }
    some (grantCredits s c r t.units)

/-- Device address of the byte at a count of a region (R236). -/
def circAddr (c : Nat) (x : Circ) (count : Nat) : Nat := spBase c + x.base * 4096 + count % x.bytes

/-- Writes bytes at a count of a region, wrapping at its end. Answers the poisoned words that the write covers in part (R229). -/
def circWrite (s : State) (c : Nat) (x : Circ) (count : Nat) (ds : List Byte) : State × List Nat :=
  let room := x.bytes - count % x.bytes
  let s := (memWrite s (circAddr c x count) (ds.take room)).1
  let ws := poisonedIn s (circAddr c x count) (min room ds.length)
  if ds.length ≤ room then (s, ws)
  else
    let s := (memWrite s (spBase c + x.base * 4096) (ds.drop room)).1
    (s, ws ++ poisonedIn s (spBase c + x.base * 4096) (ds.length - room))

/-- Reads bytes at a count of a region. -/
def circRead (s : State) (c : Nat) (x : Circ) (count n : Nat) : List Byte :=
  let room := x.bytes - count % x.bytes
  mread s.mem (circAddr c x count) (min n room) ++ mread s.mem (spBase c + x.base * 4096) (n - room)

/-- The banks of a region take the accesses of a tenant. -/
def circEndpoint (s : State) (c : Nat) (x : Circ) (tcid count n : Nat) (write : Bool) : EndPoint :=
  let room := x.bytes - count % x.bytes
  match endpoint s tcid (circAddr c x count) (min n room) write with
  | .ok => if n ≤ room then .ok else endpoint s tcid (spBase c + x.base * 4096) (n - room) write
  | other => other

/-- The oldest token's bytes. -/
def oldestTok (s : State) (c r : Nat) : List Byte :=
  let x := circ s c r
  match x.toks with
  | t :: _ => circRead s c x x.head (t.units * 4096)
  | [] => []

/-- The work that a landing write belongs to runs on the core's chain, with the same generation (R212, R241). -/
def sameWork (s : State) (c w : Nat) (gen : BitVec 16) : Bool :=
  flightLive s w gen && (workChain s w).any (fun p => p.2 == c)

/-- A refused or stale remote write (R241). -/
def ingressRefused (s : State) (c : Nat) : State := countCore s c 0x248 1

/-- A region takes writes of this writer (R241). -/
def writerOk (x : Circ) (writer : Nat) : Bool := decide (0 < x.size) && (x.source == 0 || x.source == writer)

/-- TAIL advances by a whole token, the token enters the list, and TOKEN is set where TOKMASK selects the region (R242, R436,
Table 11-2). -/
def landTail (s : State) (c r tag units : Nat) : State :=
  let x := circ s c r
  let s := setCirc s c r { x with tail := (x.tail + units * 4096) % (2 * x.bytes), toks := x.toks ++ [{ tag := tag, units := units }] }
  if (core s c).seq.imask.getLsbD (16 + r) then raiseIp s c 1 r else s

/-- A write of a work that is no longer the one it left: discarded and counted, at the core too when its generation is older
(R212, R241). -/
def staleWrite (s : State) (c w : Nat) (gen : BitVec 16) : State :=
  lateDrop (if workGen s w == gen && !(workChain s w).isEmpty then s else ingressRefused s c)

/-- An owner of a token's rows that may not write the region: none of the group that occupies the core (R41; log entry 14). -/
def badOwner (s : State) (m : TokMsg) : Option Nat := m.owners.find? (fun t => t != m.tcid && !(core s m.dcore).occ.contains t)

/-- Lands a token of this tray (R241, R242): the last unit is filled with zeros. -/
def landTok (s : State) (m : TokMsg) : State :=
  let x := circ s m.dcore m.dreg
  if !writerOk x m.writer then ingressRefused s m.dcore
  else if !sameWork s m.dcore m.work m.gen then staleWrite s m.dcore m.work m.gen
  else if (badOwner s m).isSome then
    tagFault s (coreUnit m.dcore) m.work (circAddr m.dcore x x.tail) (bank s (spBank (circAddr m.dcore x x.tail))).owner true false
  else
    let n := m.units * 4096
    match circEndpoint s m.dcore x m.tcid x.tail n true with
    | .ok =>
      let s := flushGb s (spBase m.dcore + x.base * 4096) x.bytes
      let s := (circWrite s m.dcore x x.tail (padTo n m.data)).1
      landTail s m.dcore m.dreg m.tag m.units
    | .refused o => tagFault s (coreUnit m.dcore) m.work (circAddr m.dcore x x.tail) o true false
    | .hole => tagFault s (coreUnit m.dcore) m.work (circAddr m.dcore x x.tail) 0 true false

end Sys2Proof.Machine
end

