-- ==== Sys2Proof/Machine/Gather.lean ====
section
/-! DEFINITION. Embedding tables: row resolution, folding and pooling, the reuse window, GATHER and its row arrivals, and FREQ
with the job summary (16, R400 to R418, R421 to R424; 21, R519, R529, R530). -/

namespace Sys2Proof.Machine

/-! ## Table registers (Table 16-1) -/

def tblW (k : Core) (t i : Nat) : Nat := (tgetD k.tbl t []).getD i 0
def etBase (k : Core) (t : Nat) : Nat := bits (tblW k t 0) 0 44
def etPlace (k : Core) (t : Nat) : Nat := bits (tblW k t 0) 44 2
def etType (k : Core) (t : Nat) : EType := etypeOf (bits (tblW k t 0) 46 4)
def etKey64 (k : Core) (t : Nat) : Bool := bitAt (tblW k t 0) 50
def etCompose (k : Core) (t : Nat) : Nat := bits (tblW k t 0) 51 2
def etPartner (k : Core) (t : Nat) : Nat := bits (tblW k t 0) 53 4
def etRows (k : Core) (t : Nat) : Nat := bits (tblW k t 1) 0 32
def etDim (k : Core) (t : Nat) : Nat := bits (tblW k t 1) 32 11 + 1
def etSeed (k : Core) (t : Nat) : Nat := bits (tblW k t 2) 0 32
def etShardRows (k : Core) (t : Nat) : Nat := bits (tblW k t 3) 0 32
def etMap0 (k : Core) (t : Nat) : Nat := bits (tblW k t 3) 40 10
def etHdir (k : Core) (t : Nat) : Nat := bits (tblW k t 4) 0 44
def etHlog2 (k : Core) (t : Nat) : Nat := bits (tblW k t 4) 44 5
def etHrows (k : Core) (t : Nat) : Nat := bits (tblW k t 5) 0 44

/-- RP, bytes of a row. -/
def rowPitch (t : EType) (dim : Nat) : Nat := roundUp (t.size dim) 64
def etPitch (k : Core) (t : Nat) : Nat := rowPitch (etType k t) (etDim k t)

/-! ## Row resolution (R403) -/

def hashZ (x sd : Nat) : Nat :=
  let m := 2 ^ 64
  let z := x ^^^ sd
  let z := z ^^^ (z >>> 29)
  let z := z * 0xC2B5A3F16D0E94A7 % m
  let z := z ^^^ (z >>> 32)
  let z := z * 0x7F4E1D93B2C85A6B % m
  z ^^^ (z >>> 29)

/-- h(x, S) of a table of R rows. -/
def hashRow (x sd r : Nat) : Nat := hashZ x sd * r / 2 ^ 64

/-- Where an entry of a list leads. -/
inductive Resolved where
  | invalid
  | absent
  /-- A row of the table on this tray, with the partner's row. -/
  | row (r : Nat) (partner : Option (Nat × Nat))
  /-- Node and region that hold the row. -/
  | remote (node region r : Nat) (partner : Option (Nat × Nat))
deriving DecidableEq, Repr

/-- The row and the partner's row (Table 16-2). -/
def composeRow (k : Core) (t x : Nat) : Option (Nat × Option (Nat × Nat)) :=
  let u := etPartner k t
  match etCompose k t with
  | 0 => if x < etRows k t then some (x, none) else none
  | 1 => some (hashRow x (etSeed k t) (etRows k t), none)
  | 2 => some (hashRow x (etSeed k t) (etRows k t), some (u, hashRow x (etSeed k u) (etRows k u)))
  | _ => if x / etRows k u < etRows k t then some (x / etRows k u, some (u, x % etRows k u)) else none

def resolve (k : Core) (t x : Nat) : Resolved :=
  match composeRow k t x with
  | none => .invalid
  | some (r, p) =>
    if etPlace k t ≠ 2 then .row r p
    else
      let e := tgetD k.smap ((etMap0 k t + r / etShardRows k t) % 1024) 0
      if !bitAt e 12 then .absent
      else if bits e 0 12 = 0 then .row r p
      else .remote (bits e 0 12) (bits e 32 32) r p

/-- Device address of a row held on this tray. -/
def rowAddr (k : Core) (c t r : Nat) : Nat :=
  (if etPlace k t = 1 then spBase c else 0) + etBase k t
    + (if etPlace k t = 2 then r % etShardRows k t else r) * etPitch k t

/-! ## Folding and pooling (R412 to R414) -/

/-- The compensated sum of weights. -/
def compSum (vs : List Nat) : Nat :=
  let (s, e) := vs.foldl (fun (r : Nat × Nat) v =>
    let t := add32 r.1 v
    let ge := match fvCmp (f32 (abs32 r.1)) (f32 (abs32 v)) with | some .gt => true | some .eq => true | _ => false
    (t, add32 r.2 (if ge then add32 (sub32 r.1 t) v else add32 (sub32 v t) r.1))) (0, 0)
  add32 s e

/-- Folds repeats: the distinct keys in first-occurrence order with their weights, segment by segment. -/
def foldBag : List (Nat × Nat) → List (Nat × List Nat) → List (Nat × List Nat) → List (Nat × List Nat)
  | [], cur, done => done ++ cur
  | (r, v) :: es, cur, done =>
    if cur.any (fun p => p.1 == r) then foldBag es (cur.map (fun p => if p.1 = r then (p.1, p.2 ++ [v]) else p)) done
    else if cur.length = 4096 then foldBag es [(r, [v])] (done ++ cur)
    else foldBag es (cur ++ [(r, [v])]) done

/-- Keys of the segment under way after some entries. -/
def segKeys : List Nat → List Nat → List Nat
  | [], cur => cur
  | r :: rs, cur => if cur.contains r then segKeys rs cur else if cur.length = 4096 then segKeys rs [r] else segKeys rs (cur ++ [r])

/-- The weight w of a distinct row. -/
def foldWeight (weighted : Bool) (vs : List Nat) : Nat := if weighted then compSum vs else fp32.enc (fvInt vs.length)

/-- One pooling add: a fused multiply-add with one rounding. -/
def poolAdd (acc : List Nat) (w : Nat) (row : List Nat) : List Nat × Bool :=
  let rs := (List.range acc.length).map (fun j => fp32.encSat (fvAdd (fvMul (f32 w) (f32 (row.getD j 0))) (f32 (acc.getD j 0))))
  (rs.map (·.1), rs.any (·.2))

/-- Pools a bag's entries (key, weight): the vector, the pooling adds, and whether it saturated. -/
def poolBag (dim : Nat) (weighted : Bool) (es : List (Nat × Nat)) (rowOf : Nat → List Nat) : List Nat × Nat × Bool :=
  let ds := foldBag es [] []
  let r := ds.foldl (fun (r : List Nat × Bool) d =>
    let z := poolAdd r.1 (foldWeight weighted d.2) (rowOf d.1)
    (z.1, r.2 || z.2)) (List.replicate dim 0, false)
  (r.1, ds.length, r.2)

/-! ## Bag lists (R405) -/

structure BagHdr where
  nidx : Nat
  nbags : Nat
  entOff : Nat

/-- What reading a bag list answers: header, pointers, and entries (key, weight). -/
inductive BagRead where
  | ok (h : BagHdr) (ptrs : List Nat) (es : List (Nat × Nat)) (s : State)
  | fail (s : State)
  | invalid (s : State)

def entSize (key64 weighted : Bool) : Nat := if key64 then (if weighted then 16 else 8) else (if weighted then 8 else 4)

def readBags (c w win off len : Nat) (key64 weighted : Bool) (s : State) : BagRead :=
  match engRead s c w win off 64 with
  | .fail s => .fail s
  | .ok hb s =>
    let h : BagHdr := { nidx := leAt hb 0 4, nbags := leAt hb 4 4, entOff := leAt hb 8 2 * 64 }
    let es := entSize key64 weighted
    if 65536 < h.nidx || !within 1 16384 h.nbags || (hb.drop 10).any (· != 0)
        || len * 256 < 64 + 4 * (h.nbags + 1) || len * 256 < h.entOff + h.nidx * es then .invalid s
    else match engRead s c w win (off + 64) (4 * (h.nbags + 1)) with
      | .fail s => .fail s
      | .ok pb s =>
        let ptrs := words 4 pb
        if !(ptrs.headD 1 == 0 && ptrs.getD h.nbags 0 == h.nidx
            && (List.range h.nbags).all (fun b => decide (ptrs.getD b 0 ≤ ptrs.getD (b + 1) 0))) then .invalid s
        else match engRead s c w win (off + h.entOff) (h.nidx * es) with
          | .fail s => .fail s
          | .ok eb s =>
            let ksz := if key64 then 8 else 4
            .ok h ptrs ((List.range h.nidx).map (fun i =>
              (leAt eb (i * es) ksz, if weighted then leAt eb (i * es + ksz) 4 else 0))) s

/-- Bag of entry `i`. -/
def bagOf (ptrs : List Nat) (nbags i : Nat) : Nat :=
  ((List.range nbags).find? (fun b => decide (i < ptrs.getD (b + 1) 0))).getD 0

/-! ## GATHER: rows (R408, R410, R411, R421) -/

def gthWen (k : Core) : Bool := bitAt k.gthCfg 5

/-- Words of the section record that the gather engine counts in. -/
def wIndices := 24
def wInvalid := 25
def wAbsent := 26
def wRowReads := 27
def wWinHits := 28
def wFolded := 29
def wPoolAdds := 30
def wRemote := 31
def wReplHits := 32
def wReplDeclined := 33
def wBags := 34

def setGather (s : State) (c : Nat) (g : GatherRun) : State := modCore s c (fun k => { k with gather := some g })

/-- Changes the GATHER under way. -/
def modGather (s : State) (c : Nat) (f : GatherRun → GatherRun) : State :=
  modCore s c (fun k => { k with gather := k.gather.map f })

/-- Evicts the rows of oldest last use until both limits of the window hold; `n` bounds their number. -/
def evictWin (k : Core) : Nat → List WinRow → List WinRow
  | 0, l => l
  | n + 1, l =>
    if 1024 < l.length || 524288 < l.foldl (fun b x => b + etPitch k x.table) 0 then evictWin k n (l.drop 1) else l

/-- A row arrives, or is read at once: it is at hand for this GATHER, and for the window that holds its place. -/
def rowGot (s : State) (c t r : Nat) (bs : List Byte) : State :=
  modCore s c (fun k => { k with
    win := k.win.map (fun x => if x.table = t && x.row = r then { x with data := some bs } else x),
    gather := k.gather.map (fun g => { g with got := g.got ++ [(t, r, bs)] }) })

/-- The window's place of a row. -/
def winFind (k : Core) (t r : Nat) : Option WinRow := if gthWen k then k.win.find? (fun x => x.table == t && x.row == r) else none

/-- A lookup of a tier or remote row meets the window: a hit (also on a read in flight) reads nothing. -/
def winHit (s : State) (c t r : Nat) : Option State :=
  match winFind (core s c) t r with
  | none => none
  | some x =>
    let s := modCore s c (fun k => { k with win := k.win.filter (fun y => !(y.table == t && y.row == r)) ++ [x] })
    let s := match x.data with
      | some bs => modGather s c (fun g => { g with got := g.got ++ [(t, r, bs)] })
      | none => s
    some (count s c wWinHits 1)

/-- A miss takes a slot and, with the window enabled, a place in it. -/
def winMiss (s : State) (c t r : Nat) (sl : GSlot) : State :=
  let s := modCore s c (fun k =>
    let win := if gthWen k then evictWin k 1025 (k.win ++ [{ table := t, row := r, data := none }]) else k.win
    { k with win := win, gather := k.gather.map (fun g => { g with slots := g.slots ++ [sl] }) })
  if sl.remote then s else count s c wRowReads 1

/-- Looks up a row that this tray holds, at `addr`. A SCRATCH row is read at once and takes no slot. -/
def fetchRow (s : State) (c w t r addr : Nat) : State :=
  let k := core s c
  if etPlace k t = 1 then
    match devRead s c w addr (etPitch k t) with
    | .ok bs s => modGather s c (fun g => { g with got := g.got ++ [(t, r, bs)] })
    | .fail s => s
  else match winHit s c t r with
    | some s => s
    | none => winMiss s c t r { table := t, row := r, addr := addr, len := etPitch k t, remote := false, txid := 0 }

/-- Slots that looking up a row would take. -/
def slotNeed (k : Core) (t r : Nat) : Nat := if etPlace k t = 1 || (winFind k t r).isSome then 0 else 1

def partnerNeed (k : Core) (p : Option (Nat × Nat)) : Nat := match p with | some (u, x) => slotNeed k u x | none => 0

def fetchPartner (s : State) (c w : Nat) (p : Option (Nat × Nat)) : State :=
  match p with
  | some (u, x) => if (core s c).gather.isSome then fetchRow s c w u x (rowAddr (core s c) c u x) else s
  | none => s

/-- The SLOT of a row in a hot-row directory bucket (R420). -/
def bucketSlot (bs : List Byte) (r : Nat) : Option Nat :=
  ((List.range 8).find? (fun i => let e := leAt bs (8 * i) 8; bitAt e 48 && bits e 0 32 == r)).map (fun i => leAt bs (8 * i + 4) 2)

/-! ## GATHER: entries -/

/-- Keys of a bag's entries that this tray pools. -/
def localKeys (g : GatherRun) (b : Nat) : List Nat :=
  g.resolved.filterMap (fun e => if e.1 = b then (match e.2.2 with | .rows r _ => some r | _ => none) else none)

/-- Takes the first entry off the list, resolved as `z`. -/
def entryDone (s : State) (c : Nat) (z : GRes) : State :=
  let s := modCore s c (fun k => { k with gthRead := k.gthRead + 1, gather := k.gather.map (fun g =>
    match g.todo with
    | (b, _, v) :: rest => { g with todo := rest, resolved := g.resolved ++ [(b, v, z)] }
    | [] => g) })
  count s c wIndices 1

/-- An entry whose row is on this tray: a repeat within its bag's segment folds, any other looks its rows up. -/
def localEntry (s : State) (c w t b r addr : Nat) (p : Option (Nat × Nat)) (g : GatherRun) : Option State :=
  let k := core s c
  if hPool g.inst ≠ 0 && (segKeys (localKeys g b) []).contains r then some (count (entryDone s c (.rows r p)) c wFolded 1)
  else if 512 < g.slots.length + slotNeed k t r + partnerNeed k p then none
  else
    let s := fetchRow (entryDone s c (.rows r p)) c w t r addr
    some (fetchPartner s c w p)

/-- A remote row that no replica serves: under NONE a remote read, under pooling a part of its node's sub-bag (R423). -/
def remoteEntry (s : State) (c w t node region r : Nat) (p : Option (Nat × Nat)) (g : GatherRun) : Option State :=
  let k := core s c
  if hPool g.inst ≠ 0 then some (entryDone s c (.remote node region r))
  else match winHit s c t r with
    | some s => some (fetchPartner (entryDone s c (.rows r p)) c w p)
    | none =>
      if 512 < g.slots.length + 1 + partnerNeed k p || !trackerFree s then none
      else
        let id := s.fab.nextTxid.toNat
        let s := count (entryDone s c (.rows r p)) c wRemote 1
        let s := winMiss s c t r { table := t, row := r, addr := 0, len := etPitch k t, remote := true, txid := id }
        let s := sendTxn s node (.read region (r % etShardRows k t * etPitch k t) (etPitch k t)) (workTcid s w) (workSlot s w)
          (workGen s w) (some w) c g.ord
        some (fetchPartner s c w p)

/-- A row of a remote shard: with a replica its bucket is read first (R421). -/
def shardedEntry (s : State) (c w t b node region r : Nat) (p : Option (Nat × Nat)) (g : GatherRun) : Option State :=
  let k := core s c
  if hPool g.inst ≠ 0 && (segKeys (localKeys g b) []).contains r then some (count (entryDone s c (.rows r p)) c wFolded 1)
  else if etHlog2 k t = 0 then remoteEntry s c w t node region r p g
  else if 512 ≤ g.slots.length then none
  else match devRead s c w (etHdir k t + 64 * (r % 2 ^ (etHlog2 k t - 3))) 64 with
    | .fail s => some s
    | .ok bs s => match bucketSlot bs r with
      | some sl => (localEntry s c w t b r (etHrows k t + sl * etPitch k t) p g).map (fun s => count s c wReplHits 1)
      | none => remoteEntry s c w t node region r p g

/-- Resolves the next entry of the list; none when it waits. -/
def nextEntry (s : State) (c w : Nat) (g : GatherRun) (b x : Nat) : Option State :=
  let k := core s c
  let t := hTable g.inst
  if 16777216 ≤ k.gthRead then some (invalidField s c)
  else match resolve k t x with
    | .invalid => some (count (entryDone s c .dropped) c wInvalid 1)
    | .absent => some (count (entryDone s c .dropped) c wAbsent 1)
    | .row r p => localEntry s c w t b r (rowAddr k c t r) p g
    | .remote node region r p => shardedEntry s c w t b node region r p g

/-- Resolves entries until one waits; `n` bounds their number. -/
def resolveAll (c w : Nat) : Nat → State → State
  | 0, s => s
  | n + 1, s =>
    match (core s c).gather with
    | none => s
    | some g => match g.todo with
      | [] => s
      | (b, x, _) :: _ => match nextEntry s c w g b x with
        | none => s
        | some s => resolveAll c w n s

/-! ## GATHER: remote sub-bags (R423) -/

/-- Entries (row and weight) of a bag's sub-bag on a node. -/
def subBag (g : GatherRun) (b node : Nat) : List (Nat × Nat) :=
  g.resolved.filterMap (fun e => if e.1 = b then (match e.2.2 with
    | .remote n _ r => if n = node then some (r, e.2.1) else none
    | _ => none) else none)

/-- The sub-bags, by bag and ascending node. -/
def subBags (g : GatherRun) : List (Nat × Nat) :=
  let all := g.resolved.foldl (fun (l : Tab Nat) e => match e.2.2 with
    | .remote n _ _ => tset l (e.1 * 4096 + n) 0
    | _ => l) []
  all.map (fun e => (e.1 / 4096, e.1 % 4096))

/-- Region and first row of the shard that holds a sub-bag's rows. -/
def subRegion (k : Core) (g : GatherRun) (node : Nat) : Nat × Nat :=
  let t := hTable g.inst
  match g.resolved.findSome? (fun e => match e.2.2 with
    | .remote n reg r => if n = node then some (reg, r / etShardRows k t * etShardRows k t) else none
    | _ => none) with
  | some x => x
  | none => (0, 0)

/-- Sends the sub-bags for which a slot and a tracker entry are free. -/
def sendSubs (c w : Nat) : Nat → State → State
  | 0, s => s
  | n + 1, s =>
    match (core s c).gather with
    | none => s
    | some g => match g.subTodo with
      | some ((b, node) :: rest) =>
        if 512 ≤ g.slots.length || !trackerFree s then s
        else
          let k := core s c
          let t := hTable g.inst
          let (reg, row0) := subRegion k g node
          let sl : GSlot := { table := b, row := node, addr := 0, len := 0, remote := true, txid := s.fab.nextTxid.toNat }
          let s := setGather s c { g with subTodo := some rest, slots := g.slots ++ [sl] }
          let s := count s c wRemote 1
          sendSubs c w n (sendTxn s node (.pool reg row0 (bits (tblW k t 0) 46 4) (hWeighted g.inst) (etDim k t) (subBag g b node))
            (workTcid s w) (workSlot s w) (workGen s w) (some w) c g.ord)
      | _ => s

/-! ## GATHER: the output (R406, R413, R424) -/

/-- A row's values as FP32. -/
def rowVec (t : EType) (dim : Nat) (bs : List Byte) : List Nat := (elems t bs dim).map t.widen

def gotRow (g : GatherRun) (t r : Nat) : List Byte :=
  match g.got.find? (fun x => x.1 == t && x.2.1 == r) with
  | some x => x.2.2
  | none => []

/-- The value of an entry: its row, with the partner's row added (Table 16-2). -/
def entryVec (k : Core) (g : GatherRun) (r : Nat) (p : Option (Nat × Nat)) : List Nat :=
  let t := hTable g.inst
  let a := rowVec (etType k t) (etDim k t) (gotRow g t r)
  match p with
  | none => a
  | some (u, x) =>
    let b := rowVec (etType k u) (etDim k t) (gotRow g u x)
    (List.range a.length).map (fun j => add32 (a.getD j 0) (b.getD j 0))

/-- The vector of a bag, its pooling adds, and whether it saturated. -/
def bagVec (k : Core) (g : GatherRun) (b : Nat) : List Nat × Nat × Bool :=
  let t := hTable g.inst
  let dim := etDim k t
  let mine := g.resolved.filter (fun e => e.1 == b)
  let loc := mine.filterMap (fun e => match e.2.2 with | .rows r _ => some (r, e.2.1) | _ => none)
  let rowOf (r : Nat) : List Nat :=
    match mine.findSome? (fun e => match e.2.2 with | .rows r' p => if r' = r then some p else none | _ => none) with
    | some p => entryVec k g r p
    | none => []
  let (v, adds, sat) := poolBag dim (hWeighted g.inst) loc rowOf
  let subs := g.subs.filter (fun x => x.bag == b)
  let valid := loc.length + subs.foldl (fun n x => n + x.valid) 0
  let plus (r : List Nat × Bool) (x : List Nat) : List Nat × Bool :=
    let z := (List.range dim).map (fun j => addSat32 (r.1.getD j 0) (f32 (x.getD j 0)))
    (z.map (·.1), r.2 || z.any (·.2))
  let (v, sat) := if etPlace k t = 2 then
      (subs.map (·.vec)).foldl plus (plus (List.replicate dim 0, sat) v)
    else (v, sat)
  let v := if hPool g.inst = 2 && 0 < valid then v.map (fun x => fp32.enc (fvDivNat (f32 x) valid)) else v
  (v, adds, sat)

/-- Output pitch of a GATHER. -/
def outPitch (k : Core) (i : Nat) : Nat := roundUp ((etypeOf (hOtype i)).size (etDim k (hTable i))) 64

/-- Writes the output and retires the GATHER once every row and sub-bag has arrived; the writes wait for an end point that holds off
stores (R270). -/
def gatherEnd (s : State) (c w : Nat) : State :=
  waitHold none s <| match (core s c).gather with
  | none => s
  | some g =>
    if !g.todo.isEmpty || g.subTodo != some [] || !g.slots.isEmpty then s
    else
      let k := core s c
      let i := g.inst
      let ot := etypeOf (hOtype i)
      let nout := if hPool i = 0 then g.nidx else g.nbags
      let outs : List (List Nat × Nat × Bool) := if hPool i = 0 then
          g.resolved.map (fun e => match e.2.2 with
            | .rows r p => (entryVec k g r p, 1, false)
            | _ => (List.replicate (etDim k (hTable i)) 0, 1, false))
        else (List.range nout).map (bagVec k g)
      let adds := if hPool i = 0 then nout else outs.foldl (fun n o => n + o.2.1) 0
      let s := (List.range nout).foldl (fun s n =>
        if (core s c).work.isNone then s
        else (engWrite s c 5 w (f2Win i) (f2Off i * 64 + n * outPitch k i)
          (packElems' ot ((outs.getD n ([], 0, false)).1.map (fun x => (convOut ot true false x).1)))).1) s
      if (core s c).work.isNone then s
      else
        let sat := outs.any (fun o => o.2.2)
        let nan := hPool i != 0 && outs.any (fun o => o.1.any isNan32)
        let s := if sat || nan then flagWork s w sat nan else s
        let s := if hPool i = 0 then s else count s c wPoolAdds adds
        let s := modCore s c (fun k => freeRanges { k with gather := none } g.ord)
        count s c wGTH (4 + g.nidx + adds * cdiv (etDim k (hTable i)) 64 + cdiv (nout * outPitch k i) 512)
where
  packElems' (t : EType) (xs : List Nat) : List Byte := xs.flatMap (leBytes (t.nbits / 8))

/-- Carries a core's GATHER on as far as slots, tracker entries and arrivals let it. -/
def gatherGo (s : State) (c : Nat) : State :=
  match (core s c).work with
  | none => s
  | some w =>
    let s := resolveAll c w 65537 s
    match (core s c).gather with
    | none => s
    | some g =>
      if !g.todo.isEmpty then s
      else
        let s := if g.subTodo.isSome then s else setGather s c { g with subTodo := some (subBags g) }
        if (subBags g).any (fun x => decide (4096 < (subBag g x.1 x.2).length)) then invalidField s c
        else gatherEnd (sendSubs c w 65537 s) c w

/-! ## GATHER: issue and arrivals -/

def gatherRanges (k : Core) (i : Nat) : List Rng :=
  [opRange k (f1Win i) (f1Off i * 64) (f1Len i * 256) false, opRange k (f2Win i) (f2Off i * 64) (f2Len i * 256) true]

def gatherBody (c : Nat) (s : State) (w : Nat) (q : QEnt) : State :=
  let i := q.inst
  let k := core s c
  let t := hTable i
  let s := setCore s c (takeRanges k 5 q.ord (gatherRanges k i))
  match readBags c w (f1Win i) (f1Off i * 64) (f1Len i) (etKey64 k t) (hWeighted i) s with
  | .fail s => dropInstr s c q.ord
  | .invalid s => dropInstr (invalidField s c) c q.ord
  | .ok h ptrs es s =>
    let nout := if hPool i = 0 then h.nidx else h.nbags
    let need := if nout = 0 then 0 else (nout - 1) * outPitch k i + (etypeOf (hOtype i)).size (etDim k t)
    if f2Len i * 256 < need then dropInstr (invalidField s c) c q.ord
    else
      let g : GatherRun := { inst := i, ord := q.ord, nidx := h.nidx, nbags := h.nbags, ptrs := ptrs,
                             todo := (List.range es.length).map (fun n => (bagOf ptrs h.nbags n, (es.getD n (0, 0)).1, (es.getD n (0, 0)).2)),
                             resolved := [], slots := [], got := [], subs := [], subTodo := none }
      gatherGo (count (setGather s c g) c wBags h.nbags) c

/-- GATHER (R404): one at a time on the gather engine. -/
def execGather (core : CoreId) (s : State) : Res :=
  .next (engineRow s core.val 5 [1] gatherRanges (fun k _ => k.gather.isNone) (gatherBody core.val))

/-- GATHER_ROW_ARRIVAL: the data of slot `index` arrive from tier memory; the slot is free and pooling goes on (R408). -/
def execGatherRowArrival (core_ : CoreId) (index : Nat) (find : EccFind) (s : State) : Res :=
  let c := core_.val
  if !domainsUp s then .next s
  else match (core s c).gather, (core s c).work with
    | some g, some w => match g.slots[index]? with
      | none => .next s
      | some sl =>
        if sl.remote then .next s
        else
          let s := setGather s c { g with slots := g.slots.eraseIdx index }
          match endpoint s (workTcid s w) sl.addr sl.len false with
          | .refused o => lost (tagFault s (ctlUnit (tierCtl sl.addr)) w sl.addr o false false) c sl
          | .hole => lost (tagFault s (coreUnit c) w sl.addr 0 false false) c sl
          | .ok => match eccRead s sl.addr sl.len find (some w) with
            | (s, false) => lost s c sl
            | (s, true) => .next (settle (gatherGo (rowGot s c sl.table sl.row (mread s.mem sl.addr sl.len)) c) c)
    | _, _ => .next s
where
  /-- A read that gives no data has ended its work; for the others of a group the row reads as zeros (R44, R46). -/
  lost (s : State) (c : Nat) (sl : GSlot) : Res := .next (settle (gatherGo (rowGot s c sl.table sl.row (zeros sl.len)) c) c)

/-- A remote read or pooled lookup of a GATHER is answered (R415, R423). A refusal drops its entries; a word that stayed
uncorrectable ends the job. -/
def gatherAnswer (s : State) (c txid : Nat) (op : TxnOp) (status : Nat) (sat nan : Bool) (payload : List Byte) : State :=
  match (core s c).gather, (core s c).work with
  | some g, some w => match (List.range g.slots.length).find? (fun n => match g.slots[n]? with
        | some sl => sl.remote && sl.txid == txid | none => false) with
    | none => s
    | some n =>
      let sl := g.slots.getD n { table := 0, row := 0, addr := 0, len := 0, remote := true, txid := 0 }
      let g := { g with slots := g.slots.eraseIdx n }
      if status = 0x0301 then failWorks (setGather s c g) (coreWorks s c) 0x0301
      else match op with
        | .pool _ _ _ _ dim es =>
          if status ≠ 0 then gatherGo (count (setGather s c g) c wInvalid es.length) c
          else
            let k := core s c
            -- the partner's rows of a composed table: R423 gives the owner's vector alone, so it is a free value
            let (v, s) := if 2 ≤ etCompose k (hTable g.inst) then
                (let (f, s) := draw s (32 * dim); ((List.range dim).map (fun j => bits f.toNat (32 * j) 32), s))
              else ((List.range dim).map (fun j => leAt payload (4 * j) 4), s)
            let sub : SubBag := { bag := sl.table, node := sl.row, vec := v, valid := leAt payload (4 * dim) 4 }
            let before := g.subs.filter (fun x => decide (x.bag < sub.bag) || (x.bag == sub.bag && decide (x.node < sub.node)))
            let after := g.subs.filter (fun x => !(decide (x.bag < sub.bag) || (x.bag == sub.bag && decide (x.node < sub.node))))
            let s := setGather s c { g with subs := before ++ sub :: after }
            let s := count s c wInvalid (leAt payload (4 * dim + 4) 4)
            gatherGo (if sat || nan then flagWork s w sat nan else s) c
        | _ =>
          if status ≠ 0 then
            let isRow (e : Nat × Nat × GRes) : Bool := match e.2.2 with | .rows r _ => r == sl.row | _ => false
            let n := g.resolved.countP isRow
            let s := modCore s c (fun k => { k with
              win := k.win.filter (fun x => !(x.table == sl.table && x.row == sl.row)),
              gather := some { g with resolved := g.resolved.map (fun e => if isRow e then (e.1, e.2.1, .dropped) else e) } })
            gatherGo (count s c wInvalid n) c
          else gatherGo (rowGot (setGather s c g) c sl.table sl.row payload) c
  | _, _ => s

/-! ## FREQ and the job summary (R416, R417) -/

/-- One entry enters a summary of 127 counters. -/
def sumAdd (l : List HotKey) (t r : Nat) : List HotKey :=
  if l.any (fun h => h.table == t && h.row == r) then
    l.map (fun h => if h.table = t && h.row = r then { h with est := h.est + 1 } else h)
  else if l.length < 127 then l ++ [{ table := t, row := r, est := 1 }]
  else (l.map (fun h => { h with est := h.est - 1 })).filter (fun h => h.est != 0)

/-- Puts a key into a list sorted by estimate, descending, ties in ascending row order. -/
def freqIn (h : HotKey) : List HotKey → List HotKey
  | [] => [h]
  | x :: xs => if x.est < h.est || (x.est = h.est && h.row < x.row) then h :: x :: xs else x :: freqIn h xs

def freqBytes (h : HotKey) : List Byte := leBytes 4 h.row ++ leBytes 4 h.table ++ leBytes 4 h.est ++ zeros 4

def freqRanges (k : Core) (i : Nat) : List Rng :=
  [opRange k (f1Win i) (f1Off i * 64) (f1Len i * 256) false, opRange k (f2Win i) (f2Off i * 64) 2048 true]

def freqBody (c : Nat) (s : State) (w : Nat) (q : QEnt) : State :=
  let i := q.inst
  let t := hTable i
  let k := core s c
  match readBags c w (f1Win i) (f1Off i * 64) (f1Len i) (etKey64 k t) false s with
  | .fail s => s
  | .invalid s => invalidField s c
  | .ok h _ es s =>
    let rows := es.filterMap (fun e => match resolve k t e.1 with
      | .row r _ => some r
      | .remote _ _ r _ => some r
      | _ => none)
    let out := ((rows.foldl (fun l r => sumAdd l t r) []).foldl (fun l h => freqIn h l) []).flatMap freqBytes
    match engWrite s c 6 w (f2Win i) (f2Off i * 64) (padTo 2048 out) with
    | (s, false) => s
    | (s, true) =>
      let s := if hJobsum i then
          modCore s c (fun k => { k with hot := rows.foldl (fun l r => sumAdd l t r) k.hot, hotN := k.hotN + rows.length })
        else s
      count s c wCEN (8 + h.nidx)

/-- FREQ. -/
def execFreq (core : CoreId) (s : State) : Res :=
  .next (engineRow s core.val 6 [2] freqRanges (fun _ _ => true) (freqBody core.val))

end Sys2Proof.Machine
end

