-- ==== Sys2Proof/Machine/Assign.lean ====
section
/-! DEFINITION. The choice of a chain: which cores a plan's stages take, what a chain uses, and the registers that the dispatcher
writes on its cores (08, R206 to R209; 14, R382, R383; 16, R400, R402; 17, R431, R434, R435; 21, R523). -/

namespace Sys2Proof.Machine

/-! ## Choosing cores (R209) -/

/-- A core and its pond port take new work (R206). -/
def coreGood (s : State) (c : Nat) : Bool := unitGood s (coreUnit c) && unitGood s (pondUnit (c / 8))

/-- Cores that claims of held copies keep (R524). -/
def claimed (s : State) (c : Nat) : Bool :=
  s.rings.any (fun p => match p.2.claim with | some x => x.chain.any (fun q => q.2 == c) | none => false)

/-- No admitted job, remote part or claim holds the core. -/
def coreFree (s : State) (c : Nat) : Bool :=
  coreGood s c && (core s c).work.isNone && !claimed s c && !s.dsp.jobs.any (fun e => e.2.chain.any (fun p => p.2 == c))
    && !s.dsp.parts.any (fun p => p.cores.contains c)

/-- Puts a value into a list sorted by key. -/
def insBy {α : Type} (key : α → List Nat) (x : α) : List α → List α
  | [] => [x]
  | y :: ys => if lexLe (key x) (key y) then x :: y :: ys else y :: insBy key x ys

def sortBy {α : Type} (key : α → List Nat) (l : List α) : List α := l.foldl (fun r x => insBy key x r) []

/-- Cores of one pond for the places of a stage, in order: each place takes the core of the best class, then of the lowest number. Answers
the classes and cores. -/
def pickPond (fit : Nat → Nat → Option Nat) (pond : Nat) : List Nat → List Nat → Option (List (Nat × Nat))
  | [], _ => some []
  | i :: is, taken =>
    let cs := ((List.range 8).map (pond * 8 + ·)).filterMap (fun c => if taken.contains c then none else (fit c i).map (fun k => (k, c)))
    match leastBy (fun x => [x.1, x.2]) cs with
    | none => none
    | some x => (pickPond fit pond is (x.2 :: taken)).map (x :: ·)

/-- The order of preference among the ponds for a stage: cores of the first class, then of the second, then lower numbers. -/
def pondKey (xs : List (Nat × Nat)) : List Nat :=
  xs.countP (fun x => x.1 != 1) :: xs.countP (fun x => x.1 == 3) :: xs.map (·.2)

/-- Cores for every stage, each within one pond; a stage is its places. The first choice of each stage that leaves room for the rest is
taken. -/
def pickStages (fit : Nat → Nat → Option Nat) : List (List Nat) → List Nat → Option (Tab Nat)
  | [], _ => some []
  | st :: rest, taken =>
    let opts := sortBy pondKey ((List.range 8).filterMap (fun p => pickPond fit p st taken))
    opts.findSome? (fun xs =>
      (pickStages fit rest (xs.map (·.2) ++ taken)).map (fun r => st.zip (xs.map (·.2)) ++ r))

/-- Places of the stages that run on this tray, and the stages that do not: stage, first place, places. -/
def stagePlaces (p : PlanDesc) : List (List Nat) × List (Nat × Nat × Nat) :=
  let r := p.stages.foldl (fun (r : Nat × List (List Nat) × List (Nat × Nat × Nat)) st =>
    let q := r.1
    match st.remote with
    | none => (q + st.cores, r.2.1 ++ [(List.range st.cores).map (q + ·)], r.2.2)
    | some k => (q + st.cores, r.2.1, r.2.2 ++ [(k, q, st.cores)])) (0, [], [])
  (r.2.1, r.2.2)

/-- Class of a core for a place (R209): 1 holds the sections and the copies, 2 the copies only, 3 neither. -/
def coreClass (s : State) (d : ImageDesc) (p : PlanDesc) (image c i : Nat) : Nat :=
  let work := workBanks d p i
  let copies := (slicesAt p i).all (fun x => (haveSlice s c work x).isSome)
  let secs := (secsAt d p i).all (fun x => (core s c).bank31.any (fun b => b.1 == image && b.2.1 == x.1))
  if copies && secs then 1 else if copies then 2 else 3

/-- A free core that can hold a place's banks, with its class. -/
def fitFree (s : State) (d : ImageDesc) (p : PlanDesc) (image : Nat) (extra : List (Nat → List ScratchDesc)) (c i : Nat) : Option Nat :=
  let xs := slicesAt p i ++ extra.flatMap (· i)
  if coreFree s c && fits s c (workBanks d p i) xs then some (coreClass s d p image c i) else none

/-- Enough units exist to form the chain, were they all free (check 13). -/
def chainExists (s : State) (p : PlanDesc) : Bool :=
  (pickStages (fun c _ => if coreGood s c then some 1 else none) (stagePlaces p).1 []).isSome

/-! ## Units of a chain (R206, R465) -/

/-- Controllers behind a range of tier memory. -/
def ctlsOf (base size : Nat) : List Nat :=
  let n := (base + size - 1) / 0x10000 - base / 0x10000 + 1
  let m := if inTierA base then 4 else 32
  ((List.range (min n m)).map (fun i => tierCtl ((base / 0x10000 + i) * 0x10000))).eraseDups

/-- Ranges behind an object: home and tier A copy. -/
def objRanges (s : State) : ObjRef → List (Nat × Nat)
  | .commons c => match tget s.store.commons c with | some o => [(o.baseB, o.size), (o.baseA, o.size)] | none => []
  | .region r => match tget s.store.regions r with
    | some g => (g.base, g.size) :: (match g.copy with | some x => [(x.base, g.size)] | none => [])
    | none => []

/-- Feed sources of a plan's sections, which the job reads from the tiers (R429). -/
def feedRefs (d : ImageDesc) (p : PlanDesc) (ixs : List Nat) : List ObjRef :=
  (ixs.flatMap (fun i => (secsAt d p i).flatMap (fun x => x.2.feeds.map (fun f => refObj f.source)))).eraseDups

/-- Local shards of a plan's SHARDED tables. -/
def shardRefs (d : ImageDesc) (p : PlanDesc) (ixs : List Nat) : List ObjRef :=
  (ixs.flatMap (fun i => (secsAt d p i).flatMap (fun x =>
    (x.2.tables.filter (fun t => bits t.w0.toNat 44 2 == 2)).map (fun t => refObj t.source)))).eraseDups

/-- Fabric destinations of a chain: remote stages, and present shards on other trays (R206, R531). -/
def destinations (d : ImageDesc) (p : PlanDesc) (binds : Tab (Nat × Nat)) (ixs : List Nat) : List Nat :=
  let stages := (stagePlaces p).2.filterMap (fun x => (tget binds x.1).map (·.1))
  let shards := if ixs.any (fun i => (secsAt d p i).any (fun x => x.2.tables.any (fun t => bits t.w0.toNat 44 2 == 2)))
    then (d.shardMaps.filter (fun e => e.2.1 && e.1 != 0)).map (·.1) else []
  (stages ++ shards).eraseDups

/-- Units behind tier data and the fabric ports on the routes. -/
def dataUnits (s : State) (objs : List ObjRef) (dests : List Nat) : List Nat :=
  ((objs.flatMap (objRanges s)).flatMap (fun r => (ctlsOf r.1 r.2).map ctlUnit)
    ++ dests.map (fun n => portUnit (entryOut (routeEntry s 6 n)))).eraseDups

/-- Units of the chain's cores. -/
def chainUnits (cs : List Nat) : List Nat := (cs.map coreUnit ++ cs.map (fun c => pondUnit (c / 8))).eraseDups

/-! ## Joining a running chain (R209, R435) -/

/-- The lowest tag that none of these holds. -/
def freeTag (tags : List Nat) : Option Nat := (List.range 16).find? (fun t => !tags.contains t)

/-- A running chain that a job of this tenant, image and plan may join, with the tag it would take: single round, no group, every unit of
it GOOD, fewer than 16 iterations. -/
def joinable (s : State) (tcid image plan : Nat) : Option (Tab Nat × Nat) :=
  let ok (j : Job) : Bool := j.tcid == tcid && j.image == image && j.plan == plan && j.group.isEmpty && j.quench.isNone
    && (match j.stream with | some st => !st.ending | none => true)
    && j.chain.all (fun p => coreGood s p.2) && j.units.all (fun u => unitGood s u.1)
  s.dsp.jobs.findSome? (fun e =>
    if !ok e.2 || 1 < roundsOf s e.1 then none
    else (freeTag ((s.dsp.jobs.filter (fun f => f.2.chain == e.2.chain)).map (fun f => f.2.tag)
        ++ s.rings.filterMap (fun p => match p.2.claim with
          | some x => if x.chain == e.2.chain then some x.tag else none
          | none => none))).map (fun t => (e.2.chain, t)))

/-! ## Registers that the dispatcher writes -/

/-- The replica of a tenant's table, which its first shard's region names (R420). -/
def replicaOf (s : State) (tcid region : Nat) : Option Replica := tget s.store.replicas (tcid * 2 ^ 32 + region)

/-- BASE of a table: the tier A copy or home of its source, or its copy's scratchpad offset (R400, R401). -/
def tableBase (s : State) (c : Nat) (t : TableDesc) : Nat :=
  let o := refObj t.source
  if bits t.w0.toNat 44 2 = 1 then
    match s.store.spCopies.find? (fun y => y.core == c && y.obj == o) with
    | some y => y.banks.headD 0 % 32 * 0x40000
    | none => 0
  else match o with
    | .commons n => (match tget s.store.commons n with | some x => x.baseA | none => 0)
    | .region r => (match tget s.store.regions r with
      | some g => (match g.copy with | some x => if bits t.w0.toNat 44 2 = 0 then x.base else g.base | none => g.base)
      | none => 0)

/-- Writes BASE, HDIR, HLOG2 and HROWS of a section's tables (R400). -/
def writeTables (s : State) (c tcid : Nat) (d : ImageDesc) (x : SectionDesc) : State :=
  x.tables.foldl (fun s t =>
    let rep := if bits t.w0.toNat 44 2 = 2 then
        (match d.shardMaps[bits t.w3.toNat 40 10]? with | some e => replicaOf s tcid e.2.2 | none => none)
      else none
    let (w4, w5) : Nat × Nat := match rep with
      | some r => (r.base + r.log2 * 2 ^ 44, r.base + 8 * 2 ^ r.log2)
      | none => (0, 0)
    let b := tableBase s c t
    modCore s c (fun k => { k with tbl := tmod k.tbl t.index (List.replicate 8 0) (fun ws =>
      ((ws.set 0 (setBits (ws.getD 0 0) 0 44 b)).set 4 w4).set 5 w5) })) s

/-- Tables of the section that a work runs on a core now. -/
def writeTablesOf (s : State) (w c : Nat) : State :=
  match imageDesc s (workImage s w), sectionOf s w c with
  | some d, some x => match d.sections[x.2]? with
    | some sec => writeTables s c (workTcid s w) d sec
    | none => s
  | _, _ => s

/-- GTH_SMAP entries (R402). -/
def smapOf (d : ImageDesc) : Tab Nat :=
  (List.range (min 1024 d.shardMaps.length)).map (fun i => match d.shardMaps[i]? with
    | some (n, p, r) => (i, n % 4096 + b2n p * 4096 + r * 2 ^ 32)
    | none => (i, 0))

/-- CHN_MAP and CHN_NODE of a job: its own cores, and those that its remote parts hold (R434, R523). -/
def mapsOf (chain : Tab Nat) (parts : List OPart) : Tab Nat × Tab Nat :=
  let m := chain.foldl (fun t p => tset t p.1 (64 + p.2)) []
  parts.foldl (fun r p => (List.range p.n).foldl (fun (r : Tab Nat × Tab Nat) i =>
    (tset r.1 (p.q0 + i) (64 + p.cores.getD i 0 % 64), tset r.2 (p.q0 + i) p.node)) r) (m, [])

/-- The co-batch table: one entry for a job alone, or one for each member in ascending ROW0 (R383). `members` are TCID, rows and
DBASE. -/
def cbTable (members : List (Nat × Nat × Nat)) : Tab Nat :=
  match members with
  | [(t, _, b)] => [(0, t + 128 * 2 ^ 19 + b * 2 ^ 32)]
  | ms => (ms.foldl (fun (r : Tab Nat × Nat) m =>
      (r.1 ++ [(r.1.length, m.1 + r.2 * 2 ^ 12 + m.2.1 * 2 ^ 19 + m.2.2 * 2 ^ 32)], r.2 + m.2.1)) ([], 0)).1

/-- Where a tenant's first resident copy of its own stands on a core, in 64 B units. -/
def deltaBase (s : State) (c : Nat) (xs : List ScratchDesc) : Nat :=
  match xs.find? (fun x => match x.source with | .region _ => true | .commons _ => false) with
  | some x => match s.store.spCopies.find? (fun y => y.core == c && y.obj == refObj x.source) with
    | some y => y.banks.headD 0 % 32 * 4096
    | none => 0
  | none => 0

/-- The occupant of a core changes: a zero-fill is due (R47). -/
def occupy (s : State) (c : Nat) (tcids : List Nat) : State :=
  modCore s c (fun k => if k.occ = tcids then k else { k with occ := tcids, filling := true, win := [] })

/-- Writes a core's registers at assignment. Extents and buckets are left to the job's start when another job runs there. -/
def writeCore (s : State) (c : Nat) (tcids : List Nat) (maps : Tab Nat × Tab Nat) (cb : Tab Nat) (smap : Tab Nat) (w : Nat) : State :=
  let s := occupy s c tcids
  let s := modCore s c (fun k =>
    let k := { k with chnMap := maps.1, chnNode := maps.2, cbt := cb, cbn := cb.length, smap := smap, doze := false }
    if k.work.isSome then k
    else { k with ext := extRegs s w, bkt := (List.range 4).map (fun i => (workBuckets s w).getD i 0) })
  writeTablesOf s w c

/-! ## Counts -/

/-- Jobs, and remote parts, admitted on the tray (check 14). -/
def admittedCount (s : State) : Nat := s.dsp.jobs.length + s.dsp.parts.length

/-- Those of one tenant. -/
def tenantCount (s : State) (t : Nat) : Nat := s.dsp.jobs.countP (fun e => e.2.tcid == t) + s.dsp.parts.countP (fun p => p.tcid == t)

/-- The chosen bucket index of an extent. -/
def bucketIx (bs : List Nat) (x : Nat) : Option Nat := (List.range bs.length).find? (fun i => decide (x ≤ bs.getD i 0))

/-- Extents obey R201 for an image. -/
def extsOk (d : ImageDesc) (exts : List Nat) : Bool :=
  (List.range 4).all (fun n => if n < d.buckets.length then decide (1 ≤ exts.getD n 0) else exts.getD n 0 == 0)

/-- The lowest dimension whose extent is above its largest bucket. -/
def extTooLarge (d : ImageDesc) (exts : List Nat) : Option Nat :=
  (List.range d.buckets.length).find? (fun n => (bucketIx (d.buckets.getD n []) (exts.getD n 0)).isNone)

/-- The plan number of R430. -/
def planNumber (d : ImageDesc) (exts : List Nat) : Nat :=
  ((List.range d.buckets.length).foldl (fun (r : Nat × Nat) n =>
    (r.1 + (bucketIx (d.buckets.getD n []) (exts.getD n 0)).getD 0 * r.2, r.2 * (d.buckets.getD n []).length)) (0, 1)).1

/-- The chosen bucket sizes. -/
def bucketSizes (d : ImageDesc) (exts : List Nat) : List Nat :=
  (List.range d.buckets.length).map (fun n => (d.buckets.getD n []).getD ((bucketIx (d.buckets.getD n []) (exts.getD n 0)).getD 0) 0)

end Sys2Proof.Machine
end

