-- ==== Sys2Proof/Machine/CmdRing.lean ====
section
/-! DEFINITION. The ring commands (07, Table 7-5, R180, R181). -/

namespace Sys2Proof.Machine

/-- Ring r. -/
def ring (s : State) (r : Nat) : Ring := tgetD s.rings r {}

def setRing (s : State) (r : Nat) (g : Ring) : State := { s with rings := tset s.rings r g }

/-- Unread descriptors (R194). -/
def unreadDesc (g : Ring) : Nat := (g.sqTail + 2 ^ g.log2 - g.sqHead) % 2 ^ g.log2

def ringConfigureFields (_ : State) (p : List Byte) : Bool :=
  decide (leAt p 0 2 < 256) && decide (4 ≤ leAt p 2 1) && decide (leAt p 2 1 ≤ 16) && leAt p 3 1 == 0
    && decide (leAt p 4 2 < 4096) && leAt p 6 2 == 0 && leAt p 8 8 % 4096 == 0 && leAt p 16 8 % 4096 == 0 && leAt p 28 4 == 0

def execRingConfigure (slot : SlotId) (s : State) : Res :=
  .next (runCmd slot.val 0x0501 true ringConfigureFields (fun r s =>
    let p := r.payload
    let n := leAt p 0 2
    let dl := leAt p 24 4
    if (ring s n).configured then .refuse 0x0150
    else if dl ≠ 0 && dl < 200 then .refuse 0x0203
    else
      let s := setRing s n { configured := true, log2 := leAt p 2 1, tcid := leAt p 4 2, sqAddr := leAt p 8 8,
                             cqAddr := leAt p 16 8, deadline := dl }
      .ok (ledgerCmd s slot.val r (leAt p 4 2) n 0) []) s)

def ringFields (_ : State) (p : List Byte) : Bool := decide (leAt p 0 2 < 256) && leAt p 2 2 == 0

/-- Admitted jobs of a ring. -/
def jobsOfRing (s : State) (n : Nat) : List Nat := (s.dsp.jobs.filter (fun e => e.2.ring == n)).map (·.1)

/-- RING_DESTROY: the span from HEAD to TAIL is discarded; under FORCE the ring's jobs are quenched and the ring is
unconfigured once they have ended (R181). -/
def execRingDestroy (slot : SlotId) (s : State) : Res :=
  .next (runCmd slot.val 0x0502 true ringFields (fun r s =>
    let n := leAt r.payload 0 2
    let g := ring s n
    let jobs := jobsOfRing s n
    if !g.configured || g.destroying then .refuse 0x0150
    else if !r.force && !jobs.isEmpty then .refuse 0x0151
    else
      let resp := leBytes 4 jobs.length ++ leBytes 4 (unreadDesc g)
      let s := abortClaim s n
      if jobs.isEmpty then .ok (ledgerCmd (setRing s n {}) slot.val r g.tcid n 0) resp
      else
        let s := setRing s n { g with destroying := true, sqHead := g.sqTail, copy := none, held := false, stamps := [], claim := none }
        let s := quenchWhere s (fun _ j => j.ring == n) 0x0205 0
        .wait (ledgerCmd s slot.val r g.tcid n 0) jobs [] resp) s)

/-- DB_STAT (Table 5-7). -/
def dbStat (g : Ring) : Nat := b2n g.configured + 2 * b2n g.stopped + 4 * b2n g.held

def execRingQuery (slot : SlotId) (s : State) : Res :=
  .next (runCmd slot.val 0x0503 false ringFields (fun r s =>
    let n := leAt r.payload 0 2
    let g := ring s n
    .ok s (leBytes 2 n ++ leBytes 1 g.log2 ++ leBytes 1 (dbStat g) ++ leBytes 2 g.tcid
      ++ leBytes 4 (jobsOfRing s n).length ++ leBytes 8 g.sqAddr ++ leBytes 8 g.cqAddr ++ leBytes 4 g.deadline
      ++ leBytes 2 g.stopCause)) s)

def execRingRestart (slot : SlotId) (s : State) : Res :=
  .next (runCmd slot.val 0x0504 true ringFields (fun r s =>
    let n := leAt r.payload 0 2
    let g := ring s n
    if !g.stopped then .refuse 0x0150
    else .ok (ledgerCmd (setRing s n { g with stopped := false, stopCause := 0, reads := 0, copy := none }) slot.val r
      g.tcid n 0) []) s)

end Sys2Proof.Machine
end

