-- ==== Sys2Proof/Machine/Admit.lean ====
section
/-! DEFINITION. Descriptors, the admission checks and admission itself (08, R194 to R211; 02, R40, R53, R54; 21, R524). -/

namespace Sys2Proof.Machine

/-! ## Descriptors (Table 8-1) -/

/-- A job descriptor. -/
structure Desc where
  w : List Nat
deriving DecidableEq, Repr

def Desc.f (d : Desc) (i lo n : Nat) : Nat := bits (d.w.getD i 0) lo n
def Desc.kind (d : Desc) : Nat := d.f 0 0 8
def Desc.irq (d : Desc) : Bool := d.f 0 8 1 == 1
def Desc.policy (d : Desc) : Nat := d.f 0 9 2
def Desc.tcid (d : Desc) : Nat := d.f 0 16 12
def Desc.epoch (d : Desc) : BitVec 16 := BitVec.ofNat 16 (d.f 0 32 16)
def Desc.image (d : Desc) : Nat := d.f 1 0 32
def Desc.deadline (d : Desc) : Nat := d.f 1 32 32
def Desc.cookie (d : Desc) : Word := BitVec.ofNat 64 (d.w.getD 2 0)
def Desc.inRegion (d : Desc) : Nat := d.f 3 0 32
def Desc.outRegion (d : Desc) : Nat := d.f 3 32 32
def Desc.inOff (d : Desc) : Nat := d.f 4 0 32
def Desc.outOff (d : Desc) : Nat := d.f 4 32 32
def Desc.exts (d : Desc) : List Nat := [d.f 5 0 32, d.f 5 32 32, d.f 6 0 32, d.f 6 32 32]
def Desc.period (d : Desc) : Nat := d.f 7 0 32
def Desc.frames (d : Desc) : Nat := d.f 7 32 16
def Desc.nbuf (d : Desc) : Nat := d.f 7 48 8

/-- KIND RUN, STREAM, STREAM_STOP. -/
def kRun := 1
def kStream := 2
def kStop := 3

/-- Check 2: reserved bits, encodings, and fields that KIND wants zero (R200). -/
def Desc.fieldsOk (d : Desc) : Bool :=
  let common := d.f 0 11 5 == 0 && d.f 0 28 4 == 0 && d.f 0 48 16 == 0 && d.f 7 56 8 == 0
  let k := d.kind
  if k = kRun then common && d.policy == 0 && d.w.getD 7 0 == 0
  else if k = kStream then
    common && decide (d.policy ≤ 1) && decide (100 ≤ d.period) && decide (d.period ≤ 10000000) && decide (1 ≤ d.nbuf)
  else if k = kStop then
    common && d.policy == 0 && d.w.getD 1 0 == 0 && [3, 4, 5, 6, 7].all (fun i => d.w.getD i 0 == 0)
  else false

/-- µs to EFT ticks, rounded up (R213, R218). -/
def ticksOf (us : Nat) : Nat := cdiv (us * 25) 8

/-! ## The checks of Table 8-4 -/

/-- What a check, or a run of checks, answers. -/
inductive Chk where
  | pass
  | hold
  | refuse (status detail : Nat)
deriving DecidableEq, Repr

def Chk.andThen (a : Chk) (b : Unit → Chk) : Chk := match a with | .pass => b () | x => x

def need (ok : Bool) (status : Nat) : Chk := if ok then .pass else .refuse status 0

/-- Deadline in µs of a descriptor of ring `g`. -/
def deadlineUs (g : Ring) (d : Desc) : Nat :=
  if d.deadline ≠ 0 then d.deadline else if g.deadline ≠ 0 then g.deadline else 1000000

/-- The image of a descriptor, with its plan. -/
def descPlan (s : State) (d : Desc) : Option (Image × PlanDesc) :=
  match tget s.store.images d.image with
  | some m => (m.desc.plans[planNumber m.desc d.exts]?).map (fun p => (m, p))
  | none => none

/-- Places of a plan that this tray runs. -/
def localIxs (p : PlanDesc) : List Nat := (stagePlaces p).1.flatten

/-- Checks 5 to 9 (R201). -/
def chkImage (s : State) (d : Desc) : Chk :=
  match tget s.store.images d.image with
  | none => .refuse 0x0211 0
  | some m =>
    let im := m.desc
    let bound := (List.range im.remoteStages).all (fun i => (tget m.binds i).isSome)
    (need (m.owner == d.tcid && d.image % 4096 == d.tcid && bound) 0x0211).andThen fun _ =>
    match tget s.store.regions d.inRegion, tget s.store.regions d.outRegion with
    | some a, some b =>
      (need (a.owner == d.tcid && b.owner == d.tcid) 0x0314).andThen fun _ =>
      (need (b.writable && (a.writable || a.sealed)) 0x0313).andThen fun _ =>
      (need (extsOk im d.exts) 0x0102).andThen fun _ =>
      match extTooLarge im d.exts with
      | some n => .refuse 0x0208 n
      | none => match descPlan s d with
        | none => .refuse 0x0102 0
        | some (_, p) =>
          let n := if d.kind = kStream then d.nbuf else 1
          need (decide (d.inOff * 64 + n * roundUp p.inSize 64 ≤ a.size) && decide (d.outOff * 64 + n * roundUp p.outSize 64 ≤ b.size)) 0x0102
    | _, _ => .refuse 0x0314 0

/-- A descriptor's chain uses the fabric. -/
def usesFabric (s : State) (d : Desc) : Bool :=
  match descPlan s d with
  | some (m, p) => !(destinations m.desc p m.binds (localIxs p)).isEmpty
  | none => false

/-- Check 12: admission is held under R81, R116, or at a SLEEP entry (R66), and for a chain that uses the fabric under R104 and R109. -/
def admissionHeld (s : State) (fabric : Bool) : Bool :=
  s.pwr.admitHold || s.dsp.closed || s.host.d3hot || (fabric && (!s.boot.routed || s.boot.gap.isSome))

/-- Check 13. -/
def chkUnits (s : State) (m : Image) (p : PlanDesc) (regions : List Nat) : Chk :=
  let ixs := localIxs p
  let dests := destinations m.desc p m.binds ixs
  let objs := (planUses m.desc p m.region ixs ++ feedRefs m.desc p ixs ++ shardRefs m.desc p ixs
    ++ regions.map ObjRef.region).eraseDups
  let data := (objs.flatMap (objRanges s)).flatMap (fun r => (ctlsOf r.1 r.2).map ctlUnit)
  let routes := dests.filter (hasRoute s)
  if !chainExists s p || !(data ++ routes.map (fun n => portUnit (entryOut (routeEntry s 6 n)))).all (unitGood s) then .refuse 0x0207 0
  else need (dests.all (hasRoute s)) 0x0401

/-- Checks 10 to 14 of a RUN or STREAM descriptor. -/
def chkAdmit (s : State) (g : Ring) (d : Desc) : Chk :=
  match descPlan s d with
  | none => .refuse 0x0102 0
  | some (m, p) =>
    let fab := usesFabric s d
    let us := deadlineUs g d
    (need (decide ((if fab then 6000 else 200) ≤ us)) 0x0203).andThen fun _ =>
    (need (decide (s.eft.tick < headStamp s g + ticksOf us)) 0x0201).andThen fun _ =>
    (if admissionHeld s fab then .hold else .pass : Chk).andThen fun _ =>
    (chkUnits s m p [d.inRegion, d.outRegion]).andThen fun _ =>
    if 8192 ≤ admittedCount s || (tenant s d.tcid).maxJobs ≤ tenantCount s d.tcid then .hold else .pass

/-- Checks 2 to 4, epochs apart. -/
def chkFields (g : Ring) (d : Desc) : Chk := need (d.fieldsOk && (g.tcid == 0 || d.tcid == g.tcid)) 0x0102

/-! ## HEAD, refusals, epochs -/

/-- HEAD moves past the held copy; a stamp whose span ends there is used up (R195, R196). -/
def advanceHead (s : State) (r : Nat) : State :=
  let g := ring s r
  let h := (g.sqHead + 1) % 2 ^ g.log2
  setRing s r { g with sqHead := h, copy := none, held := false, reads := 0,
                       stamps := match g.stamps with | x :: t => if x.1 = h then t else x :: t | [] => [] }

def holdCopy (s : State) (r : Nat) : State := setRing s r { ring s r with held := true }

/-- Refuses the held copy with one completion (R204). -/
def refuseCopy (s : State) (r : Nat) (d : Desc) (status detail : Nat) : State :=
  let s := abortClaim s r
  let g := ring s r
  let s := ctrAdd (postCompl (reserve s r) r
    { status := status, sqIndex := g.sqHead, cookie := d.cookie, stamp := headStamp s g, detail := detail, irq := d.irq,
      tcid := d.tcid } true) 0x0010 1
  advanceHead (pageAdd s d.tcid 2 1) r

/-- The ring's epoch advances, and its admitted jobs of the old epoch are superseded (R210, R211). -/
def supersede (s : State) (r : Nat) (e : BitVec 16) : State :=
  let s := setRing s r { ring s r with epoch := e }
  let js := jobsOfRing s r
  let s := { s with dsp.jobs := tmap s.dsp.jobs (fun j x => if js.contains j then { x with superseded := true } else x) }
  js.foldl (fun s j => quenchJob s j 0x0201 0 false) s

/-! ## Assignment (check 15) -/

/-- A descriptor that may be admitted: its ring, with the image, and the plan for some extents: its own, or its group's. -/
structure Cand where
  ring : Nat
  d : Desc
  exts : List Nat
  image : Image
  plan : Nat
  p : PlanDesc
deriving DecidableEq, Repr

def candOf (s : State) (r : Nat) (d : Desc) (exts : List Nat) : Option Cand :=
  match tget s.store.images d.image with
  | none => none
  | some m =>
    let n := planNumber m.desc exts
    (m.desc.plans[n]?).map (fun p => { ring := r, d := d, exts := exts, image := m, plan := n, p := p })

/-- What check 15 answers: a chain, a hold, or a refusal. -/
inductive Asg where
  | chain (s : State) (chain : Tab Nat) (tag : Nat) (joined : Bool)
  | hold (s : State)
  | refuse (status : Nat)

/-- Banks and tier A that a candidate needs for its tenant; only the leader's working banks count (log entry 14). -/
def candQuota (s : State) (lead : Bool) (m : Cand) (chain : Tab Nat) (workOf : Nat → List Nat) : Quota :=
  let t := m.d.tcid
  let w (q : Nat) : List Nat := if lead then workOf q else []
  let banks := chain.foldl (fun n x => n + bankNeed s t x.2 (w x.1) (slicesAt m.p x.1)) 0
  let given := chain.foldl (fun n x => n + bankGiven s t x.2 (workOf x.1)) 0
  let keep (y : SpCopy) : Bool := chain.any (fun x => x.2 == y.core && (slicesAt m.p x.1).any (fun z => haveSlice s x.2 (workOf x.1) z == some y))
  quotaCheck s t banks given (tierUses s m.image.desc m.p m.d.image m.image.region chain) keep

/-- The quota checks of every member in turn. -/
def groupQuota (chain : Tab Nat) (workOf : Nat → List Nat) : Bool → List Cand → State → Quota
  | _, [], s => .fits s
  | lead, m :: ms, s => match candQuota s lead m chain workOf with
    | .fits s => groupQuota chain workOf false ms s
    | x => x

/-- Takes the banks: room is made on every core, working banks are tagged, and the members' copies are placed. -/
def takeBanks (t order : Nat) (ms : List Cand) (workOf : Nat → List Nat) : Tab Nat → State → Option State
  | [], s => some s
  | (q, c) :: rest, s =>
    let xs := (ms.flatMap (fun m => slicesAt m.p q)).eraseDups
    match makeRoom c (workOf q) xs 33 s with
    | none => none
    | some (s, ps) =>
      let need := (lacking s c (workOf q) xs).1
      takeBanks t order ms workOf rest (addCopies (tagWork s c t (workOf q)) none c need ps order)

/-- A free chain of cores for a candidate alone or the leader of a group; none when there is none (R209). -/
def assignFree (s : State) (ms : List Cand) (order : Nat) : Option Asg :=
  match ms with
  | [] => none
  | m :: more =>
    let im := m.image.desc
    let extra : List (Nat → List ScratchDesc) := more.map (fun x i => slicesAt x.p i)
    match pickStages (fitFree s im m.p m.d.image extra) (stagePlaces m.p).1 [] with
    | some chain =>
      let workOf (q : Nat) : List Nat := workBanks im m.p q
      some (match groupQuota chain workOf true ms s with
        | .refuse => .refuse 0x0122
        | .hold s => .hold s
        | .fits s1 => match takeBanks m.d.tcid order ms workOf chain s1 with
          | none => .hold s
          | some s2 =>
            let os := (ms.flatMap (fun x => tierUses s2 x.image.desc x.p x.d.image x.image.region chain)).eraseDups
            match addTaCopies order os s2 with
            | none => .hold s
            -- the controllers behind a new copy are units of the chain too (R206)
            | some s3 => if (dataUnits s3 os []).all (unitGood s3) then .chain s3 chain 0 false else .hold s)
    | none => none

/-- Check 15 for a candidate alone or the leader of a group: a free chain of cores, else a chain already running (R209). -/
def assign (s : State) (ms : List Cand) (order : Nat) : Asg :=
  match assignFree s ms order with
  | some a => a
  | none => match ms with
    | [m] => (match joinable s m.d.tcid m.d.image m.plan with
      | some (chain, tag) => .chain s chain tag true
      | none => .hold s)
    | _ => .hold s

/-! ## Admission -/

/-- The next free job slot; slots of claims are taken (R205). -/
def freeSlot (s : State) : Nat :=
  let busy (j : Nat) : Bool := (tget s.dsp.jobs j).isSome
    || s.rings.any (fun p => match p.2.claim with | some x => x.slot == j | none => false)
  ((List.range 8192).find? (fun j => !busy j)).getD 0

/-- A job of a candidate in a slot. -/
def jobOf (s : State) (m : Cand) (slot : Nat) (chain : Tab Nat) (tag : Nat) (group mates : List Nat) (parts : List OPart) : Job :=
  let g := ring s m.ring
  let im := m.image.desc
  let ixs := chain.map (·.1)
  let uses := planUses im m.p m.image.region ixs
  let dests := destinations im m.p m.image.binds ixs
  let objs := (uses ++ feedRefs im m.p ixs ++ shardRefs im m.p ixs ++ [ObjRef.region m.d.inRegion, ObjRef.region m.d.outRegion]).eraseDups
  let us := chainUnits (chain.map (·.2)) ++ dataUnits s objs dests
  let stamp := headStamp s g
  let woke := if stamp < s.pwr.wokeTick then s.pwr.wokeTick - stamp else 0
  { gen := tgetD s.dsp.gens slot 0, order := s.dsp.nextOrder, tcid := m.d.tcid, ring := m.ring, sqIndex := g.sqHead, irq := m.d.irq,
    mates := mates, cookie := m.d.cookie, epoch := g.epoch, image := m.d.image, plan := m.plan, exts := m.d.exts,
    buckets := bucketSizes im m.exts, inRegion := m.d.inRegion, outRegion := m.d.outRegion, inOff := m.d.inOff,
    outOff := m.d.outOff, stamp := stamp, deadline := ticksOf (deadlineUs g m.d), chain := chain, tag := tag, group := group,
    units := us.map (fun u => (u, (unitRec s u).gen)), fabric := !dests.isEmpty, parts := parts, uses := uses,
    stream := if m.d.kind = kStream then
        some { queue1 := m.d.policy == 1, period := ticksOf m.d.period, frames := m.d.frames, nbuf := m.d.nbuf, admitted := s.eft.tick }
      else none,
    waits := [woke, 0, 0, 0, s.eft.tick - stamp - woke], mark := s.eft.tick }

/-- The tray leaves DOZE (R64). -/
def leaveDoze (s : State) : State := if trayDoze s then traceTray s 0x11 1 else s

/-- Admits one member: its job, its slot's reservation, HEAD, the tenant's last job and DSP_ADMITTED (R205, R32). -/
def admitOne (s : State) (m : Cand) (slot : Nat) (chain : Tab Nat) (tag : Nat) (group mates : List Nat) (parts : List OPart) : State :=
  let j := jobOf s m slot chain tag group mates parts
  let s := { s with dsp.jobs := tset s.dsp.jobs slot (placeFrame s j 0), dsp.nextOrder := s.dsp.nextOrder + 1,
                    store.tenants := tmod s.store.tenants m.d.tcid {} (fun t => { t with lastJob := j.order }) }
  let s := setRing s m.ring { ring s m.ring with claim := none }
  advanceHead (ctrAdd (reserve (touch s j.uses (chain.map (·.2)) j.order) m.ring) 0x0000 1) m.ring

/-- Writes the registers of the chain's cores, orders the staging, and starts what may start. -/
def setUp (s : State) (ms : List Cand) (slots : List Nat) (chain : Tab Nat) (parts : List OPart) : State :=
  match ms, slots with
  | m :: _, j :: _ =>
    let im := m.image.desc
    let maps := mapsOf chain parts
    let tcids := sortBy (fun t => [t]) ((ms.map (fun x => x.d.tcid)).eraseDups)
    let rows (x : Cand) : Nat := match im.batchDim with | some n => x.d.exts.getD n 0 | none => 0
    let s := (List.range slots.length).foldl (fun s i => match ms[i]?, slots[i]? with
      | some x, some j => ensureCopies s j s.dsp.nextOrder (planUses x.image.desc x.p x.image.region (chain.map (·.1)))
      | _, _ => s) s
    let s := chain.foldl (fun s q =>
      writeCore s q.2 tcids maps (cbTable (ms.map (fun x => (x.d.tcid, rows x, deltaBase s q.2 (slicesAt x.p q.1))))) (smapOf im) j) s
    chain.foldl (fun s q => kick s q.2) s
  | _, _ => s

/-- Admits a candidate, or a group of them, on a chain. -/
def admitAll (s : State) (ms : List Cand) (chain : Tab Nat) (tag : Nat) (slot0 : Option Nat) (parts : List OPart) : State :=
  let s := leaveDoze s
  let slots := ms.foldl (fun (l : List Nat) _ =>
    l ++ [match slot0 with
      | some j => j
      | none => ((List.range 8192).find? (fun j => !l.contains j && (tget s.dsp.jobs j).isNone
          && !s.rings.any (fun p => match p.2.claim with | some x => x.slot == j | none => false))).getD 0]) []
  let group := if ms.length = 1 then [] else slots
  let mates := if ms.length = 1 then [] else ms.map (fun m => m.d.tcid)
  let s := (List.range ms.length).foldl (fun s i => match ms[i]?, slots[i]? with
    | some m, some j => admitOne s m j chain tag group mates parts
    | _, _ => s) s
  setUp s ms slots chain parts

/-! ## Co-batch groups (R40, R208) -/

/-- The copy that a ring holds. -/
def copyOf (g : Ring) : Option Desc := g.copy.map (fun ws => { w := ws.map (·.toNat) })

/-- A copy held at the head of a ring in this round that passes every check before 15, as a RUN of a tenant that consents (R208). -/
def partner (s : State) (r : Nat) : Option Cand :=
  let g := ring s r
  match copyOf g with
  | none => none
  | some d =>
    let ok := g.configured && !g.destroying && g.claim.isNone && slotFree g && d.kind == kRun && d.epoch == g.epoch
      && tenantActive s d.tcid && (tenant s d.tcid).cobatch
      && ((chkFields g d).andThen fun _ => (chkImage s d).andThen fun _ => chkAdmit s g d) == .pass
    if ok then candOf s r d d.exts else none

/-- Every section of a plan is shareable. -/
def planShareable (d : ImageDesc) (p : PlanDesc) : Bool :=
  p.rounds.all (fun r => r.all (fun i => match d.sections[i]? with | some x => x.shareable | none => false))

/-- A list of numbers with its length first. -/
def counted (l : List Nat) : List Nat := l.length :: l

/-- The numbers of a section's configuration, of which the share key takes a hash (R39). -/
def sectionNums (x : SectionDesc) : List Nat :=
  counted (x.code.map (·.toNat)) ++ counted (x.drn.flatMap (fun p => p.map (·.toNat))) ++ counted (x.data.map (·.toNat))
    ++ [x.dataOff, x.entry, x.tvec, x.nmcfg, x.gthCfg] ++ counted (x.windows.flatMap (fun w => [w.base, b2n w.wr, w.size]))
    ++ counted (x.circs.flatMap (fun z => [z.base, z.size, z.source]))
    ++ counted (x.rattrs.flatMap (fun r => [r.base, r.limit, b2n r.enable, b2n r.early]))
    ++ counted (x.tables.flatMap (fun t => [t.index, t.w0.toNat, t.w1.toNat, t.w2.toNat, t.w3.toNat]))
    ++ counted (x.walks.flatMap (fun w => [w.w0.toNat, w.w1.toNat, w.w2.toNat, w.w3.toNat]))
    ++ counted (x.fires.flatMap (fun f => [f.1, f.2]))

/-- What a layer's share key is computed from. -/
def shareNums (d : ImageDesc) (l : ShareLayer) : List Nat :=
  [l.coid, l.fold, l.accMode] ++ counted l.shape ++ counted l.formats ++ counted l.etypes
    ++ (match d.sections[l.sec]? with | some x => sectionNums x | none => [])

/-- The share keys that the image checker records for an image (R39). -/
def shareKeys (d : ImageDesc) : List W32 := d.shareLayers.map (fun l => Config.shareKey (shareNums d l))

/-- Two images have equal share keys (R40). -/
def sameKeys (a b : ImageDesc) : Bool :=
  a.shareLayers.map (shareNums a) == b.shareLayers.map (shareNums b) || shareKeys a == shareKeys b

/-- The rows of a candidate. -/
def candRows (m : Cand) : Nat := match m.image.desc.batchDim with | some n => m.d.exts.getD n 0 | none => 0

/-- A candidate may join the group of a leader: shareable layers with equal share keys, a tenant not yet in it, equal buckets but for the
batch dimension, and room for its rows (R40, R208). -/
def mayGroup (lead : Cand) (ms : List Cand) (x : Cand) : Bool :=
  let a := lead.image.desc
  let b := x.image.desc
  match a.batchDim with
  | none => false
  | some n =>
    b.batchDim == some n && a.buckets.length == b.buckets.length && sameKeys a b && !a.shareLayers.isEmpty
      && planShareable a lead.p && planShareable b x.p
      && lead.p.stages.all (fun st => st.remote.isNone) && x.p.stages == lead.p.stages && x.p.rounds.length == lead.p.rounds.length
      && decide (ms.length < 16) && ms.all (fun m => m.d.tcid != x.d.tcid && m.ring != x.ring)
      && (List.range a.buckets.length).all (fun i => i == n || (bucketSizes a lead.d.exts).getD i 0 == (bucketSizes b x.d.exts).getD i 0)
      && (let rows := ms.foldl (fun k m => k + candRows m) (candRows x)
          decide (rows ≤ 128) && decide (rows ≤ ((a.buckets.getD n []).getLast?).getD 0)
            && decide (rows ≤ ((b.buckets.getD n []).getLast?).getD 0))

/-- The group that a leader and some rings form, each member with the plan of the summed batch extent, whose layers must be shareable too;
the tray's limit of admitted jobs holds for the group as a whole (R40, R53). -/
def groupOf (s : State) (lead : Cand) (rings : List Nat) : List Cand :=
  let ms := if !(tenant s lead.d.tcid).cobatch || lead.d.kind ≠ kRun then [lead]
    else rings.foldl (fun ms r => match partner s r with
      | some x => if mayGroup lead ms x && decide (admittedCount s + ms.length < 8192) then ms ++ [x] else ms
      | none => ms) [lead]
  if ms.length = 1 then [lead]
  else
    let rows := ms.foldl (fun k m => k + candRows m) 0
    let gs := ms.filterMap (fun m => match m.image.desc.batchDim with
      | some n => candOf s m.ring m.d (m.d.exts.set n rows)
      | none => none)
    if gs.length = ms.length && gs.all (fun m => planShareable m.image.desc m.p && m.p.stages == lead.p.stages
        && m.p.rounds.length == ((gs.map (fun x => x.p.rounds.length)).headD 0)) then gs else [lead]

/-! ## Claims of remote parts (R524) -/

/-- The remote parts of a candidate's plan. -/
def partsOf (m : Cand) : List OPart :=
  (stagePlaces m.p).2.filterMap (fun x => (tget m.image.binds x.1).map (fun b =>
    { stage := x.1, node := b.1, rimage := b.2, q0 := x.2.1, n := x.2.2 }))

/-- Sends the claims of a candidate whose own cores are found. -/
def sendClaims (s : State) (m : Cand) (chain : Tab Nat) (tag : Nat) : State :=
  let slot := freeSlot s
  let gen := tgetD s.dsp.gens slot 0
  let ps := partsOf m
  let s := setRing s m.ring { ring s m.ring with held := true, claim := some { slot := slot, gen := gen, chain := chain, tag := tag, parts := ps } }
  ps.foldl (fun s p => sendTxn s p.node (.claim p.rimage m.plan p.q0 p.n m.d.exts) m.d.tcid slot gen none 64 0) s

/-- The first refusal among some claims. -/
def claimRefusal (ps : List OPart) : Option Nat := ps.findSome? (fun p => match p.st with | .refused x => some x | _ => none)

/-- What a ring's turn does with claims already sent: wait, refuse, claim again at a later turn, or admit. -/
def concludeClaim (s : State) (m : Cand) (c : Claim) : State :=
  if c.parts.any (fun p => p.st == .claiming) then holdCopy s m.ring
  else match claimRefusal c.parts with
    | some st => refuseCopy s m.ring m.d st 0
    | none =>
      if c.parts.any (fun p => p.st == .held) || !c.chain.all (fun q => coreGood s q.2) then holdCopy (abortClaim s m.ring) m.ring
      else admitAll s [m] c.chain c.tag (some c.slot) c.parts

/-- Check 15 of a RUN or STREAM copy. -/
def check15 (s : State) (m : Cand) (partners : List Nat) : State :=
  match (ring s m.ring).claim with
  | some c => concludeClaim s m c
  | none =>
    let ms := groupOf s m partners
    let solo (s : State) : State := match assign s [m] s.dsp.nextOrder with
      | .refuse st => refuseCopy s m.ring m.d st 0
      | .hold s => holdCopy s m.ring
      | .chain s' chain tag joined =>
        if (partsOf m).isEmpty then admitAll s' [m] chain tag none []
        else sendClaims (if joined then s else s') m chain tag
    if ms.length = 1 then solo s
    else match assign s ms s.dsp.nextOrder with
      | .chain s' chain tag _ => admitAll s' ms chain tag none []
      | _ => solo s

end Sys2Proof.Machine
end

