-- ==== Sys2Proof/Machine/CmdFw.lean ====
section
/-! DEFINITION. The firmware commands (07, Table 7-7, R190, R191; 04, R108 to R111). -/

namespace Sys2Proof.Machine

def execFwStageBegin (slot : SlotId) (s : State) : Res :=
  .next (runCmd slot.val 0x0C01 false fwBeginFields (fun r s =>
    .ok { s with boot.staging := some { length := leAt r.payload 0 4, got := [] } } []) s)

/-- Puts bytes at an offset of the staged image. -/
def stageBytes (got : Tab Byte) (off : Nat) : List Byte → Tab Byte
  | [] => got
  | b :: bs => stageBytes (tset got off b) (off + 1) bs

def execFwStageData (slot : SlotId) (buf : HostRead) (s : State) : Res :=
  .next (runCmd slot.val 0x0C02 false fwDataFields (fun r s =>
    let off := leAt r.payload 0 4
    let len := leAt r.payload 4 4
    match s.boot.staging with
    | none => .refuse 0x0145
    | some st =>
      if st.length < off + len then .refuse 0x0145
      else match buf with
        | .fault => .refuse 0x0104
        | .ok data =>
          let s := { s with boot.staging := some { st with got := stageBytes st.got off (data.take len) } }
          if data.length < len then .ended s 0x0104 [] else .ok s []) s)

/-- FW_STAGE_END: verified under R98, written to the slot that is not COMMITTED, with a verified copy in the tier A reserve and
its digest in the Eft island (R108). -/
def execFwStageEnd (slot : SlotId) (s : State) : Res :=
  .next (runCmd slot.val 0x0C03 true anyFields (fun r s =>
    match s.boot.staging with
    | none => .refuse 0x0145
    | some st =>
      if st.got.length < st.length then .refuse 0x0145
      else
        let b := st.got.map (·.2)
        match verifyImage b s.boot.rollback with
        | .bad => .refuse 0x0140
        | .rollback => .refuse 0x0141
        | .ok =>
          let sl := !s.boot.committed
          let s := keepSlot s sl b
          let s := { s with boot.staging := none, boot.staged := some (sl, b), eft.digest := sha384 b }
          .ok (ledgerCmd s slot.val r 0 0 0)
            (leBytes 4 (imgVersion b) ++ leBytes 2 (imgSvn b) ++ leBytes 1 (b2n sl) ++ zeros 1)) s)

/-- No remote operation of the fabric is outstanding (R109, R532). -/
def fabricQuiet (s : State) : Bool := s.dsp.parts.isEmpty && s.fab.txns.isEmpty

/-- Nothing holds an activation up: no remote operation is outstanding, no other command is in FW, and no write of Swifort waits
(R109, R157). -/
def activationFree (s : State) (slot : Nat) : Bool :=
  fabricQuiet s && s.swi.sb.isEmpty && s.swi.early.isEmpty && s.swi.cb.isEmpty && s.mbx.latched.isEmpty
    && s.mbx.reqs.all (fun p => p.1 == slot)

/-- FW_ACTIVATE: refused at once, or, once no remote operation is outstanding and every other command in FW has completed, the tray
withdraws, state is saved, TRIAL is set to the staged slot and Swifort restarts; the response follows the ready event (R109,
R157, R191). -/
def execFwActivate (slot : SlotId) (s : State) : Res :=
  .next (runCmd slot.val 0x0C04 true anyFields (fun r s =>
    match s.boot.staged with
    | none => .refuse 0x0142
    | some (sl, b) =>
      if !activationFree s slot.val then .silent s else
      let s := withdraw (ledgerCmd s slot.val r 0 0 0)
      .silent { s with boot.trial := some sl, boot.kind := .fwActivate, boot.todo := [.verify],
                       swi.run := .idle,
                       boot.gap := some { slot := slot.val, restarted := true, reverted := false, trialVersion := imgVersion b } }) s)

/-- The running image is the trial image. -/
def trialRuns (s : State) : Bool :=
  match s.boot.trial with
  | some t => s.boot.runFrom == srcOf t
  | none => false

/-- FW_COMMIT: COMMITTED becomes the trial slot; rollback fuses are blown up to the image's SVN, with an entry of origin FUSE
(R111). -/
def execFwCommit (slot : SlotId) (s : State) : Res :=
  .next (runCmd slot.val 0x0C05 true anyFields (fun r s =>
    if !trialRuns s then .refuse 0x0145
    else
      let before := s.boot.rollback
      let after := max before s.boot.svn
      let s := { s with boot.committed := s.boot.trial.getD s.boot.committed, boot.trial := none, boot.rollback := after }
      let s := ledgerCmd s slot.val r 0 0 0
      let s := if before < after then
          ledgerAppend s { origin := 5, kind := 0x9001, value := leBytes 8 (after + before * 2 ^ 16) } else s
      .ok s (leBytes 2 after ++ zeros 6)) s)

end Sys2Proof.Machine
end

