-- ==== Sys2Proof/Machine/CtlRegs.lean ====
section
/-! DEFINITION. The control block of a core at 0xF10_0000_0000 + c × 0x1_0000: its registers as a sequencer, or Swifort, loads
and stores them (R287; 12, R326; 13, R356; 14, R359, R382; 15, R398; 16, R400, R402, R410; 17, R428, R434 to R437; 21, R523). -/

namespace Sys2Proof.Machine

def ctlBase (c : Nat) : Nat := 0xF1000000000 + c * 0x10000

/-- The address lies in the control blocks of the cores. -/
def inCtl (a : Nat) : Bool := decide (0xF1000000000 ≤ a) && decide (a < 0xF1000000000 + 64 * 0x10000)

/-- CIRCn_TOK (R436). -/
def tokWord (x : Circ) : Nat :=
  match x.toks with
  | [] => 0
  | t :: _ => t.tag + 2 ^ 4 + x.toks.length * 2 ^ 5 + (x.head % x.bytes) * 2 ^ 16

/-- Eight entries of CHN_MAP from position `q`, and four of CHN_NODE. -/
def mapWord (k : Core) (q : Nat) : Nat := ofLeBytes ((List.range 8).map (fun i => BitVec.ofNat 8 (tgetD k.chnMap (q + i) 0)))
def nodeWord (k : Core) (q : Nat) : Nat :=
  (List.range 4).foldl (fun n i => n + (tgetD k.chnNode (q + i) 0) % 2 ^ 12 * 2 ^ (16 * i)) 0

/-- The 8 B register at an offset that is a multiple of 8. A place that no chapter assigns reads zero, as do the registers that
only stores act on. -/
def ctlWord (s : State) (c o : Nat) : Nat :=
  let k := core s c
  if o = 0x0100 then tgetD s.boot.arrMap c 0
  else if o = 0x0108 then k.nmcfg
  else if o = 0x0200 then k.drnStatus
  else if 0x0300 ≤ o && o < 0x0380 then tgetD k.cbt ((o - 0x0300) / 8) 0
  else if o = 0x0380 then k.cbn
  else if 0x0400 ≤ o && o < 0x0420 then tgetD k.atgt ((o - 0x0400) / 8) 0
  else if o = 0x0480 then k.gthCfg
  else if 0x0500 ≤ o && o < 0x0900 then (tgetD k.tbl ((o - 0x0500) / 0x40) []).getD (o % 0x40 / 8) 0
  else if 0x0900 ≤ o && o < 0x0B00 then
    let d := (tgetD k.walks ((o - 0x0900) / 0x40) {}).w
    (match o % 0x40 with | 0 => d.w0.toNat | 8 => d.w1.toNat | 16 => d.w2.toNat | 24 => d.w3.toNat | _ => 0)
  else if 0x0B40 ≤ o && o < 0x0BC0 then tokWord (tgetD k.circ ((o - 0x0B40) / 8) {})
  else if o = 0x0BC0 then k.chnCur
  else if 0x0C00 ≤ o && o < 0x0C40 then tgetD k.fire ((o - 0x0C00) / 8) 0
  else if 0x0C40 ≤ o && o < 0x0C80 then mapWord k (o - 0x0C40)
  else if 0x0C80 ≤ o && o < 0x0D00 then nodeWord k ((o - 0x0C80) / 2)
  else if 0x1000 ≤ o && o < 0x3000 then tgetD k.smap ((o - 0x1000) / 8) 0
  else 0

/-- The walk whose NEXT register an offset lies in. -/
def nextOf (o : Nat) : Option Nat :=
  if 0x0900 ≤ o && o < 0x0B00 && 0x20 ≤ o % 0x40 && o % 0x40 < 0x28 then some ((o - 0x0900) / 0x40) else none

/-- The walk whose RESTART register an offset lies in. -/
def restartOf (o : Nat) : Option Nat :=
  if 0x0900 ≤ o && o < 0x0B00 && 0x28 ≤ o % 0x40 && o % 0x40 < 0x30 then some ((o - 0x0900) / 0x40) else none

/-- The store reaches CHN_RELEASE. -/
def isRelease (o : Nat) : Bool := decide (0x0B00 ≤ o) && decide (o < 0x0B08)

/-- A load of `size` bytes at an offset of a core's control block. A NEXT load advances its walk; an extent outside 1 to 16,383
ends the work (R428), and then no value is returned. -/
def ctlLoad (s : State) (c o size : Nat) : Option Nat × State :=
  match nextOf o with
  | none => (some (bits (ctlWord s c (o / 8 * 8)) (8 * (o % 8)) (8 * size)), s)
  | some n =>
    let k := core s c
    let x := tgetD k.walks n {}
    if !walkOk x.w k.ext then (none, failWorks s (coreWorks s c) 0x0102)
    else
      let (v, x) := walkNext x k.ext
      (some (bits v (8 * (o % 8)) (8 * size)), setCore s c { k with walks := tset k.walks n x })

/-- VEC_ATGTn after a write of the register's 64 bits (Table 15-4): the reserved bits are ignored, and the TYPE that is not used leaves the
field at its value (R11, R12). -/
def atgtWrite (old new : Nat) : Nat :=
  setBits (bits new 0 58) 56 2 (if bits new 56 2 = 3 then bits old 56 2 else bits new 56 2)

/-- A store of bytes at an offset of a core's control block: the VEC_ATGT registers, the walks' RESTART registers and CHN_RELEASE;
any other register is RO and ignores it. A release of an empty region ends the work (R436). -/
def ctlStore (s : State) (c o : Nat) (ds : List Byte) : State :=
  if 0x0400 ≤ o && o < 0x0420 then
    modCore s c (fun k => { k with atgt := tmod k.atgt ((o - 0x0400) / 8) 0 (fun x => atgtWrite x (ofLeBytes (patch (leBytes 8 x) (o % 8) ds))) })
  else match restartOf o with
    | some n => modCore s c (fun k => { k with walks := tmod k.walks n {} (fun x => x.restart) })
    | none =>
      if o = 0x0B00 then
        match releaseTok s c (ofLeBytes ds % 16) with
        | some s => s
        | none => failWorks s (coreWorks s c) 0x0102
      else s

/-- The region attribute that governs a control-space address makes a write EARLY (R264 to R266). -/
def isEarly (q : Seq) (a : Nat) : Bool :=
  match (List.range 8).find? (fun n =>
      let (w0, w1) := tgetD q.rattr n (0, 0)
      bitAt w1 0 && decide (bits w0 0 32 ≤ a / 4096) && decide (a / 4096 ≤ bits w0 32 32)) with
  | some n => bitAt (tgetD q.rattr n (0, 0)).2 1
  | none => false

end Sys2Proof.Machine
end

