-- ==== Sys2Proof/Machine/Freeze.lean ====
section
/-! DEFINITION. Freeze, its sequence and the read-out of the freeze image (26_freeze_and_readout.md; 23, R564; 07, R189). -/

namespace Sys2Proof.Machine

/-! ## The latch -/

/-- RUNNING of Table 26-3: EFT, MGT, CORE, NOC, TMA, TMB, HST, FAB, OBS from bit 0 (Tables 1-4, 3-2, 4-3). -/
def runningMask (s : State) : Nat :=
  let hst := b2n s.host.up * 2 ^ 6
  if s.boot.kind = .cold && s.boot.todo.head? = some .verify && s.boot.status ≠ 2 then 0b11 + hst
  else match s.pwr.power with
    | .active => 0b110111111 + hst
    | .entering k => (if k < 4 then 0b110111111 else 0b010000011) + hst
    | .sleep | .waking => 0b010000011 + b2n (s.host.up && !s.host.l1) * 2 ^ 6
    | .torpor => 0b1
    -- Table 3-5: MGT, TMB and HST from row 2, the others from row 6
    | .resuming k => 0b1 + (if 2 ≤ k then 0b100010 + hst else 0) + (if 6 ≤ k then 0b110011100 else 0)

/-- Rank of a cause: at one tick FATAL wins over COMMAND, and COMMAND over PIN (R601). -/
def causeRank : FrzCause → Nat
  | .none => 0 | .pin => 1 | .command => 2 | .fatal => 3

/-- Freeze latches: cause, tick and tray time are held, and the cause cell is programmed (R600, R601, R90). A later assertion
changes nothing, but a higher cause of the same tick. -/
def freezeLatch (s : State) (cause : FrzCause) (block : Option FatalBlock) : State :=
  if !s.eft.power || s.eft.tripped then s
  else if s.eft.frozen then
    (if s.eft.frzStep = 0 && s.eft.tick = s.eft.frzTick && decide (causeRank s.eft.frzCause < causeRank cause)
     then { s with eft.frzCause := cause, eft.frzBlock := block } else s)
  else
    { s with eft := { programCell s.eft .freeze with
               frozen := true, frzCause := cause, frzBlock := block, frzTick := s.eft.tick, frzTime := s.eft.time, frzStep := 0,
               frzRunning := runningMask s, frzId := s.freeCtr, noSr := [], sroPos := 0, sroDat := 0 },
             freeCtr := s.freeCtr + 1 }

/-- The ledger takes an entry of the service connector: the ledger engine and tier A run, and the ledger is not full (R602);
no entry is appended in an activation gap. -/
def pinEntry (s : State) : State :=
  if domainsUp s && ready s && s.boot.gap.isNone && !ledgerFull s then
    let t := ledgerAppend s { origin := 4, kind := 0xB001, value := zeros 8 }
    -- no event is posted (R607)
    { s with mem := t.mem, ledger := t.ledger, ecc := t.ecc }
  else s

/-- PIN_FREEZE: FRZ_N is low at two consecutive EFT ticks (R600, R626). -/
def execPinFreeze (s : State) : Res :=
  if s.eft.power && !s.eft.tripped && s.eft.frzLow && s.eft.frzLowPrev then
    .next (freezeLatch (if s.eft.frozen then s else pinEntry s) .pin none)
  else .next s

/-- A fatal fault of a block without a unit record: no record, no event, no entry; freeze latches (R564). -/
def fatal (s : State) (b : FatalBlock) : State := freezeLatch s .fatal (some b)

/-- FATAL_REPORT (R564). -/
def execFatalReport (block : FatalBlock) (s : State) : Res := .next (fatal s block)

/-- Swifort carries out FREEZE: CONFIRM must be 0x4652_5A21 (R189). No response is written. -/
def freezeCmd (slot : Nat) (s : State) : State :=
  runCmd slot 0x0B01 true (fun _ p => leAt p 0 4 == 0x46525A21 && leAt p 4 4 == 0)
    (fun r s => .silent (freezeLatch (ledgerCmd s slot r 0 0 0) .command none)) s

/-- FREEZE. One that arrives at the tick of a pin freeze's latch wins over it (R601). -/
def execFreeze (slot : SlotId) (s : State) : Res :=
  if s.eft.frozen && s.eft.frzStep = 0 && s.eft.tick = s.eft.frzTick && s.eft.frzCause == .pin then
    let t := freezeCmd slot.val { s with eft.frozen := false }
    .next (if t.eft.frozen then t else s)
  else .next (freezeCmd slot.val s)

/-! ## The sequence (Table 26-1) -/

/-- Ticks of the steps after the latch. -/
def frzTicks : List Nat := [7, 40, 41, 42, 43, 44, 45, 46, 47, 48, 49]

/-- The bit of RUNNING whose domain step `n` stops, steps counted from 1. -/
def stepDomain (n : Nat) : Option Nat :=
  match n with
  | 3 => some 2 | 4 => some 8 | 5 => some 3 | 6 => some 4 | 7 => some 5 | 8 => some 6 | 9 => some 7 | 10 => some 1
  | _ => none

/-- The step that comes next, with the steps of domains that did not run at the latch skipped (R604, R616). -/
def skipStopped : Nat → State → State
  | 0, s => s
  | n + 1, s =>
    match stepDomain (s.eft.frzStep + 1) with
    | some d => if bitAt s.eft.frzRunning d then s else skipStopped n { s with eft.frzStep := s.eft.frzStep + 1 }
    | none => s

/-- FREEZE_SEQUENCE_STEP: the next step of Table 26-1 at its tick; `missed` names the tier controllers that have not reached
self-refresh by tick 40 (R604, R605). -/
def execFreezeSequenceStep (missed : List Nat) (s : State) : Res :=
  if !s.eft.power || s.eft.tripped || !s.eft.frozen then .next s
  else
    let s := skipStopped 11 s
    let n := s.eft.frzStep
    match frzTicks[n]? with
    | none => .next s
    | some t =>
      if s.eft.tick < s.eft.frzTick + t then .next s
      else
        let s := { s with eft.frzStep := n + 1 }
        .next (if n + 1 = 2 then { s with pwr.selfRefresh := true, eft.noSr := missed.filter (fun k => decide (k < 36)) }
          else if n + 1 = 8 then { s with host.up := false }
          else s)

/-- Freeze is complete: EFT has stopped (Table 26-1). -/
def freezeDone (s : State) : Bool := s.eft.power && !s.eft.tripped && s.eft.frozen && s.eft.frzStep == 11

/-! ## The image (R612 to R615) -/

/-- ID and length of every section in order (Table 26-4). -/
def frzSections : List (Nat × Nat) :=
  [(0x01, 4096), (0x02, 1048576), (0x03, 1024), (0x04, 2097152), (0x05, 65536), (0x06, 4194304), (0x07, 64),
   (0x08, 2097152), (0x09, 41943040)]
  ++ (List.range 64).map (fun c => (0x10 + c, 2097152)) ++ (List.range 64).map (fun c => (0x50 + c, 8388608))

/-- Offsets: the first section, core 0's state, core 0's scratchpad, the trailer, and the length of the image. -/
def frzFirst := 2368
def frzCores := 51453312
def frzScratch := frzCores + 64 * 2097152
def frzTrailer := frzScratch + 64 * 8388608
def frzTotal := frzTrailer + 16

/-- Offset of section `j`. -/
def secOffset (j : Nat) : Nat := (frzSections.take j).foldl (fun n x => n + x.2) frzFirst

/-- A section's blocks were powered at the latch (R613, R616; 04, At the edges). -/
def secPresent (s : State) (id : Nat) : Bool :=
  if s.pwr.power = .torpor then decide (id < 0x50) && id != 0x09
  else if s.eft.frzRunning % 64 < 0b100 && s.boot.kind = .cold && s.boot.todo.head? = some .verify then
    [0x01, 0x02, 0x03, 0x05, 0x07].contains id
  else true

/-- FBLOCK (Table 26-3). -/
def fblock : Option FatalBlock → Nat
  | none => 0
  | some .dispatcher => 1 | some .hostLink => 2 | some .noc => 3 | some .tierPath => 4 | some .swifortMemory => 5
  | some .ledgerEngine => 6 | some .eftIsland => 7 | some .fuseShadow => 8 | some .stagingMover => 9

/-- PSTATE of Table 26-3. -/
def frzPstate (s : State) : Nat :=
  match s.pwr.power with
  | .torpor | .resuming _ => 3
  | _ => pstate s

/-- Header bytes 0 to 55 (Table 26-3). -/
def frzHead (s : State) : List Byte :=
  leBytes 8 (0x465A5249 + 2 ^ 32 + causeRank s.eft.frzCause * 2 ^ 48 + 137 * 2 ^ 56) ++ leBytes 8 Config.uid.toNat
    ++ leBytes 8 s.eft.frzTime ++ leBytes 8 (s.boot.fwver + Config.stepping * 2 ^ 32 + frzPstate s * 2 ^ 40)
    ++ leBytes 8 ((if s.eft.frzCause = .fatal then 0x20 else 0) + fblock s.eft.frzBlock * 2 ^ 8)
    ++ leBytes 8 (s.eft.frzRunning + (s.eft.noSr.foldl (fun m k => m ||| 2 ^ k) 0) * 2 ^ 9) ++ leBytes 8 frzTotal

/-- The 128-byte header. -/
def frzHeader (s : State) : List Byte := padTo 128 (frzHead s ++ leBytes 4 (crc32 (frzHead s)).toNat)

/-- The 137 directory entries (R613). -/
def frzDirectory (s : State) : List Byte :=
  (List.range 137).flatMap (fun j => match frzSections[j]? with
    | some (id, len) => leBytes 8 (id + b2n (secPresent s id) * 2 ^ 16 + secOffset j * 2 ^ 32) ++ leBytes 8 len
    | none => [])

/-- UNIT, ADMIN, HEALTH, GEN and JOBS of a unit (Table 7-5, R182). -/
def unitBytes (s : State) (u : Nat) : List Byte :=
  let r := unitRec s u
  leBytes 2 u ++ leBytes 1 (adminCode r.admin) ++ leBytes 1 (healthCode r.health) ++ leBytes 2 r.gen.toNat
    ++ leBytes 2 (min (jobsOfUnit s u).length 0xFFFF)

/-- Byte `i` of the record of unit number `n`. -/
def unitByte (s : State) (n i : Nat) : Byte := match allUnits[n]? with | some u => (unitBytes s u).getD i 0 | none => 0

/-- Byte `o` of an accumulator set, its words in the order of R332. -/
def accByte (k : Core) (set o : Nat) : Byte :=
  BitVec.ofNat 8 (tgetD (tgetD k.acc set {}).words (o / 4) 0 >>> (8 * (o % 4)))

/-- A word is poisoned, or its error correction cannot recover it (R614). -/
def wordLost (s : State) (w : Nat) : Bool :=
  s.ecc.poison.contains w || (match tget s.ecc.latent w with | some (.uncorrectable _) => true | _ => false)

/-- A scratchpad byte as the stream gives it (R614). -/
def spByte (s : State) (a : Nat) : Byte :=
  if (bank s (spBank a)).power = .off then 0
  else if wordLost s (a / 8 * 8) then 0 else mget s.mem a

/-- Byte `o` of core `c`'s state section (Table 26-5). The places within a part that the manual does not give are open. -/
def coreByte (s : State) (c o : Nat) (open_ : Byte) : Byte :=
  let k := core s c
  if o < 0x110000 then accByte k (o / 65536) (o % 65536)
  else if o < 0x112200 then open_
  else if 0x114000 ≤ o && o < 0x114100 then
    BitVec.ofNat 8 ((tgetD k.seq.g ((o - 0x114000) / 8) 0).toNat >>> (8 * (o % 8)))
  else if 0x114100 ≤ o && o < 0x114108 then BitVec.ofNat 8 (k.seq.pc.toNat >>> (8 * (o % 8)))
  else if 0x114108 ≤ o && o < 0x119000 then open_
  else if 0x120000 ≤ o && o < 0x130000 then BitVec.ofNat 8 (ctlWord s c ((o - 0x120000) / 8 * 8) >>> (8 * (o % 8)))
  else if 0x130000 ≤ o && o < 0x138000 then BitVec.ofNat 8 ((tgetD k.imem ((o - 0x130000) / 4) 0).toNat >>> (8 * (o % 4)))
  else if 0x138000 ≤ o && o < 0x139000 then (tgetD k.drn ((o - 0x138000) / 64) []).getD (o % 64) 0
  else if 0x139000 ≤ o && o < 0x139100 then open_
  else if 0x140000 ≤ o && o < 0x160000 then
    let w := (o - 0x140000) * 8
    BitVec.ofNat 8 ((List.range 8).foldl (fun n i => n + b2n (wordLost s (spBase c + (w + i) * 8)) * 2 ^ i) 0)
  else 0

/-- The ledger section: HEAD, NEXT, OLDEST, CHAIN, suppressed count (Table 26-4). -/
def ledgerSec (s : State) : List Byte :=
  padTo 32 s.ledger.head ++ leBytes 8 s.ledger.next ++ leBytes 8 s.ledger.oldest ++ leBytes 8 s.ledger.chain
    ++ leBytes 8 s.ledger.suppressed

/-- The section that holds image byte `n`: its ID and the offset within it. -/
def secAt : List (Nat × Nat) → Nat → Nat × Nat
  | [], n => (0, n)
  | (id, len) :: t, n => if n < len then (id, n) else secAt t (n - len)

/-- Image byte `n`, but for the trailer. -/
def imageByte (s : State) (n : Nat) : Byte :=
  if n < 128 then (frzHeader s).getD n 0
  else if n < frzFirst then (padTo (2368 - 128) (frzDirectory s)).getD (n - 128) 0
  else
    let (id, o) := secAt frzSections (n - frzFirst)
    let open_ := Config.frzByte s.eft.frzId n
    if !secPresent s id then 0
    else if id = 0x03 then (if o < 912 then unitByte s (o / 8) (o % 8) else 0)
    else if id = 0x07 then (ledgerSec s).getD o 0
    else if id < 0x10 then open_
    else if id < 0x50 then coreByte s (id - 0x10) o open_
    else spByte s (spBase (id - 0x50) + o)

/-- The trailer (R615). -/
def frzTail (s : State) : List Byte :=
  leBytes 4 0x4E455A46 ++ leBytes 4 (crc32 ((List.range frzTrailer).map (imageByte s))).toNat ++ leBytes 8 frzTotal

/-- Byte `n` of the freeze image. -/
def frzImage (s : State) (n : Nat) : Byte := if n < frzTrailer then imageByte s n else (frzTail s).getD (n - frzTrailer) 0

/-- SRO_RESTART: after freeze, SRO_CLK has stayed low for 100 µs (R611). -/
def execSroRestart (s : State) : Res :=
  if freezeDone s then .next { s with eft.sroPos := 0 } else .next s

/-- SRO_CLK_RISING_EDGE: the next nibble, low nibble first; 0 before freeze completes and after the last byte (R610, R611). -/
def execSroClkRisingEdge (s : State) : Res :=
  let p := s.eft.sroPos
  if !freezeDone s then .next { s with eft.sroDat := 0 }
  else if p < 2 * frzTotal then
    .next { s with eft.sroDat := bits (frzImage s (p / 2)).toNat (4 * (p % 2)) 4, eft.sroPos := p + 1 }
  else .next { s with eft.sroDat := 0 }

end Sys2Proof.Machine
end

