-- ==== Sys2Proof/Machine/Jobs.lean ====
section
/-! DEFINITION. The dispatcher's events: descriptor reads, admission turns, zero-fills, staging, section loads, deadlines, quenches,
completions, stream frames and rounds (08; 02, R47 to R49; 17, R443 to R445, R449; 19, R475; 23, R555, R563). -/

namespace Sys2Proof.Machine

/-! ## Descriptor reads and admission -/

/-- DESCRIPTOR_READ: the read at HEAD returns, or fails, which AER reports; the second failure stops the ring (R118, R119, R195, R199). -/
def execDescriptorRead (ring_ : RingId) (result : DescRead) (s : State) : Res :=
  let r := ring_.val
  let g := ring s r
  if !domainsUp s || s.host.d3hot || !g.configured || g.stopped || g.destroying || g.copy.isSome || g.sqHead = g.sqTail then .next s
  else match result with
    | .ok w0 w1 w2 w3 w4 w5 w6 w7 => .next (setRing s r { g with copy := some [w0, w1, w2, w3, w4, w5, w6, w7], reads := 0, held := false })
    | fault =>
      -- an error after which the read is sent again is an advisory one (R118)
      let e : AerErr := if fault = .poisoned then .poisoned else .timeout
      let s := if g.reads = 0 then aerAdvisory s e else aerReport s e
      if g.reads = 0 then .next (setRing s r { g with reads := 1 })
      else .next (postReadFault (setRing s r { g with reads := 0, stopped := true, stopCause := 0x0212, faultDue := true }) r)

/-- A live stream of a ring and TCID with this COOKIE (check 5s); the quench of one frame alone does not end its stream (R219). -/
def streamNamed (s : State) (r : Nat) (d : Desc) : Option Nat :=
  (s.dsp.jobs.find? (fun e => e.2.ring == r && e.2.tcid == d.tcid && e.2.cookie == d.cookie
    && (match e.2.quench with | some q => q.frameOnly | none => true)
    && (match e.2.stream with | some st => !st.ending | none => false))).map (·.1)

/-- A STREAM_STOP that passed check 5s: its slot is kept for its own completion, HEAD moves on, and the stream ends (R220). -/
def stopStream (s : State) (r j : Nat) (d : Desc) : State :=
  let g := ring s r
  match tget s.dsp.jobs j with
  | none => s
  | some job => match job.stream with
    | none => s
    | some st =>
      let st := { st with stop := some (g.sqHead, d.cookie, d.irq, headStamp s g) }
      endStream (advanceHead (reserve (setJob s j { job with stream := some st }) r) r) j

/-- Checks 3 to 15, after check 2. -/
def afterFields (s : State) (r : Nat) (d : Desc) (partners : List Nat) : State :=
  let g := ring s r
  if d.epoch ≠ g.epoch && d.epoch ≠ g.epoch + 1 then refuseCopy s r d 0x0206 d.epoch.toNat
  else
    let s := if d.epoch = g.epoch then s else supersede s r d.epoch
    if !tenantActive s d.tcid then refuseCopy s r d 0x0210 0
    else if d.kind = kStop then
      match streamNamed s r d with
      | some j => stopStream s r j d
      | none => refuseCopy s r d 0x0102 0
    else match (chkImage s d).andThen fun _ => chkAdmit s (ring s r) d with
      | .refuse st de => refuseCopy s r d st de
      | .hold => holdCopy s r
      | .pass => match candOf s r d d.exts with
        | some m => check15 s m partners
        | none => refuseCopy s r d 0x0102 0

/-- A ring has a copy to check in its turn. -/
def hasTurn (s : State) (r : Nat) : Bool := let g := ring s r; g.configured && !g.destroying && g.copy.isSome

/-- The ring whose turn it is: rings take turns in ascending number, and one without a copy yields its turn (R197). -/
def nextTurn (s : State) : Option Nat :=
  ((List.range 256).map (fun i => (s.dsp.turn + i) % 256)).find? (hasTurn s)

/-- ADMISSION_CHECK: the turn of a ring, and the rings whose held copies of this round may join a co-batch group (R197, R203, R204,
R208). -/
def execAdmissionCheck (ring_ : RingId) (partners : List RingId) (s : State) : Res :=
  let r := ring_.val
  let g := ring s r
  if !domainsUp s || nextTurn s != some r then .next s
  else match copyOf g with
    | none => .next s
    | some d =>
      let s := { s with dsp.turn := (r + 1) % 256 }
      if !slotFree g then .next (holdCopy s r)
      else match chkFields g d with
        | .pass => .next (afterFields s r d (partners.map (·.val)))
        | _ => .next (refuseCopy s r d 0x0102 0)

/-! ## Waits (R458) -/

/-- Adds the ticks since the last mark to one of a job's waits: 1 TENANT_SWITCH, 2 CONFIG, 3 STAGE. -/
def markWait (s : State) (j i : Nat) : State :=
  match tget s.dsp.jobs j with
  | none => s
  | some job => setJob s j { job with waits := job.waits.set i (job.waits.getD i 0 + (s.eft.tick - job.mark)), mark := s.eft.tick }

/-- Jobs of this tray whose first work on a core is next. -/
def waitersOf (s : State) (c : Nat) : List Nat :=
  match minBy (fun x => x.1) (waitingWorks s c) with
  | some (_, w) => (members s w).filter (fun j => !isPart j)
  | none => []

/-! ## Zero-fill (R47 to R49, R251) -/

/-- Banks of a core that an occupant zero-fill clears. -/
def fillBanks (s : State) (c : Nat) : List Nat :=
  (List.range 31).filter (fun b => let k := bank s (c * 32 + b); !k.res && !k.retired && k.power == .on)

/-- CORE cycles of the fill: the fullest bank group at 512 a bank, at least 136 (R49). -/
def fillCycles (bs : List Nat) : Nat := (List.range 4).foldl (fun n g => max n (512 * bs.countP (fun b => b / 8 == g))) 136

/-- A core after its occupant zero-fill. -/
def cleared (k : Core) : Core :=
  { k with seq := { k.seq with g := [], epc := 0, scratch := 0 }, acc := [], maskReg := [], atgt := [], hot := [], hotN := 0,
           gb := [], drnStatus := 0, filling := false }

/-- ZERO_FILL_DONE: the new occupant's first access may proceed. -/
def execZeroFillDone (core_ : CoreId) (s : State) : Res :=
  let c := core_.val
  if !domainsUp s || !(core s c).filling then .next s
  else
    let bs := fillBanks s c
    let s := bs.foldl (fun s b => memZero s (0x80000000000 + (c * 32 + b) * 0x40000) 0x40000) s
    let js := (waitersOf s c).filter (fun j => !staging s j)
    let s := kick (modCore s c cleared) c
    .next (js.foldl (fun s j => markWait s j 1) (stall s c 2 0 (fillCycles bs)))

/-! ## Staging (R475, R555) -/

/-- A mover's read of a range: what error correction finds. -/
def bulkRead (s : State) (a n : Nat) (find : EccFind) (w : Option Nat) : State × Bool := eccSweep (eccLay s a find) a n w

/-- Where an object is staged from: first its home, and its tier A copy if it still has to be made. -/
def stageSource (s : State) : ObjRef → Option (Nat × Nat × Option Nat)
  | .commons c => (tget s.store.commons c).map (fun o => (o.baseA, o.size, none))
  | .region r => match tget s.store.regions r with
    | none => none
    | some g => match g.copy with
      | some x => some (if x.done then (x.base, g.size, none) else (g.base, g.size, some x.base))
      | none => some (g.base, g.size, none)

/-- Copies a slice into its banks: a mover's write, before which overlapping lines of the gathering buffer are flushed (R232). -/
def fillSlice (s : State) (base : Nat) (y : SpCopy) : State :=
  let s := flushGb s (0x80000000000 + y.banks.headD 0 * 0x40000) y.len
  ctrAdd (memCopy s (base + y.off) (0x80000000000 + y.banks.headD 0 * 0x40000) y.len) 0x0238 y.len

/-- Sections of an image that a core's admitted works will load. -/
def sectionsFor (s : State) (img c : Nat) : List (Nat × Nat) :=
  let ws := ((s.dsp.jobs.filter (fun e => e.2.image == img && e.2.chain.any (fun p => p.2 == c))).map (fun e => (e.1, e.2.order)))
    ++ (s.dsp.parts.filter (fun p => p.image == img && p.cores.contains c)).map (fun p => (p.work, p.order))
  match imageDesc s img with
  | none => []
  | some d => (ws.flatMap (fun w => match d.plans[workPlan s w.1]?, (workChain s w.1).find? (fun p => p.2 == c) with
      | some p, some q => (secsAt d p (planIx s w.1 q.1)).map (fun x => (x.1, w.2))
      | _, _ => [])).eraseDups

/-- Bytes of the sections in bank 31. -/
def bank31Bytes (s : State) (l : List (Nat × Nat × Nat)) : Nat :=
  l.foldl (fun n x => n + (match secDesc s (x.1, x.2.1) with
    | some d => 64 + roundUp (4 * d.code.length) 64 + roundUp (64 * d.drn.length) 64 + roundUp d.regBytes 64 + roundUp d.data.length 64
    | none => 0)) 0

/-- Drops sections of images without an admitted job on the core, the image run least recently first, until bank 31 has room (R444); `n`
bounds the number. -/
def trim31 (s : State) (c more : Nat) : Nat → List (Nat × Nat × Nat) → List (Nat × Nat × Nat)
  | 0, l => l
  | n + 1, l =>
    if bank31Bytes s l + more ≤ 0x40000 then l
    else match minBy (fun x => x.2.2) (l.filter (fun x => (sectionsFor s x.1 c).isEmpty)) with
      | some v => trim31 s c more n (l.filter (fun x => x.1 != v.1))
      | none => l

/-- Stages an image's sections into bank 31 of a core, which is written whole (R31, R247, R444). -/
def fill31 (s : State) (img c : Nat) : State :=
  let want := sectionsFor s img c
  let k := core s c
  let have_ := k.bank31.filter (fun b => !(b.1 == img && want.any (fun x => x.1 == b.2.1)))
  let new := (want.map (fun x => (img, x.1, x.2)))
  let fresh := new.filter (fun x => !k.bank31.any (fun b => b.1 == x.1 && b.2.1 == x.2.1))
  let l := trim31 s c (bank31Bytes s new) 64 have_ ++ new
  let lo := spBase c + 31 * 0x40000
  let s := cure s (fun w => decide (lo ≤ w) && decide (w < lo + 0x40000))
  ctrAdd (modCore s c (fun k => { k with bank31 := l })) 0x0238 (bank31Bytes s fresh)

/-- An order's copies are performed: the tier A copy, then every core's; the cores that receive one are pinned where R635 says so. -/
def performOrder (s : State) (o : StgOrder) (src size : Nat) (ta : Option Nat) : State :=
  let s := match ta, o.obj with
    | some a, .region r =>
      let s := ctrAdd (memCopy s src a size) 0x0230 size
      let rs := tmap s.store.regions (fun i (g : Region) => if i = r then
        { g with copy := g.copy.map (fun (x : TaCopy) => { x with done := true }) } else g)
      { s with store.regions := rs }
    | _, _ => s
  let base := ta.getD src
  let todo (y : SpCopy) : Bool := y.obj == o.obj && !y.done && o.cores.contains y.core
  let s := pinCores s o.obj (((s.store.spCopies.filter todo).map (·.core)).eraseDups)
  let s := (s.store.spCopies.filter todo).foldl (fun s y => fillSlice s base y) s
  let s := { s with store.spCopies := s.store.spCopies.map (fun y => if todo y then { y with done := true } else y) }
  match o.obj with
  | .commons _ => s
  | .region r => match s.store.images.find? (fun p => p.2.region == r) with
    | some (img, _) => o.cores.foldl (fun s c => fill31 s img c) s
    | none => s

/-- STAGING_DONE: one of the 16 orders under way has copied every byte, or its read stayed uncorrectable; its writes wait
for an end point that holds off stores (R270). -/
def execStagingDone (order : Nat) (find : EccFind) (s : State) : Res :=
  let s0 := s
  if !domainsUp s || 16 ≤ order then .next s
  else match s.store.orders[order]? with
    | none => .next s
    | some o => match stageSource s o.obj with
      | none => .next { s with store.orders := s.store.orders.eraseIdx order }
      | some (src, size, ta) => match bulkRead s src size find o.jobs.head? with
        | (s, false) =>
          let s := failWorks s o.jobs 0x0301
          .next { s with store.orders := s.store.orders.filter (fun x => x.obj != o.obj) }
        | (s, true) =>
          let s := performOrder s o src size ta
          let s := { s with store.orders := s.store.orders.eraseIdx order }
          let s := (o.jobs.filter (fun j => !isPart j && !staging s j)).foldl (fun s j => markWait s j 3) s
          .next (waitHold none s0 ((o.jobs.flatMap (fun j => (workChain s j).map (·.2))).foldl kick s))

/-! ## Section loads (R434, R442, R443) -/

/-- The register of a window (Table 9-5). A window over a resident copy takes the place of that copy on this core. -/
def windowReg (s : State) (c : Nat) (xs : List ScratchDesc) (w : WinDesc) : Nat :=
  let b := w.base / 4096
  let base := match xs.find? (fun x => decide (x.bank ≤ b) && decide (b < x.bank + sliceBanks x)) with
    | some x => if w.wr then w.base
      else (match s.store.spCopies.find? (fun y => y.core == c && y.obj == refObj x.source) with
        | some y => w.base - x.bank * 4096 + y.banks.headD 0 % 32 * 4096
        | none => w.base)
    | none => w.base
  base + b2n w.wr * 2 ^ 17 + w.size * 2 ^ 32

/-- SOURCE as the loader writes it (R434, R528). -/
def sourceReg (s : State) (k : Core) (src : Nat) : Nat :=
  if 0x1000 ≤ src && src < 0x1040 then
    let q := src - 0x1000
    if mapNode k q ≠ 0 then 0x5000 + entryOut (routeEntry s 6 (mapNode k q)) else 0x1000 + mapCore k q
  else src

/-- Numbers a list from 0. -/
def numbered {α : Type} (l : List α) : Tab α := (List.range l.length).zip l

/-- Section bytes (R443). -/
def sectionBytes (x : SectionDesc) : Nat :=
  64 + roundUp (4 * x.code.length) 64 + roundUp (64 * x.drn.length) 64 + roundUp x.regBytes 64 + roundUp x.data.length 64

/-- A core with a section's registers, stores and feeds. -/
def loadedCore (s : State) (c : Nat) (k : Core) (x : SectionDesc) (slices : List ScratchDesc) (id : Nat × Nat) : Core :=
  { k with
      seq := { k.seq with entry := BitVec.ofNat 64 x.entry, tvec := BitVec.ofNat 64 x.tvec,
                          rattr := numbered (x.rattrs.map (fun r => (r.base + r.limit * 2 ^ 32, b2n r.enable + 2 * b2n r.early))) },
      imem := numbered x.code, codeLen := 4 * x.code.length, drn := numbered x.drn,
      spwin := numbered (x.windows.map (windowReg s c slices)),
      circ := numbered (x.circs.map (fun z => { base := z.base, size := z.size, source := sourceReg s k z.source })),
      nmcfg := bits x.nmcfg 0 3, gthCfg := bits x.gthCfg 0 6, win := [],
      tbl := x.tables.foldl (fun t y => tmod t y.index (List.replicate 8 0) (fun ws =>
        -- reserved bits read zero (Table 16-1)
        [setBits (bits y.w0.toNat 0 58) 0 44 (bits (ws.getD 0 0) 0 44), bits y.w1.toNat 0 43, bits y.w2.toNat 0 32, bits y.w3.toNat 0 50,
          ws.getD 4 0, ws.getD 5 0, 0, 0])) k.tbl,
      walks := numbered (x.walks.map (fun w => ({ w := w } : Walk))), fire := x.fires.foldl (fun t f => tset t f.1 (bits f.2 0 32)) [],
      feeds := x.feeds.map (fun f => { desc := f, walk := { w := f.walk }, credits := 0 }),
      sec := some id }

/-- Credits that the loaded section's core may use: those it was granted by the regions the section writes. -/
def keepCreds (k : Core) (x : SectionDesc) : List Cred :=
  k.creds.filter (fun z => x.producers.any (fun p => mapCore k p.1 == z.core && p.2 == z.region))

/-- The configuration loader has moved a section: registers, stores and DATA are written, credits are granted, and the work starts. -/
def loadSection (s : State) (c w : Nat) (id : Nat × Nat) (x : SectionDesc) : State :=
  let slices := match imageDesc s id.1, posOf s w c with
    | some d, some q => (match d.plans[workPlan s w]? with | some p => slicesAt p (planIx s w q) | none => [])
    | _, _ => []
  let s := dropTotals (dropCredsOf { s with net.creds := s.net.creds.filter (fun z => z.core != c) } c) c
  let s := modCore s c (fun k => { loadedCore s c k x slices id with creds := keepCreds k x })
  let s := (memWrite (flushGb s (spBase c + x.dataOff * 64) x.data.length) (spBase c + x.dataOff * 64) x.data).1
  let cycles := 1200 + cdiv (sectionBytes x) 64
  let s := stall s c 3 0 cycles
  let s := traceCore s c (coreTcids s c) (workTag s w) 0x04 (id.2 % 256 + cycles % 2 ^ 24 * 2 ^ 8)
  let s := (List.range x.circs.length).foldl (fun s r =>
    let z := circ s c r
    if z.size = 0 then s else grantCredits s c r z.size) s
  startWork s c w

/-- CONFIG_LOAD: a core that has a work and not its section loads it from bank 31. -/
def execConfigLoad (core_ : CoreId) (find : EccFind) (s : State) : Res :=
  let c := core_.val
  let k := core s c
  match k.work with
  | none => .next s
  | some w => match sectionOf s w c with
    | none => .next s
    | some id =>
      if !domainsUp s || k.filling || k.seq.run != .idle || k.sec == some id || (members s w).any (staging s)
          || (bank s (c * 32 + 31)).retired then .next s
      -- a section that a poisoned word has dropped is staged again (R247)
      else if !has31 s c id.1 id.2 then .next (orderStaging s w (match tget s.store.images id.1 with | some m => [.region m.region] | none => []))
      else match bulkRead s (spBase c + 31 * 0x40000) 0x40000 find (some w) with
        | (s, false) => .next s
        | (s, true) => match secDesc s id with
          | none => .next s
          | some x =>
            let s := modCore s c (fun k => { k with bank31 := k.bank31.map (fun b => if b.1 = id.1 then
                (b.1, b.2.1, match tget s.dsp.jobs w with | some j => max b.2.2 j.order | none => b.2.2) else b) })
            let s := (loadSection s c w id x)
            .next ((members s w).foldl (fun s j => if isPart j then s else markWait s j 2) s)

/-! ## Deadlines and quenches (R213 to R216) -/

/-- DEADLINE_EXPIRY. -/
def execDeadlineExpiry (job : JobId) (s : State) : Res :=
  let j := job.val
  match tget s.dsp.jobs j with
  | none => .next s
  | some x =>
    if !domainsUp s || x.quench.isSome then .next s
    else match x.stream, x.frame with
      | some _, some (_, rel) => if rel + x.deadline ≤ s.eft.tick then .next (quenchJob s j 0x0201 0 true) else .next s
      | some _, none => .next s
      | none, _ => if x.stamp + x.deadline ≤ s.eft.tick then .next (quenchJob s j 0x0201 0 false) else .next s

/-- A remote part's quench is complete: the origin is answered and the part is freed (R526). -/
def partQuenched (s : State) (w : Nat) : State :=
  match partOf s w with
  | none => s
  | some p => match p.quench with
    | some (us, txid) =>
      if !us.isEmpty then s
      else
        let s := { s with dsp.parts := s.dsp.parts.filter (fun x => x.work != w) }
        let s := recordDup s { src := p.origin, txid := txid, status := 0, sat := false, nan := false }
        p.cores.foldl kick (advanceRepairs (dropPoisoned (sendResponse s p.origin txid 0 false false false [])))
    | none => s

/-! ## Completions, frames and rounds -/

/-- Every write of a work has been performed (R272). -/
def allPerformed (s : State) (w : Nat) : Bool :=
  let g := workGen s w
  !s.net.adds.any (fun a => a.work == w && a.gen == g) && !s.net.toks.any (fun t => t.work == w && t.gen == g)
    && !s.fab.txns.any (fun p => p.2.work == some w && p.2.gen == g)

/-- Every core of the job, here and on other trays, has reported its END. -/
def jobEnded (s : State) (j : Nat) (x : Job) : Bool :=
  x.quench.isNone && x.chain.all (fun p => x.ended.contains p.2) && decide (roundsOf s j ≤ x.round + 1)
    && x.parts.all (fun p => p.st == .ended) && allPerformed s j && (x.stream.isNone || x.frame.isSome)

/-- COMPLETION_POST: a job ends with OK; a stream's frame ends, and the next one starts or the stream ends (R218 to R220, R272). -/
def execCompletionPost (job : JobId) (s : State) : Res :=
  let j := job.val
  match tget s.dsp.jobs j with
  | none => .next s
  | some x =>
    if !domainsUp s || !jobEnded s j x then .next s
    else match x.stream with
      | none => .next (releaseJob (pageJob (postCompl s x.ring (jobCompl x 0 0) true) j) j)
      | some st =>
        let s := pageJob (postCompl s x.ring (jobCompl x 0 (min st.skipped 0xFFFF)) true) j
        let st := { st with skipped := 0, ran := st.ran + 1 }
        let s := setJob s j { x with frame := none, ended := [], stream := some st, waits := [0, 0, 0, 0, 0] }
        if st.ending then .next (finishStream s j 0 0)
        else if st.frames ≠ 0 && st.frames ≤ st.ran then .next (finishStream (skipWaiting s j) j 0 0)
        else match st.waiting with
          | some (k, rel) => .next (startFrame (setJob s j { x with frame := none, ended := [], waits := [0, 0, 0, 0, 0],
                                                                    stream := some { st with waiting := none } }) j k rel)
          | none => .next (x.chain.foldl (fun s p => kick s p.2) s)

/-- The release of frame `k` with a slot reserved (Table 8-6). -/
def releaseFrame (s : State) (j k rel : Nat) (x : Job) (st : Stream) : State :=
  if x.frame.isNone && x.quench.isNone then startFrame s j k rel
  else if st.queue1 then
    let s := skipWaiting s j
    match tget s.dsp.jobs j with
    | some y => (match y.stream with
      | some z => setJob s j { y with stream := some { z with waiting := some (k, rel) } }
      | none => s)
    | none => s
  else setJob (postCompl s x.ring (skipCompl x k) true) j { x with stream := some { st with skipped := 0 } }

/-- FRAME_RELEASE: the release tick of a stream's next frame arrives (R218, R219). -/
def execFrameRelease (job : JobId) (s : State) : Res :=
  let j := job.val
  match tget s.dsp.jobs j with
  | none => .next s
  | some x => match x.stream with
    | none => .next s
    | some st =>
      let k := st.released
      let rel := st.admitted + k * st.period
      let whole := match x.quench with | some q => !q.frameOnly | none => false
      if !domainsUp s || st.ending || whole || s.eft.tick < rel then .next s
      else if !slotFree (ring s x.ring) then
        .next (setJob s j { x with stream := some { st with released := k + 1, skipped := st.skipped + 1 } })
      else
        let st := { st with released := k + 1 }
        let x := { x with stream := some st }
        .next (releaseFrame (setJob (reserve s x.ring) j x) j k rel x st)

/-- ROUND_ADVANCE: every core of the chain has ended a round and the plan has another (R445). -/
def execRoundAdvance (job : JobId) (s : State) : Res :=
  let j := job.val
  match tget s.dsp.jobs j with
  | none => .next s
  | some x =>
    if !domainsUp s || x.quench.isSome || roundsOf s j ≤ x.round + 1 || !x.chain.all (fun p => x.ended.contains p.2)
        || (x.stream.isSome && x.frame.isNone) then .next s
    else
      let s := nextRound s j
      .next (x.chain.foldl (fun s p => writeTablesOf s j p.2) s)

end Sys2Proof.Machine
end

