-- ==== Sys2Proof/Machine/Codeword.lean ====
section
/-! DEFINITION. The flits of a codeword: where frames start, what is an IDLE or LCTL flit, and the checks of a frame (20, R484 to R487,
R490). -/

namespace Sys2Proof.Machine

/-- Word `i` of a flit (R486). -/
def flitWord (f : BitVec 256) (i : Nat) : Nat := bits f.toNat (64 * i) 64

/-- Bytes of a flit: word 0 holds the first ones (R486). -/
def flitBytes (f : BitVec 256) : List Byte := leBytes 32 f.toNat

/-- TYPE and NDATA of a header flit (Table 20-2). -/
def flitType (f : BitVec 256) : Nat := bits (flitWord f 0) 0 4
def flitData (f : BitVec 256) : Nat := bits (flitWord f 0) 6 5

/-- The CRC of a flit holds over its bytes 0 to 23 and the data flits (Table 20-2). -/
def crcHolds (h : BitVec 256) (ds : List (BitVec 256)) : Bool :=
  (crc32 ((flitBytes h).take 24 ++ ds.flatMap flitBytes)).toNat == bits (flitWord h 3) 0 32

/-- A DISC body is listed: on MGT, HELLO in one data flit or an LSR in one to four, every other bit zero (Tables 20-2, 20-6). -/
def discOk (h : BitVec 256) : Bool :=
  bits (flitWord h 0) 4 2 == 2 && flitWord h 2 == 0
    && ((flitWord h 1 == 1 && flitData h == 1) || (flitWord h 1 == 2 && decide (1 ≤ flitData h) && decide (flitData h ≤ 4)))

/-- A TXN body sets no reserved bit (Table 21-3). -/
def txnBodyOk (h : BitVec 256) : Bool := bits (flitWord h 1) 14 2 == 0 && bits (flitWord h 2) 60 4 == 0

/-- A whole frame passes R487. -/
def frameOk (h : BitVec 256) (ds : List (BitVec 256)) : Bool :=
  crcHolds h ds && bits (flitWord h 0) 4 2 != 3 && bits (flitWord h 0) 56 8 == 0 && bits (flitWord h 3) 32 32 == 0
    && (if flitType h = 2 then discOk h else txnBodyOk h)

/-- An LCTL flit passes R487 (Table 20-4). -/
def lctlOk (f : BitVec 256) : Bool :=
  crcHolds f [] && bits (flitWord f 0) 4 4 == 0 && bits (flitWord f 0) 9 7 == 0 && bits (flitWord f 0) 32 32 == 0
    && bits (flitWord f 1) 48 16 == 0 && flitWord f 2 == 0 && bits (flitWord f 3) 32 32 == 0

/-- A frame as the link layer sees it. -/
def frameOf (h : BitVec 256) (ds : List (BitVec 256)) : RxFrame :=
  { vc := (match bits (flitWord h 0) 4 2 with | 0 => .req | 1 => .rsp | _ => .mgt), flits := 1 + ds.length,
    lseq := BitVec.ofNat 16 (bits (flitWord h 0) 40 16), valid := frameOk h ds }

/-- A frame that R487 drops before it is whole. -/
def badFrame : RxFrame := { vc := .req, flits := 1, lseq := 0, valid := false }

/-- One flit with its S bit, after the flits of an open frame: the frames that it ends, good or not, and the frame that is open after it.
IDLE and LCTL flits belong to no frame and leave an open one open; a bad LCTL flit is dropped as a frame is. A frame that begins while one
is open cuts it, and a flit that continues no open frame belongs to one that was dropped (R484, R485; log entry 90). -/
def takeFlit (rx : List (BitVec 256)) (start : Bool) (f : BitVec 256) : List RxFrame × List (BitVec 256) :=
  let grow (xs : List (BitVec 256)) : List RxFrame × List (BitVec 256) := match xs with
    | h :: ds => if ds.length = flitData h then ([frameOf h ds], []) else ([], xs)
    | [] => ([], [])
  if start then
    let cut : List RxFrame := if rx.isEmpty then [] else [badFrame]
    if flitType f = 0 then ([], rx)
    else if flitType f = 8 then ((if lctlOk f then [] else [badFrame]), rx)
    else if !(flitType f = 1 || flitType f = 2) || 16 < flitData f then (cut ++ [badFrame], [])
    else let r := grow [f]; (cut ++ r.1, r.2)
  else if rx.isEmpty then ([], [])
  else grow (rx ++ [f])

/-- The 20 flits of a codeword in order. -/
def takeFlits (rx : List (BitVec 256)) (cw : Codeword) : List RxFrame × List (BitVec 256) :=
  (List.range 20).foldl (fun (r : List RxFrame × List (BitVec 256)) i =>
    let z := takeFlit r.2 (cw.sbits.getLsbD i) (cw.flits.getD i 0)
    (r.1 ++ z.1, z.2)) ([], rx)

end Sys2Proof.Machine
end

