-- ==== Sys2Proof/Machine/Link.lean ====
section
/-! DEFINITION. The commands of the fabric links and of discovery (20_fabric_links_and_discovery.md; 21, R510, R511, R531). -/

namespace Sys2Proof.Machine

/-- FAB runs: the link layer works (Table 3-2). -/
def linkRuns (s : State) : Bool := fabClock s

/-! ## Modules and training -/

/-- MODULE_INSERT (R483, R622, R634). -/
def execModuleInsert (port_ : PortId) (fourLanes withinPower optics : Bool) (s : State) : Res :=
  let p := port_.val
  if (port s p).present then .next s
  else .next (startTraining (modPort s p (fun x => { x with present := true, fits := fourLanes && withinPower, optics := optics })) p)

/-- MODULE_REMOVE: a link failure (R21, R494). -/
def execModuleRemove (port_ : PortId) (s : State) : Res :=
  let p := port_.val
  let s := if alive s then portDown s p false else s
  .next (modPort s p (fun x => { x with present := false, fits := false, st := .down, retry := false }))

/-- Credits of R488 as initial totals. -/
def initCredits : VcCnt := { req := 2048, rsp := 2048, mgt := 64 }

/-- Sends an LCTL with the port's cumulative counts (R490, Table 20-4). -/
def sendLctl (s : State) (p : Nat) (nak : Bool) : State :=
  let x := port s p
  fabSend (setPort s p { x with rxCount := 0 }) (.lctl p nak (x.rxSeq.getD 0xFFFF) x.freed)

/-- Step 4 begins a link: LSEQ starts at 0 and both sides state their buffers (R490, Table 20-5). -/
def startLink (s : State) (p : Nat) : State :=
  sendLctl (modPort s p (fun x => { x with txSeq := 0, rxSeq := none, replay := [], resends := 0, episode := none, nakSent := false, rx := [],
                                           sent := {}, granted := initCredits, freed := initCredits, rxCount := 0 })) p false

/-- Step 5 is complete: the port is UP, with LINK_CHANGE, the whole LSDB in ascending UID order, and a record of its own; a tray
without an address claims one (R493, R495, R502, R503). -/
def portUp (s : State) (p : Nat) : State :=
  let s := modPort s p (fun x => { x with st := .up })
  let s := linkChange s p true
  let s := s.fab.lsdb.foldl (fun s r => sendLsr s r.2.lsr p) s
  claimAddr (originateNow s)

/-- TRAINING_STEP (R493). Step 5 needs the two-way HELLO; optics skip step 2. -/
def execTrainingStep (port_ : PortId) (s : State) : Res :=
  let p := port_.val
  if !linkRuns s then .next s
  else match (port s p).st with
    | .training n =>
      if n = 1 then .next (modPort s p (fun x => { x with st := .training (if x.optics then 3 else 2) }))
      else if n < 4 then .next (modPort s p (fun x => { x with st := .training (n + 1) }))
      else if n = 4 then .next (startLink (modPort s p (fun x => { x with st := .training 5 })) p)
      else if (port s p).twoWay && fabRuns s then .next (portUp s p)
      else .next s
    | _ => .next s

/-- TRAINING_TIMEOUT: the attempt fails; the port retries 1 s later (R494). -/
def execTrainingTimeout (port_ : PortId) (s : State) : Res :=
  let p := port_.val
  match (port s p).st with
  | .training _ => if linkRuns s then .next (ctrAdd (portDown s p true) (portCtr p 5) 1) else .next s
  | _ => .next s

/-- TRAINING_RETRY: the retry or the hold-down is over; with a module present the port trains (R494). -/
def execTrainingRetry (port_ : PortId) (s : State) : Res :=
  let p := port_.val
  let x := port s p
  if linkRuns s && x.st == .down && (x.retry || x.held) then
    let s := setPort s p { x with held := false }
    if mayTrain s p then .next (startTraining (ctrAdd s (portCtr p 6) 1) p) else .next s
  else .next s

/-- FEC_LOCK_LOSS (R494). -/
def execFecLockLoss (port_ : PortId) (s : State) : Res :=
  if linkRuns s then .next (portDown s port_.val true) else .next s

/-! ## The link layer -/

/-- A frame ends in the receiver: accepted when its LSEQ is one above the last one accepted, else discarded, with a NAK at the first
such discard; a bad frame is counted and lost (R487, R491). -/
def rxFrame (s : State) (p : Nat) (f : RxFrame) : State :=
  if !f.valid then ctrAdd s (portCtr p 2) 1
  else
    let x := port s p
    let want : BitVec 16 := match x.rxSeq with | some n => n + 1 | none => 0
    if f.lseq = want then
      let s := setPort s p { x with rxSeq := some f.lseq, nakSent := false, freed := x.freed.add f.vc f.flits, rxCount := x.rxCount + 1 }
      if 16 ≤ x.rxCount + 1 then sendLctl s p false else s
    else if x.nakSent then s
    else sendLctl (setPort s p { x with nakSent := true }) p true

/-- The link layer of the port works: from step 4 on. -/
def linkOn (s : State) (p : Nat) : Bool :=
  linkRuns s && (match (port s p).st with | .up => true | .training n => decide (5 ≤ n) | .down => false)

/-- The flits of a good codeword are taken: each frame that ends in it is received. -/
def rxCodeword (s : State) (p : Nat) (cw : Codeword) : State :=
  let r := takeFlits (port s p).rx cw
  r.1.foldl (fun s f => rxFrame s p f) (modPort s p (fun x => { x with rx := r.2 }))

/-- CODEWORD_RECEIVE: a codeword that cannot be corrected is discarded whole, and every frame with a flit in it is dropped (R485). The
frames of any other are found from its S bits and checked (R484, R487). What an accepted frame or a good LCTL flit says is the command of its
own name: HELLO, LSR, a TXN row or LCTL (log entry 90). -/
def execCodewordReceive (port_ : PortId) (find : EccFind) (cw : Codeword) (s : State) : Res :=
  let p := port_.val
  if !linkOn s p then .next s
  else match find with
    | .uncorrectable _ => .next (modPort (ctrAdd s (portCtr p 1) 1) p (fun x => { x with rx := [] }))
    | .corrected => .next (rxCodeword (ctrAdd s (portCtr p 0) 1) p cw)
    | _ => .next (rxCodeword s p cw)

/-- Resends every unacknowledged frame; the 16th resend of an episode, or 40 µs of it, take the link down (R491, R492). -/
def resend (s : State) (p : Nat) : State :=
  let x := port s p
  if x.replay.isEmpty then s
  else
    let start := x.episode.getD s.eft.tick
    let s := ctrAdd (setPort s p { x with resends := x.resends + 1, episode := some start }) (portCtr p 3) 1
    if 16 ≤ x.resends + 1 || start + 125 ≤ s.eft.tick then portDown s p true
    else fabSend s (.resend p x.replay)

/-- The frames of a replay buffer that an ACK_SEQ does not cover: it covers those up to the frame it names. -/
def ackReplay (fs : List TxFrame) (ack : BitVec 16) : List TxFrame :=
  if fs.any (fun f => f.lseq == ack) then (fs.dropWhile (fun f => f.lseq != ack)).drop 1 else fs

/-- LCTL: acknowledgements, credits, and on a NAK a replay (R490, R491). -/
def execLctl (port_ : PortId) (nak : Bool) (ackSeq crReq crRsp crMgt : BitVec 16) (s : State) : Res :=
  let p := port_.val
  if !linkOn s p then .next s
  else
    let x := port s p
    let rest := ackReplay x.replay ackSeq
    let x := { x with granted := { req := crReq, rsp := crRsp, mgt := crMgt }, replay := rest,
                      resends := if rest.length < x.replay.length then 0 else x.resends,
                      episode := if rest.length < x.replay.length then none else x.episode }
    let s := setPort s p x
    let s := if nak then resend s p else s
    .next (modPort s p (fun x => x.pump x.outq.length))

/-- LCTL_TIMER (R490). -/
def execLctlTimer (port_ : PortId) (s : State) : Res :=
  if linkOn s port_.val then .next (sendLctl s port_.val false) else .next s

/-- REPLAY_TIMEOUT: the oldest unacknowledged frame has waited 4 µs (R491). -/
def execReplayTimeout (port_ : PortId) (s : State) : Res :=
  if linkOn s port_.val then .next (resend s port_.val) else .next s

/-- AGE_DROP: the oldest TXN frame has waited 250 µs in the port's output queue (R510). -/
def execAgeDrop (port_ : PortId) (s : State) : Res :=
  let p := port_.val
  let x := port s p
  if !linkRuns s then .next s
  else match (List.range x.outq.length).find? (fun i => match x.outq[i]? with | some f => f.1 != .mgt | none => false) with
    | some i => .next (ctrAdd (setPort s p { x with outq := x.outq.eraseIdx i }) (portCtr p 10) 1)
    | none => .next s

/-! ## HELLO -/

/-- HELLO (R496): a UID other than the neighbour's takes the port down; one that names this tray's UID completes the exchange, and one
more HELLO is sent. -/
def execHello (port_ : PortId) (uid heardUid : Nat) (node : BitVec 12) (nport : PortId) (tentative : Bool) (s : State) : Res :=
  let p := port_.val
  let x := port s p
  if !linkOn s p || !fabRuns s then .next s
  else if x.heard ≠ 0 && x.heard ≠ uid then .next (portDown s p true)
  else
    let two := x.twoWay || heardUid == Config.uid.toNat
    let s := setPort s p { x with heard := uid, twoWay := two,
                                  nbr := some { uid := uid, node := node.toNat, nport := nport.val, tentative := tentative } }
    .next (if two && !x.twoWay then sendHello s p else s)

/-- HELLO_TIMER: every 1 ms of step 5 (R496). -/
def execHelloTimer (port_ : PortId) (s : State) : Res :=
  if fabRuns s && (port s port_.val).st == .training 5 then .next (sendHello s port_.val) else .next s

/-! ## Link-state records -/

/-- A record is newer than one held of its UID (R498). -/
def newerSeq (new held : BitVec 32) : Bool := let d := (new - held).toNat; decide (1 ≤ d) && decide (d ≤ 2147483647)

/-- A change that routes depend on: a link, a node address or a flag (R511). -/
def recChanged (old : Option LsrRec) (r : LsrRec) : Bool :=
  match old with
  | none => true
  | some o => o.node != r.node || o.tentative != r.tentative || o.withdrawn != r.withdrawn || o.links != r.links

/-- A node address of the host's set comes to name a different UID (R517). -/
def hostAddrChanged (s : State) (r : LsrRec) : Bool :=
  match s.fab.hostSet with
  | some hs => hs.any (fun x => (x.1 == r.node.toNat) != (x.2 == r.uid) && (x.1 == r.node.toNat || x.2 == r.uid) && r.node != 0)
  | none => false

/-- Stores a record and floods it; a link of the host's set that it no longer names, or an address that moves, ends the set. -/
def storeLsr (s : State) (p : Nat) (r : LsrRec) : State :=
  let old := (tget s.fab.lsdb r.uid).map (·.lsr)
  let lostLink := match old with
    | some o => o.links.any (fun l => !r.links.contains l)
    | none => false
  let s := { s with fab.lsdb := tset s.fab.lsdb r.uid { lsr := r, time := s.eft.time }, fab.dirty := s.fab.dirty || recChanged old r }
  let s := floodLsr s r (some p)
  let s := match s.fab.hostSet with
    | some hs =>
      if hostAddrChanged s r then revertRoutes s 1
      else if lostLink && hs.any (fun x => x.2 == r.uid) then revertRoutes s 0
      else s
    | none => s
  let s := checkReach s
  if losesTo s r then yieldAddr s else s

/-- LSR (R498, R499, R504). -/
def execLsr (port_ : PortId) (rec : LsrRec) (s : State) : Res :=
  let p := port_.val
  if !fabRuns s || !linkOn s p then .next s
  else if rec.uid = Config.uid.toNat then
    (if newerSeq rec.seq s.fab.seq then .next (originateNow { s with fab.seq := rec.seq }) else .next s)
  else match tget s.fab.lsdb rec.uid with
    | some h => if newerSeq rec.seq h.lsr.seq then .next (storeLsr s p rec) else .next s
    | none =>
      if 4096 ≤ s.fab.lsdb.length then .next (ctrAdd s 0x728 1) else .next (storeLsr s p rec)

/-- LSR_REFRESH: two seconds without a change (R498). -/
def execLsrRefresh (s : State) : Res := if fabRuns s then .next (originateNow s) else .next s

/-- LSR_AGE_EXPIRY: the record of an unreachable tray at 7 s, a withdrawn one at 1 hour (R500). -/
def execLsrAgeExpiry (uid : Nat) (s : State) : Res :=
  match tget s.fab.lsdb uid with
  | none => .next s
  | some r =>
    let age := if r.lsr.withdrawn then 3600000000000 else 7000000000
    if !fabRuns s || (reachable (allRecs s) Config.uid.toNat).contains uid || s.eft.time < r.time + age then .next s
    else .next { s with fab.lsdb := tdel s.fab.lsdb uid }

/-- ADDR_FIRM: 20 ms without conflict (R503). -/
def execAddrFirm (s : State) : Res :=
  if fabRuns s && s.fab.addr == .tentative && !s.fab.lsdb.any (fun r => losesTo s r.2.lsr) then
    .next (originate { s with fab.addr := .firm, eft.lastNode := s.fab.node })
  else .next s

/-! ## Routes -/

/-- ROUTE_COMPUTE: five milliseconds after the first change (R511). -/
def execRouteCompute (s : State) : Res :=
  if fabRuns s && s.fab.dirty then
    (if s.fab.hostSet.isSome then .next { s with fab.dirty := false }
     else .next { s with fab.dirty := false, fab.computing := true, fab.nextTables := routeTables (allRecs s) (selfRec s) })
  else .next s

/-- Jobs with a remote part on a tray without a route end, that tray counting as having acknowledged (R531). -/
def quenchLost (s : State) : State :=
  let gone (p : OPart) : Bool := p.st != .ended && !hasRoute s p.node
  let hit := (s.dsp.jobs.filter (fun e => e.2.parts.any gone)).map (·.1)
  let s := quenchWhere s (fun j _ => hit.contains j) 0x0401 0
  let jobs := tmap s.dsp.jobs (fun _ j => match j.quench with
      | some q => { j with quench := some { q with remote := q.remote.filter (fun st =>
          !j.parts.any (fun p => p.stage == st && !hasRoute s p.node)) } }
      | none => j)
  hit.foldl quenchDone { s with dsp.jobs := jobs }

/-- What a route set that leaves trays unreachable does to jobs, parts and transactions, and the records of lost sources (R531,
R533). -/
def afterInstall (s : State) : State :=
  let s := quenchLost s
  -- remote parts of a lost origin end (R526)
  let s := (s.dsp.parts.filter (fun p => !hasRoute s p.origin)).foldl (fun s p => freePart s p.work) s
  let keep (n : Nat) : Bool := hasRoute s n
  { s with fab.expect := s.fab.expect.filter (fun e => keep e.1), fab.dups := s.fab.dups.filter (fun d => keep d.src) }

/-- Installs a set of tables in one cycle (R511). -/
def installTables (s : State) (t : Tab (Tab Nat)) : State :=
  let s := { s with fab.tables := t, boot.routed := s.boot.routed || s.fab.node != 0 }
  let n := (reachable (allRecs s) Config.uid.toNat).length
  afterInstall (raiseEvent s 0x0051 (s.fab.node.toNat + n * 65536) 0)

/-- ROUTES_INSTALLED (R511). -/
def execRoutesInstalled (s : State) : Res :=
  if fabRuns s && s.fab.computing then .next (installTables { s with fab.computing := false } s.fab.nextTables) else .next s

/-- TXN_FORWARD: a frame for another tray goes on with HOPS advanced (R486, R487, R507, R510). -/
def execTxnForward (port_ : PortId) (frame : FwdFrame) (s : State) : Res :=
  let p := port_.val
  if !linkRuns s then .next s
  else if 16 ≤ frame.hops then .next (ctrAdd s (portCtr p 8) 1)
  else
    let e := routeEntry s p frame.dst.toNat
    let o := entryOut e
    if entryValid e && !entryDeliver e && (port s o).st == .up then
      .next (enqueue (fabSend s (.forward o { frame with hops := frame.hops + 1 })) o frame.vc frame.flits)
    else .next (ctrAdd s (portCtr p 9) 1)

end Sys2Proof.Machine
end

