-- ==== Sys2Proof/Machine/CmdFabric.lean ====
section
/-! DEFINITION. The fabric commands, and the replication of hot rows (07, R184, R185; 16, R419 to R422; 21, R514 to R517). -/

namespace Sys2Proof.Machine

/-! ## FABRIC_QUERY -/

/-- Trays reachable under R500, this one included by the path without links (log entry 56). -/
def traysReached (s : State) : Nat := (reachable (allRecs s) Config.uid.toNat).length

/-- PORT: NEIGH, STATE, reserved (Table 7-6). -/
def portRecord (s : State) (p : Nat) : List Byte :=
  let x := port s p
  let n := match x.nbr with | some n => if n.tentative then 0 else n.node | none => 0
  let st := match x.st with | .down => 0 | .training _ => 1 | .up => 2
  leBytes 2 n ++ leBytes 1 st ++ zeros 1

def execFabricQuery (slot : SlotId) (s : State) : Res :=
  .next (runCmd slot.val 0x0801 false anyFields (fun _ s =>
    .ok s (leBytes 2 s.fab.node.toNat ++ leBytes 2 (traysReached s) ++ leBytes 1 (b2n s.fab.hostSet.isSome) ++ zeros 3
      ++ leBytes 8 Config.uid.toNat ++ leBytes 8 (rootOf (routed (allRecs s) Config.uid.toNat))
      ++ (List.range 6).flatMap (portRecord s))) s)

/-! ## Host routes (R514, R515) -/

/-- A tray block of a route set: its UID, node address and seven tables. -/
structure RBlock where
  uid : Nat
  node : Nat
  tabs : Tab (Tab Nat)
deriving DecidableEq, Repr

/-- The nonzero entries of table `t` of a block. -/
def blockTable (bs : List Byte) (t : Nat) : Tab Nat :=
  (List.range 4096).filterMap (fun d =>
    let e := leAt bs (64 + 8192 * t + 2 * d) 2
    if e = 0 then none else some (d, e))

def blockAt (data : List Byte) (i : Nat) : RBlock :=
  let bs := slice data (64 + 57408 * i) 57408
  { uid := leAt bs 0 8, node := leAt bs 8 2, tabs := (List.range 7).map (fun t => (t, blockTable bs t)) }

/-- An entry that Table 21-1 allows at destination `d` in a block of node `node`: DELIVER is 1 at the block's own address. -/
def entryEncOk (node d e : Nat) : Bool :=
  bits e 5 3 == 0 && bits e 13 3 == 0 && decide (bits e 0 3 ≤ 5) && decide (bits e 8 5 ≤ 16)
    && entryDeliver e == (d == node) && (!entryDeliver e || entryValid e)

def blockEncOk (b : RBlock) : Bool :=
  b.tabs.all (fun t => t.2.all (fun e => entryEncOk b.node e.1 e.2))

/-- The node that the database holds for a UID. -/
def nodeOf (s : State) (uid : Nat) : Option Nat := (recOf (allRecs s) uid).map (fun r => r.node.toNat)

/-- The blocks of a set that R514 accepts. -/
def routeSet (s : State) (len : Nat) (data : List Byte) : Option (List RBlock) :=
  let n := leAt data 2 2
  if leAt data 0 2 ≠ 1 || n = 0 || 4094 < n || len ≠ 64 + 57408 * n || (slice data 4 60).any (· != 0) then none
  else
    let bs := (List.range n).map (blockAt data)
    let pad (i : Nat) : Bool := (slice data (64 + 57408 * i + 10) 54).all (· == 0)
    if (List.range n).all pad && bs.all (fun b => nodeOf s b.uid == some b.node && blockEncOk b)
        && decide ((bs.map (·.uid)).Nodup) && bs.any (fun b => b.uid == Config.uid.toNat)
    then some bs else none

/-- Where a frame goes that leaves a tray by a port: the next tray and its arrival port. -/
def hopOf (rs : List LsrRec) (uid p : Nat) : Option (Nat × Nat) :=
  match recOf rs uid with
  | none => none
  | some r => ((linksOf rs r).find? (fun l => l.port == p)).map (fun l => (l.nuid, l.nport))

def rblockOf (bs : List RBlock) (uid : Nat) : Option RBlock := bs.find? (fun b => b.uid == uid)

/-- Output ports that a block's table names. -/
def tableOuts (b : RBlock) (t : Nat) : List Nat :=
  (((tgetD b.tabs t []).filter (fun e => entryValid e.2 && !entryDeliver e.2)).map (fun e => entryOut e.2)).eraseDups

/-- The directed links that the database holds between two trays of the set (R515). -/
def setLinks (rs : List LsrRec) (bs : List RBlock) : List (Nat × Nat) :=
  bs.flatMap (fun b => (List.range 6).filterMap (fun p => match hopOf rs b.uid p with
    | some h => if (rblockOf bs h.1).isSome then some (b.uid, p) else none
    | none => none))

/-- Links on which a frame that arrives on a link goes on. -/
def linkNext (rs : List LsrRec) (bs : List RBlock) (l : Nat × Nat) : List (Nat × Nat) :=
  match hopOf rs l.1 l.2 with
  | none => []
  | some h => match rblockOf bs h.1 with
    | some b => (tableOuts b h.2).map (fun o => (b.uid, o))
    | none => []

/-- Links that lie on a cycle or lead to one: what is left once those without a successor are taken away; `n` bounds the rounds. -/
def onCycles (next : Nat × Nat → List (Nat × Nat)) : Nat → List (Nat × Nat) → List (Nat × Nat)
  | 0, ls => ls
  | n + 1, ls => onCycles next n (ls.filter (fun l => (next l).any ls.contains))

/-- A frame for `d` at a tray, in a table, is delivered within `n - 1` hops. -/
def reaches (rs : List LsrRec) (bs : List RBlock) (d : Nat) : Nat → Nat → Nat → Bool
  | 0, _, _ => false
  | n + 1, uid, t => match rblockOf bs uid with
    | none => false
    | some b =>
      let e := tgetD (tgetD b.tabs t []) d 0
      entryValid e && (entryDeliver e || (match hopOf rs uid (entryOut e) with
        | some h => reaches rs bs d n h.1 h.2
        | none => false))

/-- The set passes R515. -/
def setSound (rs : List LsrRec) (bs : List RBlock) : Bool :=
  let ls := setLinks rs bs
  (onCycles (linkNext rs bs) ls.length ls).isEmpty
    && bs.all (fun b => (List.range 7).all (fun t => (tableOuts b t).all (fun o => (hopOf rs b.uid o).isSome)))
    && bs.all (fun b => ((tgetD b.tabs 6 []).filter (fun e => entryValid e.2)).all (fun e => reaches rs bs e.1 17 b.uid 6))

def routesLoadFields (_ : State) (p : List Byte) : Bool := leAt p 0 8 % 64 == 0 && leAt p 12 4 == 0

def execRoutesLoad (slot : SlotId) (buf : HostRead) (s : State) : Res :=
  .next (runCmd slot.val 0x0802 true routesLoadFields (fun r s =>
    let len := leAt r.payload 8 4
    match buf with
    | .fault => .refuse 0x0104
    | .ok data =>
      if data.length < len then .refuse 0x0104
      else match routeSet s len (data.take len) with
        | none => .refuse 0x0411
        | some bs => match rblockOf bs Config.uid.toNat with
          | none => .refuse 0x0411
          | some own =>
            if !setSound (allRecs s) bs then .refuse 0x0410
            else
              let s := { s with fab.hostSet := some (bs.map (fun b => (b.node, b.uid))), fab.computing := false, fab.dirty := false }
              .ok (ledgerCmd (installTables s own.tabs) slot.val r 0 0 0) []) s)

/-- ROUTES_AUTO (R185, R517): the response follows the start of the computation. -/
def execRoutesAuto (slot : SlotId) (s : State) : Res :=
  .next (runCmd slot.val 0x0803 true anyFields (fun r s =>
    let s := { s with fab.hostSet := none, fab.dirty := false, fab.computing := true, fab.nextTables := routeTables (allRecs s) (selfRec s) }
    .ok (ledgerCmd s slot.val r 0 0 0) []) s)

/-! ## Hot rows (R419 to R422) -/

def hotrowPolicyFields (_ : State) (p : List Byte) : Bool :=
  decide (leAt p 0 2 < 4096) && decide (leAt p 2 1 ≤ 1) && leAt p 3 1 == 0 && decide (1 ≤ leAt p 4 4) && decide (leAt p 4 4 ≤ 65536)

def execHotrowPolicy (slot : SlotId) (s : State) : Res :=
  .next (runCmd slot.val 0x0804 true hotrowPolicyFields (fun r s =>
    let t := leAt r.payload 0 2
    let mode := leAt r.payload 2 1
    if !tcidOk t then .refuse 0x0120
    else if !tenantOpen s t then .refuse 0x0125
    else
      let ts := tmod s.store.tenants t {} (fun x => { x with hotMode := mode, hotMax := leAt r.payload 4 4 })
      let rows := if mode = 0 then s.store.hotRows.filter (fun x => x.1 != t) else s.store.hotRows
      .ok (ledgerCmd { s with store.tenants := ts, store.hotRows := rows } slot.val r t t 0) []) s)

/-- A SHARDED table: the region of its first shard, its shard map entries (NODE, PRESENT, REGION), rows per shard and bytes per row. -/
structure HotTable where
  region : Nat
  entries : List (Nat × Bool × Nat)
  shardRows : Nat
  rp : Nat
deriving DecidableEq, Repr

/-- The SHARDED tables of an image. -/
def shardedTables (d : ImageDesc) : List HotTable :=
  d.sections.flatMap (fun x => (x.tables.filter (fun y => bits y.w0.toNat 44 2 == 2)).map (fun y =>
    let es := (d.shardMaps.drop (bits y.w3.toNat 40 10)).take (bits y.w3.toNat 32 8 + 1)
    { region := (es.map (fun e => e.2.2)).headD 0, entries := es, shardRows := max 1 (bits y.w3.toNat 0 32),
      rp := rowPitch (etypeOf (bits y.w0.toNat 46 4)) (bits y.w1.toNat 32 11 + 1) }))

/-- An image names the table. -/
def namesTable (d : ImageDesc) (region : Nat) : Bool := (shardedTables d).any (fun h => h.region == region)

/-- The table of a tenant that has a shard in a region. -/
def hotTable (s : State) (t shard : Nat) : Option HotTable :=
  ((s.store.images.filter (fun p => p.2.owner == t)).flatMap (fun p => shardedTables p.2.desc)).find? (fun h =>
    h.entries.any (fun e => e.2.2 == shard))

/-- HLOG2: the smallest power of two at or above 2 × MAX_ROWS, at least 512 (R420). -/
def replicaLog2 (maxRows : Nat) : Nat := ((List.range 9).find? (fun i => decide (2 * maxRows ≤ 2 ^ (9 + i)))).getD 8 + 9

/-- The replica of a table, allocated at its first insert and charged to TA_USED; none when the quota or tier A has no room (R52, R420). -/
def openReplica (s : State) (t : Nat) (h : HotTable) : Option (Replica × State) :=
  match replicaOf s t h.region with
  | some r => some (r, s)
  | none =>
    let x := tenant s t
    let lg := replicaLog2 x.hotMax
    let size := roundUp (8 * 2 ^ lg + x.hotMax * h.rp) 0x10000
    if x.taQuota < taUsed s t + mib size then none
    else match alloc s true size with
      | none => none
      | some (a, s) => some ({ base := a, size := size, log2 := lg, rp := h.rp, rows := [] }, s)

/-- Inserts a row into the replica of its table: the row first, then the entry; none when the tray declines (R419, R420). -/
def insertHot (s : State) (t : Nat) (h : HotTable) (row : Nat) (bs : List Byte) : Option State :=
  if (tenant s t).hotMode ≠ 1 || ledgerFull s then none
  else match openReplica s t h with
    | none => none
    | some (r, s) =>
      let cap := (r.size - 8 * 2 ^ r.log2) / max 1 r.rp
      let slot := r.rows.length
      let at_ (i : Nat) : Nat := r.base + 64 * (row % 2 ^ (r.log2 - 3)) + 8 * i
      match (List.range 8).find? (fun i => !bitAt (leAt (memRead s (at_ i) 8) 0 8) 48) with
      | none => none
      | some i =>
        if min cap (tenant s t).hotMax ≤ slot then none
        else
          let s := (memWrite s (r.base + 8 * 2 ^ r.log2 + slot * r.rp) (padTo r.rp bs)).1
          let s := (memWrite s (at_ i) (leBytes 8 (row + slot * 2 ^ 32 + 2 ^ 48))).1
          some { s with store.replicas := tset s.store.replicas (t * 2 ^ 32 + h.region) { r with rows := r.rows ++ [row] } }

/-- The row stands in this tray's replica. -/
def replicated (s : State) (t : Nat) (h : HotTable) (row : Nat) : Bool :=
  match replicaOf s t h.region with | some r => r.rows.contains row | none => false

/-- GTH_REPL_DECLINED of the tenant. -/
def declineRow (s : State) (t : Nat) : State := pageAdd s t wReplDeclined 1

/-- An insertion that is declined; one that the full ledger alone forbids at this tenant's mode is a refused action of Swifort (R576). -/
def declineInsert (s : State) (t : Nat) : State :=
  declineRow (if (tenant s t).hotMode = 1 && ledgerFull s then ctrAdd s 0x800 1 else s) t

/-- The node of a shard's owner, 0 for this tray. -/
def ownerNode (h : HotTable) (shard : Nat) : Nat :=
  match h.entries.find? (fun e => e.2.2 == shard) with | some e => e.1 | none => 0

/-- The bytes of a flagged row: from this tray's own shard, else as its owner sent them. -/
def hotBytes (s : State) (h : HotTable) (shard row : Nat) (rows : List (Nat × List Byte)) : Option (List Byte) :=
  if ownerNode h shard = 0 then
    (tget s.store.regions shard).map (fun g => memRead s (g.base + row % h.shardRows * h.rp) h.rp)
  else (rows.find? (fun x => x.1 == row)).map (fun x => padTo h.rp x.2)

/-- Sends one row to every tray that holds a shard, other than its owner, and takes it here. -/
def spreadRow (s : State) (t : Nat) (h : HotTable) (shard row : Nat) (bs : List Byte) : State :=
  let own := ownerNode h shard
  let to_ := ((h.entries.filter (fun e => e.2.1 && e.1 != own)).map (·.1)).eraseDups
  to_.foldl (fun s n =>
    if n = 0 then (insertHot s t h row bs).getD (declineInsert s t)
    else sendTxn s n (.hotrow shard row bs) 0 0 0 none 64 0) s

/-- HOTROW_SENT: Swifort replicates the flagged rows of one table that wait, with one ledger entry. -/
def execHotrowSent (tcid region : Nat) (rows : List (Nat × List Byte)) (s : State) : Res :=
  if !fwUp s || !domainsUp s || (tenant s tcid).hotMode ≠ 1 then .next s
  else match hotTable s tcid region with
    | none => .next s
    | some h =>
      let mine (x : Nat × Nat × Nat) : Bool := x.1 == tcid && h.entries.any (fun e => e.2.2 == x.2.1)
      let todo := s.store.hotRows.filter mine
      let s := { s with store.hotRows := s.store.hotRows.filter (fun x => !mine x) }
      let send := todo.filterMap (fun x => if replicated s tcid h x.2.2 then none
        else (hotBytes s h x.2.1 x.2.2 rows).map (fun bs => (x.2.1, x.2.2, bs)))
      if send.isEmpty then .next s
      else .next (ledgerSelf (send.foldl (fun s x => spreadRow s tcid h x.1 x.2.1 x.2.2) s) 0x8008 tcid h.region send.length)

/-- An admitted job or remote part of the tenant reads the table. -/
def tableRead (s : State) (t region : Nat) : Bool :=
  let reads (img : Nat) : Bool := match imageDesc s img with | some d => namesTable d region | none => false
  s.dsp.jobs.any (fun e => e.2.tcid == t && reads e.2.image) || s.dsp.parts.any (fun p => p.tcid == t && reads p.image)

/-- REPLICA_DROP: MODE 0, a destroyed tenant, or no registered image that names the table; and no job reads it (R422). -/
def execReplicaDrop (tcid region : Nat) (s : State) : Res :=
  let due := (tenant s tcid).hotMode == 0 || !tenantOpen s tcid
    || !s.store.images.any (fun p => p.2.owner == tcid && namesTable p.2.desc region)
  if !fwUp s || !domainsUp s || !due || tableRead s tcid region then .next s
  else .next (dropReplicas s (fun k => k == tcid * 2 ^ 32 + region))

end Sys2Proof.Machine
end

