-- ==== Sys2Proof/Machine/Drain.lean ====
section
/-! DEFINITION. The drain and its programs (13, R344 to R356; 21, R527). -/

namespace Sys2Proof.Machine

/-! ## Drain programs (R349 to R351) -/

structure DrnOp where
  opc : Nat
  win : Nat
  off : Nat
  ksel : Nat
  res : Nat
deriving DecidableEq, Repr

/-- Slot `i` of a program. -/
def drnSlot (p : List Byte) (i : Nat) : DrnOp :=
  let x := leAt p (4 * i) 4
  { opc := bits x 0 6, win := bits x 6 2, off := bits x 8 17, ksel := bits x 25 3, res := bits x 28 4 }

/-- Constant K`i`. -/
def drnK (p : List Byte) (i : Nat) : Nat := leAt p (32 + 4 * i) 4

/-- The ops before END. -/
def drnOps (p : List Byte) : List DrnOp := ((List.range 8).map (drnSlot p)).takeWhile (fun o => o.opc != 0)

def isVecOp (o : Nat) : Bool := within 1 4 o
def isTileOp (o : Nat) : Bool := o == 5 || o == 6

/-- Constants an op uses. -/
def opKs (o : Nat) : Nat :=
  match o with
  | 0x08 | 0x09 | 0x0B => 1
  | 0x0C | 0x0D => 2
  | _ => 0

/-- A program that R349 and R350 allow: every slot after END is zero. -/
def drnOk (p : List Byte) : Bool :=
  let ops := drnOps p
  ops.all (fun o => [1, 2, 3, 4, 5, 6, 8, 9, 10, 11, 12, 13, 14].contains o.opc && o.res == 0 && decide (o.ksel + opKs o.opc ≤ 8))
    && decide (ops.countP (fun o => isVecOp o.opc) ≤ 2) && decide (ops.countP (fun o => o.opc == 0x0D) ≤ 1)
    && decide (ops.countP (fun o => o.opc == 0x0E) ≤ 1)
    && ((p.take 32).drop (4 * (ops.length + 1))).all (· == 0)

/-- An op with its operand: words of FP32, by row for a tile. -/
structure DrnRun where
  op : DrnOp
  vec : List Nat
  tile : List (List Nat)

/-- LUT (R351). -/
def lut (tab : List Nat) (lo sc v : Nat) : Nat :=
  if isNan32 v then fp32.nan
  else
    let i := match f32 (mul32 (sub32 v lo) sc) with
      | .nan => Config.lutIndex v lo sc % 256
      | .inf neg => if neg then 0 else 255
      | .fin neg m e =>
        if neg && m ≠ 0 then 0
        else
          let k := if 0 ≤ e then m <<< e.toNat else m >>> (-e).toNat
          min k 255
    let c0 := tab.getD (3 * i) 0; let c1 := tab.getD (3 * i + 1) 0; let c2 := tab.getD (3 * i + 2) 0
    add32 c0 (mul32 v (add32 c1 (mul32 v c2)))

/-- One op on the value of element (m, n) (Table 13-4). -/
def drnStep (p : List Byte) (m n v : Nat) (r : DrnRun) : Nat :=
  let k := drnK p r.op.ksel
  match r.op.opc with
  | 0x01 => add32 v (r.vec.getD n 0)
  | 0x02 => mul32 v (r.vec.getD n 0)
  | 0x03 => add32 v (r.vec.getD m 0)
  | 0x04 => mul32 v (r.vec.getD m 0)
  | 0x05 | 0x06 => add32 v ((r.tile.getD m []).getD n 0)
  | 0x08 => add32 v k
  | 0x09 => mul32 v k
  | 0x0A => max32 v 0
  | 0x0B => if fvCmp (f32 v) (.fin false 0 0) == some .lt then mul32 v k else v
  | 0x0C => min32 (max32 v k) (drnK p (r.op.ksel + 1))
  | 0x0D => lut r.vec k (drnK p (r.op.ksel + 1)) v
  | _ => v

/-! ## Setup reads -/

/-- What loading a program's operands answers. -/
inductive LoadOps where
  | ok (runs : List DrnRun) (s : State)
  | fail (s : State)

def words32 (bs : List Byte) : List Nat := (List.range (bs.length / 4)).map (fun i => leAt bs (4 * i) 4)

/-- Reads the operands of a program's ops; `fn` is the fold's N. -/
def loadOps (c w mv nv fn : Nat) : List DrnOp → State → LoadOps
  | [], s => .ok [] s
  | o :: os, s =>
    let rest (r : DrnRun) (s : State) : LoadOps := match loadOps c w mv nv fn os s with
      | .ok rs s => .ok (r :: rs) s
      | .fail s => .fail s
    let vec (n : Nat) : LoadOps := match engRead s c w o.win (o.off * 64) n with
      | .ok bs s => rest { op := o, vec := words32 bs, tile := [] } s
      | .fail s => .fail s
    let tile (t : EType) : LoadOps := match readTile 2 c w o.win (o.off * 64) (pitchOf t fn) (t.size nv) mv s with
      | .ok rows s => rest { op := o, vec := [], tile := rows.map (fun r => (elems t r nv).map t.widen) } s
      | .fail s => .fail s
    match o.opc with
    | 0x01 | 0x02 => vec (4 * nv)
    | 0x03 | 0x04 => vec (4 * mv)
    | 0x05 => tile .fp32
    | 0x06 => tile .bf16
    | 0x0D => vec 3072
    | _ => rest { op := o, vec := [], tile := [] } s

/-! ## Rows -/

/-- One drained row: its bytes, its ROWSTAT pair, and what it met. -/
structure DrnRow where
  owner : Nat
  bytes : List Byte
  stat : Option (Nat × Nat)
  /-- A MERGE2 addition or the ROWSTAT sum has saturated (R342). -/
  fresh : Bool
  sat : Bool
  nan : Bool
  limited : Nat

/-- Packs patterns of a type (R314). -/
def packElems (t : EType) (xs : List Nat) : List Byte :=
  match t with
  | .int4 => (List.range ((xs.length + 1) / 2)).map (fun i => BitVec.ofNat 8 (xs.getD (2 * i) 0 % 16 + xs.getD (2 * i + 1) 0 % 16 * 16))
  | _ => xs.flatMap (leBytes (t.nbits / 8))

/-- The maximum and the saturating sum of a row (R353). -/
def rowStat (vs : List Nat) : (Nat × Nat) × Bool :=
  let (sum, sat) := vs.foldl (fun (r : Nat × Bool) v => let (x, b) := addSat32 r.1 (f32 v); (x, r.2 || b)) (0, false)
  if vs.any isNan32 then ((fp32.nan, fp32.nan), sat)
  else ((vs.foldl max32 (fp32.inf true), sum), sat)

/-- Drains row `m`: `x` and, under MERGE2, `y` are the sets; `isF` the type of their values. -/
def drainRow (p : List Byte) (runs : List DrnRun) (t : EType) (isF : Bool) (fold nv : Nat) (x : AccSet) (y : Option AccSet)
    (dflt m : Nat) : DrnRow :=
  let base (n : Nat) : Nat × Bool :=
    let a := accGet x fold m n
    match y with | some y => accAdd isF a (accGet y fold m n) | none => (a, false)
  let v0 := (List.range nv).map base
  let start (v : Nat) : Nat := if runs.isEmpty || isF then v else fp32.enc (fvInt (i32 v))
  let upto (rs : List DrnRun) : List Nat := (List.range nv).map (fun n =>
    rs.foldl (fun v r => drnStep p m n v r) (start (v0.getD n (0, false)).1))
  let stat := if runs.any (fun r => r.op.opc == 0x0E) then
      some (rowStat (upto (runs.takeWhile (fun r => r.op.opc != 0x0E)))) else none
  let out := upto runs
  let fOut := isF || !runs.isEmpty
  let conv := out.map (convOut t fOut runs.isEmpty)
  let rx := accRow x m
  let ry := match y with | some y => accRow y m | none => {}
  let fresh := v0.any (·.2) || (match stat with | some z => z.2 | none => false)
  { owner := if !rx.clear then rx.owner else if !ry.clear then ry.owner else dflt,
    bytes := packElems t (conv.map (·.1)), stat := stat.map (·.1), fresh := fresh, sat := rx.sat || ry.sat || fresh,
    nan := rx.nan || ry.nan || (fOut && out.any isNan32), limited := conv.countP (·.2) }

/-! ## DRAIN -/

/-- The tags a DRAIN works under: those of ACC, or of ACC2 when every row of ACC is CLEAR, which matches any tag (R344); a set without tags
counts as FP32 in SQUARE (log entry 15). -/
def drainTag (k : Core) (i : Nat) : Bool × Nat :=
  let x := accSet k (iAcc i); let y := accSet k (dAcc2 i)
  ((if dMerge2 i && allClear x && y.tag.isSome && (!allClear y || x.tag.isNone) then y.tag else x.tag)).getD (true, 0)

def drainProg (k : Core) (i : Nat) : List Byte := tgetD k.drn (dChain i) (zeros 64)

def drainPitch (k : Core) (i : Nat) : Nat := pitchOf (etypeOf (dOtype i)) (foldN (drainTag k i).2)

/-- Units of a token (R348). -/
def drainUnits (k : Core) (i : Nat) : Nat := cdiv (mMv i * drainPitch k i) 4096

/-- What ends the job with INVALID_FIELD at issue (R344, R348, R350, R434, R527; and MV and NV beyond the set's fold, log entry
15). -/
def drainInvalid (k : Core) (i : Nat) : Bool :=
  let x := accSet k (iAcc i); let y := accSet k (dAcc2 i)
  let t := etypeOf (dOtype i)
  (dMerge2 i && (dAcc2 i = iAcc i || (!allClear x && !allClear y && x.tag != y.tag)))
    || decide (foldK (drainTag k i).2 < mMv i) || decide (foldN (drainTag k i).2 < mNv i)
    || !drnOk (drainProg k i)
    || (if iOp i = 1 then decide (f1Len i * 256 < (mMv i - 1) * drainPitch k i + t.size (mNv i))
        else !mapValid k (dCore i) || (iOp i = 2) != (mapNode k (dCore i) = 0 : Bool))

/-- Key of a producer's total for a region of another tray (R528). -/
def totKey (c node dcore dreg : Nat) : Nat := ((c * 4096 + node) * 64 + dcore) * 16 + dreg

/-- Credits for a region of another tray. -/
def remoteCredit (s : State) (c node dcore dreg : Nat) : Nat :=
  let (total, sent) := tgetD s.fab.totals (totKey c node dcore dreg) (0, 0)
  (total - BitVec.ofNat 32 sent).toNat

/-- WRITE transactions of a token. -/
def pieceCount (n : Nat) : Nat := cdiv n 480

/-- The drain accepts a DRAIN: no other one runs, and a token has its credits and tracker entries (R345, R243, R519). -/
def drainReady (s : State) (c : Nat) (k : Core) (i : Nat) : Bool :=
  !k.pend.any (fun p => p.eng == 2)
    && (drainInvalid k i || iOp i == 1
      || (iOp i == 2 && decide (drainUnits k i ≤ creditOf k (mapCore k (dCore i)) (dReg i)))
      || (iOp i == 3 && decide (drainUnits k i ≤ remoteCredit s c (mapNode k (dCore i)) (mapCore k (dCore i)) (dReg i))
          && decide (s.fab.txns.length + pieceCount (mMv i * drainPitch k i) ≤ 4096)))

/-- Cycles of a DRAIN (Table 18-1). -/
def drainCycles (i : Nat) (p : List Byte) : Nat :=
  let ops := drnOps p
  let v := ops.foldl (fun n o => n + (match o.opc with
    | 0x01 | 0x02 => cdiv (4 * mNv i) 512
    | 0x03 | 0x04 => cdiv (4 * mMv i) 512
    | 0x0D => 6
    | _ => 0)) 0
  1 + v + mMv i * cdiv (mNv i) 128 + 6 + 4 * ops.length + b2n (ops.any (fun o => o.opc == 0x0E))

/-- The work that owns a drained row, while it lives (R44, R355). -/
def rowWork (s : State) (c owner : Nat) : Option Nat :=
  match workOfTcid s c owner with
  | some w => if workLive s w then some w else none
  | none => none

/-- Writes bytes for a row's owner, checked against it; a quenched member's write is suppressed and counts as a late drop (R41, R44, R355). -/
def rowWrite (s : State) (c owner win off : Nat) (bs : List Byte) : State :=
  if (core s c).work.isNone then s
  else match rowWork s c owner with
    | none => lateDrop s
    | some w =>
      let a := spBase c + winBase (core s c) win * 64 + off
      let t := if groupBank s c owner a then (bank s (spBank a)).owner else owner
      (engWriteAs s c 2 w t win off bs).1

/-- The row writes of the ROWSTAT pairs: the first row of each, its owner and its bytes. The pairs of eight rows form one (R353), which a
co-batched tile splits where the owner changes (R355). -/
def statWrites : List (Nat × DrnRow) → List (Nat × Nat × List Byte)
  | [] => []
  | (m, r) :: rest => match r.stat with
    | none => statWrites rest
    | some (mx, sm) =>
      let pair := leBytes 4 mx ++ leBytes 4 sm
      match statWrites rest with
      | [] => [(m, r.owner, pair)]
      | (n, o, bs) :: ws => if o = r.owner && n % 8 != 0 then (m, o, pair ++ bs) :: ws else (m, r.owner, pair) :: (n, o, bs) :: ws

/-- Owner, SAT and NAN of each row of a DRAIN. -/
def flagsOf (rows : List DrnRow) : List (Nat × Bool × Bool) := rows.map (fun r => (r.owner, r.sat, r.nan))

/-- The rows of a drained set whose MERGE2 additions or ROWSTAT sum saturated have SAT set (R342). -/
def satRows (x : AccSet) (rows : List DrnRow) : AccSet :=
  { x with rows := (List.range rows.length).foldl (fun t m => match rows[m]? with
      | some r => if r.fresh then tmod t m {} (fun z => { z with sat := true }) else t
      | none => t) x.rows }

/-- DRN_STATUS after a DRAIN (Table 13-6). -/
def drainStatus (rows : List DrnRow) : Nat :=
  2 * b2n (rows.any (·.sat)) + 4 * b2n (rows.any (·.nan)) + 8 * b2n (rows.any (fun r => decide (0 < r.limited)))

/-- The bytes of a token: a row's place up to the next row, and the rows of a quenched member, are not given (log entry 15). -/
def tokenBytes (c pitch : Nat) : List DrnRow → State → List Byte × State
  | [], s => ([], s)
  | r :: rs, s =>
    let live := (rowWork s c r.owner).isSome
    let s := if live then s else lateDrop s
    let here := if live then r.bytes else []
    let (gap, s) := if here.length < pitch then
        (let (v, s) := draw s (8 * (pitch - here.length)); (leBytes (pitch - here.length) v.toNat, s)) else ([], s)
    let (rest, s) := tokenBytes c pitch rs s
    (here ++ gap ++ rest, s)

/-- Sends the pieces of a token across the fabric (R527). -/
def sendPieces (s : State) (c w ord node dcore dreg units tag : Nat) (bs : List Byte) : State :=
  let n := pieceCount bs.length
  (List.range n).foldl (fun s i =>
    sendTxn s node (.write dcore dreg c (i + 1 == n) units (480 * i) (slice bs (480 * i) 480) tag)
      (workTcid s w) (workSlot s w) (workGen s w) (some w) c ord) s

def drainBody (c : Nat) (s : State) (w : Nat) (q : QEnt) : State :=
  let k := core s c
  let i := q.inst
  if drainInvalid k i then invalidField s c
  else
    let (isF, fold) := drainTag k i
    let p := drainProg k i
    let pitch := drainPitch k i
    let units := drainUnits k i
    let x := accSet k (iAcc i)
    let y := if dMerge2 i then some (accSet k (dAcc2 i)) else none
    let cycles := drainCycles i p
    -- the exchange with the shadow set, number 16 (R345)
    let s := if dShadow i then setCore s c { k with acc := tset (tset k.acc 16 x) (iAcc i) {} } else s
    match loadOps c w (mMv i) (mNv i) (foldN fold) (drnOps p) s with
    | .fail s => s
    | .ok runs s =>
      let rows := (List.range (mMv i)).map (fun m =>
        drainRow p runs (etypeOf (dOtype i)) isF fold (mNv i) x y (rowOwner s c m) m)
      let s := match runs.find? (fun u => u.op.opc == 0x0E) with
        | some u => (statWrites ((List.range rows.length).zip rows)).foldl (fun s z =>
            rowWrite s c z.2.1 u.op.win (u.op.off * 64 + 8 * z.1) z.2.2) s
        | none => s
      let s := if rows.any (·.fresh) then modCore s c (fun k => { k with acc := tmod k.acc (if dShadow i then 16 else iAcc i) {} (satRows · rows) })
        else s
      let s := countCore s c 0x088 (rows.foldl (fun n r => n + r.limited) 0)
      if iOp i = 1 then
        let s := (List.range rows.length).foldl (fun s m => match rows[m]? with
          | some r => rowWrite s c r.owner (f1Win i) (f1Off i * 64 + m * pitch) r.bytes
          | none => s) s
        if (core s c).work.isNone then s
        else count (modCore (rowFlags s c (flagsOf rows)) c (fun k => { k with drnStatus := drainStatus rows })) c wDRN cycles
      else if (core s c).work.isNone then s
      else
        let (bs, s) := tokenBytes c pitch rows s
        let k := core s c
        let dc := mapCore k (dCore i)
        let n := if iOp i = 2 then 1 else pieceCount bs.length
        let s := setCore s c { k with drnStatus := k.drnStatus / 2 * 2 + 1,
                                      pend := k.pend ++ [{ eng := 2, ord := q.ord, left := n, word := wDRN, cycles := cycles,
                                                           drn := drainStatus rows, flags := flagsOf rows }] }
        if iOp i = 2 then
          let s := modCore s c (fun k => spendCredit k dc (dReg i) units)
          { s with net.toks := s.net.toks ++ [{ writer := coreUnit c, core := c, ord := q.ord, dcore := dc, dreg := dReg i,
                                                tag := iTag i, units := units, data := bs, work := w, gen := workGen s w,
                                                tcid := workTcid s w,
                                                owners := ((rows.map (·.owner)).filter (fun t => (rowWork s c t).isSome)).eraseDups }] }
        else
          let node := mapNode k (dCore i)
          let key := totKey c node dc (dReg i)
          let s := { s with fab.totals := tmod s.fab.totals key (0, 0) (fun t => (t.1, t.2 + units)) }
          sendPieces s c w q.ord node dc (dReg i) units (iTag i) bs

/-- The destination range of OP 0x01. -/
def drainRanges (k : Core) (i : Nat) : List Rng :=
  if iOp i = 1 then [opRange k (f1Win i) (f1Off i * 64) (f1Len i * 256) true] else []

/-- DRAIN OP 0x01: into a window of the core's scratchpad (R344). -/
def execDrainWindow (core : CoreId) (s : State) : Res :=
  .next (engineRow s core.val 2 [1] drainRanges (drainReady s core.val) (drainBody core.val))

/-- DRAIN OP 0x02: a token to a circular region of another core (R344, R242). -/
def execDrainToken (core : CoreId) (s : State) : Res :=
  .next (engineRow s core.val 2 [2] drainRanges (drainReady s core.val) (drainBody core.val))

/-- DRAIN OP 0x03: a token to a remote position (R527). -/
def execDrainFabric (core : CoreId) (s : State) : Res :=
  .next (engineRow s core.val 2 [3] drainRanges (drainReady s core.val) (drainBody core.val))

end Sys2Proof.Machine
end

