-- ==== Sys2Proof/Machine/SeqMem.lean ====
section
/-! DEFINITION. Loads, stores, the store, gathering and combining buffers, and reservations of a sequencer (09, R230 to R233,
R235, R239; 10, R254 to R270; 11, R287, R288). -/

namespace Sys2Proof.Machine

/-! ## Where an access goes -/

/-- The target of an effective address (R287). -/
inductive Tgt where
  /-- A scratchpad or tier address. -/
  | mem (a : Nat)
  | ctl (a : Nat)
  | bad
deriving DecidableEq, Repr

/-- Resolves an effective address: a window of the core's scratchpad (R235), tier memory, or control space; Swifort reaches all
of device memory and control space (Table 10-1). -/
def target (s : State) (ag : Nat) (ea : Word) (size : Nat) (write : Bool) : Tgt :=
  let e := ea.toNat
  match e / 2 ^ 62 with
  | 0 =>
    if 64 ≤ ag || bits e 23 37 ≠ 0 then .bad
    else match winOff (core s ag) (bits e 60 2) (bits e 0 23) size write with
      | some o => .mem (spBase ag + o)
      | none => .bad
  | 1 =>
    let a := bits e 0 44
    if bits e 44 18 ≠ 0 then .bad
    else if inTierA a || inTierB a then .mem a
    else if ag < 64 then (if ctlBase ag ≤ a && a < ctlBase ag + 0x10000 then .ctl a else .bad)
    else if inSp a then .mem a
    else if 0xF0000000000 ≤ a then .ctl a
    else .bad
  | _ => .bad

/-- TCID of an agent's accesses. -/
def agTcid (s : State) (ag : Nat) : Nat :=
  if ag < 64 then (match (core s ag).work with | some w => workTcid s w | none => 0) else 0

/-- The work that an agent's access belongs to. -/
def agWork (s : State) (ag : Nat) : Option Nat := if ag < 64 then (core s ag).work else none

/-- The end point of a device address (R254). -/
def endPointOf (a : Nat) : Nat :=
  if inTierA a || inTierB a then tierCtl a else if inSp a then 0x100 + spCore a else 0x200 + a / 0x10000

/-- A refused access: its record (R46), then the ACCESS trap (R288). -/
def accessFault (s : State) (ag : Nat) (ea : Word) (a owner : Nat) (write window : Bool) : State :=
  let s := match agWork s ag with
    | some w => latch s (if inSp a || window then coreUnit ag else ctlUnit (tierCtl a))
        (workReport s 0x07 1 (if inSp a || window then coreUnit ag else ctlUnit (tierCtl a)) (some w) 0x0501 (a % 2 ^ 44)
          (owner + b2n write * 4096 + b2n window * 8192) 0)
    | none => s
  trapFatal s ag 3 ea.toNat (a % 2 ^ 44)

/-- The checks of a load or store at its issue: alignment, space and window; `mem` says control space is not accepted. -/
def accessCheck (s : State) (ag : Nat) (ea : Word) (size : Nat) (write memOnly : Bool) : State ⊕ Tgt :=
  if ea.toNat % size ≠ 0 then .inl (trapFatal s ag 2 ea.toNat 0)
  else match target s ag ea size write with
    | .bad =>
      let window := ag < 64 && decide (ea.toNat < 2 ^ 62) && decide (bits ea.toNat 23 37 = 0)
      if window then
        .inl (accessFault s ag ea (spBase ag + winBase (core s ag) (bits ea.toNat 60 2) * 64 + bits ea.toNat 0 23) 0 write true)
      else .inl (trapFatal s ag 3 ea.toNat 0)
    | .ctl a => if memOnly then .inl (trapFatal s ag 3 ea.toNat (a % 2 ^ 44)) else .inr (.ctl a)
    | .mem a => .inr (.mem a)

/-! ## Buffers -/

def overlapsEnt (a n : Nat) (e : StEnt) : Bool := decide (a < e.addr + e.data.length) && decide (e.addr < a + n)

/-- A load takes its bytes from the youngest entry that covers it, when no younger entry overlaps it (R257, R261). -/
def forward (sb : List StEnt) (a n : Nat) : Option (List Byte) :=
  match sb.reverse.find? (overlapsEnt a n) with
  | some e => if e.addr ≤ a && a + n ≤ e.addr + e.data.length then some (slice e.data (a - e.addr) n) else none
  | none => none

/-- Merges bytes into a line. -/
def Line.merge (l : Line) (a : Nat) (ds : List Byte) : Line :=
  { l with mask := (List.range ds.length).foldl (fun m i => if bitAt m (a - l.addr + i) then m else m + 2 ^ (a - l.addr + i)) l.mask,
           data := patch l.data (a - l.addr) ds }

def Line.new (a : Nat) : Line := { addr := a / 64 * 64, mask := 0, data := zeros 64 }

def lineFull (l : Line) : Bool := l.mask == 2 ^ 64 - 1

/-- The bytes of a load with those of valid line bytes in their place (R233). -/
def overlay (ls : List Line) (a : Nat) (bs : List Byte) : List Byte :=
  (List.range bs.length).map (fun i =>
    match ls.find? (fun l => decide (l.addr ≤ a + i) && decide (a + i < l.addr + 64)) with
    | some l => if bitAt l.mask (a + i - l.addr) then l.data.getD (a + i - l.addr) 0 else bs.getD i 0
    | none => bs.getD i 0)

/-- A narrow store of a core merges into its gathering buffer (R232): other agents' reservations on the granule are lost. -/
def gbStore (s : State) (c a : Nat) (ds : List Byte) : State :=
  let s := breakRes s (some c) a ds.length
  let la := a / 64 * 64
  let work := (core s c).work
  let s := if !(core s c).gb.any (fun l => l.addr == la) && decide (4 ≤ (core s c).gb.length) then
      (match (core s c).gb with | l :: _ => flushLine s c l | [] => s) else s
  let k := core s c
  -- a flush that met a poisoned word has ended the work: the store is suppressed (R229, R293)
  if work.isSome && k.work.isNone then s else
  let gb := if k.gb.any (fun l => l.addr == la) then k.gb.map (fun l => if l.addr = la then l.merge a ds else l)
    else k.gb ++ [(Line.new a).merge a ds]
  flushWhere (setCore s c { k with gb := gb }) c lineFull

/-- A poisoned word among those that a write of an agent covers in part (R229, R472). -/
def writeFault (s : State) (ag : Nat) (ws : List Nat) : State :=
  if ag < 64 then partialFault s ag ws
  else match ws.find? (fun x => s.ecc.poison.contains x) with
    | none => s
    | some p =>
      let (syn, s) := draw s 8
      if inSp p then spFault s p syn.toNat 0x01 none else tierFault s p syn.toNat 0 0x04 none

/-- Flushes a combining line that the buffer still holds: one masked write under the endpoint check (R262, R472). -/
def cbFlush (s : State) (ag : Nat) (l : Line) : State :=
  let q := seqOf s ag
  if !q.cb.contains l then s else
  let s := setSeq s ag { q with cb := q.cb.filter (fun x => x.addr != l.addr) }
  match endpoint s (agTcid s ag) l.addr 64 true with
  | .ok =>
    let (s, bad) := maskWrite (breakRes s (some ag) l.addr 64) l
    if bad then writeFault s ag (partWords l) else s
  | .refused o => accessFault s ag (BitVec.ofNat 64 (2 ^ 62 + l.addr)) l.addr o true false
  | .hole => accessFault s ag (BitVec.ofNat 64 (2 ^ 62 + l.addr)) l.addr 0 true false

def cbFlushWhere (s : State) (ag : Nat) (p : Line → Bool) : State :=
  ((seqOf s ag).cb.filter p).foldl (fun s l => cbFlush s ag l) s

/-- A non-temporal store merges into the combining buffer (R262). -/
def cbStore (s : State) (ag a : Nat) (ds : List Byte) : State :=
  let la := a / 64 * 64
  let before := (seqOf s ag).run
  let has (s : State) : Bool := (seqOf s ag).cb.any (fun l => l.addr == la)
  let s := if !has s && decide (4 ≤ (seqOf s ag).cb.length) then
      (match (seqOf s ag).cb with | l :: _ => cbFlush s ag l | [] => s) else s
  let q := seqOf s ag
  -- a flushed line that was refused, or that met a poisoned word, has stopped the sequencer: the store is suppressed (R293)
  if q.run != before then s else
  let cb := if has s then q.cb.map (fun l => if l.addr = la then l.merge a ds else l) else q.cb ++ [(Line.new a).merge a ds]
  cbFlushWhere (setSeq s ag { q with cb := cb }) ag lineFull

/-! ## Performing stores -/

/-- Another agent holds the granule (R270). -/
def heldOff (s : State) (ag a n : Nat) : Bool :=
  s.cores.any (fun p => p.1 != ag && p.2.seq.hold && resHit p.2.seq a n) || (ag != 64 && s.swi.hold && resHit s.swi a n)

/-- A narrow access of a core waits for ranges of the scoreboard: a store for any, a load for writes (R239). -/
def rowFree (k : Core) (a : Nat) (write : Bool) : Bool :=
  let o := (a - 0x80000000000) % 0x800000 / 64 * 64
  k.rngs.all (fun x => !(decide (x.lo < o + 64) && decide (o < x.hi) && (write || x.write)))

/-- A control-space store takes effect at its target. Registers outside the cores' control blocks belong to the firmware. -/
def ctlEffect (s : State) (e : StEnt) : State :=
  if inCtl e.addr then ctlStore s ((e.addr - 0xF1000000000) / 0x10000) (e.addr % 0x10000) e.data else s

/-- Performs one store buffer entry, already taken off the buffer; none when it must wait. -/
def storeEffect (s : State) (ag : Nat) (e : StEnt) : Option State :=
  let n := e.data.length
  if inTierA e.addr || inTierB e.addr || inSp e.addr then
    if heldOff s ag e.addr n || (ag < 64 && inSp e.addr && !rowFree (core s ag) e.addr true) then none
    else match endpoint s (agTcid s ag) e.addr n true with
      | .refused o => some (accessFault s ag e.ea e.addr o true false)
      | .hole => some (accessFault s ag e.ea e.addr 0 true false)
      | .ok =>
        if ag < 64 && inSp e.addr then some (gbStore s ag e.addr e.data)
        else
          let (s, bad) := memWriteBy (flushGb s e.addr n) (some ag) e.addr e.data
          some (if bad then writeFault s ag ((wordsOf e.addr n).filter (fun x => !(wholeWordsOf e.addr n).contains x)) else s)
  else
    let q := seqOf s ag
    if isEarly q e.addr then some (setSeq s ag { q with early := q.early ++ [e] })
    else some (ctlEffect s e)

/-- Performs the head of the store buffer, or with none the oldest EARLY write's effect; none when nothing can be performed. -/
def performHead (s : State) (ag : Nat) : Option State :=
  let q := seqOf s ag
  match q.sb with
  | e :: rest => storeEffect (setSeq s ag { q with sb := rest }) ag e
  | [] => match q.early with
    | e :: rest => some (ctlEffect (setSeq s ag { q with early := rest }) e)
    | [] => none

/-- STORE_PERFORMED: the end point has performed the head of the agent's store buffer (R255, R259, R260). -/
def execStorePerformed (ag : Agent) (s : State) : Res :=
  if !agRuns s ag.val then .next s
  else match performHead s ag.val with
    | some t => .next (waitHold (some ag.val) s (settleAg t ag.val))
    | none => .next s

/-! ## Stores -/

/-- A normal store of `size` bytes (R260). -/
def storeRow (i : Instr) (ag : Agent) (gb ga : RegId) (imm : BitVec 15) (size : Nat) (s : State) : Res :=
  seqRow ag i (fun s =>
    let q := seqOf s ag.val
    let ea := gget q ga + immX imm
    let put (a : Nat) : Option State :=
      if 16 ≤ q.sb.length then none
      else
        let e : StEnt := { ea := ea, addr := a, data := leBytes size (gget q gb).toNat }
        some (retireNext (setSeq s ag.val { q with sb := q.sb ++ [e] }) ag.val)
    match accessCheck s ag.val ea size true false with
    | .inl t => some t
    | .inr (.mem a) => put a
    | .inr (.ctl a) => put a
    | .inr .bad => none) s

def execSt1 (ag : Agent) (gb ga : RegId) (imm : BitVec 15) (s : State) : Res := storeRow (.st1 ag gb ga imm) ag gb ga imm 1 s
def execSt2 (ag : Agent) (gb ga : RegId) (imm : BitVec 15) (s : State) : Res := storeRow (.st2 ag gb ga imm) ag gb ga imm 2 s
def execSt4 (ag : Agent) (gb ga : RegId) (imm : BitVec 15) (s : State) : Res := storeRow (.st4 ag gb ga imm) ag gb ga imm 4 s
def execSt8 (ag : Agent) (gb ga : RegId) (imm : BitVec 15) (s : State) : Res := storeRow (.st8 ag gb ga imm) ag gb ga imm 8 s

/-- STNT: to tier memory through the combining buffer, elsewhere a normal store (R262). -/
def execStnt (ag : Agent) (gb ga : RegId) (imm : BitVec 15) (s : State) : Res :=
  seqRow ag (.stnt ag gb ga imm) (fun s =>
    let q := seqOf s ag.val
    let ea := gget q ga + immX imm
    let ds := leBytes 8 (gget q gb).toNat
    let put (a : Nat) : Option State :=
      if 16 ≤ q.sb.length then none
      else some (retireNext (setSeq s ag.val { q with sb := q.sb ++ [{ ea := ea, addr := a, data := ds }] }) ag.val)
    match accessCheck s ag.val ea 8 true false with
    | .inl t => some t
    | .inr (.mem a) =>
      if inSp a then put a
      else if 16 ≤ q.sb.length then none
      else some (cbStore (retireNext s ag.val) ag.val a ds)
    | .inr (.ctl a) => put a
    | .inr .bad => none) s

/-- CB_FLUSH_AGE: the oldest combining line has been held for 256 CORE cycles (R262). -/
def execCbFlushAge (ag : Agent) (s : State) : Res :=
  if !agRuns s ag.val then .next s
  else match (seqOf s ag.val).cb with
    | l :: _ => .next (waitHold (some ag.val) s (settleAg (cbFlush s ag.val l) ag.val))
    | [] => .next s

/-- GB_FLUSH_AGE: the oldest gathering line has stayed 64 CORE cycles (R232). -/
def execGbFlushAge (core_ : CoreId) (s : State) : Res :=
  if !domainsUp s then .next s
  else match (core s core_.val).gb with
    | l :: _ => .next (flushLine s core_.val l)
    | [] => .next s

/-! ## Loads -/

/-- The value that a load writes: sign- or zero-extended. -/
def loadValue (l : Load) (bs : List Byte) : Word :=
  let x := ofLeBytes bs
  if l.signed then BitVec.ofInt 64 (sext (8 * l.size) x) else BitVec.ofNat 64 x

/-- The load retires with its value; a reserved load places its reservation (R267, R270). -/
def finishLoad (s : State) (ag : Nat) (l : Load) (v : Word) : State :=
  let s := retireGd s ag l.gd v
  if l.reserve then
    let q := seqOf s ag
    setSeq s ag { q with res := some (l.addr / 64), hold := true, since := if q.defer = 0 then 0 else q.since }
  else s
where
  retireGd (s : State) (ag gd : Nat) (v : Word) : State :=
    let q := seqOf s ag
    retireSeq (setSeq s ag (if gd = 0 then q else { q with g := tset q.g gd v })) ag (q.pc + 4)

/-- Issues a load (R230, R257, R261): forwarded from the store buffer at once, else outstanding until its data return. -/
def loadRow (i : Instr) (ag : Agent) (gd ga : RegId) (imm : BitVec 15) (size : Nat) (signed reserve : Bool) (s : State) : Res :=
  seqRow ag i (fun s =>
    let q := seqOf s ag.val
    let ea := gget q ga + immX imm
    let go (a : Nat) (s : State) : State :=
      let l : Load := { ea := ea, addr := a, size := size, signed := signed, gd := gd.val, reserve := reserve }
      match (if reserve then none else forward q.sb a size) with
      | some bs => finishLoad s ag.val l (loadValue l bs)
      | none => setSeq s ag.val { seqOf s ag.val with run := .load l }
    match accessCheck s ag.val ea size false reserve with
    | .inl t => some t
    | .inr (.ctl a) => some (go a s)
    | .inr .bad => none
    | .inr (.mem a) => match endpoint s (agTcid s ag.val) a size false with
      | .ok =>
        -- a line of the combining buffer that the load overlaps is flushed first (R262)
        let s := cbFlushWhere s ag.val (fun l => decide (l.addr < a + size) && decide (a < l.addr + 64))
        if (seqOf s ag.val).run = .run then some (go a s) else some s
      | .refused o => some (accessFault s ag.val ea a o false false)
      | .hole => some (accessFault s ag.val ea a 0 false false)) s

def execLd1 (ag : Agent) (gd ga : RegId) (imm : BitVec 15) (s : State) : Res :=
  loadRow (.ld1 ag gd ga imm) ag gd ga imm 1 true false s
def execLd2 (ag : Agent) (gd ga : RegId) (imm : BitVec 15) (s : State) : Res :=
  loadRow (.ld2 ag gd ga imm) ag gd ga imm 2 true false s
def execLd4 (ag : Agent) (gd ga : RegId) (imm : BitVec 15) (s : State) : Res :=
  loadRow (.ld4 ag gd ga imm) ag gd ga imm 4 true false s
def execLd8 (ag : Agent) (gd ga : RegId) (imm : BitVec 15) (s : State) : Res :=
  loadRow (.ld8 ag gd ga imm) ag gd ga imm 8 false false s
def execLd1u (ag : Agent) (gd ga : RegId) (imm : BitVec 15) (s : State) : Res :=
  loadRow (.ld1u ag gd ga imm) ag gd ga imm 1 false false s
def execLd2u (ag : Agent) (gd ga : RegId) (imm : BitVec 15) (s : State) : Res :=
  loadRow (.ld2u ag gd ga imm) ag gd ga imm 2 false false s
def execLd4u (ag : Agent) (gd ga : RegId) (imm : BitVec 15) (s : State) : Res :=
  loadRow (.ld4u ag gd ga imm) ag gd ga imm 4 false false s

/-- LDRES (R267). -/
def execLdres (ag : Agent) (gd ga : RegId) (imm : BitVec 15) (s : State) : Res :=
  loadRow (.ldres ag gd ga imm) ag gd ga imm 8 false true s

/-- A load may be sent: no store buffer entry and no EARLY write of its agent that waits for its effect overlaps it, every earlier store
to another end point has been performed, and no write of an engine to its row is under way (R256, R259, R261, R239). -/
def loadMayGo (s : State) (ag : Nat) (l : Load) : Bool :=
  let q := seqOf s ag
  !(q.sb ++ q.early).any (overlapsEnt l.addr l.size) && q.sb.all (fun e => endPointOf e.addr == endPointOf l.addr)
    && (!(ag < 64 && inSp l.addr) || rowFree (core s ag) l.addr false)

/-- A load of work `w` that meets an uncorrectable word: MEM_ERROR (Table 11-6). -/
def loadError (s : State) (w : Option Nat) (ag : Nat) (l : Load) : State := trapFatalOf s w ag 5 l.ea.toNat (l.addr % 2 ^ 44)

/-- Data of an outstanding load return. -/
def loadReturn (s : State) (ag : Nat) (l : Load) (find : EccFind) : State :=
  if inTierA l.addr || inTierB l.addr || inSp l.addr then
    let s := if ag < 64 then s else flushGb s l.addr l.size
    let w := agWork s ag
    let (s, good) := match w with
      | some w => eccRead s l.addr l.size find (some w)
      | none => readNoJob s l
    if !good then loadError s w ag l
    else
      let bs := mread s.mem l.addr l.size
      finishLoad s ag l (loadValue l (if ag < 64 then overlay (core s ag).gb l.addr bs else bs))
  else if inCtl l.addr then
    match ctlLoad s ((l.addr - 0xF1000000000) / 0x10000) (l.addr % 0x10000) l.size with
    | (some v, s) => finishLoad s ag l (loadValue l (leBytes l.size v))
    | (none, s) => s
  else
    -- registers of the firmware's control space: their values are not given (log entry 12)
    let (v, s) := draw s 64
    finishLoad s ag l (loadValue l (leBytes l.size v.toNat))
where
  /-- A read of Swifort, which no job makes. -/
  readNoJob (s : State) (l : Load) : State × Bool :=
    let bad (syn a : Nat) (s : State) : State × Bool :=
      (if inSp a then spFault s a syn 0x01 none else tierFault s a syn 3 0x04 none, false)
    match find with
    | .uncorrectable syn => bad syn.toNat ((poisonedIn s l.addr l.size).headD l.addr) s
    | _ => match poisonedIn s l.addr l.size with
      | p :: _ => let (syn, s) := draw s 8; bad syn.toNat p s
      | [] => eccRead s l.addr l.size find none

/-- LOAD_DATA_RETURN: the data of the agent's outstanding load return. -/
def execLoadDataReturn (ag : Agent) (find : EccFind) (s : State) : Res :=
  if !agRuns s ag.val then .next s
  else match (seqOf s ag.val).run with
    | .load l => if loadMayGo s ag.val l then .next (settleAg (loadReturn s ag.val l find) ag.val) else .next s
    | _ => .next s

/-- WLK_NEXT: the outstanding load of WLKn_NEXT returns one call of next() and advances the walk (R428). -/
def execWlkNext (core_ : CoreId) (n : Fin 8) (gd : RegId) (s : State) : Res :=
  if !agRuns s core_.val then .next s
  else match (seqOf s core_.val).run with
    | .load l =>
      if inCtl l.addr && nextOf (l.addr % 0x10000) = some n.val && l.gd = gd.val && loadMayGo s core_.val l then
        .next (settle (loadReturn s core_.val l .clean) core_.val)
      else .next s
    | _ => .next s

/-- The head of a core's store buffer is a store to its own control block at an offset that passes. -/
def headIs (s : State) (c : Nat) (p : Nat → List Byte → Bool) : Bool :=
  match (core s c).seq.sb with
  | e :: _ => decide (ctlBase c ≤ e.addr) && decide (e.addr < ctlBase c + 0x10000) && p (e.addr % 0x10000) e.data
  | [] => match (core s c).seq.early with
    | e :: _ => p (e.addr % 0x10000) e.data
    | [] => false

/-- Performs the head when it passes. -/
def performIf (s : State) (c : Nat) (p : Nat → List Byte → Bool) : State :=
  if agRuns s c && headIs s c p then
    match performHead s c with
    | some t => settle t c
    | none => s
  else s

/-- WLK_RESTART: the store to WLKn_RESTART is performed (R428). -/
def execWlkRestart (core_ : CoreId) (n : Fin 8) (s : State) : Res :=
  .next (performIf s core_.val (fun o _ => restartOf o == some n.val))

/-- CHN_RELEASE: the store to CHN_RELEASE is performed (R436). -/
def execChnRelease (core_ : CoreId) (region : Fin 16) (s : State) : Res :=
  .next (performIf s core_.val (fun o d => o == 0x0B00 && ofLeBytes d % 16 == region.val))

/-! ## Conditional stores -/

/-- STCOND (R269): it waits until the store buffer has drained, and for an end point that holds off stores for another agent (R270; log
entry 37); the store is performed only while the reservation is held and
covers it. -/
def execStcond (ag : Agent) (gd ga gb : RegId) (s : State) : Res :=
  seqRow ag (.stcond ag gd ga gb) (fun s =>
    let ea := gget (seqOf s ag.val) ga
    match accessCheck s ag.val ea 8 true true with
    | .inl t => some t
    | .inr (.mem a) =>
      let q := seqOf s ag.val
      let ok := q.res == some (a / 64)
      if !q.sb.isEmpty || (ag.val < 64 && inSp a && !rowFree (core s ag.val) a true) || (ok && heldOff s ag.val a 8) then none
      else match endpoint s (agTcid s ag.val) a 8 true with
        | .refused o => some (accessFault s ag.val ea a o true false)
        | .hole => some (accessFault s ag.val ea a 0 true false)
        | .ok =>
          let ds := leBytes 8 (gget q gb).toNat
          let s := if ok then (memWriteBy (flushGb s a 8) (some ag.val) a ds).1 else s
          let s := setSeq s ag.val { seqOf s ag.val with res := none, hold := false, since := 0, defer := 0 }
          some (retireGd s ag.val gd (if ok then 0 else 1))
    | .inr _ => none) s

end Sys2Proof.Machine
end

