-- ==== Sys2Proof/Machine/SeqCtl.lean ====
section
/-! DEFINITION. Branches, barriers, tile issue, control registers, traps and interrupts of the sequencer (10, R274 to R277;
11, R283 to R303). -/

namespace Sys2Proof.Machine

/-! ## Branches -/

/-- The condition of BR. -/
def brTaken (cond : BitVec 3) (x y : Word) : Bool :=
  match cond.toNat with
  | 0 => x == y
  | 1 => x != y
  | 2 => x.slt y
  | 3 => !x.slt y
  | 4 => x.ult y
  | _ => !x.ult y

def execBr (ag : Agent) (cond : BitVec 3) (ga gb : RegId) (imm : BitVec 12) (s : State) : Res :=
  seqRow ag (.br ag cond ga gb imm) (fun s =>
    let q := seqOf s ag.val
    if brTaken cond (gget q ga) (gget q gb) then some (retireJump s ag.val (q.pc + (immX imm <<< 2)))
    else some (retireNext (if q.pc.toNat % 32 = 28 then fetchLine s ag.val else s) ag.val)) s

def execJal (ag : Agent) (gd : RegId) (imm : BitVec 20) (s : State) : Res :=
  seqRow ag (.jal ag gd imm) (fun s =>
    let q := seqOf s ag.val
    some (retireJump (setSeq s ag.val (gset q gd (q.pc + 4))) ag.val (q.pc + (immX imm <<< 2)))) s

/-- The target is (ga + imm) with bits [1:0] cleared; ga is read before gd is written. -/
def execJalr (ag : Agent) (gd ga : RegId) (imm : BitVec 15) (s : State) : Res :=
  seqRow ag (.jalr ag gd ga imm) (fun s =>
    let q := seqOf s ag.val
    let t := (gget q ga + immX imm) &&& ~~~3#64
    some (retireJump (setSeq s ag.val (gset q gd (q.pc + 4))) ag.val t)) s

/-! ## Barriers -/

/-- Flushes the buffers that a SYNC flushes (R232, R262, R274). -/
def syncFlush (s : State) (ag : Nat) : State :=
  let s := cbFlushWhere s ag (fun _ => true)
  if ag < 64 then flushWhere s ag (fun _ => true) else s

def execSync (ag : Agent) (s : State) : Res :=
  seqRow ag (.sync ag) (fun s =>
    let s := syncFlush s ag.val
    let q := seqOf s ag.val
    -- a line refused at its end point has stopped the sequencer
    if q.run = .run then some (setSeq s ag.val { q with run := .sync }) else some s) s

/-- A barrier entry in every engine queue; none while one is full (R275, R303). -/
def placeBarrier (k : Core) : Option Core :=
  if (List.range 7).any (fun i => decide (16 ≤ (tgetD k.queues (i + 1) []).length)) then none
  else some { k with queues := (List.range 7).foldl (fun t i => tmod t (i + 1) [] (· ++ [{ inst := 0, bar := true, ord := k.nextOrd }]))
                                 k.queues,
                     nextOrd := k.nextOrd + 1 }

def execQsync (ag : Agent) (s : State) : Res :=
  seqRow ag (.qsync ag) (fun s =>
    (placeBarrier (core s ag.val)).map (fun k => retireNext (setCore s ag.val k) ag.val)) s

/-- END executes a QSYNC and then a SYNC; the core reports once both are complete (R289). -/
def execEndSection (ag : Agent) (s : State) : Res :=
  seqRow ag (.endSection ag) (fun s =>
    (placeBarrier (core s ag.val)).map (fun k =>
      let s := syncFlush (setCore s ag.val k) ag.val
      let q := seqOf s ag.val
      if q.run = .run then setSeq s ag.val { q with run := .ending } else s)) s

/-- A remote write of a core's work is outstanding (R276). -/
def remoteWriteOpen (s : State) (c : Nat) : Bool :=
  s.fab.txns.any (fun p => p.2.core == c && (match p.2.op with | .write .. | .aadd .. => true | _ => false))

/-- The unit that a SYNC still waits for: the end point of the store buffer's head; 0 when none. -/
def syncUnit (q : Seq) : Nat :=
  match q.sb with
  | e :: _ => if inSp e.addr then coreUnit (spCore e.addr)
      else if inTierA e.addr || inTierB e.addr then ctlUnit (tierCtl e.addr)
      else if inCtl e.addr then coreUnit ((e.addr - 0xF1000000000) / 0x10000) else 0
  | [] => 0

/-- SYNC_WATCHDOG: 100 µs, or 4 ms with a remote write outstanding: the works end with WATCHDOG; for Swifort, a record alone
(R276). -/
def execSyncWatchdog (ag : Agent) (s : State) : Res :=
  let q := seqOf s ag.val
  if !agRuns s ag.val || !(q.run == .sync || q.run == .ending) then .next s
  else if ag.val < 64 then
    let us := if remoteWriteOpen s ag.val then 4000 else 100
    let s := latch s (coreUnit ag.val) (workReport s 0x0C 1 (coreUnit ag.val) (core s ag.val).work 0x0602 0 us (syncUnit q))
    .next (failWorks s (coreWorks s ag.val) 0x0602)
  else .next (latch s 0 (report s 0x10 0 0 0 0 0 100 (syncUnit q)))

/-! ## Tile issue -/

/-- TISS: TILE_FIELD for a field that fails, else the queue's tail, while the queue has a place (R302, R303). -/
def execTiss (ag : Agent) (ga gb : RegId) (s : State) : Res :=
  seqRow ag (.tiss ag ga gb) (fun s =>
    let k := core s ag.val
    let lo := (gget k.seq ga).toNat
    let i := lo + (gget k.seq gb).toNat * 2 ^ 64
    if !tileOk k i then some (trapFatal s ag.val 4 lo 0)
    else if 16 ≤ (tgetD k.queues (iEngine i) []).length then none
    else
      let k := { k with queues := tmod k.queues (iEngine i) [] (· ++ [{ inst := i, bar := false, ord := k.nextOrd }]),
                        nextOrd := k.nextOrd + 1 }
      some (retireNext (setCore s ag.val k) ag.val)) s

/-! ## Waiting and traps -/

def execWait (ag : Agent) (s : State) : Res :=
  seqRow ag (.wait ag) (fun s =>
    let q := seqOf s ag.val
    some (if q.ip ≠ 0 then retireNext s ag.val else setSeq s ag.val { q with run := .wait })) s

/-- ERET (R294; At the edges: with INTRAP = 0 it is ILLEGAL). -/
def execEret (ag : Agent) (s : State) : Res :=
  seqRow ag (.eret ag) (fun s =>
    let q := seqOf s ag.val
    if !q.intrap then some (trapFatal s ag.val 1 0x36 0)
    else
      let s := setSeq s ag.val { q with intrap := false, ie := true }
      some (fetchLine (retireSeq s ag.val (pcOf q.epc)) ag.val)) s

/-- BREAK: into the handler, or fatal inside it (R294). -/
def execBrk (ag : Agent) (s : State) : Res :=
  seqRow ag (.brk ag) (fun s =>
    let q := seqOf s ag.val
    some (if q.intrap then trapFatal s ag.val 6 0x37 0 else trapHandled s ag.val 6 0x37 q.pc)) s

/-- SEQ_TIMER_EXPIRY: SEQ_TIMER steps from 1 to 0 and sets TIMER (R295). -/
def execSeqTimerExpiry (ag : Agent) (s : State) : Res :=
  let q := seqOf s ag.val
  if !agRuns s ag.val || q.timer = 0 then .next s
  else .next (settleAg (raiseIp (setSeq s ag.val { q with timer := 0 }) ag.val 0 0) ag.val)

/-- INTERRUPT: TIMER before TOKEN, at an instruction boundary (R296). -/
def execInterrupt (ag : Agent) (s : State) : Res :=
  let q := seqOf s ag.val
  if !agRuns s ag.val || !intDue q then .next s
  else if ipLive q 0 then .next (trapHandled s ag.val 0x10 0 q.pc)
  else .next (trapHandled s ag.val 0x11 (BitVec.ofNat 64 q.tokReg) q.pc)

/-! ## Control registers (Tables 11-1 and 11-2) -/

/-- CORE_CIRCn's two words (Table 9-6). -/
def circWord (x : Circ) (w : Nat) : Nat :=
  if w = 0 then x.base + x.size * 2 ^ 16 + x.source * 2 ^ 32 else x.head + x.tail * 2 ^ 32

/-- A region attribute's two words (Table 10-2). -/
def rattrWord (q : Seq) (n w : Nat) : Nat :=
  let (w0, w1) := tgetD q.rattr n (0, 0)
  if w = 0 then w0 else w1

/-- Reads a control register; none for a number that Table 11-1 does not list. A running SEQ_TIMER and SEQ_CYCLE count CORE
cycles, of which the model has none, and the core registers mean nothing on Swifort: free values (log entries 11 and 12). -/
def crRead (s : State) (ag num : Nat) : Option (Word × State) :=
  let q := seqOf s ag
  let k := core s ag
  let val (n : Nat) : Option (Word × State) := if ag < 64 then some (BitVec.ofNat 64 n, s) else some (draw s 64)
  if num = 0x000 then some (BitVec.ofNat 64 (b2n q.ie + 2 * b2n q.intrap), s)
  else if num = 0x001 then some (q.epc, s)
  else if num = 0x002 then some (BitVec.ofNat 64 q.cause, s)
  else if num = 0x003 then some (q.tval, s)
  else if num = 0x004 then some (q.tvec, s)
  else if num = 0x005 then some (q.entry, s)
  else if num = 0x006 then (if q.timer = 0 then some (0, s) else some (draw s 64))
  else if num = 0x007 then some (q.ip.zeroExtend 64, s)
  else if num = 0x008 then some (q.imask, s)
  else if num = 0x009 then some (q.scratch, s)
  else if num = 0x010 then val ag
  else if 0x020 ≤ num && num < 0x024 then val (k.ext.getD (num - 0x020) 0)
  else if 0x024 ≤ num && num < 0x028 then val (k.bkt.getD (num - 0x024) 0)
  else if num = 0x030 then some (draw s 64)
  else if 0x040 ≤ num && num < 0x044 then val (tgetD k.spwin (num - 0x040) 0)
  else if 0x080 ≤ num && num < 0x0A0 then val (circWord (tgetD k.circ ((num - 0x080) / 2) {}) (num % 2))
  else if 0x0C0 ≤ num && num < 0x0D0 then val (rattrWord q ((num - 0x0C0) / 2) (num % 2))
  else none

/-- Writes a control register; none for one that is RO or not listed. -/
def crWrite (q : Seq) (num : Nat) (v : Word) : Option Seq :=
  if num = 0x000 then some { q with ie := v.getLsbD 0 }
  else if num = 0x001 then some { q with epc := v }
  else if num = 0x006 then some { q with timer := v }
  else if num = 0x007 then some { q with ip := q.ip &&& ~~~(v.truncate 2), defer := q.defer &&& ~~~(v.truncate 2) }
  else if num = 0x008 then some { q with imask := v &&& 0xFFFF0003#64 }
  else if num = 0x009 then some { q with scratch := v }
  else none

def execCrr (ag : Agent) (gd : RegId) (num : BitVec 12) (s : State) : Res :=
  seqRow ag (.crr ag gd num) (fun s =>
    match crRead s ag.val num.toNat with
    | some (v, s) => some (retireGd s ag.val gd v)
    | none => some (trapFatal s ag.val 1 (seqEncode (.crr ag gd num)) 0)) s

def execCrw (ag : Agent) (ga : RegId) (num : BitVec 12) (s : State) : Res :=
  seqRow ag (.crw ag ga num) (fun s =>
    let q := seqOf s ag.val
    match crWrite q num.toNat (gget q ga) with
    | some q => some (retireNext (setSeq s ag.val q) ag.val)
    | none => some (trapFatal s ag.val 1 (seqEncode (.crw ag ga num)) 0)) s

/-! ## Swifort's registers (R298) -/

/-- PCRR: MGT_RATTRn; the rest of the space is the firmware's, its values free (log entry 12). -/
def execPcrr (ag : Agent) (gd : RegId) (num : BitVec 12) (s : State) : Res :=
  seqRow ag (.pcrr ag gd num) (fun s =>
    let n := num.toNat
    if 0x0C0 ≤ n && n < 0x0D0 then
      some (retireGd s ag.val gd (BitVec.ofNat 64 (rattrWord (seqOf s ag.val) ((n - 0x0C0) / 2) (n % 2))))
    else let (v, s) := draw s 64; some (retireGd s ag.val gd v)) s

/-- A setting of R265: BASE at or above 0xF000_0000 and LIMIT not below BASE. -/
def rattrOk (w0 : Nat) : Bool := decide (0xF0000000 ≤ bits w0 0 32) && decide (bits w0 0 32 ≤ bits w0 32 32)

/-- PCRW: MGT_RATTRn, a setting that R265 forbids being refused. -/
def execPcrw (ag : Agent) (ga : RegId) (num : BitVec 12) (s : State) : Res :=
  seqRow ag (.pcrw ag ga num) (fun s =>
    let q := seqOf s ag.val
    let n := num.toNat
    let v := (gget q ga).toNat
    let q := if 0x0C0 ≤ n && n < 0x0D0 then
        (if n % 2 = 0 then (if rattrOk v then { q with rattr := tmod q.rattr ((n - 0x0C0) / 2) (0, 0) (fun p => (v, p.2)) } else q)
         else { q with rattr := tmod q.rattr ((n - 0x0C0) / 2) (0, 0) (fun p => (p.1, v % 4)) })
      else q
    some (retireNext (setSeq s ag.val q) ag.val)) s

end Sys2Proof.Machine
end

