-- ==== Sys2Proof/Machine/SparseCheck.lean ====
section
/-! DEFINITION. What the image checker finds of the sealed sparse operands that an image names as weights (14, R369, with R360, R362,
R364, R365, R367, R368 and the limits of R385), read from the objects' own bytes. -/

namespace Sys2Proof.Machine

/-- Home base and size of the object a reference names. -/
def refHome (s : State) : ImageRef → Option (Nat × Nat)
  | .commons c => (tget s.store.commons c).map (fun o => (o.baseB, o.size))
  | .region r => (tget s.store.regions r).map (fun g => (g.base, g.size))

/-- The metadata of an NM operand holds its indices in range and in order (R360). -/
def nmSealedOk (bytes : List Byte) (t : EType) (fold pattern : Nat) : Bool :=
  let (h, g) := nmPattern pattern
  let (v, all) := nmBytes t fold h g
  decide (pattern ≤ 4) && decide (all ≤ bytes.length) && nmOrdered fold h g (slice bytes v (all - v))

/-- A BK operand has its reserved bytes zero and room for the blocks its mask stores (R362). -/
def bkSealedOk (bytes : List Byte) (t : EType) : Bool :=
  decide (64 + t.size (bkRank (leAt bytes 0 8) 64 * 256) ≤ bytes.length) && (slice bytes 8 56).all (· == 0)

/-- The reserved bits of an FB header are zero (Table 14-3); `w3` is reserved in an FB operand and bits 63:50 of it in a DL block. -/
def fbReservedOk (bytes : List Byte) (dl : Bool) : Bool :=
  bits (leAt bytes 6 2) 6 10 == 0 && leAt bytes 12 4 == 0 && (if dl then bits (leAt bytes 24 8) 50 14 == 0 else leAt bytes 24 8 == 0)
    && (slice bytes 32 32).all (· == 0)

/-- Reads the bytes of a sealed operand; what lies beyond them is refused. -/
def sealedRd (bytes : List Byte) (s : State) (o n : Nat) : Rd := if o + n ≤ bytes.length then .ok (slice bytes o n) s else .fail s

/-- The fibre operand that lies in the bytes, with every pointer, coordinate and table entry as R365 asks. -/
def fbSealed (s : State) (bytes : List Byte) (dl : Bool) : Option Fb :=
  if bytes.length < 64 || !fbReservedOk bytes dl then none
  else match readFb (sealedRd bytes) (etypeOf (bits (leAt bytes 6 2) 2 4)) true (fun _ => decide (bits (leAt bytes 6 2) 2 4 < 8)) s with
    | .ok x _ => if (List.range x.h.nq).all x.quantOk then some x else none
    | _ => none

/-- A DL block against the base tiling of its layer: the header's own rule and base reference (R367), and no nonzero outside the real
extents (R369). -/
def dlBlockOk (s : State) (y : DlLayer) (bytes : List Byte) : Bool :=
  match fbSealed s bytes true with
  | none => false
  | some x =>
    let w3 := leAt bytes 24 8
    let kt := bits w3 16 16; let nt := bits w3 32 16
    let kk := foldK y.fold; let nn := foldN y.fold
    x.h.major == 1 && x.h.nfib == nn && x.h.minor + 1 == kk && decide (x.h.nnz ≤ 4096) && bits w3 0 16 == y.coid
      && x.h.fold == y.fold && decide (kt * kk < y.k) && decide (nt * nn < y.n)
      && (List.range nn).all (fun f => decide (nt * nn + f < y.n) || x.ptr f == x.ptr (f + 1))
      && x.crds.all (fun z => decide (kt * kk + z < y.k))

/-- A portion of a DL region: its directory (R368) and its blocks. -/
def dlPortionOk (s : State) (bytes : List Byte) (blocks : List DlLayer) : Bool :=
  ((List.range blocks.length).zip blocks).all (fun b =>
    let e := leAt bytes (8 * b.1) 8
    let off := bits e 0 32 * 64; let len := bits e 32 11 * 256
    decide (8 * b.1 + 8 ≤ bytes.length) && within 1 1024 (bits e 32 11) && bits e 43 21 == 0 && decide (off < bytes.length)
      && dlBlockOk s b.2 (slice bytes off len))

/-- A sealed sparse operand obeys R369; it lies within its object. -/
def sparseOk (s : State) (p : SparseDesc) : Bool :=
  match refHome s p.source with
  | none => false
  | some (base, size) =>
    let bytes := mread s.mem (base + p.off) p.len
    decide (p.off + p.len ≤ size) && (match p.kind with
      | .nm t fold pattern => nmSealedOk bytes t fold pattern
      | .bk t => bkSealedOk bytes t
      | .fb => (fbSealed s bytes false).isSome
      | .dl blocks => dlPortionOk s bytes blocks)

end Sys2Proof.Machine
end

