-- ==== Sys2Proof/Machine/CmdImage.lean ====
section
/-! DEFINITION. The image checker and the image commands (07, R176 to R178; 17, R426 to R448). -/

namespace Sys2Proof.Machine

/-! ## One section -/

/-- Bytes of a section: header and parts, each padded to 64 B (R442). -/
def secBytes (x : SectionDesc) : Nat :=
  64 + roundUp (4 * x.code.length) 64 + roundUp (64 * x.drn.length) 64 + roundUp x.regBytes 64 + roundUp x.data.length 64

/-- The header that R442 gives a section of these parts. -/
def secHeader (x : SectionDesc) : List Byte :=
  leBytes 4 (4 * x.code.length) ++ leBytes 4 (64 * x.drn.length) ++ leBytes 4 x.regBytes ++ leBytes 4 x.data.length
    ++ leBytes 8 (x.dataOff % 0x10000 + b2n x.steered * 0x10000 + x.feeds.length % 256 * 0x20000) ++ leBytes 4 (secBytes x) ++ zeros 36

/-- A part above Table 17-5, or a section above 262,144 B. -/
def partsBad (x : SectionDesc) : Bool :=
  decide (32768 < 4 * x.code.length) || decide (4096 < 64 * x.drn.length) || decide (4096 < x.regBytes)
    || decide (221184 < x.data.length) || decide (262144 < secBytes x)

/-- The word at place `i` of the code is unlisted, or branches outside the code (R286). -/
def codeBad (n i : Nat) (w : W32) : Bool :=
  let out (off : Int) : Bool := let t := (4 * i : Int) + off; decide (t < 0) || decide ((4 * n : Int) ≤ t)
  match seqDecode 0 w.toNat with
  | none => true
  | some (.br _ _ _ _ imm) => out (4 * imm.toInt)
  | some (.jal _ _ imm) => out (4 * imm.toInt)
  | some _ => false

/-- A walk descriptor that R426 allows, of an image with `d` dynamic dimensions. -/
def walkDescOk (d : Nat) (w : WalkDesc) : Bool :=
  let ps := (List.range 4).map (walkPos w)
  let idx (i : Nat) : Bool :=
    if walkDyn w i then walkE w i == 0 && decide (1 ≤ walkTsz w i) && decide (walkSel w i < d)
    else decide (1 ≤ walkE w i) && decide (walkE w i ≤ 16383) && walkTsz w i == 0
  (List.range 4).all (fun i => ps.contains i) && !bitAt w.w1.toNat 8 && (List.range 4).all idx && bits w.w1.toNat 24 40 == 0
    && w.w3 == 0

/-- Scratchpad ranges in bytes: of a window with WR, and of a circular region (Tables 9-5, 9-6). -/
def winRange (w : WinDesc) : Nat × Nat := (w.base * 64, w.size * 64)
def circRange (c : CircDesc) : Nat × Nat := (c.base * 4096, c.size * 4096)

/-- Two ranges of a list overlap. -/
def anyOverlap : List (Nat × Nat) → Bool
  | [] => false
  | r :: rs => rs.any (fun x => overlap r.1 r.2 x.1 x.2) || anyOverlap rs

/-- Circular regions break R237, R242 or R438. -/
def circsBad (x : SectionDesc) : Bool :=
  let used := x.circs.filter (fun c => c.size ≠ 0)
  decide (16 < x.circs.length) || anyOverlap (used.map circRange)
    || used.any (fun c => (x.windows.filter (fun w => w.wr && decide (0 < w.size))).any (fun w =>
        overlap (circRange c).1 (circRange c).2 (winRange w).1 (winRange w).2))
    || used.any (fun c => decide (c.size < c.maxToken) || decide (16 * max 1 c.minToken < c.size))

/-- The fire table names an unconfigured region, or a sealed section has EITHER bits. -/
def firesBad (x : SectionDesc) : Bool :=
  x.fires.any (fun f => (maskBits f.2 16 ++ maskBits (f.2 / 65536) 16).any (fun r => match x.circs[r]? with
    | some c => c.size == 0
    | none => true)
    || (!x.steered && bits f.2 16 16 != 0))

/-- A table's fields (Table 16-1). -/
def tdType (t : TableDesc) : EType := etypeOf (bits t.w0.toNat 46 4)
def tdDim (t : TableDesc) : Nat := bits t.w1.toNat 32 11 + 1
def tdSharded (t : TableDesc) : Bool := bits t.w0.toNat 44 2 == 2
def tdCompose (t : TableDesc) : Nat := bits t.w0.toNat 51 2

/-- A table breaks R401: its rows overrun its region, its shards do not hold its rows, or its partner is SHARDED, composed, missing or
of another DIM. -/
def tableBad (x : SectionDesc) (t : TableDesc) : Bool :=
  let rows := bits t.w1.toNat 0 32
  (if tdSharded t then decide ((bits t.w3.toNat 32 8 + 1) * bits t.w3.toNat 0 32 < rows)
   else decide (t.sourceBytes < rows * rowPitch (tdType t) (tdDim t)))
    || (tdCompose t != 0 && (match x.tables.find? (fun u => u.index == bits t.w0.toNat 53 4) with
        | some u => tdSharded u || tdCompose u != 0 || tdDim u != tdDim t
        | none => true))

/-- The reuse window breaks R410. -/
def windowBad (x : SectionDesc) : Bool :=
  let b := bits x.gthCfg 0 5
  bitAt x.gthCfg 5 && (b % 2 == 1 || decide (28 < b)
    || (x.windows.filter (fun w => decide (0 < w.size))).any (fun w => overlap (b * 0x40000) 0x80000 (winRange w).1 (winRange w).2)
    || (x.circs.filter (fun c => decide (0 < c.size))).any (fun c => overlap (b * 0x40000) 0x80000 (circRange c).1 (circRange c).2))

/-- A region attribute that R265 forbids. -/
def rattrBad (r : RattrDesc) : Bool := decide (r.base < 0xF0000000) || decide (r.limit < r.base)

/-- More than one NM pattern in a section (R359). -/
def nmBad (x : SectionDesc) : Bool := x.nmPatterns.any (fun p => x.nmPatterns.head? != some p)

/-- The lowest FAIL_REASON that applies to a section (Table 17-6). -/
def secFault (s : State) (d : ImageDesc) (x : SectionDesc) : Option Nat :=
  if x.header ≠ secHeader x then some 0x0001
  else if partsBad x then some 0x0002
  else if (List.range x.code.length).any (fun i => codeBad x.code.length i (x.code.getD i 0)) then some 0x0003
  else if x.walks.any (fun w => !walkDescOk d.buckets.length w) then some 0x0004
  else if circsBad x then some 0x0007
  else if firesBad x then some 0x0008
  else if (x.steered && !x.reconverges) || (x.hasSteer && !x.steered) then some 0x0009
  else if x.drn.any (fun p => !drnOk p) then some 0x000A
  else if x.sparse.any (fun p => !sparseOk s p) then some 0x000B
  else if x.tables.any (tableBad x) || windowBad x then some 0x000C
  else if x.rattrs.any rattrBad || nmBad x then some 0x000E
  else none

/-- The first section at fault, by index. -/
def firstSecFault (s : State) (d : ImageDesc) : Nat → List SectionDesc → Option (Nat × Nat)
  | _, [] => none
  | i, x :: xs => match secFault s d x with
    | some r => some (i, r)
    | none => firstSecFault s d (i + 1) xs

/-! ## The whole image -/

def planCores (p : PlanDesc) : Nat := p.stages.foldl (fun n x => n + x.cores) 0

/-- The distinct sections of one chain position, over all rounds, exceed bank 31 (R444). -/
def coreOver (d : ImageDesc) (p : PlanDesc) (q : Nat) : Bool :=
  let ids := (p.rounds.map (fun r => r.getD q 0)).eraseDups
  decide (262144 < ids.foldl (fun n i => n + (match d.sections[i]? with | some x => secBytes x | none => 0)) 0)

def ascending : List Nat → Bool
  | a :: b :: t => decide (a < b) && ascending (b :: t)
  | _ => true

def bucketProduct (d : ImageDesc) : Nat := d.buckets.foldl (fun n b => n * b.length) 1

/-- The buckets break R430. -/
def bucketsBad (d : ImageDesc) : Bool :=
  decide (4 < d.buckets.length) || decide (64 < bucketProduct d)
    || d.buckets.any (fun b => b.isEmpty || decide (8 < b.length) || !ascending b)

/-- A plan breaks R433, R209 or R523. -/
def planBad (d : ImageDesc) (p : PlanDesc) : Bool :=
  let n := planCores p
  p.stages.isEmpty || decide (64 < p.stages.length) || decide (64 < n)
    || p.stages.any (fun x => x.cores == 0 || decide (8 < x.cores))
    || p.rounds.isEmpty || decide (8 < p.rounds.length)
    || p.rounds.any (fun r => r.length != n || r.any (fun i => decide (d.sections.length ≤ i)))
    || p.layerOwners.any (fun o => o.length != 1
        || o.any (fun x => decide (p.rounds.length ≤ x.1) || decide (p.stages.length ≤ x.2)))
    || (match p.stages.head?, p.stages.getLast? with
        | some a, some b => a.remote.isSome || b.remote.isSome
        | _, _ => true)
    || p.stages.any (fun x => match x.remote with | some r => decide (d.remoteStages ≤ r) | none => false)

/-- Shareable marking breaks R39, R355, R393 or R401. -/
def shareBad (x : SectionDesc) : Bool :=
  x.shareable && (!x.basePlusDelta || x.readsSetByVector || x.hasGather
    || x.drn.any (fun p => (drnOps p).any (fun o => [3, 4, 5, 6].contains o.opc)))

/-- Feeds break R429: the source is none that the image names, or the walk, the row length or the destination is invalid. -/
def feedsBad (d : ImageDesc) : Bool :=
  d.sections.any (fun x => decide (4 < x.feeds.length) || x.feeds.any (fun f =>
    !d.refs.contains f.source || f.rowBytes % 64 != 0 || !walkDescOk d.buckets.length f.walk
      || (match x.circs[f.dest]? with | some c => c.size == 0 | none => true)))

/-- The image checker (R448): FAIL_SECTION and FAIL_REASON of the first fault. -/
def checkImage (s : State) (d : ImageDesc) : Option (Nat × Nat) :=
  if !d.headerOk || d.sections.isEmpty || 64 < d.sections.length then some (0xFF, 0x0001)
  else match firstSecFault s d 0 d.sections with
    | some f => some f
    | none =>
      if d.plans.any (fun p => (List.range (planCores p)).any (coreOver d p)) then some (0xFF, 0x0002)
      else if bucketsBad d then some (0xFF, 0x0005)
      else if d.plans.length ≠ bucketProduct d || d.plans.any (planBad d) then some (0xFF, 0x0006)
      else if d.sections.any shareBad then some (0xFF, 0x000D)
      else if feedsBad d then some (0xFF, 0x000F)
      else none

/-! ## Commands -/

/-- The status of the first reference that fails, in the order in which the image names them (R176). -/
def refStatus (s : State) (t : Nat) : List ImageRef → Option Nat
  | [] => none
  | .commons c :: rs =>
    (match tget s.store.commons c with
     | some o => if o.sealed then refStatus s t rs else some 0x0132
     | none => some 0x0132)
  | .region r :: rs =>
    (match tget s.store.regions r with
     | some g => if g.sealed && g.owner = t then refStatus s t rs else some 0x0313
     | none => some 0x0314)

def imageRegisterFields (_ : State) (p : List Byte) : Bool :=
  decide (leAt p 0 2 < 4096) && leAt p 2 2 == 0 && decide (leAt p 4 4 ≤ 0x4000000) && leAt p 8 8 % 64 == 0

/-- The response of IMAGE_REGISTER. -/
def registerResponse (id sections failSection reason charged : Nat) : List Byte :=
  leBytes 4 id ++ leBytes 1 sections ++ leBytes 1 failSection ++ leBytes 2 reason ++ leBytes 4 charged ++ zeros 4

/-- IMAGE_REGISTER (R176): `desc` is what the image's bytes hold, for which the manual gives no container. -/
def execImageRegister (slot : SlotId) (buf : HostRead) (desc : ImageDesc) (s : State) : Res :=
  .next (runCmd slot.val 0x0201 true imageRegisterFields (fun r s =>
    let t := leAt r.payload 0 2
    let len := leAt r.payload 4 4
    let size := max 0x10000 (roundUp len 0x10000)
    let n := desc.sections.length % 256
    if !tcidOk t then .refuse 0x0120
    else if !tenantOpen s t then .refuse 0x0125
    else match buf with
      | .fault => .refuse 0x0104
      | .ok data =>
        if data.length < len then .refuse 0x0104
        else match desc.format with
          | none => .ended s 0x0131 (registerResponse 0 0 0xFF 0x0001 0)
          | some v =>
            if v ≠ 7 then .refuse 0x0130
            else match refStatus s t desc.refs with
              | some st => .refuse st
              | none => match checkImage s desc with
                | some (sec, why) => .ended s 0x0131 (registerResponse 0 n sec why 0)
                | none =>
                  if 16 ≤ s.store.images.countP (fun e => e.2.owner == t) || 16384 ≤ s.store.images.length then .refuse 0x0133
                  else if (tenant s t).tbQuota < tbUsed s t + mib size then .refuse 0x0122
                  else match allocIn s false size with
                    | none => .refuse 0x0311
                    | some base =>
                      if 0xFFFFF < s.store.nextRegion || 0xFFFFF < s.store.nextImage then .refuse 0x0107
                      else
                        let rid := objectId t s.store.nextRegion
                        let id := objectId t s.store.nextImage
                        let bytes := data.take len
                        let g : Region := { owner := t, writable := false, tierA := false, sealed := true, size := size, base := base,
                                            image := true, copy := none, pinned := none, lastUse := 0 }
                        let m : Image := { owner := t, region := rid, desc := desc, size := len, digest := sha256 bytes, binds := [] }
                        let s := { s with store.regions := tset s.store.regions rid g, store.nextRegion := s.store.nextRegion + 1,
                                          store.images := tset s.store.images id m, store.nextImage := s.store.nextImage + 1 }
                        let s := (memWrite s base bytes).1
                        .ok (ledgerCmd s slot.val r t id 0) (registerResponse id n 0xFF 0 (mib size))) s)

/-- Admitted jobs of an image. DESIGN CHOICE: a remote part that runs it counts here, and not among the JOBS of a unit or of the tray (R177,
R179; log entry 85). -/
def jobsOfImage (s : State) (id : Nat) : Nat :=
  s.dsp.jobs.countP (fun e => e.2.image == id) + s.dsp.parts.countP (fun p => p.image == id)

/-- IMAGE_UNREGISTER (R177). The response follows the zero-fill of the image's region. -/
def execImageUnregister (slot : SlotId) (s : State) : Res :=
  .next (runCmd slot.val 0x0202 true idFields (fun r s =>
    let id := leAt r.payload 0 4
    match tget s.store.images id with
    | none => .refuse 0x0135
    | some m =>
      if jobsOfImage s id ≠ 0 then .refuse 0x0134
      else
        let fills := match tget s.store.regions m.region with | some g => [g.base] | none => []
        let s := dropImage s id
        let s := { s with cores := tmap s.cores (fun _ k =>
          { k with bank31 := k.bank31.filter (fun b => b.1 != id),
                   sec := match k.sec with | some (i, n) => if i = id then none else some (i, n) | none => none }) }
        .wait (ledgerCmd s slot.val r m.owner id 0) [] fills []) s)

/-- IMAGE_QUERY (Table 7-4). -/
def execImageQuery (slot : SlotId) (s : State) : Res :=
  .next (runCmd slot.val 0x0203 false idFields (fun r s =>
    let id := leAt r.payload 0 4
    match tget s.store.images id with
    | none => .refuse 0x0135
    | some m =>
      .ok s (leBytes 4 id ++ leBytes 1 m.desc.sections.length ++ leBytes 1 m.desc.shareLayers.length ++ leBytes 1 7 ++ zeros 1
        ++ leBytes 4 (jobsOfImage s id) ++ leBytes 8 m.size ++ padTo 8 m.digest ++ zeros 4)) s)

def imageBindFields (s : State) (p : List Byte) : Bool :=
  let node := leAt p 6 2
  decide (leAt p 4 1 < 64) && leAt p 5 1 == 0 && node != 0 && decide (node < 0xFFF) && node != s.fab.node.toNat
    && leAt p 8 4 % 4096 == leAt p 0 4 % 4096 && leAt p 12 4 == 0

/-- IMAGE_BIND (R178). -/
def execImageBind (slot : SlotId) (s : State) : Res :=
  .next (runCmd slot.val 0x0204 true imageBindFields (fun r s =>
    let id := leAt r.payload 0 4
    let stage := leAt r.payload 4 1
    match tget s.store.images id with
    | none => .refuse 0x0135
    | some m =>
      if m.desc.remoteStages ≤ stage then .refuse 0x0102
      else if jobsOfImage s id ≠ 0 then .refuse 0x0134
      else
        let m := { m with binds := tset m.binds stage (leAt r.payload 6 2, leAt r.payload 8 4) }
        .ok (ledgerCmd { s with store.images := tset s.store.images id m } slot.val r m.owner id 0) []) s)

end Sys2Proof.Machine
end

