-- ==== Sys2Proof/Machine/CmdTimeout.lean ====
section
/-! DEFINITION. A command that reaches its class bound (06_mailboxes.md, R147 to R150). -/

namespace Sys2Proof.Machine

/-- What a command that moves a host buffer has applied once these bytes of it have been moved: they are written, with a ledger entry where
the command makes one. None where the command's own checks refuse it. -/
def movedPart (s : State) (k : Nat) (r : Req) (moved : List Byte) : Option State :=
  let p := r.payload
  match r.opcode with
  | 0x0402 =>
    match tget s.store.commons (leAt p 0 2) with
    | some o =>
      if !commonsLoadFields s p || o.sealed || o.size < leAt p 8 8 + leAt p 4 4 then none
      else some (ledgerCmd (loadBytes s (o.baseB + leAt p 8 8) (moved.take (leAt p 4 4))) k r 0 (leAt p 0 2) 0)
    | none => none
  | 0x0302 =>
    match tget s.store.regions (leAt p 0 4) with
    | some g =>
      if !regionLoadFields s p || g.sealed || g.size < leAt p 8 8 + leAt p 4 4 then none
      else some (ledgerCmd (loadBytes s (g.base + leAt p 8 8) (moved.take (leAt p 4 4))) k r g.owner (leAt p 0 4) 0)
    | none => none
  | 0x0C02 =>
    match s.boot.staging with
    | some st =>
      if !fwDataFields s p || st.length < leAt p 0 4 + leAt p 4 4 then none
      else some { s with boot.staging := some { st with got := stageBytes st.got (leAt p 0 4) (moved.take (leAt p 4 4)) } }
    | none => none
  | _ => none

/-- CMD_TIMEOUT (R150). A command that has started completes with the payload of what it has applied, its ledger entries being
written; a ring that it was destroying stays, and a zero-fill that it ordered is a part already applied. A command that has not
moved anything has applied nothing and completes with an empty payload. DESIGN CHOICE: which bytes of its buffer had been moved
comes with the step (log entry 81). -/
def execCmdTimeout (slot : SlotId) (moved : List Byte) (s : State) : Res :=
  if !fwUp s then .next s
  else match tget s.mbx.reqs slot.val with
    | none => .next s
    | some r =>
      match tget s.mbx.running slot.val with
      | some p =>
        let s := { s with rings := tmap s.rings (fun n g =>
          if r.opcode = 0x0502 && n = leAt r.payload 0 2 then { g with destroying := false } else g) }
        .next (respond s slot.val r 0x0105 p.payload)
      | none =>
        if !mayStart s slot.val r then .next s
        else
          let s := if moved.isEmpty || ledgerFull s then s else (movedPart s slot.val r moved).getD s
          .next (respond s slot.val r 0x0105 [])

end Sys2Proof.Machine
end

