-- ==== Sys2Proof/Machine/PowerStates.lean ====
section
/-! DEFINITION. SLEEP, TORPOR, the scrub wake and the host link's power states (03, R63 to R76; 05, R115, R116). -/

namespace Sys2Proof.Machine

/-- The state of a bank at step 3 of a SLEEP entry (R75): a tagged bank and a configuration region retain. -/
def sleepPower (b : Nat) (k : Bank) : BankPower := if k.owner ≠ 0 || b % 32 = 31 then .retain else .off

/-- Sets the power state of all 2,048 banks. -/
def setBankPower (s : State) (f : Nat → Bank → BankPower) : State :=
  { s with store.banks := (List.range 2048).map (fun b => (b, { bank s b with power := f b (bank s b) })) }

/-- Banks that go OFF lose their contents (Table 3-6). -/
def loseOff (s : State) (f : Nat → Bank → BankPower) : State :=
  let off (a : Nat) : Bool := inSp a && f (spBank a) (bank s (spBank a)) == .off
  let s := cure s off
  { s with mem := s.mem.filter (fun c => !off c.1) }

/-- A retained bank powers up; an OFF bank stays OFF until it is tagged (R75). -/
def wakePower (_ : Nat) (k : Bank) : BankPower := match k.power with | .retain => .on | p => p

/-- The idle conditions of R66 have held for IDLE_SLEEP; after a scrub wake the time does not count once every core has been
scrubbed (R76). -/
def sleepDue (s : State) : Bool :=
  idleNow s && ((s.pwr.scrubWake && s.pwr.scrubTicks == 0) || decide (s.pwr.idleSleep * 1000 ≤ s.pwr.idleTicks * 320))

/-- Cores leave DOZE when their clock stops or starts (R64, R636). -/
def endDoze (s : State) : State := { s with cores := tmap s.cores (fun _ k => { k with doze := false }) }

/-- Steps of R66 taken so far. -/
def entrySteps (s : State) : Nat :=
  match s.pwr.power with | .entering k => k | _ => 0

/-- The state after `n` steps of R66 in order. -/
def entryAfter (s : State) (n : Nat) : State :=
  let old := pstate s
  let s := { s with dsp.closed := decide (1 ≤ n), pwr.selfRefresh := decide (2 ≤ n) }
  let s := if 3 ≤ n then setBankPower (loseOff s sleepPower) sleepPower else s
  let s := if 4 ≤ n then endDoze s else s
  let s := { s with pwr.power := if n = 0 then .active else if 5 ≤ n then .sleep else .entering n }
  let s := if 5 ≤ n then settleMgt { s with pwr.sleepTicks := 0, pwr.scrubWake := false } else s
  if old ≠ pstate s then traceTray s 0x11 (old + pstate s * 4) else s

/-- SLEEP_ENTRY: the steps of R66 reached so far; five complete the entry. -/
def execSleepEntry (steps : Fin 6) (s : State) : Res :=
  if fwUp s && (s.pwr.power == .active || 0 < entrySteps s) && entrySteps s ≤ steps.val && (sleepDue s || 0 < entrySteps s)
  then .next (entryAfter s steps.val) else .next s

/-- A wake event of this kind stands (R67): a doorbell, a frame for this tray's node address, a scrub wake, or a mailbox command
that needs CORE, NOC, OBS, tier A or tier B (R84). -/
def wakeDue (s : State) : WakeCause → Bool
  | .doorbell => s.rings.any (fun p => p.2.configured && p.2.sqTail != p.2.sqHead)
  | .mailbox => s.mbx.reqs.any (fun p => needsDomains p.2.opcode)
  | .scrub => s.pwr.scrubWake
  | .txnFrame dst => s.fab.addr != .none && dst == s.fab.node

/-- WAKE: from SLEEP the wake begins; an entry stopped before its point of no return is undone, one past it finishes and the wake
follows (R67, R68). -/
def execWake (cause : WakeCause) (s : State) : Res :=
  if !alive s || !wakeDue s cause then .next s
  else match s.pwr.power with
    | .sleep => .next { s with pwr.power := .waking }
    | .entering k =>
      if k < 4 then
        let s := setBankPower s wakePower
        let s := { s with pwr.power := .active, pwr.selfRefresh := false, dsp.closed := false }
        .next (traceTray s 0x11 (2 + pstate s * 4))
      else let s := entryAfter s 5; .next { s with pwr.power := .waking }
    | _ => .next s

/-- Back to ACTIVE: retained banks are ON, memory has left self-refresh, MGT is at 500 MHz, the dispatcher is released, and OBS
starts. Every core counts its 32 idle cycles anew. -/
def toActive (s : State) (old : Nat) : State :=
  let s := endDoze (setBankPower s wakePower)
  let s := { s with pwr.power := .active, pwr.mgtMhz := 500, pwr.selfRefresh := false, pwr.wokeTick := s.eft.tick,
                    dsp.closed := false }
  flushTrcStaging (traceTray s 0x11 (old + pstate s * 4))

/-- SCRUB_WAKE: ten minutes in SLEEP since the last full scrub; the tray wakes, scrubs, and returns to SLEEP (R76). -/
def execScrubWake (s : State) : Res :=
  if alive s && s.pwr.power == .sleep && decide (600000000000 ≤ s.pwr.scrubTicks * 320) then
    .next (ctrAdd { s with pwr.scrubWake := true, pwr.scrubDone := [], pwr.power := .waking } 0x0180 1)
  else .next s

/-- The conditions of R69 and R34. -/
def torporDue (s : State) : Bool :=
  s.pwr.power == .sleep && s.pwr.torporEn && decide (s.pwr.idleTorpor * 1000000 ≤ s.pwr.sleepTicks * 320)
    && s.host.aspmL1 && fabricQuiet s
    && !s.store.regions.any (fun p => p.2.writable && p.2.tierA)
    && !s.store.tenants.any (fun p => p.2.state != .free && p.2.residency != 0)

/-- Contents that outlive TORPOR: tier B, and the parts of the tier A reserve that are saved (R70, R71). -/
def outlivesTorpor (a : Nat) : Bool := inTierB a || (inTierA a && inReserve a)

/-- Every scratchpad and tier A copy is dropped, and replicas with them, and the sections that stood in the configuration regions
(R34, R71, R75). -/
def dropAllCopies (s : State) : State :=
  { s with store.spCopies := [], store.replicas := [],
           cores := tmap s.cores (fun _ k => { k with bank31 := [], doze := false }),
           store.banks := (List.range 2048).map (fun b => (b, { bank s b with owner := 0, res := b % 32 == 31, power := .off })),
           store.regions := tmap s.store.regions (fun _ g => { g with copy := none }),
           store.fills := s.store.fills.filter (fun f => !inTierA f.base),
           mem := s.mem.filter (fun c => outlivesTorpor c.1), ecc.poison := s.ecc.poison.filter outlivesTorpor,
           ecc.latent := tkeep s.ecc.latent (fun a _ => outlivesTorpor a) }

/-- TORPOR_ENTRY (R69 to R71). -/
def execTorporEntry (s : State) : Res :=
  if fwUp s && torporDue s then
    let s := dropPorts (withdraw (traceTray s 0x11 (2 + 3 * 4)))
    .next { dropAllCopies s with pwr.power := .torpor, pwr.mgtMhz := 0, host.l1 := true, boot.routed := false }
  else .next s

/-- The commons are resident in tier A again (R37, R71). -/
def restoreCommons (s : State) : State :=
  s.store.commons.foldl (fun s p => if p.2.sealed then memCopy s p.2.baseB p.2.baseA p.2.size else s) s

/-- The resume path reads the running image from the slot it was booted from, and its SHA-384 is the digest that the Eft island
holds (R71). An image that was booted from the recovery buffer stands in no slot; then the check fails (log entry 77). -/
def resumeImage (s : State) : Bool :=
  match s.boot.runFrom with
  | .slotA => sha384 (imgBytes (slotOf s false [])) == s.boot.runDigest
  | .slotB => sha384 (imgBytes (slotOf s true [])) == s.boot.runDigest
  | _ => false

/-- What row `k` of Table 3-5 brings, the first row being 0: MGT runs (2), FAB runs and the ports begin training (6), tier A is
initialised and holds the parts that were saved (7). -/
def resumeRow (s : State) (k : Nat) : State :=
  let s := { s with pwr.power := .resuming k }
  match k with
  | 2 => { s with pwr.mgtMhz := 500 }
  | 6 => claimAlone (trainAll (rejoin s))
  | 7 => restoreCommons s
  | _ => s

/-- The rows of Table 3-5 up to `n`, in order; the image check stands before row 5. -/
def resumeTo (s : State) (n : Nat) : State :=
  (List.range 8).foldl (fun s k => match s.pwr.power with
    | .resuming j => if j < k && k ≤ n && (k < 5 || resumeImage s) then resumeRow s k else s
    | _ => s) s

/-- TORPOR_WAKE: the link leaves L1, and the resume sequence starts; a further one reaches the next row of Table 3-5 (R72). -/
def execTorporWake (s : State) : Res :=
  if !alive s then .next s
  else match s.pwr.power with
    | .resuming k => .next (resumeTo s (k + 1))
    | _ => .next (linkExit s)

/-- The configuration region of every core is ON again, with zeros (R75). -/
def onConfigBanks (s : State) : State := setBankPower s (fun b k => if b % 32 = 31 && !k.retired then .on else k.power)

/-- Doorbell bits that were latched are served in their order (R84, R157). -/
def serveLatched (s : State) : State := s.mbx.latched.foldl takeSlot { s with mbx.latched := [] }

/-- LINK_L1_REQUEST (R115). -/
def execLinkL1Request (s : State) : Res :=
  if alive s && s.pwr.power == .sleep && s.host.aspmL1 then .next { s with host.l1 := true } else .next s

/-- LINK_L1_EXIT (R67). -/
def execLinkL1Exit (s : State) : Res :=
  if alive s && s.pwr.power != .torpor then .next { s with host.l1 := false } else .next s

end Sys2Proof.Machine
end

