-- ==== Sys2Proof/Machine/HostLink.lean ====
section
/-! DEFINITION. BAR0, BAR2 and the ring doorbells (05_host_link_and_registers.md). -/

namespace Sys2Proof.Machine

/-! ## BAR0 blocks and sizes -/

/-- The blocks of BAR0 (Table 5-4); a reserved range counts as the SYS block (R120). -/
inductive Block where
  | sys | mbx | db | obs | reserved
deriving DecidableEq, Repr

def blockOf (o : Nat) : Block :=
  if o < 0x10000 then .sys
  else if o < 0x20000 then .mbx
  else if 0x100000 ≤ o && o < 0x200000 then .db
  else if 0x400000 ≤ o && o < 0x800000 then .obs
  else .reserved

/-- The invalid-write flag of a block. -/
def blockFlag : Block → Nat
  | .sys | .reserved => invwrSys | .mbx => invwrMbx | .db => invwrDb | .obs => invwrObs

/-- 4 B aligned to 4 B, or 8 B aligned to 8 B (R121). -/
def sizeAligned (o size : Nat) : Bool := (size == 4 && o % 4 == 0) || (size == 8 && o % 8 == 0)

/-! ## MSI-X table -/

/-- Writes bytes into the MSI-X table. -/
def msixWrite (s : State) (off size v : Nat) : State :=
  let e := off / 16
  let old := leBytes 16 (msixEntry s e).toNat
  msixFlush { s with host.msix := tset s.host.msix e (BitVec.ofNat 128 (ofLeBytes (patch old (off % 16) (leBytes size v)))) }

/-! ## Register writes without a row of their own -/

/-- SYS register slots that Table 5-5 lists. -/
def sysSlot (o : Nat) : Bool := decide (o / 8 ≤ 8) || (decide (0x100 ≤ o) && decide (o < 0x140))

/-- A write to the SYS block. SYS_RST, SYS_BOOT.RECOVER and the window registers have rows of their own; a value of SYS_RST.CMD
that Table 5-6 does not list is an unlisted encoding (R12, R87). -/
def sysWrite (s : State) (o size v : Nat) : State :=
  if o < 0x4000 then
    if !sysSlot o then sysErr s invwrSys
    else if o = 0x40 then { s with host.sysErr := s.host.sysErr &&& ~~~(BitVec.ofNat 6 v) }
    else if o = 0x18 && v % 2 ^ 32 ≠ 0x5A5A0001 && v % 2 ^ 32 ≠ 0x5A5A0002 then sysErr s invwrSys
    else s
  else if o < 0x4100 then s
  else if o < 0x8000 then sysErr s invwrSys
  else msixWrite s (o - 0x8000) size v

/-- A write to the mailbox region: bytes of a slot in HOST; RO registers ignore it (R138, R143). -/
def mbxWrite (s : State) (o size v : Nat) : State :=
  if o < 0x2000 then
    let k := o / 0x100
    if slotIsHost s k then
      { s with mbx.slots := tset s.mbx.slots k (patch (slotBytes s k) (o % 0x100) (leBytes size v)) }
    else sysErr s invwrMbx
  else if o < 0x2018 || (0x2020 ≤ o && o < 0x2050) then s
  else sysErr s invwrMbx

/-- A ring is CONFIGURED: a RING_DESTROY that waits for its quench has already unconfigured it for the host (R131, R181). -/
def ringUp (g : Ring) : Bool := g.configured && !g.destroying

/-- A write to a doorbell page: DB_SQHEAD, DB_STAT and the high halves of slots ignore it (R121, R130). In the page of a ring
that is not CONFIGURED every write sets the flag, one of a high half too: R131 names the whole page and R121 the slots of any
block, and the model takes the rule of the page (DESIGN CHOICE, log entry 73). -/
def dbWrite (s : State) (o : Nat) : State :=
  if !ringUp (ring s (o / 0x1000)) || 0x20 ≤ o % 0x1000 then sysErr s invwrDb else s

/-- A write to the counter window: only OBS_TSEL and OBS_TRC_HEAD accept one, by rows of their own (R585). -/
def obsWrite (s : State) (o : Nat) : State :=
  if o / 8 = 0x3A0000 / 8 || o / 8 = 0x3A0010 / 8 then s else sysErr s invwrObs

/-- BAR0_WRITE (R119 to R122): poisoned writes are discarded and reported, and in D3hot every write is an Unsupported Request; a bad size or alignment sets the flag of the addressed block; the
block then takes it. Before the ready event only the SYS block does. -/
def execBar0Write (offset : Nat) (size : Nat) (value : Word) (poisoned : Bool) (s : State) : Res :=
  let s := linkExit s
  if !linkServes s then .next s
  else if s.host.d3hot then .next (unsupportedRequest s true {})
  else if poisoned then .next (aerReport s .poisoned)
  else
    let b := blockOf offset
    if !ready s && b ≠ .sys then .next s
    else if !sizeAligned offset size then .next (sysErr s (blockFlag b))
    else .next (match b with
      | .sys => sysWrite s offset size value.toNat
      | .mbx => mbxWrite s (offset - 0x10000) size value.toNat
      | .db => dbWrite s (offset - 0x100000)
      | .obs => obsWrite s (offset - 0x400000)
      | .reserved => sysErr s invwrSys)

/-! ## BAR2 -/

/-- BAR2_RESIZE: 4 to 256 GiB; every window is disabled and its base cleared (R125). A write of the size that BAR2 already has
does the same (DESIGN CHOICE, log entry 74). -/
def execBar2Resize (log2GiB : Nat) (s : State) : Res :=
  let s := linkExit s
  if !linkServes s || log2GiB < 2 || 8 < log2GiB then .next s
  else .next { s with host.bar2GiB := 2 ^ log2GiB,
                      host.wins := tmap s.host.wins (fun _ w => { w with enable := false, base := 0 }) }

/-- SYS_WIN_BASE_WRITE (R127): 8 bytes, or 4 bytes of one half with the other half kept (R121). -/
def execSysWinBaseWrite (n : Fin 4) (value : PartWrite) (s : State) : Res :=
  let s := linkExit s
  if !linkServes s then .next s
  else if s.host.d3hot then .next (unsupportedRequest s true {})
  else
    let w := win s n.val
    let v := halfWrite w.base value.half value.value.toNat
    if v % bar2WinSize s ≠ 0 || 0xF0000000000 < v + bar2WinSize s || w.enable then .next (sysErr s invwrSys)
    else .next { s with host.wins := tset s.host.wins n.val { w with base := v } }

/-- SYS_WIN_CTL_WRITE: a write whose TCID is 0x000 or 0xFFF is an unlisted encoding and is refused whole (R12, R127; log entry 25),
in recovery too: the exception of R127 is read as the boot ROM's own setting of window 0 (DESIGN CHOICE, log entry 75). -/
def execSysWinCtlWrite (n : Fin 4) (value : W32) (s : State) : Res :=
  let s := linkExit s
  if !linkServes s then .next s
  else if s.host.d3hot then .next (unsupportedRequest s true {})
  else
    let t := bits value.toNat 16 12
    if t = 0 || t = 0xFFF then .next (sysErr s invwrSys)
    else .next { s with host.wins := tset s.host.wins n.val { win s n.val with enable := value.getLsbD 0, tcid := t } }

/-! ## Ring doorbells -/

/-- A stamp for a new TAIL; the 65th extends the newest (R196). -/
def stampTail (g : Ring) (tail tick : Nat) : List (Nat × Nat) :=
  if g.stamps.length < 64 then g.stamps ++ [(tail, tick)]
  else match g.stamps.getLast? with
    | some (_, t) => g.stamps.dropLast ++ [(tail, t)]
    | none => [(tail, tick)]

/-- SQ_DOORBELL (R131, R132, R196). -/
def execSqDoorbell (ring : RingId) (value : W32) (s : State) : Res :=
  let s := linkExit s
  if !linkServes s || !ready s then .next s
  else if s.host.d3hot then .next (unsupportedRequest s true {})
  else
    let g := Machine.ring s ring.val
    let v := value.toNat % 2 ^ 16
    if !ringUp g then .next (sysErr s invwrDb)
    else if 2 ^ g.log2 ≤ v then .next (sysErr s invwrDb)
    else if v = g.sqTail then .next s
    else .next (noteBusy (setRing s ring.val { g with sqTail := v, stamps := stampTail g v s.eft.tick }))

/-- CQ_HEAD_WRITE: completions are consumed and slots freed (R131, R198, R199). -/
def execCqHeadWrite (ring : RingId) (value : W32) (s : State) : Res :=
  let s := linkExit s
  if !linkServes s || !ready s then .next s
  else if s.host.d3hot then .next (unsupportedRequest s true {})
  else
    let g := Machine.ring s ring.val
    let v := value.toNat % 2 ^ 16
    if !ringUp g then .next (sysErr s invwrDb)
    else if 2 ^ g.log2 ≤ v then .next (sysErr s invwrDb)
    else if v = g.cqHead then .next s
    else
      let n := (v + 2 ^ g.log2 - g.cqHead) % 2 ^ g.log2
      .next (postReadFault (setRing s ring.val { g with cqHead := v, unread := g.unread - n }) ring.val)

/-! ## BAR0 reads: the register map -/

/-- The SYS registers (Table 5-6), by offset of their 8-byte slot. -/
def sysRead (s : State) (o : Nat) : Nat :=
  match o with
  | 0x00 => 0x0400 + Config.stepping * 2 ^ 16
  | 0x08 => b2n s.boot.fwReady + 2 * b2n s.boot.routed + 4 * pstate s + 16 * b2n s.pwr.admitHold
  | 0x10 => s.boot.status
  | 0x20 => s.boot.cause
  | 0x28 => s.boot.fwver
  | 0x30 => s.eft.time
  | 0x38 => s.eft.croak % 2 ^ 32
  | 0x40 => s.host.sysErr.toNat
  | o =>
    if 0x100 ≤ o && o < 0x140 then
      let w := win s ((o - 0x100) / 16)
      if o % 16 = 0 then w.base else b2n w.enable + w.tcid * 2 ^ 16
    else if 0x4000 ≤ o && o < 0x4100 then
      (s.host.pba.filter (fun v => v / 64 == (o - 0x4000) / 8)).foldl (fun x v => x ||| 2 ^ (v % 64)) 0
    else if 0x8000 ≤ o then bits (msixEntry s ((o - 0x8000) / 16)).toNat (8 * (o % 16)) 64
    else 0

/-- The mailbox region (Tables 6-1, 6-2). -/
def mbxRead (s : State) (o : Nat) : Nat :=
  match o with
  | 0x2000 | 0x2008 => s.mbx.own.toNat
  | 0x2010 => s.mbx.done.toNat
  | 0x2020 => s.mbx.evqBase
  | 0x2028 => b2n s.mbx.evqEnable
  | 0x2030 => s.mbx.evqHead
  | 0x2038 => s.mbx.evqTail
  | 0x2040 => s.mbx.evqDrop
  | 0x2048 => s.eft.croak
  | o => if o < 0x2000 then leAt (slotBytes s (o / 0x100)) (o % 0x100) 8 else 0

/-- A doorbell page (Table 5-7). -/
def dbRead (s : State) (o : Nat) : Nat :=
  let g := ring s (o / 0x1000)
  match o % 0x1000 with
  | 0x00 => g.sqTail | 0x08 => g.sqHead | 0x10 => g.cqHead | 0x18 => if ringUp g then dbStat g else 0 | _ => 0

end Sys2Proof.Machine
end

