-- ==== Sys2Proof/Machine/Scrub.lean ====
section
/-! DEFINITION. DOZE, the scrubbers, refresh and the end of a tier zero-fill (03, R64; 09, R249, R250; 19, R473, R474, R480). -/

namespace Sys2Proof.Machine

/-- A sequencer that waits: no section runs on it, or it is in WAIT; a nonzero SEQ_TIMER keeps its core out of DOZE (R64, R295). -/
def seqWaits (q : Seq) : Bool := (q.run == .idle || q.run == .done || q.run == .wait) && q.timer == 0

/-- CORE_DOZE: empty engine queues and a waiting sequencer, after the ready event (R64). -/
def execCoreDoze (core_ : CoreId) (s : State) : Res :=
  let k := core s core_.val
  if domainsUp s && ready s && !k.doze && seqWaits k.seq && k.queues.all (fun p => p.2.isEmpty) then
    let t := setCore s core_.val { k with doze := true }
    .next (if trayDoze t then traceTray t 0x11 (0 + 1 * 4) else t)
  else .next s

/-- A group's scrubber may read this bank: ON, and no zero-fill of it is pending (R249). -/
def scrubs (s : State) (b : Nat) : Bool :=
  (bank s b).power == .on && !((core s (b / 32)).filling && !(bank s b).res)

/-- A full pass of a core's scrubber has ended; once every core's has, the tray has had a full scrub and its time in SLEEP counts anew
(R76, R249, R250). -/
def endPass (s : State) (c : Nat) : State :=
  let s := modCore s c (fun k => { k with scrubbed := s.eft.tick })
  let done := if s.pwr.scrubDone.contains c then s.pwr.scrubDone else s.pwr.scrubDone ++ [c]
  if 64 ≤ done.length then { s with pwr.scrubDone := [], pwr.scrubTicks := 0 } else { s with pwr.scrubDone := done }

/-- What error correction finds at words of a range, each by the number of its word in the range. -/
def layFinds (s : State) (a words : Nat) (finds : List (Nat × EccFind)) : State :=
  finds.foldl (fun s f => if f.1 < words then eccLay s (a + 8 * f.1) f.2 else s) s

/-- The scrubber reads the 512 B beat that holds a row of its group, and checks every word; lines of the gathering buffer that lie in
it are flushed first (R232, R246, R249). The pass of a core ends with the last beat of group 3. -/
def scrubBeat (s : State) (c group row : Nat) (finds : List (Nat × EccFind)) : State :=
  let a := (spBase c + group * 0x200000 + row * 64) / 512 * 512
  let s := if scrubs s (spBank a) then (eccCheck (layFinds (flushGb s a 512) a 64 finds) a 512 none).1 else s
  if group = 3 && row / 8 = 4095 then endPass s c else s

/-- SP_SCRUB (R249). -/
def execSpScrub (core_ : CoreId) (group : Fin 4) (row : Fin 32768) (finds : List (Nat × EccFind)) (s : State) : Res :=
  if domainsUp s then .next (scrubBeat s core_.val group.val row.val finds) else .next s

/-- SCRUB_FORCE: the scrubber takes a cycle at priority 2, which counts under SCRUB for every queue whose head waits (R249,
Table 18-3). -/
def execScrubForce (core_ : CoreId) (group : Fin 4) (row : Fin 32768) (finds : List (Nat × EccFind)) (s : State) : Res :=
  if !domainsUp s then .next s
  else
    let c := core_.val
    let s := ((core s c).queues.filter (fun p => !p.2.isEmpty)).foldl (fun s p => stall s c 0x06 p.1 1) s
    .next (scrubBeat s c group.val row.val finds)

/-- SP_SCRUB_DOZE: eight minutes after its last full pass a dozing core scrubs its ON banks and dozes again (R250): the errors that lie in
their words, and those that the command finds by word of the scratchpad, are met as every scrub meets them. -/
def execSpScrubDoze (pass : DozeScrub) (s : State) : Res :=
  let c := pass.core.val
  let k := core s c
  if !domainsUp s || !k.doze || s.eft.tick < k.scrubbed + 1500000000 then .next s
  else
    let s := endPass (countCore s c 0x250 1) c
    let s := layFinds s (spBase c) 0x100000 (pass.finds.filter (fun f => scrubs s (spBank (spBase c + 8 * f.1))))
    .next (((s.ecc.poison ++ s.ecc.latent.map (·.1)).filter (fun w => inSp w && spCore w == c && scrubs s (spBank w))).foldl
      (fun s w => (eccCheck s w 8 none).1) s)

/-- TIER_SCRUB: a controller checks a word in an idle cycle; an uncorrectable one is poisoned and recorded, and ends no job
(R470, R473). -/
def execTierScrub (addr : Nat) (find : EccFind) (passEnds : Bool) (s : State) : Res :=
  if !domainsUp s || !(inTierA addr || inTierB addr) then .next s
  else
    let a := addr / 8 * 8
    let s := if (gtag s (a / 0x10000)).fill then s else (eccRead s a 8 find none).1
    .next (if passEnds then ctrAdd s 0x220 1 else s)

/-- REFRESH: a refresh command lengthens access latency only (R474). -/
def execRefresh (_controller : Fin 36) (s : State) : Res := .next s

/-- TIER_FILL_DONE: the range holds zeros with valid check bits, FILL clears, and its granules are free (R480). -/
def execTierFillDone (index : Nat) (s : State) : Res :=
  match s.store.fills[index]? with
  | none => .next s
  | some f =>
    if !domainsUp s then .next s
    else
      let s := memZero s f.base f.size
      .next (answerWaits { s with store.fills := s.store.fills.eraseIdx index })

end Sys2Proof.Machine
end

