-- ==== Sys2Proof/Machine/Units.lean ====
section
/-! DEFINITION. Units: the unit commands, fencing, disagreement, error records and field repair (07, R166, R167, R182, R183; 12,
R325 to R331, R638; 22, R543 to R545; 23, R549 to R563). -/

namespace Sys2Proof.Machine

/-! ## Field repair (R329 to R331) -/

/-- Swifort starts a field repair of a core: ADMIN goes to DRAINING first (R329). -/
def startRepair (s : State) (c : Nat) : State :=
  if (tget s.repairs c).isSome then s
  else
    let u := coreUnit c
    let was := (unitRec s u).admin
    let s := if was = .online then fenceAdmin s u .draining else s
    advanceRepairs { s with repairs := tset s.repairs c { testing := false, blown := 0, wasAdmin := was } }

/-- The physical line of a logical line of 0 to 129, past the skipped lines of its direction (R327). -/
def physLine (map : Nat) (column : Bool) (l : Nat) : Nat :=
  let f := bits map (if column then 16 else 0) 8
  let r := bits map (if column then 24 else 8) 8
  let q := ([f, r].filter (· ≠ 0)).map (· - 1)
  let q := match q with | [a, b] => if a ≤ b then [a, b] else [b, a] | q => q
  q.foldl (fun p x => if x ≤ p then p + 1 else p) l

/-- What R330 repairs: one faulty line, or one faulty cell as its column. -/
def repairable : List LineFind → Option (Bool × Nat)
  | [.row l] => some (false, l)
  | [.column l] => some (true, l)
  | [.cell _ l] => some (true, l)
  | _ => none

/-- The ARR_MAP field that is blown: the field reserve, else the factory field (R330); its number 0 ROW_F to 3 COL_R. -/
def fuseField (map : Nat) (column : Bool) : Option Nat :=
  let b := if column then 2 else 0
  if bits map (8 * (b + 1)) 8 = 0 then some (b + 1) else if bits map (8 * b) 8 = 0 then some b else none

/-- The repair ends with a REPAIR_FAILED record; the core stays OFFLINE (R330, R331). -/
def repairFailed (s : State) (c : Nat) (found : List LineFind) (map : Nat) : State :=
  let need := match repairable found with | some (col, l) => physLine map col l + 1 | none => 0
  let s := { s with repairs := tdel s.repairs c }
  latch s (coreUnit c) (report s 0x0A 0 (coreUnit c) 0 0 0 (min found.length 255 + need % 256 * 256) map)

/-- LINE_TEST_DONE: one line is repaired by a fuse and the test runs again, which ends the repair when it is clean; anything else
fails the repair (R330). Swifort blows no fuse of a core that is not OFFLINE. -/
def execLineTestDone (core_ : CoreId) (found : List LineFind) (retestClean : Bool) (s : State) : Res :=
  let c := core_.val
  match tget s.repairs c with
  | none => .next s
  | some r =>
    if !fwUp s || !r.testing || (unitRec s (coreUnit c)).admin ≠ .offline then .next s
    else
      let map := tgetD s.boot.arrMap c 0
      match repairable found with
      | none => .next (repairFailed s c found map)
      | some (col, l) => match fuseField map col with
        | none => .next (repairFailed s c found map)
        | some f =>
          let v := physLine map col l + 1
          -- Table 12-4 fuses no value above 130; a full ledger lets no fuse be blown, and the core stays OFFLINE until it has room (R576)
          if 130 < v then .next (repairFailed s c found map)
          else if ledgerFull s then .next (ctrAdd s 0x800 1)
          else
          let s := { s with boot.arrMap := tset s.boot.arrMap c (map + v % 256 * 2 ^ (8 * f)) }
          let seq := s.ledger.next
          let s := ledgerOwn s { origin := 5, kind := 0x9002, object := coreUnit c, value := leBytes 8 (f + v * 256) }
          let s := raiseEvent s 0x0031 (c + b2n col * 64 + l % 128 * 256) seq
          .next { s with repairs := if retestClean then tdel s.repairs c else tset s.repairs c { r with blown := r.blown + 1 } }

/-! ## Fencing (Table 23-4) -/

/-- Swifort fences a unit whose HEALTH it has seen change. -/
def fence (s : State) (u : Nat) (h : Health) : State :=
  match h with
  | .good => s
  | .fault => if u / 0x1000 = 5 then portUnitChanged (fenceAdmin s u .offline) u else fenceAdmin s u .offline
  | .suspect =>
    if u / 0x1000 = 1 then startRepair s (u % 0x1000)
    else if (u / 0x1000 = 2 || u / 0x1000 = 5) && (unitRec s u).admin = .online then
      finishFencing (portUnitChanged (fenceAdmin s u .draining) u)
    else s

/-- Swifort's belief of a unit. -/
def setBelief (s : State) (u : Nat) (h : Health) : State :=
  { s with errs.units := tset s.errs.units u { unitRec s u with belief := h } }

/-- UNIT_HEALTH: the oldest notification of this unit is received: event, belief and fence (R543, R560). A change of which no
notification is queued is one that hardware makes now, for a cause outside the model's rules (log entry 39). -/
def execUnitHealth (unit : Nat) (health : Health) (s : State) : Res :=
  if !fwUp s then .next s
  else
    let queued := s.errs.notes.any (fun n => n.unit == unit && n.new == health)
    let s := if !queued && health ≠ .good && allUnits.contains unit then hwHealth s unit health true else s
    match s.errs.notes.find? (fun n => n.unit == unit) with
    | none => .next s
    | some n =>
      if n.new ≠ health then .next s
      else
        let s := { s with errs.notes := s.errs.notes.erase n }
        let p0 := unit + healthCode n.old * 2 ^ 18 + healthCode n.new * 2 ^ 20 + n.gen.toNat * 2 ^ 32
        let s := traceTray (raiseEvent s 0x0021 p0 0) 0x12 p0
        .next (fence (setBelief s unit n.new) unit n.new)

/-- A unit whose HEALTH differs from Swifort's belief: UNIT_DISAGREE, an entry, and the hardware value is adopted (R543, R545). -/
def disagree (s : State) (u : Nat) : State :=
  let r := unitRec s u
  if r.belief = r.health then s
  else
    let seq := if ledgerFull s then 0xFFFFFFFFFFFFFFFF else s.ledger.next
    let s := raiseEvent s 0x0020 (u + adminCode r.admin * 2 ^ 16 + healthCode r.belief * 2 ^ 18 + healthCode r.health * 2 ^ 20
      + r.gen.toNat * 2 ^ 32) seq
    let s := ledgerSelf s 0x8005 0 u (healthCode r.belief + healthCode r.health * 4 + r.gen.toNat * 2 ^ 16)
    fence (setBelief s u r.health) u r.health

/-- UNIT_STATE_POLL: `silent` lists the changes of HEALTH that hardware made without a notification (R543). -/
def execUnitStatePoll (silent : List (Nat × Health)) (s : State) : Res :=
  let s := if alive s then
      (silent.filter (fun p => allUnits.contains p.1 && p.2 != .good)).foldl (fun s p => hwHealth s p.1 p.2 false) s
    else s
  if fwUp s then .next (allUnits.foldl disagree s) else .next s

/-! ## Error records -/

/-- The head of a report queue that Swifort takes first: in order of tray time, then of unit (R549, R553). -/
def nextReport (s : State) : Option (Nat × ErrRep) :=
  let heads := s.errs.queues.filterMap (fun q => match q.2 with | r :: _ => some (q.1, r) | [] => none)
  heads.foldl (fun b x => match b with
    | none => some x
    | some y => if x.2.time < y.2.time || (x.2.time = y.2.time && x.2.unit < y.2.unit) then some x else some y) none

/-- CHECK_LINE records of one core that name the same line within 24 hours (R329, R559). -/
def lineCount (s : State) (r : ErrRep) : Nat :=
  s.errs.log.countP (fun e => e.2.2.cls == 0x08 && e.2.2.unit == r.unit && e.2.2.d0 % 256 == r.d0 % 256
    && decide (s.eft.time < e.2.2.time + 86400000000000))

/-- Swifort writes records: from the start of its firmware on, in SLEEP too. -/
def recordsRun (s : State) : Bool := fabRuns s

/-- ERROR_RECORD: the oldest report becomes record INDEX in slot INDEX mod 4,096, and the event is raised (R549 to R553). The third
CHECK_LINE record of one line within 24 hours starts a field repair (R329). -/
def execErrorRecord (s : State) : Res :=
  if !recordsRun s then .next s
  else match nextReport s with
    | none => .next s
    | some (q, r) =>
      let i := s.errs.next
      let s := { s with errs.queues := tmod s.errs.queues q [] (fun l => l.drop 1), errs.log := tset s.errs.log (i % 4096) (i, r),
                        errs.next := (i + 1) % 2 ^ 32 }
      let s := raiseEvent s 0x0030 (i + r.cls * 2 ^ 32) r.tcid
      .next (if r.cls = 0x08 && 3 ≤ lineCount s r && fwUp s then startRepair s (r.unit % 0x1000) else s)

/-- The 64 bytes of a record (Table 23-2). -/
def errBytes (i : Nat) (r : ErrRep) : List Byte :=
  leBytes 8 (i + r.cls * 2 ^ 32 + r.scope * 2 ^ 40 + r.unit * 2 ^ 48) ++ leBytes 8 r.time
    ++ leBytes 8 (r.tcid + r.status * 2 ^ 16 + r.gen.toNat * 2 ^ 32 + healthCode r.health * 2 ^ 48 + adminCode r.admin * 2 ^ 50)
    ++ leBytes 8 (r.addr % 2 ^ 44) ++ leBytes 8 r.d0 ++ leBytes 8 r.d1
    ++ leBytes 8 (r.slot + r.jgen.toNat * 2 ^ 16 + r.ring * 2 ^ 32 + r.sqIndex * 2 ^ 40) ++ zeros 8

/-! ## Commands (Table 7-5) -/

def unitFields (_ : State) (p : List Byte) : Bool := leAt p 2 2 == 0

def execUnitQuery (slot : SlotId) (s : State) : Res :=
  .next (runCmd slot.val 0x0601 false unitFields (fun r s =>
    let u := leAt r.payload 0 2
    if !allUnits.contains u then .refuse 0x0160 else .ok s (unitBytes s u)) s)

/-- UNIT_LIST: 114 records to a host buffer (R182). -/
def execUnitList (slot : SlotId) (hostOk : Bool) (s : State) : Res :=
  .next (runCmd slot.val 0x0602 false (fun _ p => leAt p 0 8 % 64 == 0) (fun r s =>
    if !hostOk then .refuse 0x0104
    else .ok (hostWrite s (leAt r.payload 0 8) (allUnits.flatMap (unitBytes s))) (leBytes 4 allUnits.length)) s)

def adminOf : Nat → Admin
  | 0 => .online | 1 => .draining | _ => .offline

/-- UNIT_SET_ADMIN: one ADMIN change, one entry; under FORCE the jobs of a unit that leaves ONLINE are quenched, and the response follows
their quench, with the JOBS of the unit without them (R149, R182; log entry 86); a repair of a core set ONLINE or DRAINING is abandoned, and
OFFLINE during a repair changes nothing (R638). -/
def execUnitSetAdmin (slot : SlotId) (s : State) : Res :=
  .next (runCmd slot.val 0x0603 true (fun _ p => decide (leAt p 2 1 ≤ 2) && leAt p 3 1 == 0) (fun r s =>
    let u := leAt r.payload 0 2
    let a := adminOf (leAt r.payload 2 1)
    if !allUnits.contains u then .refuse 0x0160
    else if a = .offline && u / 0x1000 = 1 && (tget s.repairs (u % 0x1000)).isSome then .ok s (unitBytes s u)
    else
      let changed := decide ((unitRec s u).admin ≠ a)
      let s := writeAdmin s u a
      let s := if a ≠ .offline && u / 0x1000 = 1 then { s with repairs := tdel s.repairs (u % 0x1000) } else s
      let mine := if r.force && a ≠ .online then (s.dsp.jobs.filter (fun e => e.2.units.any (fun x => x.1 == u))).map (·.1) else []
      let s := if r.force && a ≠ .online then failWorks (quenchWhere s (fun _ j => j.units.any (fun x => x.1 == u)) 0x0205 0) (partsOn s u) 0x0205 else s
      let s := portUnitChanged s u
      let s := if u / 0x1000 = 5 && a ≠ .offline then startTraining s (u % 0x1000) else s
      let s := if changed then ledgerCmd s slot.val r 0 u 0 else s
      .wait s mine [] (unitBytes { s with dsp.jobs := s.dsp.jobs.filter (fun e => !mine.contains e.1) } u)) s)

/-- Retired banks of a core that pass the self-test return to use (R248). -/
def returnBanks (s : State) (c : Nat) (stillBad : List Nat) : State :=
  { s with store.banks := s.store.banks.filter (fun p =>
      !(p.1 / 32 == c && p.2.retired) || stillBad.contains (p.1 % 32)) }

/-- UNIT_RETEST: `pass` is the result of the unit's self-test, `stillBad` the retired banks of a core that fail it (R183). -/
def execUnitRetest (slot : SlotId) (pass : Bool) (stillBad : List Nat) (s : State) : Res :=
  .next (runCmd slot.val 0x0604 true unitFields (fun r s =>
    let u := leAt r.payload 0 2
    if !allUnits.contains u then .refuse 0x0160
    else if !(u / 0x1000 = 1 || u / 0x1000 = 2 || u / 0x1000 = 5) || (unitRec s u).admin ≠ .offline || unitUsed s u then .refuse 0x0161
    else
      let s := hwHealth s u (if pass then .good else .fault) true
      let s := if pass then (if u / 0x1000 = 1 then returnBanks s (u % 0x1000) stillBad else s)
        else latch s u (report s 0x0E 2 u 0 0 0 0 0)
      let s := ledgerCmd s slot.val r 0 u 0
      .ok s (unitBytes s u)) s)

end Sys2Proof.Machine
end

