-- ==== Sys2Proof/Machine/Gecko.lean ====
section
/-! DEFINITION. Gecko: the counter window, trace export and snapshots (25_observation.md; 07, R188). -/

namespace Sys2Proof.Machine

/-! ## The counter window (Table 25-1) -/

/-- The words of a record or page as bytes. -/
def recBytes (r : Tab Nat) : List Byte := (List.range 128).flatMap (fun i => leBytes 8 (tgetD r i 0))

/-- A tenant's page (R588); that of a FREE TCID, of 0x000 and of 0xFFF reads zero. -/
def pageBytes (s : State) (t : Nat) : List Byte :=
  if tcidOk t && tenantLive s t then recBytes (tset (tgetD s.obs.pages t []) 0 (t + (tenant s t).tgen * 2 ^ 32)) else zeros 1024

/-- OBS_TRC_STAT (Table 25-5). -/
def trcHeld (s : State) : Nat := (s.obs.trcTail + 2 ^ s.obs.log2 - s.obs.trcHead) % 2 ^ s.obs.log2
def trcFull (s : State) : Bool := trcHeld s == 2 ^ s.obs.log2 - 1
def trcStat (s : State) : Nat :=
  b2n (s.obs.dest != 0) + s.obs.dest * 2 + b2n (trcFull s) * 8 + (s.obs.log2 - 8) * 16
    + (List.range 8).foldl (fun n p => n + b2n (decide (16384 ≤ (tgetD s.obs.ponds p {}).recs.length)) * 2 ^ (8 + p)) 0

/-- The 8 bytes at a window offset that is a multiple of 8. -/
def obsRead (s : State) (o : Nat) : Nat :=
  if o < 0x4000 || (0x100000 ≤ o && o < 0x140000) then (ctr s o).toNat
  else if 0x200000 ≤ o && o < 0x300000 then
    tgetD (tgetD s.obs.latched ((o - 0x200000) / 0x400) []) (o % 0x400 / 8) 0
  else if 0x380000 ≤ o && o < 0x380400 then leAt (pageBytes s s.obs.tsel) (o - 0x380000) 8
  else if o = 0x3A0000 then s.obs.tsel
  else if o = 0x3A0008 then s.obs.trcTail
  else if o = 0x3A0010 then s.obs.trcHead
  else if o = 0x3A0018 then trcStat s
  else if o = 0x3BF000 then s.errs.next
  else if o = 0x3BF008 then s.errs.lost
  else if 0x3C0000 ≤ o then
    (match tget s.errs.log ((o - 0x3C0000) / 64) with
     | some (i, r) => leAt (errBytes i r) (o % 64 / 8 * 8) 8
     | none => 0)
  else 0

/-- The 8 bytes that a BAR0 read of an aligned offset returns (05, Tables 5-5 to 5-7; 06; 25). Before the ready event only the SYS
block answers. -/
def bar0Read (s : State) (o : Nat) : Nat :=
  match blockOf o with
  | .sys => sysRead s o
  | .reserved => 0
  | .mbx => if ready s then mbxRead s (o - 0x10000) else 0
  | .db => if ready s then dbRead s (o - 0x100000) else 0
  | .obs => if ready s then obsRead s (o - 0x400000) else 0

/-- What a BAR0 read of `size` bytes returns: zeros for a size or alignment that R121 does not accept, and the latched value for the
high half of SYS_TIME (R123). -/
def bar0Bytes (s : State) (o size : Nat) : List Byte :=
  if !sizeAligned o size then zeros size
  else if o = 0x34 then leBytes 4 s.host.timeHi.toNat
  else leBytes size (bar0Read s (o / 8 * 8) / 2 ^ (8 * (o % 8)))

/-- Answers a BAR0 read, with the attributes of the request (R114); a 4-byte read of SYS_TIME's low half latches the high half
(R123). -/
def bar0Answer (s : State) (o size : Nat) (attr : TlpAttr) : State :=
  let bs := bar0Bytes s o size
  let s := if o = 0x30 && size = 4 then { s with host.timeHi := BitVec.ofNat 32 (s.eft.time / 2 ^ 32) } else s
  { s with hostOut := s.hostOut ++ [.read bs attr] }

/-- SYS_TIME_READ, and any other host read of BAR0 (R116, R120 to R123; log entry 76). A read of SYS_STATUS in TORPOR and in the wake
from it returns the value at ACTIVE (R636). -/
def execSysTimeRead (read : Bar0Read) (s : State) : Res :=
  let attr := read.attr
  let s := linkExit s
  if !linkServes s then .next (frzAbort s s attr)
  else if s.host.d3hot then .next (unsupportedRequest s false attr)
  else if (match s.pwr.power with | .resuming _ => true | _ => false) && read.offset / 8 = 1 then
    .next { s with host.parked := s.host.parked ++ [.bar0 read.offset read.size attr] }
  else .next (bar0Answer s read.offset read.size attr)

/-- The host accesses that have waited for ACTIVE, in their order (R24, R72, R636). -/
def unpark (s : State) : State :=
  s.host.parked.foldl (fun s p => match p with
    | .bar0 o size attr => bar0Answer s o size attr
    | .bar2 wr o len data attr => bar2Perform s wr o len data attr) { s with host.parked := [] }

/-- WAKE_DONE (R67). -/
def execWakeDone (s : State) : Res :=
  if alive s && s.pwr.power == .waking then .next (unpark (toActive s 2)) else .next s

/-- TORPOR_WAKE_DONE: every row of Table 3-5 is reached, when the running image's slot holds the image whose digest the Eft island
keeps; doorbells that came in TORPOR are served at ACTIVE (R24, R71, R72, R84). -/
def execTorporWakeDone (s : State) : Res :=
  match s.pwr.power with
  | .resuming _ =>
    if alive s && resumeImage s then
      let s := resumeTo s 7
      .next (unpark (serveLatched (toActive (onConfigBanks s) 3)))
    else .next s
  | _ => .next s

/-- OBS_TSEL_WRITE (R599). -/
def execObsTselWrite (value : Word) (s : State) : Res :=
  let s := linkExit s
  if !linkServes s || !ready s then .next s
  else if s.host.d3hot then .next (unsupportedRequest s true {})
  else .next { s with obs.tsel := value.toNat % 4096 }

/-- OBS_TRC_HEAD_WRITE: a value not below 2^LOG2 is an unlisted encoding (R12, R585). -/
def execObsTrcHeadWrite (value : Word) (s : State) : Res :=
  let s := linkExit s
  let v := value.toNat % 2 ^ 20
  if !linkServes s || !ready s then .next s
  else if s.host.d3hot then .next (unsupportedRequest s true {})
  else if 2 ^ s.obs.log2 ≤ v then .next (sysErr s invwrObs)
  else .next { s with obs.trcHead := v }

/-! ## Trace export -/

/-- A TIMEBASE record (R590). -/
def timebaseRec (s : State) : State := traceTray s 0x01 s.eft.time

/-- TIMEBASE: STAMP wraps (R590). -/
def execTimebase (s : State) : Res := if alive s && ready s then .next (timebaseRec s) else .next s

/-- The pond whose head record is exported next: the older STAMP, then the lower pond (R595). -/
def nextPond (s : State) : Option (Nat × TrcRec) :=
  (s.obs.ponds.filterMap (fun b => match b.2.recs with | r :: _ => some (b.1, r) | [] => none)).foldl (fun m x => match m with
    | none => some x
    | some y => if x.2.w0 / 2 ^ 32 < y.2.w0 / 2 ^ 32 then some x else some y) none

/-- Takes up to `n` records off the pond buffers. -/
def takeRecs : Nat → State → List TrcRec × State
  | 0, s => ([], s)
  | n + 1, s => match nextPond s with
    | none => ([], s)
    | some (p, r) =>
      let b := tgetD s.obs.ponds p {}
      let (rs, s) := takeRecs n { s with obs.ponds := tset s.obs.ponds p { b with recs := b.recs.drop 1 } }
      (r :: rs, s)

def trcBytes (r : TrcRec) : List Byte := leBytes 8 r.w0 ++ leBytes 8 r.w1

/-- TRACE_EXPORT: one run of up to 32 records goes to the host ring, up to its end and its space, and then TAIL advances; to the trace
port as frames of 19 bytes (R595, R596). An export after TRACE_CONFIG or a start of OBS begins with a TIMEBASE record. -/
def execTraceExport (s : State) : Res :=
  if !alive s || !ready s || !obsRuns s || s.obs.dest = 0 then .next s
  else
    let s := if s.obs.timebaseDue then timebaseRec { s with obs.timebaseDue := false } else s
    if s.obs.dest = 2 then
      let (rs, s) := takeRecs 32 s
      .next (rs.foldl (fun s r => { s with hostOut := s.hostOut ++ [.tracePort ([0xA5, 0x5A] ++ trcBytes r ++ [0])] }) s)
    else if s.host.d3hot then .next s
    else
      let size := 2 ^ s.obs.log2
      let n := min 32 (min (size - 1 - trcHeld s) (size - s.obs.trcTail))
      let (rs, s) := takeRecs n s
      if rs.isEmpty then .next s
      else
        let s := hostWrite s (s.obs.hostAddr + 16 * s.obs.trcTail) (rs.flatMap trcBytes)
        .next { s with obs.trcTail := (s.obs.trcTail + rs.length) % size }

/-! ## Commands -/

def traceConfigFields (_ : State) (p : List Byte) : Bool :=
  decide (leAt p 1 1 ≤ 2) && decide (8 ≤ leAt p 2 1) && decide (leAt p 2 1 ≤ 20) && leAt p 3 5 == 0 && leAt p 8 8 % 4096 == 0
    && leAt p 16 8 == 0

/-- Empties the buffers of ponds that leave the mask; their records are counted as dropped (R597). -/
def leavePonds (s : State) (mask : Nat) : State :=
  (s.obs.ponds.filter (fun b => !bitAt mask b.1 && !b.2.recs.isEmpty)).foldl (fun s b =>
    ctrAdd { s with obs.ponds := tset s.obs.ponds b.1 { recs := [], dropped := b.2.dropped } } 0x810 b.2.recs.length) s

def execTraceConfig (slot : SlotId) (s : State) : Res :=
  .next (runCmd slot.val 0x0A01 true traceConfigFields (fun r s =>
    let mask := leAt r.payload 0 1
    let dest := leAt r.payload 1 1
    let log2 := leAt r.payload 2 1
    let addr := leAt r.payload 8 8
    let s := leavePonds s mask
    let moved := dest != s.obs.dest || log2 != s.obs.log2 || addr != s.obs.hostAddr
    let s := { s with obs.pondMask := mask, obs.dest := dest, obs.log2 := log2, obs.hostAddr := addr,
                      obs.trcTail := if moved then 0 else s.obs.trcTail, obs.trcHead := if moved then 0 else s.obs.trcHead,
                      obs.timebaseDue := true }
    .ok (ledgerCmd s slot.val r 0 0 0) []) s)

/-- The words of a range of the counter window. -/
def windowBytes (s : State) (lo n : Nat) : List Byte := (List.range (n / 8)).flatMap (fun i => leBytes 8 (ctr s (lo + 8 * i)).toNat)

/-- The output of COUNTER_SNAPSHOT (R598). -/
def snapshot (s : State) (scope : Nat) : List Byte :=
  let body :=
    if scope = 0 then windowBytes s 0 0x4000 ++ windowBytes s 0x100000 0x40000
    else
      let kept := tgetD s.obs.kept scope []
      pageBytes s scope ++ kept.flatMap recBytes ++ zeros (1024 * (16 - kept.length))
  leBytes 8 scope ++ leBytes 8 s.eft.time ++ leBytes 8 (64 + body.length) ++ zeros 40 ++ body

def execCounterSnapshot (slot : SlotId) (hostOk : Bool) (s : State) : Res :=
  .next (runCmd slot.val 0x0A02 false
    (fun _ p => leAt p 0 8 % 64 == 0 && decide (leAt p 8 2 < 4096) && leAt p 10 6 == 0) (fun r s =>
    let scope := leAt r.payload 8 2
    if scope = 0xFFF then .refuse 0x0120
    else if !hostOk then .refuse 0x0104
    else
      let out := snapshot s scope
      .ok (hostWrite s (leAt r.payload 0 8) out) (leBytes 4 out.length ++ zeros 4)) s)

end Sys2Proof.Machine
end

