-- ==== Sys2Proof/Machine/Steer.lean ====
section
/-! DEFINITION. What moves between cores and to the tiers: STEER, feeds, landing tokens, credits, and the atomic adds at the
tier controllers (09, R241 to R245; 15, R397; 17, R429, R439 to R441; 19, R478, R479; 23, R557). -/

namespace Sys2Proof.Machine

/-! ## STEER (R440, R441) -/

/-- The token that a STEER reads: its units and bytes. -/
def steerTok (s : State) (c i : Nat) : Option (Nat × List Byte) :=
  match (circ s c (tSreg i)).toks with
  | t :: _ => if t.tag = iTag i then some (t.units, oldestTok s c (tSreg i)) else none
  | [] => none

/-- The predicate holds. -/
def steerCond (i : Nat) (bs : List Byte) : Bool :=
  let p := i32 (leAt bs (4 * tPword i) 4); let k := i32 (tKval i)
  match tCond i with
  | 0 => p == k
  | 1 => p != k
  | 2 => decide (p < k)
  | _ => decide (k ≤ p)

/-- Position and region of the side taken. -/
def steerSide (i : Nat) (bs : List Byte) : Nat × Nat := if steerCond i bs then (tCore1 i, tReg1 i) else (tCore0 i, tReg0 i)

/-- A PWORD beyond the token, a position that is not VALID, or one on another tray (log entry 17). -/
def steerInvalid (k : Core) (i units : Nat) : Bool :=
  decide (units * 4096 < 4 * tPword i + 4)
    || [tCore0 i, tCore1 i].any (fun q => !mapValid k q || mapNode k q != 0)

def steerReady (s : State) (c : Nat) (k : Core) (i : Nat) : Bool :=
  decide (k.pend.countP (fun p => p.eng == 7) < 8)
    && (match steerTok s c i with
      | none => false
      | some (units, bs) => steerInvalid k i units
          || (let d := steerSide i bs; decide (units ≤ creditOf k (mapCore k d.1) d.2)))

/-- Error correction over a region's oldest `n` bytes, which may wrap at its end. -/
def tokEcc (s : State) (c w : Nat) (x : Circ) (n : Nat) : State × Bool :=
  let room := x.bytes - x.head % x.bytes
  match eccRead s (circAddr c x x.head) (min n room) .clean (some w) with
  | (s, true) => if n ≤ room then (s, true) else eccRead s (spBase c + x.base * 4096) (n - room) .clean (some w)
  | r => r

def steerBody (c : Nat) (s : State) (w : Nat) (q : QEnt) : State :=
  let i := q.inst
  match steerTok s c i with
  | none => s
  | some (units, _) =>
    if steerInvalid (core s c) i units then invalidField s c
    else
      let x := circ s c (tSreg i)
      match circEndpoint s c x (workTcid s w) x.head (units * 4096) false with
      | .refused o => tagFault s (coreUnit c) w (circAddr c x x.head) o false false
      | .hole => tagFault s (coreUnit c) w (circAddr c x x.head) 0 false false
      | .ok =>
        match tokEcc (flushGb s (spBase c + x.base * 4096) x.bytes) c w x (units * 4096) with
        | (s, false) => s
        | (s, true) =>
          let bs := oldestTok s c (tSreg i)
          let d := steerSide i bs
          let k := core s c
          let dc := mapCore k d.1
          let p : PendI := { eng := 7, ord := q.ord, left := 1, word := 0, cycles := 0 }
          let s := setCore s c { spendCredit k dc d.2 units with pend := k.pend ++ [p] }
          let s := countCore s c (if steerCond i bs then 0x208 else 0x200) 1
          let m : TokMsg := { writer := coreUnit c, core := c, ord := q.ord, dcore := dc, dreg := d.2, tag := iTag i,
                              units := units, data := bs, work := w, gen := workGen s w, tcid := workTcid s w }
          let s := { s with net.toks := s.net.toks ++ [m] }
          if tRelease i then (releaseTok s c (tSreg i)).getD s else s

/-- ROUTE. -/
def execRoute (core : CoreId) (s : State) : Res :=
  .next (engineRow s core.val 7 [1] (fun _ _ => []) (steerReady s core.val) (steerBody core.val))

/-! ## Feeds (R429) -/

/-- Where an object is read, and as which TCID. -/
def feedSource (s : State) (w : Nat) : ImageRef → Option (Nat × Nat × Nat)
  | .commons c => (tget s.store.commons c).map (fun o => (o.baseA, o.size, 0xFFF))
  | .region r => (tget s.store.regions r).map (fun g =>
      (match g.copy with | some x => if x.done && !x.poisoned then x.base else g.base | none => g.base, g.size, workTcid s w))

/-- Reads the rows of a tile. -/
def feedRows (w t base pitch n : Nat) : Nat → Nat → State → Rd
  | 0, _, s => .ok [] s
  | cnt + 1, i, s =>
    let a := base + i * pitch
    match endpoint s t a n false with
    | .refused o => .fail (tagFault s (ctlUnit (tierCtl a)) w a o false false)
    | .hole => .fail (tagFault s 0 w a 0 false false)
    | .ok => match eccRead s a n .clean (some w) with
      | (s, false) => .fail s
      | (s, true) => match feedRows w t base pitch n cnt (i + 1) s with
        | .ok bs s => .ok (mread s.mem a n ++ bs) s
        | .fail s => .fail s

/-- FEED_TOKEN: the movers read the next tile of a feed and send it as one token, within credits. -/
def execFeedToken (core_ : CoreId) (feed : Fin 4) (s : State) : Res :=
  let c := core_.val
  let k := core s c
  if !domainsUp s || k.seq.run == .idle then .next s
  else match k.feeds[feed.val]?, k.work with
    | some f, some w =>
      let d := f.desc
      let units := cdiv (d.rowBytes * d.rowsPerTile) 4096
      if f.walk.done || !walkOk f.walk.w k.ext || f.credits < units then .next s
      else match feedSource s w d.source with
        | none => .next s
        | some (base, size, t) =>
          let ix (i : Nat) : Nat := walkIdx f.walk k.ext i
          let span := (d.rowsPerTile - 1) * d.pitch + d.rowBytes
          let off := Config.feedTile (ix 0) (ix 1) (ix 2) (ix 3) d.rowBytes d.rowsPerTile d.pitch % (size - span + 1)
          match feedRows w t (base + off) d.pitch d.rowBytes d.rowsPerTile 0 s with
          | .fail s => .next (settle s c)
          | .ok bs s =>
            let f' := { f with walk := (walkNext f.walk k.ext).2, credits := f.credits - units }
            let m : TokMsg := { writer := 0, core := 64, ord := 0, dcore := c, dreg := d.dest, tag := workTag s w, units := units,
                                data := bs, work := w, gen := workGen s w, tcid := workTcid s w }
            .next (modCore { s with net.toks := s.net.toks ++ [m] } c (fun k => { k with feeds := k.feeds.set feed.val f' }))
    | _, _ => .next s

/-! ## Landing tokens and credits -/

/-- An uncorrectable flit at a pond port: the token is lost and its job ends; the second within one second makes the port SUSPECT
(R557). -/
def flitFault (s : State) (p : Nat) (w : Option Nat) : State :=
  let again := match tget s.ecc.flits p with
    | some t => decide (s.eft.time < t + 1000000000)
    | none => false
  let s := { s with ecc.flits := tset s.ecc.flits p s.eft.time }
  let s := if again then hwHealth s (pondUnit p) .suspect true else s
  let s := latch s (pondUnit p) (workReport s 0x12 (if again then 2 else 1) (pondUnit p) w 0x0301 0 (if again then 2 else 1) 0)
  match w with | some w => failWork s w 0x0301 | none => s

/-- REMOTE_WRITE: a token on its way to a circular region lands, with what the pond port of the consuming core finds. It
waits for an end point that holds off stores (R270). -/
def execRemoteWrite (index : Nat) (find : EccFind) (s : State) : Res :=
  let s0 := s
  if !domainsUp s then .next s
  else match s.net.toks[index]? with
    | none => .next s
    | some m =>
      let s := { s with net.toks := s.net.toks.eraseIdx index }
      let s := match find with
        | .uncorrectable _ => flitFault s (m.dcore / 8) (if flightLive s m.work m.gen then some m.work else none)
        | _ =>
          let live := sameWork s m.dcore m.work m.gen
          let s := landTok s m
          let s := if live then modCore s m.dcore (fun k => { k with doze := false }) else s
          pendDone s m.core m.ord
      .next (waitHold none s0 (settle (settle s m.core) m.dcore))

/-- CREDIT_RETURN: credits reach the producer core, or the feed that writes the region; those of an older generation are discarded
(R212, R243 to R245). -/
def execCreditReturn (index : Nat) (s : State) : Res :=
  if !domainsUp s then .next s
  else match s.net.creds[index]? with
    | none => .next s
    | some m =>
      let s := { s with net.creds := s.net.creds.eraseIdx index }
      if !flightLive s m.work m.gen then .next (lateDrop s)
      else if m.pcore = feedProducer then
        .next (modCore s m.core (fun k => { k with feeds := k.feeds.map (fun f =>
          if f.desc.dest = m.region then { f with credits := f.credits + m.n } else f) }))
      else .next (modCore s m.pcore (fun k => { addCredit k m.core m.region m.n with doze := false }))

/-! ## Atomic adds (R478, R479) -/

def addSize (typ : Nat) : Nat := if typ = 2 then 2 else 4

/-- One read-add-write: the exact sum rounded once to the target type. Answers the pattern, whether it saturated, and whether it
is NaN. -/
def atomicSum (typ old val : Nat) : Nat × Bool × Bool :=
  match typ with
  | 0 => let (v, sat) := addSat32 old (f32 val); (v, sat, isNan32 v)
  | 1 => let (v, sat) := satInt 32 (i32 old + i32 val); (patInt 32 v, sat, false)
  | _ => let (v, sat) := bf16.encSat (fvAdd (bf16.decode old) (f32 val)); (v, sat, bf16.decode v == .nan)

/-- What performing one add answers. -/
inductive AddOut where
  | done (sat nan : Bool) (s : State)
  | refused (status : Nat) (s : State)

/-- Performs one add for a work of this tray or a request of another (none), which the endpoint checks (R45, R468). -/
def performAdd (s : State) (a typ val tcid : Nat) (w : Option Nat) (find : EccFind) : AddOut :=
  let n := addSize typ
  let refuse (o : Nat) : AddOut := .refused 0x0501 (match w with
    | some w => tagFault s (if inSp a then coreUnit (spCore a) else ctlUnit (tierCtl a)) w a o true false
    | none => s)
  let s := flushGb s a n
  match endpoint s tcid a n true with
  | .refused o => refuse o
  | .hole => refuse 0
  | .ok => match eccRead s a n find w with
    | (s, false) => .refused 0x0301 s
    | (s, true) =>
      let (v, sat, nan) := atomicSum typ (mnum s.mem a n) val
      .done sat nan (ctrAdd (memWrite s a (leBytes n v)).1 0x228 1)

/-- One add of this tray. -/
def landAdd (s : State) (x : Add) (find : EccFind) : State :=
  if !flightLive s x.work x.gen then lateDrop s
  else match performAdd s x.addr x.typ x.val x.tcid (some x.work) find with
    | .refused _ s => s
    | .done sat nan s => pendDone (if sat || nan then flagWork s x.work sat nan else s) x.core x.ord

/-- The adds that one write of a line takes: those of the list that lie in the first one's 64 B line, at most 16. -/
def lineAdds (s : State) (arrivals : List Nat) : List Nat :=
  let ok := (arrivals.foldl (fun l i => if l.contains i then l else l ++ [i]) []).filter (fun i => decide (i < s.net.adds.length))
  let line (i : Nat) : Nat := match s.net.adds[i]? with | some x => x.addr / 64 | none => 0
  match ok with
  | [] => []
  | i :: _ => (ok.filter (fun j => line j == line i)).take 16

/-- TIER_ATOMIC_ADD: adds arrive in this order and are applied in one read-merge-write of their line, which waits for a
controller that holds off stores (R270). -/
def execTierAtomicAdd (arrivals : List Nat) (find : EccFind) (s : State) : Res :=
  let s0 := s
  if !domainsUp s then .next s
  else
    let ix := lineAdds s arrivals
    let xs := ix.filterMap (fun i => s.net.adds[i]?)
    let rest := (List.range s.net.adds.length).filterMap (fun i => if ix.contains i then none else s.net.adds[i]?)
    let s := { s with net.adds := rest }
    let s := (List.range xs.length).foldl (fun s n => match xs[n]? with
      | some x => landAdd s x (if n = 0 then find else .clean)
      | none => s) s
    .next (waitHold none s0 (xs.foldl (fun s x => settle s x.core) s))

end Sys2Proof.Machine
end

