-- ==== Sys2Proof/Machine/Txn.lean ====
section
/-! DEFINITION. Transactions of the fabric: order and duplicates at the performer, what each operation does here, and what the answers
of other trays do (21, R518 to R533; 16, R402, R415, R423). -/

namespace Sys2Proof.Machine

/-! ## Answers and records -/

/-- What performing a request gives: the response's fields. -/
structure Perf where
  status : Nat := 0
  sat : Bool := false
  nan : Bool := false
  hold : Bool := false
  payload : List Byte := []
deriving DecidableEq, Repr

/-- Answers a request, and records it when its operation is deduplicated (R522). -/
def answer (s : State) (h : TxnHdr) (dedup : Bool) (p : Perf) : State :=
  let src := h.src.toNat
  let s := if dedup then recordDup s { src := src, txid := h.txid, status := p.status, sat := p.sat, nan := p.nan } else s
  sendResponse s src h.txid p.status p.sat p.nan p.hold p.payload

/-- The number under which an access of a request stands in error records. -/
def reqWork (h : TxnHdr) : Nat := accessWork h.tcid h.slot h.gen

/-- Works on this tray that carry a job slot and generation, with chains over a core. -/
def workOn (s : State) (h : TxnHdr) (c : Nat) : Option Nat :=
  let js := match tget s.dsp.jobs h.slot with | some _ => [h.slot] | none => []
  (js ++ (s.dsp.parts.filter (fun p => p.slot == h.slot)).map (·.work)).find? (fun w =>
    sameWork s c w h.gen && workTcid s w == h.tcid)

/-! ## READ and POOL (R530) -/

/-- The owner's check of TCID and REGION (R402). -/
def ownedRegion (s : State) (tcid region : Nat) : Option Region :=
  match tget s.store.regions region with
  | some g => if g.owner = tcid then some g else none
  | none => none

/-- Reads a range of a region for another tray. -/
def remoteRead (s : State) (h : TxnHdr) (a n : Nat) (find : EccFind) : State × Nat × List Byte :=
  match endpoint s h.tcid a n false with
  | .refused o => (tagFault s (ctlUnit (tierCtl a)) (reqWork h) a o false false, 0x0501, [])
  | .hole => (tagFault s 0 (reqWork h) a 0 false false, 0x0501, [])
  | .ok => match eccRead s a n find (some (reqWork h)) with
    | (s, true) => (s, 0, mread s.mem a n)
    | (s, false) => (s, 0x0301, [])

def performRead (s : State) (h : TxnHdr) (region offset len : Nat) (find : EccFind) : State :=
  match ownedRegion s h.tcid region with
  | none => answer s h false { status := 0x0314 }
  | some g =>
    if offset % 64 ≠ 0 || len % 64 ≠ 0 || len < 64 || 8192 < len || g.size < offset + len then answer s h false { status := 0x0102 }
    else
      let (s, st, bs) := remoteRead s h (g.base + offset) len find
      answer s h false { status := st, payload := bs }

/-- Reads the rows of a sub-bag, each distinct one once; the first read meets what error correction finds. Answers the rows and a
status. -/
def poolRows (h : TxnHdr) (base rp row0 : Nat) : List Nat → EccFind → List (Nat × List Byte) → State → State × Nat × List (Nat × List Byte)
  | [], _, got, s => (s, 0, got)
  | r :: rs, find, got, s =>
    if got.any (fun x => x.1 == r) then poolRows h base rp row0 rs find got s
    else match remoteRead s h (base + (r - row0) * rp) rp find with
      | (s, 0, bs) => poolRows h base rp row0 rs .clean (got ++ [(r, bs)]) s
      | (s, st, _) => (s, st, got)

def performPool (s : State) (h : TxnHdr) (region row0 etype : Nat) (weighted : Bool) (dim : Nat) (entries : List (Nat × Nat))
    (find : EccFind) : State :=
  match ownedRegion s h.tcid region with
  | none => answer s h false { status := 0x0314 }
  | some g =>
    if 5 < etype || dim = 0 || 2048 < dim || entries.isEmpty || 4096 < entries.length then answer s h false { status := 0x0102 }
    else
      let t := etypeOf etype
      let rp := rowPitch t dim
      let inside (e : Nat × Nat) : Bool := decide (row0 ≤ e.1) && decide ((e.1 - row0 + 1) * rp ≤ g.size)
      let es := entries.filter inside
      match poolRows h g.base rp row0 (es.map (·.1)) find [] s with
      | (s, 0, got) =>
        let rowOf (r : Nat) : List Nat := match got.find? (fun x => x.1 == r) with
          | some x => rowVec t dim x.2
          | none => []
        let (v, _, sat) := poolBag dim weighted es rowOf
        answer s h false { sat := sat, nan := v.any isNan32,
                           payload := v.flatMap (leBytes 4) ++ leBytes 4 es.length ++ leBytes 4 (entries.length - es.length) }
      | (s, st, _) => answer s h false { status := st }

/-! ## WRITE (R527, R528) -/

/-- A region takes a write of the fabric: SOURCE open, or the producer's position names the sender (R241, R528). -/
def fabricWriter (s : State) (w c r src score : Nat) : Bool :=
  let x := circ s c r
  decide (0 < x.size) && (x.source == 0 || (decide (0x5000 ≤ x.source) && decide (x.source ≤ 0x5005)
    && (match producerPos s w c r with
      | some q => mapValid (core s c) q && mapNode (core s c) q == src && mapCore (core s c) q == score
      | none => false)))

/-- Lands a piece at its place in the token; the last one fills the last unit with zeros and moves TAIL. -/
def landPiece (s : State) (w c r : Nat) (tend : Bool) (units offset : Nat) (data : List Byte) (tag : Nat) : State :=
  let x := circ s c r
  let bs := if tend then padTo (units * 4096 - offset) data else data
  match circEndpoint s c x (workTcid s w) (x.tail + offset) bs.length true with
  | .ok =>
    let (s, bad) := circWrite (flushGb s (spBase c + x.base * 4096) x.bytes) c x (x.tail + offset) bs
    if let p :: _ := bad then partHit s w p
    else if tend then modCore (landTail s c r tag units) c (fun k => { k with doze := false }) else s
  | .refused o => tagFault s (coreUnit c) w (circAddr c x (x.tail + offset)) o true false
  | .hole => tagFault s (coreUnit c) w (circAddr c x (x.tail + offset)) 0 true false

def performWrite (s : State) (h : TxnHdr) (dcore dreg score : Nat) (tend : Bool) (units offset : Nat) (data : List Byte)
    (tag : Nat) : State :=
  let s := match workOn s h dcore with
    | none => lateDrop (ingressRefused s dcore)
    | some w =>
      if !fabricWriter s w dcore dreg h.src.toNat score || (circ s dcore dreg).size < units || units * 4096 < offset + data.length
      then ingressRefused s dcore
      else settle (landPiece s w dcore dreg tend units offset data tag) dcore
  answer s h true {}

/-! ## AADD (R529) -/

/-- Performs the addends in order; one that meets an uncorrectable word is not performed. -/
def addAll (h : TxnHdr) (typ : Nat) : List Nat → Nat → EccFind → Perf → State → State × Perf
  | [], _, _, p, s => (s, p)
  | v :: vs, a, find, p, s =>
    match performAdd s a typ v h.tcid (some (reqWork h)) find with
    | .done sat nan s => addAll h typ vs (a + addSize typ) .clean { p with sat := p.sat || sat, nan := p.nan || nan } s
    | .refused st s => addAll h typ vs (a + addSize typ) .clean { p with status := if p.status = 0 then st else p.status } s

def performAadd (s : State) (h : TxnHdr) (target etype : Nat) (addends : List Nat) (find : EccFind) : State :=
  if 2 < etype || addends.isEmpty || 120 < addends.length || target % addSize etype ≠ 0 then answer s h true { status := 0x0102 }
  else match endpoint s h.tcid target (addends.length * addSize etype) true with
    | .refused o =>
      answer (tagFault s (if inSp target then coreUnit (spCore target) else ctlUnit (tierCtl target)) (reqWork h) target o true false)
        h true { status := 0x0501 }
    | .hole => answer (tagFault s 0 (reqWork h) target 0 true false) h true { status := 0x0501 }
    | .ok =>
      let (s, p) := addAll h etype addends target find {} s
      answer s h true p

/-! ## CLAIM (R524) -/

/-- The remote parts of a job of the requesting tray. -/
def partsFrom (s : State) (h : TxnHdr) : List RPart :=
  s.dsp.parts.filter (fun p => p.origin == h.src.toNat && p.slot == h.slot && p.gen == h.gen)

/-- The answer to a claim: the physical core of each position. -/
def coresAnswer (p : RPart) : Perf := { payload := p.cores.map (fun c => BitVec.ofNat 8 c) }

/-- A claim as a candidate for a chain of this tray. -/
def claimCand (m : Image) (h : TxnHdr) (image plan : Nat) (p : PlanDesc) (ext : List Nat) : Cand :=
  { ring := 0, d := { w := [h.tcid * 2 ^ 16, image] }, exts := ext, image := m, plan := plan, p := p }

/-- CHN_MAP and CHN_NODE of a part: its own positions, and the rest of the chain on the origin's tray, whose cores the claim does not
name (log entry 21). -/
def partMaps (free : Nat) (src q0 : Nat) (cores : List Nat) : Tab Nat × Tab Nat :=
  (List.range 64).foldl (fun (r : Tab Nat × Tab Nat) q =>
    if q0 ≤ q && q < q0 + cores.length then (tset r.1 q (64 + cores.getD (q - q0) 0 % 64), r.2)
    else (tset r.1 q (64 + bits free (6 * q) 6), tset r.2 q src)) ([], [])

/-- Creates a remote part on its cores, writes their registers, and starts what may start (R525). -/
def makePart (s : State) (h : TxnHdr) (image plan q0 : Nat) (ext cores : List Nat) (tag : Nat) (m : Image) (p : PlanDesc) : State :=
  let src := h.src.toNat
  let ixs := List.range cores.length
  let uses := planUses m.desc p m.region ixs
  let r : RPart := { origin := src, slot := h.slot, gen := h.gen, tcid := h.tcid, image := image, plan := plan, q0 := q0, cores := cores,
                     exts := ext, buckets := bucketSizes m.desc ext, tag := tag, order := s.dsp.nextOrder, uses := uses }
  let (free, s) := draw (leaveDoze (noteBusy s)) 384
  let s := { s with dsp.parts := s.dsp.parts ++ [r], dsp.nextOrder := s.dsp.nextOrder + 1,
                    store.tenants := tmod s.store.tenants h.tcid {} (fun t => { t with lastJob := r.order }) }
  let s := ensureCopies (touch s uses cores r.order) r.work r.order uses
  let maps := partMaps free.toNat src q0 cores
  let s := ixs.foldl (fun s i =>
    let c := cores.getD i 0
    writeCore s c [h.tcid] maps (cbTable [(h.tcid, 0, deltaBase s c (slicesAt p i))]) (smapOf m.desc) r.work) s
  cores.foldl kick s

/-- A part of the same tray, tenant, image, plan and positions that still runs, which a job that joins its chain shares, with the tag that
it would take (R209, R524). -/
def joinPart (s : State) (h : TxnHdr) (image plan q0 npos : Nat) : Option (RPart × Nat) :=
  s.dsp.parts.findSome? (fun p =>
    if p.origin == h.src.toNat && p.tcid == h.tcid && p.image == image && p.plan == plan && p.q0 == q0 && p.cores.length == npos
        && p.status == 0 && p.quench.isNone && p.cores.all (coreGood s) && decide (roundsOf s p.work ≤ 1)
    then (freeTag ((s.dsp.parts.filter (fun x => x.cores == p.cores)).map (·.tag))).map (fun t => (p, t))
    else none)

/-- A part that a stream's next frame claims again starts over on its cores (log entry 20). -/
def restartPart (s : State) (p : RPart) : State :=
  let s := modPart (endFlight s p.work) p.work (fun p => { p with ended := [], round := 0, sat := false, nan := false, status := 0 })
  p.cores.foldl kick (ensureCopies (restage s p.work) p.work p.order p.uses)

/-- The tray waits to withdraw for an activation: FW_ACTIVATE stands in FW with a staged image (R109, R532). -/
def withdrawWaits (s : State) : Bool :=
  s.boot.gap.isNone && s.boot.staged.isSome && s.mbx.reqs.any (fun p => p.2.opcode == 0x0C04)

/-- The checks of a claim before 15: 4, 5, 12, 13 and 14, and that the plan runs these positions here. A tray that waits to
withdraw holds it (R532). -/
def chkClaim (s : State) (h : TxnHdr) (image plan npos : Nat) : Chk :=
  (need (tenantActive s h.tcid) 0x0210).andThen fun _ =>
  match tget s.store.images image with
  | none => .refuse 0x0211 0
  | some m =>
    (need (m.owner == h.tcid && image % 4096 == h.tcid && (List.range m.desc.remoteStages).all (fun i => (tget m.binds i).isSome))
      0x0211).andThen fun _ =>
    match m.desc.plans[plan]? with
    | none => .refuse 0x0102 0
    | some p =>
      (need ((stagePlaces p).2.isEmpty && (localIxs p).length == npos) 0x0102).andThen fun _ =>
      (if admissionHeld s true || withdrawWaits s then .hold else .pass : Chk).andThen fun _ =>
      (chkUnits s m p []).andThen fun _ =>
      if 8192 ≤ admittedCount s || (tenant s h.tcid).maxJobs ≤ tenantCount s h.tcid then .hold else .pass

/-- Check 15 of a claim: free cores, else those of a running part. -/
def placeClaim (s : State) (h : TxnHdr) (image plan q0 npos : Nat) (ext : List Nat) (m : Image) (p : PlanDesc) : State × Perf :=
  match joinPart s h image plan q0 npos with
  | some (r, tag) =>
    let s := makePart s h image plan q0 ext r.cores tag m p
    (s, coresAnswer r)
  | none => match assignFree s [claimCand m h image plan p ext] s.dsp.nextOrder with
    | some (.chain s chain _ _) =>
      let cores := (List.range npos).map (fun i => tgetD chain i 0)
      (makePart s h image plan q0 ext cores 0 m p, { payload := cores.map (fun c => BitVec.ofNat 8 c) })
    | some (.refuse st) => (s, { status := st })
    | some (.hold s) => (s, { hold := true })
    | none => (s, { hold := true })

/-- Frees parts that the same origin slot left under another generation (R212). -/
def dropStale (s : State) (h : TxnHdr) : State :=
  (s.dsp.parts.filter (fun p => p.origin == h.src.toNat && p.slot == h.slot && p.gen != h.gen)).foldl (fun s p => freePart s p.work) s

def performClaim (s : State) (h : TxnHdr) (image plan q0 npos : Nat) (ext : List Nat) : State :=
  let s := dropStale s h
  match (partsFrom s h).find? (fun p => p.q0 == q0 && p.quench.isNone) with
  | some p => answer (restartPart s p) h true (coresAnswer p)
  | none => match chkClaim s h image plan npos with
    | .refuse st _ => answer s h true { status := st }
    | .hold => answer s h true { hold := true }
    | .pass => match tget s.store.images image with
      | none => answer s h true { status := 0x0211 }
      | some m => match m.desc.plans[plan]? with
        | none => answer s h true { status := 0x0102 }
        | some p =>
          let (s, r) := placeClaim s h image plan q0 npos ext m p
          answer s h true r

/-! ## REPORT, RELEASE, QUENCH (R525, R526) -/

/-- The origin counts a part's END, or quenches the job with its status (R216). -/
def performReport (s : State) (h : TxnHdr) (status : Nat) (sat nan : Bool) : State :=
  let s := match tget s.dsp.jobs h.slot with
    | none => lateDrop s
    | some j =>
      if j.gen ≠ h.gen then lateDrop s
      else match (List.range j.parts.length).find? (fun i => match j.parts[i]? with
          | some p => p.node == h.src.toNat && p.st == .claimed
          | none => false) with
        | none => s
        | some i =>
          let ps := (List.range j.parts.length).filterMap (fun n => (j.parts[n]?).map (fun p => if n = i then { p with st := .ended } else p))
          let s := setJob s h.slot { j with parts := ps, sat := j.sat || sat, nan := j.nan || nan }
          if status = 0 then s else failJob s h.slot status
  answer s h true {}

/-- RELEASE frees a part, one whose quench is not acknowledged yet too (R525, R541). -/
def performRelease (s : State) (h : TxnHdr) : State :=
  let s := match partsFrom s h with
    | p :: _ => freePart s p.work
    | [] => s
  answer s h true {}

/-- Units that a part's quench waits for. -/
def partUnits (s : State) (p : RPart) : List Nat :=
  p.cores.map coreUnit ++ dataUnits s p.uses [] ++ (if s.store.orders.any (fun o => o.jobs.contains p.work) then [moverUnit] else [])

def performQuench (s : State) (h : TxnHdr) : State :=
  match (partsFrom s h).find? (fun p => p.quench.isNone) with
  | none => answer s h true {}
  | some p =>
    let w := p.work
    let us := partUnits s p
    let s := cancelStaging (abandonTxns (stopChain s w) w p.gen) w
    modPart s w (fun p => { p with quench := some (us, h.txid) })

/-! ## HOTROW (R419, R420) -/

/-- The tenant is the one whose region it is; one entry is written for each row (log entry 22). -/
def performHotrow (s : State) (h : TxnHdr) (region row : Nat) (data : List Byte) : State :=
  let t := region % 4096
  let s := match hotTable s t region with
    | none => declineRow s t
    | some tb =>
      if replicated s t tb row then s
      else match insertHot s t tb row data with
        | some s => ledgerOwn s { origin := 3, tcid := t, kind := 0xA001, object := tb.region, value := leBytes 8 (1 + h.src.toNat * 2 ^ 32) }
        | none => declineInsert s t
  answer s h true {}

/-! ## The performer (R521, R522) -/

/-- Joins a frame to what earlier frames of its transaction have brought. -/
def joinFrame (old new : ReqFrame) : ReqFrame :=
  match old.op, new.op with
  | .pool rg r0 et wt dim es, .pool _ _ _ _ _ es2 => { old with op := .pool rg r0 et wt dim (es ++ es2) }
  | .hotrow rg row d, .hotrow _ _ d2 => { old with op := .hotrow rg row (d ++ d2) }
  | _, _ => new

/-- The frame belongs to a transaction. -/
def ofTxn (h : TxnHdr) (f : ReqFrame) : Bool := f.h.src == h.src && f.h.txid == h.txid

/-- Performs a whole request. -/
def performReq (f : ReqFrame) (s : State) : State :=
  let h := f.h
  match f.op with
  | .read rg off len => performRead s h rg off len f.find
  | .write dc dr sc te un off d tg => performWrite s h dc dr sc te un off d tg
  | .aadd ta et ad => performAadd s h ta et ad f.find
  | .pool rg r0 et wt dim es => performPool s h rg r0 et wt dim es f.find
  | .claim im pl q0 np ex => performClaim s h im pl q0 np ex
  | .report st sa na => performReport s h st sa na
  | .release => performRelease s h
  | .quench => performQuench s h
  | .hotrow rg row d => performHotrow s h rg row d

/-- Takes one frame of a request in: the last one has the request performed (R518). -/
def takeFrame (f : ReqFrame) (s : State) : State :=
  let h := f.h
  let old := s.fab.partials.find? (ofTxn h)
  let s := { s with fab.partials := s.fab.partials.filter (fun x => !ofTxn h x) }
  if h.part = 0 then (if h.last then performReq f s else { s with fab.partials := s.fab.partials ++ [f] })
  else match old with
    | none => s
    | some o => if h.last then performReq (joinFrame o f) s else { s with fab.partials := s.fab.partials ++ [joinFrame o f] }

/-- A frame behind E (R522): READ and POOL are performed again, a recorded one is answered from its record, any other is stale. -/
def lateFrame (f : ReqFrame) (s : State) : State :=
  let h := f.h
  if !f.op.dedup then takeFrame f s
  else match s.fab.dups.find? (fun d => d.src == h.src.toNat && d.txid == h.txid) with
    | none => ctrAdd s 0x720 1
    | some d =>
      let s := ctrAdd s 0x718 1
      match f.op with
      | .claim _ _ q0 _ _ => match (partsFrom s h).find? (fun p => p.q0 == q0) with
        | some p => answer s h false (coresAnswer p)
        | none => answer s h false { status := d.status, hold := d.status == 0 }
      | _ => answer s h false { status := d.status, sat := d.sat, nan := d.nan }

/-- `a` lies ahead of `b` modulo 2^16. -/
def seqAhead (a b : BitVec 16) : Bool := let d := (a - b).toNat; decide (0 < d) && decide (d < 32768)

/-- E of a source. -/
def expected (s : State) (src : Nat) : BitVec 16 := tgetD s.fab.expect src 0

def setExpected (s : State) (src : Nat) (e : BitVec 16) : State := { s with fab.expect := tset s.fab.expect src e }

/-- A frame arrives: its turn, too early, or behind. -/
def arrive (f : ReqFrame) (s : State) : State :=
  let src := f.h.src.toNat
  let s := if seqAhead f.h.lowOpen (expected s src) then setExpected s src f.h.lowOpen else s
  let e := expected s src
  if f.h.eseq = e then takeFrame f (setExpected s src (e + 1))
  else if seqAhead f.h.eseq e then
    (if s.fab.reorder.length < 256 then { s with fab.reorder := s.fab.reorder ++ [f] } else ctrAdd s 0x710 1)
  else lateFrame f s

/-- Frames of the reorder store whose turn has come, or gone by, leave it; `n` bounds their number. -/
def drainReorder (src : Nat) : Nat → State → State
  | 0, s => s
  | n + 1, s =>
    match (List.range s.fab.reorder.length).find? (fun k => match s.fab.reorder[k]? with
        | some f => f.h.src.toNat == src && !seqAhead f.h.eseq (expected s src)
        | none => false) with
    | none => s
    | some k => match s.fab.reorder[k]? with
      | none => s
      | some f => drainReorder src n (arrive f { s with fab.reorder := s.fab.reorder.eraseIdx k })

/-- A request frame of another tray: while the tray is ACTIVE it is taken in turn; a frame that arrives in SLEEP waits for the wake that it
causes (R67, R521). One whose write meets an end point that holds off stores waits in the reorder store (R270). -/
def txnRow (h : TxnHdr) (op : TxnOp) (find : EccFind) (s : State) : State :=
  if !domainsUp s then s
  else
    let f : ReqFrame := { h := h, op := op, find := find }
    let t := drainReorder h.src.toNat 257 (arrive f s)
    if noHold s || !holdBroken none s t then t
    else if s.fab.reorder.length < 256 then { s with fab.reorder := s.fab.reorder ++ [f] }
    else ctrAdd s 0x710 1

/-- Frames that an end point's hold has kept in the reorder store are taken, source by source (R270). -/
def heldFrames (s : State) : State :=
  ((s.fab.reorder.map (fun f => f.h.src.toNat)).eraseDups).foldl (fun s src => waitHold none s (drainReorder src 257 s)) s

def execTxnRead (h : TxnHdr) (region offset len : Nat) (find : EccFind) (s : State) : Res :=
  .next (txnRow h (.read region offset len) find s)

def execTxnWrite (h : TxnHdr) (dcore : CoreId) (dreg : Fin 16) (score : CoreId) (tend : Bool) (units offset : Nat) (data : List Byte)
    (tag : Fin 16) (s : State) : Res :=
  .next (txnRow h (.write dcore.val dreg.val score.val tend units offset data tag.val) .clean s)

def execTxnAadd (h : TxnHdr) (target etype : Nat) (addends : List W32) (find : EccFind) (s : State) : Res :=
  .next (txnRow h (.aadd target etype (addends.map (·.toNat))) find s)

def execTxnPool (h : TxnHdr) (region row0 etype : Nat) (weighted : Bool) (dim : Nat) (entries : List PoolEntry) (find : EccFind)
    (s : State) : Res :=
  .next (txnRow h (.pool region row0 etype weighted dim (entries.map (fun e => (e.row, e.weight.toNat)))) find s)

def execTxnClaim (h : TxnHdr) (image plan q0 npos : Nat) (ext : List Nat) (s : State) : Res :=
  .next (txnRow h (.claim image plan q0 npos ext) .clean s)

def execTxnReport (h : TxnHdr) (status : BitVec 16) (sat nan : Bool) (s : State) : Res :=
  .next (txnRow h (.report status.toNat sat nan) .clean s)

def execTxnRelease (h : TxnHdr) (s : State) : Res := .next (txnRow h .release .clean s)

def execTxnQuench (h : TxnHdr) (s : State) : Res := .next (txnRow h .quench .clean s)

/-- HOTROW needs Swifort besides. -/
def execTxnHotrow (h : TxnHdr) (region row : Nat) (data : List Byte) (s : State) : Res :=
  .next (if fwUp s then txnRow h (.hotrow region row data) .clean s else s)

/-! ## CREDIT (R528) -/

/-- A total newer than the one held, modulo 2^32. -/
def totalAhead (a b : BitVec 32) : Bool := let d := (a - b).toNat; decide (0 < d) && decide (d < 2147483648)

/-- TXN_CREDIT: no order, no response; an older generation is discarded (R212). -/
def execTxnCredit (h : TxnHdr) (pcore ccore : CoreId) (creg : Fin 16) (total : W32) (s : State) : Res :=
  let c := pcore.val
  if !domainsUp s then .next s
  else match workOn s h c with
    | none => .next (lateDrop s)
    | some _ =>
      let key := totKey c h.src.toNat ccore.val creg.val
      let t := tgetD s.fab.totals key (0, 0)
      if totalAhead total t.1 then
        .next (modCore { s with fab.totals := tset s.fab.totals key (total, t.2) } c (fun k => { k with doze := false }))
      else .next s

/-- Sends the totals of a core's regions whose producers sit on other trays. -/
def refreshCredits (s : State) (c : Nat) : State :=
  (core s c).circ.foldl (fun s p => if 0x5000 ≤ p.2.source && 0 < p.2.size then sendTotal s c p.1 else s) s

/-- CREDIT_REFRESH: every 100 µs while the work runs. -/
def execCreditRefresh (core_ : CoreId) (s : State) : Res :=
  if domainsUp s && (core s core_.val).work.isSome then .next (refreshCredits s core_.val) else .next s

/-! ## Responses (R519, R520) -/

/-- GATHERs that wait for a tracker entry go on. -/
def resumeGathers (s : State) : State :=
  (s.cores.filter (fun p => p.2.gather.isSome)).foldl (fun s p => settle (gatherGo s p.1) p.1) s

/-- Changes the part of a claim: of a ring's held copy, or of a job whose next frame claims it again. -/
def claimAnswered (s : State) (t : Txn) (q0 : Nat) (st : PartSt) (cores : List Nat) : State :=
  let upd (ps : List OPart) : List OPart := ps.map (fun p =>
    if p.node = t.dst && p.q0 = q0 && p.st = .claiming then { p with st := st, cores := if cores.isEmpty then p.cores else cores } else p)
  let rs := tmap s.rings (fun _ g => match g.claim with
    | some c => if c.slot = t.slot && c.gen = t.gen then { g with claim := some { c with parts := upd c.parts } } else g
    | none => g)
  let held := s.rings.any (fun p => match p.2.claim with | some c => c.slot == t.slot && c.gen == t.gen | none => false)
  let s := { s with rings := rs }
  match tget s.dsp.jobs t.slot with
  | none => if held then s else lateDrop s
  | some j =>
    if j.gen ≠ t.gen then (if held then s else lateDrop s)
    else
      let j := { j with parts := upd j.parts }
      let s := setJob s t.slot j
      match st with
      | .claimed =>
        let maps := mapsOf j.chain j.parts
        j.chain.foldl (fun s p => modCore s p.2 (fun k => { k with chnMap := maps.1, chnNode := maps.2 })) s
      | .refused x => failJob s t.slot x
      | .held => (j.parts.filter (fun p => p.st == .held)).foldl (fun s p =>
          sendTxn (setJob s t.slot { j with parts := j.parts.map (fun x => if x = p then { x with st := .claiming } else x) })
            p.node t.op t.tcid t.slot t.gen none 64 0) s
      | _ => s

/-- A remote stage acknowledges a quench (R214, R526). -/
def quenchAnswered (s : State) (t : Txn) : State :=
  match tget s.dsp.jobs t.slot with
  | none => lateDrop s
  | some j =>
    if j.gen ≠ t.gen then lateDrop s
    else match j.quench with
      | none => s
      | some q => match q.remote.find? (fun st => j.parts.any (fun p => p.stage == st && p.node == t.dst)) with
        | none => s
        | some st => quenchDone (setJob s t.slot { j with quench := some { q with remote := q.remote.erase st } }) t.slot

/-- An instruction's write or add has been performed on its tray. -/
def remoteDone (s : State) (t : Txn) (status : Nat) (sat nan : Bool) : State :=
  match t.work with
  | none => s
  | some w =>
    if status ≠ 0 then settle (failWork s w status) t.core
    else settle (pendDone (if sat || nan then flagWork s w sat nan else s) t.core t.ord) t.core

/-- The operation that made a transaction still waits for it (R212). -/
def txnLive (s : State) (t : Txn) : Bool := match t.work with
  | some w => flightLive s w t.gen
  | none => true

/-- A transaction is complete; the result of an older generation is discarded (R212). -/
def completeTxn (s : State) (txid : Nat) (t : Txn) (r : TxnRsp) (payload : List Byte) : State :=
  let st := r.status.toNat
  let s := if !txnLive s t then lateDrop s else match t.op with
    | .read .. | .pool .. => settle (gatherAnswer s t.core txid t.op st r.sat r.nan payload) t.core
    | .write .. | .aadd .. => remoteDone s t st r.sat r.nan
    | .claim _ _ q0 npos _ =>
      if st ≠ 0 then claimAnswered s t q0 (.refused st) []
      else if r.hold then claimAnswered s t q0 .held []
      else claimAnswered s t q0 .claimed ((payload.take npos).map (fun b => b.toNat % 64))
    | .quench => quenchAnswered s t
    | .report .. | .release | .hotrow .. => s
  resumeGathers s

/-- TXN_RESPONSE: the last missing frame completes the transaction and frees its tracker entry; after that it is late. -/
def execTxnResponse (r : TxnRsp) (s : State) : Res :=
  let id := r.txid.toNat
  if !domainsUp s then .next s
  else match tget s.fab.txns id with
    | none => .next (ctrAdd s 0x708 1)
    | some t =>
      if t.dst ≠ r.src.toNat then .next (ctrAdd s 0x708 1)
      else
        let got := if t.got.any (fun x => x.1 == r.part) then t.got else t.got ++ [(r.part, r.payload)]
        let last := if r.last then some r.part else t.lastPart
        match last with
        | some n =>
          if (List.range (n + 1)).all (fun i => got.any (fun x => x.1 == i)) then
            let payload := (List.range (n + 1)).flatMap (fun i => match got.find? (fun x => x.1 == i) with | some x => x.2 | none => [])
            .next (completeTxn { s with fab.txns := tdel s.fab.txns id } id t r payload)
          else .next { s with fab.txns := tset s.fab.txns id { t with got := got, lastPart := last } }
        | none => .next { s with fab.txns := tset s.fab.txns id { t with got := got, lastPart := last } }

/-- A transaction whose attempts are exhausted: the work, the claim or the frame ends with its status (R276, R520). -/
def failTxn (s : State) (t : Txn) (status : Nat) : State :=
  let s := if !txnLive s t then s else match t.op with
    | .claim _ _ q0 _ _ => claimAnswered s t q0 (.refused status) []
    | _ => match t.work with
      | some w => failWork s w status
      | none => s
  resumeGathers (if t.core < 64 then settle s t.core else s)

/-- E2E_RETRY: 500 µs after an attempt's first frame (R520). -/
def execE2eRetry (txid : BitVec 32) (s : State) : Res :=
  let id := txid.toNat
  if !domainsUp s then .next s
  else match tget s.fab.txns id with
    | none => .next s
    | some t =>
      if s.eft.tick < t.start + 1563 then .next s
      else if t.attempt < 3 then
        let t := { t with attempt := t.attempt + 1, start := s.eft.tick }
        .next (sendFrames (ctrAdd { s with fab.txns := tset s.fab.txns id t } 0x700 1) id t)
      else
        .next (failTxn { s with fab.txns := tdel s.fab.txns id } t (if hasRoute s t.dst then 0x0402 else 0x0401))

/-- DUPLICATE_RECORD_EXPIRY: 100 ms (R522). -/
def execDuplicateRecordExpiry (src : BitVec 12) (txid : BitVec 32) (s : State) : Res :=
  .next { s with fab.dups := s.fab.dups.filter (fun d => !(d.src == src.toNat && d.txid == txid)) }

end Sys2Proof.Machine
end

