-- ==== Sys2Proof/Machine/Hold.lean ====
section
/-! DEFINITION. The end of a reserved load's hold, and what has waited for it (10, R270). -/

namespace Sys2Proof.Machine

/-- Host accesses that wait in the link controller of an ACTIVE tray are carried out in order, up to one that an end point still holds
off; `n` bounds their number. -/
def heldHost : Nat → State → State
  | 0, s => s
  | n + 1, s =>
    if s.pwr.power != .active then s
    else match s.host.parked with
      | .bar2 wr o len data attr :: rest =>
        let t := bar2Perform { s with host.parked := rest } wr o len data attr
        if holdBroken none s t then s else heldHost n t
      | .bar0 o size attr :: rest => heldHost n (bar0Answer { s with host.parked := rest } o size attr)
      | [] => s

/-- What waited for a hold goes on: host accesses, frames of the reorder store, and GATHERs that were complete. -/
def afterHold (s : State) : State := resumeGathers (heldFrames (heldHost s.host.parked.length s))

/-- RESERVATION_HOLD_EXPIRY: the end point no longer holds off other stores (R270). -/
def execReservationHoldExpiry (ag : Agent) (s : State) : Res :=
  if !agRuns s ag.val then .next s else .next (afterHold (setSeq s ag.val { seqOf s ag.val with hold := false }))

end Sys2Proof.Machine
end

