-- ==== Sys2Proof/Machine/Quench.lean ====
section
/-! DEFINITION. The acknowledgements of a quench and their bound (08, R212 to R214; 21, R526; 22, R541). A GATHER of another work that waited
for a tracker entry finds those that the quench gave up. -/

namespace Sys2Proof.Machine

/-- QUENCH_ACK: a unit acknowledges the quench of a job, or of the remote part that carries this slot; with an older generation it is
discarded (R212). -/
def execQuenchAck (job : JobId) (ack : AckOf) (s : State) : Res :=
  let gen := ack.gen
  let unit := ack.unit
  let j := job.val
  let local_ : Option (Job × Quench) := match tget s.dsp.jobs j with
    | some x => (match x.quench with | some q => if q.units.contains unit && x.gen == gen then some (x, q) else none | none => none)
    | none => none
  if !domainsUp s then .next s
  else match local_ with
    | some (x, q) => .next (resumeGathers (quenchDone (setJob s j { x with quench := some { q with units := q.units.filter (· != unit) } }) j))
    | none =>
      match s.dsp.parts.find? (fun p => p.slot == j && p.gen == gen && (match p.quench with | some (us, _) => us.contains unit | none => false)) with
      | none =>
        let current := (match tget s.dsp.jobs j with | some x => x.gen == gen | none => false)
          || s.dsp.parts.any (fun p => p.slot == j && p.gen == gen)
        .next (if current then s else lateDrop s)
      | some p =>
        let w := p.work
        .next (resumeGathers (partQuenched (modPart s w (fun p => { p with quench := p.quench.map (fun x => (x.1.filter (· != unit), x.2)) })) w))

/-- The acknowledgement bound in ticks: 100 µs, or 2 ms when the chain uses the fabric (R214). -/
def quenchBound (x : Job) : Nat := if x.fabric then 6250 else 313

/-- A unit that has not acknowledged goes to FAULT with its record; a staging mover is reset (R214, R563). -/
def missedAck (s : State) (j : Nat) (x : Job) (q : Quench) (u : Nat) : State :=
  let us := (s.eft.tick - q.start) * 320 / 1000
  if u = moverUnit then latch s 0 (report s 0x11 0 0 0 0 0 us 0)
  else
    let s := hwHealth s u .fault true
    latch s u { withJob s (report s 0x0D 2 u x.tcid q.status 0 us u) (some j) with unit := u }

/-- QUENCH_BOUND_EXPIRY: the status is posted; a mover that cannot be reset is fatal. -/
def execQuenchBoundExpiry (job : JobId) (moverResetOk : Bool) (s : State) : Res :=
  let j := job.val
  match tget s.dsp.jobs j with
  | none => .next s
  | some x => match x.quench with
    | none => .next s
    | some q =>
      if !domainsUp s || s.eft.tick < q.start + quenchBound x then .next s
      else
        let s := q.units.foldl (fun s u => missedAck s j x q u) s
        let s := resumeGathers (finishQuench s j)
        .next (if q.units.contains moverUnit && !moverResetOk then fatal s .stagingMover else s)

end Sys2Proof.Machine
end

