-- ==== Sys2Proof/Machine/SeqAlu.lean ====
section
/-! DEFINITION. The register instructions of the sequencer (Table 11-4, opcodes 0x01 to 0x0C). -/

namespace Sys2Proof.Machine

/-- An instruction of format R: gd = ga op gb. -/
def aluR (i : Instr) (ag : Agent) (gd ga gb : RegId) (f : Word → Word → Word) (s : State) : Res :=
  seqRow ag i (fun s => let q := seqOf s ag.val; some (retireGd s ag.val gd (f (gget q ga) (gget q gb)))) s

/-- An instruction of format I: gd = ga op imm. -/
def aluI (i : Instr) (ag : Agent) (gd ga : RegId) (f : Word → Word) (s : State) : Res :=
  seqRow ag i (fun s => some (retireGd s ag.val gd (f (gget (seqOf s ag.val) ga)))) s

/-- 1 or 0. -/
def flag (b : Bool) : Word := if b then 1 else 0

/-- The shift amount gb[5:0]. -/
def shAmt (x : Word) : Nat := x.toNat % 64

/-- High 64 bits of the signed product. -/
def mulHigh (x y : Word) : Word := ((x.signExtend 128 * y.signExtend 128) >>> 64).truncate 64

/-- High 64 bits of the unsigned product. -/
def mulHighU (x y : Word) : Word := ((x.zeroExtend 128 * y.zeroExtend 128) >>> 64).truncate 64

/-- Signed quotient; a divisor of 0 gives all ones, and the most negative value over −1 gives the dividend. Otherwise the
quotient is truncated toward zero (log entry 13). -/
def divS (x y : Word) : Word :=
  if y = 0 then BitVec.allOnes 64 else if y = BitVec.allOnes 64 then -x else x.sdiv y

/-- Signed remainder, of the dividend's sign; a divisor of 0 gives the dividend. -/
def remS (x y : Word) : Word := if y = 0 then x else if y = BitVec.allOnes 64 then 0 else x.srem y

def divU (x y : Word) : Word := if y = 0 then BitVec.allOnes 64 else x / y

def remU (x y : Word) : Word := if y = 0 then x else x % y

def execAdd (ag : Agent) (gd ga gb : RegId) (s : State) : Res := aluR (.add ag gd ga gb) ag gd ga gb (· + ·) s
def execSub (ag : Agent) (gd ga gb : RegId) (s : State) : Res := aluR (.sub ag gd ga gb) ag gd ga gb (· - ·) s
def execAnd (ag : Agent) (gd ga gb : RegId) (s : State) : Res := aluR (.and ag gd ga gb) ag gd ga gb (· &&& ·) s
def execOr (ag : Agent) (gd ga gb : RegId) (s : State) : Res := aluR (.or ag gd ga gb) ag gd ga gb (· ||| ·) s
def execXor (ag : Agent) (gd ga gb : RegId) (s : State) : Res := aluR (.xor ag gd ga gb) ag gd ga gb (· ^^^ ·) s
def execSll (ag : Agent) (gd ga gb : RegId) (s : State) : Res :=
  aluR (.sll ag gd ga gb) ag gd ga gb (fun x y => x <<< shAmt y) s
def execSrl (ag : Agent) (gd ga gb : RegId) (s : State) : Res :=
  aluR (.srl ag gd ga gb) ag gd ga gb (fun x y => x >>> shAmt y) s
def execSra (ag : Agent) (gd ga gb : RegId) (s : State) : Res :=
  aluR (.sra ag gd ga gb) ag gd ga gb (fun x y => x.sshiftRight (shAmt y)) s
def execSlt (ag : Agent) (gd ga gb : RegId) (s : State) : Res :=
  aluR (.slt ag gd ga gb) ag gd ga gb (fun x y => flag (x.slt y)) s
def execSltu (ag : Agent) (gd ga gb : RegId) (s : State) : Res :=
  aluR (.sltu ag gd ga gb) ag gd ga gb (fun x y => flag (x.ult y)) s
def execMin (ag : Agent) (gd ga gb : RegId) (s : State) : Res :=
  aluR (.min ag gd ga gb) ag gd ga gb (fun x y => if x.slt y then x else y) s
def execMax (ag : Agent) (gd ga gb : RegId) (s : State) : Res :=
  aluR (.max ag gd ga gb) ag gd ga gb (fun x y => if x.slt y then y else x) s
def execMinu (ag : Agent) (gd ga gb : RegId) (s : State) : Res :=
  aluR (.minu ag gd ga gb) ag gd ga gb (fun x y => if x.ult y then x else y) s
def execMaxu (ag : Agent) (gd ga gb : RegId) (s : State) : Res :=
  aluR (.maxu ag gd ga gb) ag gd ga gb (fun x y => if x.ult y then y else x) s
def execMul (ag : Agent) (gd ga gb : RegId) (s : State) : Res := aluR (.mul ag gd ga gb) ag gd ga gb (· * ·) s
def execMulh (ag : Agent) (gd ga gb : RegId) (s : State) : Res := aluR (.mulh ag gd ga gb) ag gd ga gb mulHigh s
def execMulhu (ag : Agent) (gd ga gb : RegId) (s : State) : Res := aluR (.mulhu ag gd ga gb) ag gd ga gb mulHighU s
def execDiv (ag : Agent) (gd ga gb : RegId) (s : State) : Res := aluR (.div ag gd ga gb) ag gd ga gb divS s
def execDivu (ag : Agent) (gd ga gb : RegId) (s : State) : Res := aluR (.divu ag gd ga gb) ag gd ga gb divU s
def execRem (ag : Agent) (gd ga gb : RegId) (s : State) : Res := aluR (.rem ag gd ga gb) ag gd ga gb remS s
def execRemu (ag : Agent) (gd ga gb : RegId) (s : State) : Res := aluR (.remu ag gd ga gb) ag gd ga gb remU s

def execAddi (ag : Agent) (gd ga : RegId) (imm : BitVec 15) (s : State) : Res :=
  aluI (.addi ag gd ga imm) ag gd ga (· + immX imm) s
def execAndi (ag : Agent) (gd ga : RegId) (imm : BitVec 15) (s : State) : Res :=
  aluI (.andi ag gd ga imm) ag gd ga (· &&& immX imm) s
def execOri (ag : Agent) (gd ga : RegId) (imm : BitVec 15) (s : State) : Res :=
  aluI (.ori ag gd ga imm) ag gd ga (· ||| immX imm) s
def execXori (ag : Agent) (gd ga : RegId) (imm : BitVec 15) (s : State) : Res :=
  aluI (.xori ag gd ga imm) ag gd ga (· ^^^ immX imm) s
def execSlli (ag : Agent) (gd ga : RegId) (sh : BitVec 6) (s : State) : Res :=
  aluI (.slli ag gd ga sh) ag gd ga (· <<< sh.toNat) s
def execSrli (ag : Agent) (gd ga : RegId) (sh : BitVec 6) (s : State) : Res :=
  aluI (.srli ag gd ga sh) ag gd ga (· >>> sh.toNat) s
def execSrai (ag : Agent) (gd ga : RegId) (sh : BitVec 6) (s : State) : Res :=
  aluI (.srai ag gd ga sh) ag gd ga (·.sshiftRight sh.toNat) s
def execSlti (ag : Agent) (gd ga : RegId) (imm : BitVec 15) (s : State) : Res :=
  aluI (.slti ag gd ga imm) ag gd ga (fun x => flag (x.slt (immX imm))) s
/-- The immediate is sign-extended (R285), then compared without sign. -/
def execSltiu (ag : Agent) (gd ga : RegId) (imm : BitVec 15) (s : State) : Res :=
  aluI (.sltiu ag gd ga imm) ag gd ga (fun x => flag (x.ult (immX imm))) s
def execLui (ag : Agent) (gd : RegId) (imm : BitVec 20) (s : State) : Res :=
  seqRow ag (.lui ag gd imm) (fun s => some (retireGd s ag.val gd (immX imm <<< 12))) s
def execAuipc (ag : Agent) (gd : RegId) (imm : BitVec 20) (s : State) : Res :=
  seqRow ag (.auipc ag gd imm) (fun s => some (retireGd s ag.val gd ((seqOf s ag.val).pc + (immX imm <<< 12)))) s

end Sys2Proof.Machine
end

