-- ==== Sys2Proof/Machine/Vector.lean ====
section
/-! DEFINITION. The vector engine: element-wise operations, reductions, top-k, COMBINE and AADD (15). -/

namespace Sys2Proof.Machine

/-! ## Masks and operands -/

/-- Column `j` is masked (R389). -/
def vMasked (k : Core) (i j : Nat) : Bool := vMasken i && !bitAt (tgetD k.maskReg (vMsel i) 0) j

/-- Columns that are not masked. -/
def vCols_ (k : Core) (i : Nat) : List Nat := (List.range (vCols i)).filter (fun j => !vMasked k i j)

def vX (i : Nat) : EType := etypeOf (vXtype i)
def vO (i : Nat) : EType := etypeOf (vOtype i)

/-- Lanes compute in FP32; else in INT32 (R388). -/
def vF (i : Nat) : Bool := !(vX i).isInt

def vPitch (i : Nat) : Nat := pitchOf (vX i) (vCols i)
def oPitch (i : Nat) : Nat := pitchOf (vO i) (vCols i)

/-- k of TOPK. -/
def topK (i : Nat) : Nat := bits (vParam i) 0 8 + 1

/-- Distance between the partials of COMBINE (R396). -/
def partStride (i : Nat) : Nat := if bits (vParam i) 1 15 = 0 then vPitch i else bits (vParam i) 1 15 * 4096

/-- Bytes from the start of X, Y and D to the end of their last byte (R391). -/
def xSpan (i : Nat) : Nat :=
  match iOp i with
  | 0x09 => cdiv (vCols i) 8
  | 0x20 => (vRows i - 1) * partStride i + (vX i).size (vCols i)
  | _ => (vRows i - 1) * vPitch i + (vX i).size (vCols i)

def yRows (i : Nat) : Nat := if vYbcast i then 1 else vRows i
def ySpan (i : Nat) : Nat :=
  if iOp i = 0x18 then (vRows i - 1) * roundUp (4 * topK i) 64 + 4 * topK i
  else (yRows i - 1) * vPitch i + (vX i).size (vCols i)

def dSpan (i : Nat) : Nat :=
  match iOp i with
  | 0x10 | 0x11 | 0x12 => (vO i).size (vRows i)
  | 0x18 => (vRows i - 1) * roundUp ((vO i).size (topK i)) 64 + (vO i).size (topK i)
  | 0x20 => (vO i).size (vCols i)
  | _ => (vRows i - 1) * oPitch i + (vO i).size (vCols i)

/-- Operations with a Y source, and with a D destination. -/
def hasY (op : Nat) : Bool := [1, 2, 3, 5, 6, 8, 0x0A].contains op
def hasD (op : Nat) : Bool := !([8, 9, 0x21].contains op)

def spanRange (k : Core) (win off n : Nat) (write : Bool) : Rng := opRange k win (off * 64) (roundUp n 256) write

/-- The ranges that the scoreboard checks (R391). -/
def vecRanges (k : Core) (i : Nat) : List Rng :=
  (if vXacc i then [] else [spanRange k (f1Win i) (f1Off i) (xSpan i) false])
    ++ (if hasY (iOp i) then [spanRange k (vYwin i) (vYoff i) (ySpan i) false] else [])
    ++ (if iOp i = 0x18 then [spanRange k (vYwin i) (vYoff i) (ySpan i) true] else [])
    ++ (if hasD (iOp i) then [spanRange k (vDwin i) (vDoff i) (dSpan i) true] else [])

/-- X from a set needs the set's type and a place within its fold (R391). -/
def xaccInvalid (k : Core) (i : Nat) : Bool :=
  vXacc i && (match (accSet k (iAcc i)).tag with
    | some (isF, f) => vXtype i != (if isF then 5 else 6) || decide (foldK f < vRows i) || decide (foldN f < vCols i)
    | none => true)

/-- What reading an operand's lanes answers: rows of FP32 or INT32 patterns. -/
inductive Lanes where
  | ok (rows : List (List Nat)) (s : State)
  | fail (s : State)

/-- X by rows of lane values. -/
def readX (s : State) (c w i : Nat) : Lanes :=
  if vXacc i then
    let x := accSet (core s c) (iAcc i)
    let f := match x.tag with | some (_, f) => f | none => 0
    .ok ((List.range (vRows i)).map (fun m => (List.range (vCols i)).map (accGet x f m))) s
  else match readTile 3 c w (f1Win i) (f1Off i * 64) (if iOp i = 0x20 then partStride i else vPitch i)
      ((vX i).size (vCols i)) (vRows i) s with
    | .ok rows s => .ok (rows.map (fun r => (elems (vX i) r (vCols i)).map (vX i).widen)) s
    | .fail s => .fail s

/-- Y by rows of lane values. -/
def readY (s : State) (c w i : Nat) : Lanes :=
  match readTile 3 c w (vYwin i) (vYoff i * 64) (vPitch i) ((vX i).size (vCols i)) (yRows i) s with
  | .ok rows s => .ok (rows.map (fun r => (elems (vX i) r (vCols i)).map (vX i).widen)) s
  | .fail s => .fail s

/-! ## Writing -/

/-- Runs of consecutive numbers of a rising list, as start and length. -/
def runsOf : List Nat → List (Nat × Nat)
  | [] => []
  | x :: xs => match runsOf xs with
    | (y, n) :: rest => if x + 1 = y then (x, n + 1) :: rest else (x, 1) :: (y, n) :: rest
    | [] => [(x, 1)]

/-- Writes columns of a row, run by run, exact to the byte (R389, R229). -/
def writeCols (s : State) (c w win off : Nat) (t : EType) (cols : List Nat) (vals : List Nat) : State :=
  let z := t.nbits / 8
  (runsOf cols).foldl (fun s r =>
    if (core s c).work.isNone then s
    else (engWrite s c 3 w win (off + r.1 * z) (packElems t ((vals.drop r.1).take r.2))).1) s

/-- Counts VEC_SAT, DRN_OUT_SAT, LANES_MASKED and VEC_PAD_LANES. -/
def vecCounts (s : State) (c sat lim masked pad : Nat) : State :=
  countCore (countCore (countCore (countCore s c 0x0D8 sat) c 0x088 lim) c 0x0C8 masked) c 0x0D0 pad

/-- Lanes beyond COLS in the last group of 64 of each of `rows` rows (R389). -/
def padLanes (i rows : Nat) : Nat := rows * (roundUp (vCols i) 64 - vCols i)

/-- Elements that are masked in `rows` rows. -/
def maskedLanes (k : Core) (i rows : Nat) : Nat := rows * (vCols i - (vCols_ k i).length)

/-- The instruction retires: VEC_CYCLES rises (R391). -/
def vecDone (s : State) (c cycles : Nat) : State := if (core s c).work.isNone then s else count s c wVEC (2 + cycles)

/-- The figure of the element-wise operations. -/
def ewCycles (i : Nat) : Nat := vRows i * cdiv (vCols i) 64

/-! ## Element-wise operations (R391, R392) -/

/-- One lane of an operation of two inputs; answers whether an integer result was limited. -/
def lane2 (op : Nat) (isF : Bool) (x y : Nat) : Nat × Bool :=
  if isF then (match op with
    | 1 => add32 x y | 2 => sub32 x y | 3 => mul32 x y | 5 => max32 x y | _ => min32 x y, false)
  else
    let a := i32 x; let b := i32 y
    let (v, sat) := satInt 32 (match op with | 1 => a + b | 2 => a - b | 3 => a * b | 5 => max a b | _ => min a b)
    (patInt 32 v, sat)

/-- An element-wise operation whose lane results are `f x y column`; `all` writes masked columns too. -/
def elementwise (s : State) (c w i : Nat) (xs ys : List (List Nat)) (f : Nat → Nat → Nat → Nat × Bool) (all : Bool) : State :=
  let k := core s c
  let cols := if all then List.range (vCols i) else vCols_ k i
  let row (m : Nat) : List (Nat × Bool) :=
    let x := xs.getD m []; let y := ys.getD (if vYbcast i then 0 else m) []
    (List.range (vCols i)).map (fun j => f (x.getD j 0) (y.getD j 0) j)
  let rows := (List.range (vRows i)).map row
  let outs := rows.map (fun r => r.map (fun v => convOut (vO i) (vF i) true v.1))
  let hits (p : Nat → Nat → Bool) : Nat := (List.range (vRows i)).foldl (fun n m => n + cols.countP (p m)) 0
  let sat := hits (fun m j => ((rows.getD m []).getD j (0, false)).2)
  let lim := hits (fun m j => ((outs.getD m []).getD j (0, false)).2)
  let s := (List.range (vRows i)).foldl (fun s m =>
    writeCols s c w (vDwin i) (vDoff i * 64 + m * oPitch i) (vO i) cols ((outs.getD m []).map (·.1))) s
  let s := vecCounts s c sat lim (if all then 0 else maskedLanes k i (vRows i)) (padLanes i (vRows i))
  vecDone s c (ewCycles i)

def binBody (op : Nat) (c : Nat) (s : State) (w : Nat) (q : QEnt) : State :=
  let i := q.inst
  if xaccInvalid (core s c) i then invalidField s c
  else match readX s c w i with
    | .fail s => s
    | .ok xs s => match readY s c w i with
      | .fail s => s
      | .ok ys s => elementwise s c w i xs ys (fun x y _ => lane2 op (vF i) x y) false

/-- A row of the VECTOR queue. -/
def vecRow (c op : Nat) (body : State → Nat → QEnt → State) (s : State) : Res :=
  .next (engineRow s c 3 [op] vecRanges (fun _ _ => true) body)

def execVadd (core : CoreId) (s : State) : Res := vecRow core.val 0x01 (binBody 1 core.val) s
def execVsub (core : CoreId) (s : State) : Res := vecRow core.val 0x02 (binBody 2 core.val) s
def execVmul (core : CoreId) (s : State) : Res := vecRow core.val 0x03 (binBody 3 core.val) s
def execVmax (core : CoreId) (s : State) : Res := vecRow core.val 0x05 (binBody 5 core.val) s
def execVmin (core : CoreId) (s : State) : Res := vecRow core.val 0x06 (binBody 6 core.val) s

/-- VCVT: d = x, converted. -/
def vcvtBody (c : Nat) (s : State) (w : Nat) (q : QEnt) : State :=
  if xaccInvalid (core s c) q.inst then invalidField s c
  else match readX s c w q.inst with
    | .fail s => s
    | .ok xs s => elementwise s c w q.inst xs [] (fun x _ _ => (x, false)) false

def execVcvt (core : CoreId) (s : State) : Res := vecRow core.val 0x07 (vcvtBody core.val) s

/-- VSEL: x where the mask bit is 1, else y. Its mask chooses and leaves no element unwritten. DESIGN CHOICE: LANES_MASKED counts none
(R389; log entry 34). -/
def vselBody (c : Nat) (s : State) (w : Nat) (q : QEnt) : State :=
  let i := q.inst
  if xaccInvalid (core s c) i then invalidField s c
  else match readX s c w i with
    | .fail s => s
    | .ok xs s => match readY s c w i with
      | .fail s => s
      | .ok ys s =>
        let mk := tgetD (core s c).maskReg (vMsel i) 0
        elementwise s c w i xs ys (fun x y j => (if bitAt mk j then x else y, false)) true

def execVsel (core : CoreId) (s : State) : Res := vecRow core.val 0x0A (vselBody core.val) s

/-- Sets bits of a mask register. -/
def setMask (s : State) (c reg : Nat) (cols : List Nat) (f : Nat → Bool) : State :=
  modCore s c (fun k => { k with maskReg := tmod k.maskReg reg 0 (fun v => cols.foldl (fun v j => setBits v j 1 (b2n (f j))) v) })

/-- The condition of VCMP (R392). -/
def vcmpCond (isF : Bool) (cond x y : Nat) : Bool :=
  let o := if isF then fvCmp (f32 x) (f32 y) else some (compare (i32 x) (i32 y))
  match cond with
  | 0 => o == some .lt
  | 1 => o == some .lt || o == some .eq
  | 2 => o == some .eq
  | _ => o != some .eq

def vcmpBody (c : Nat) (s : State) (w : Nat) (q : QEnt) : State :=
  let i := q.inst
  if xaccInvalid (core s c) i then invalidField s c
  else match readX s c w i with
    | .fail s => s
    | .ok xs s => match readY s c w i with
      | .fail s => s
      | .ok ys s =>
        let k := core s c
        let x := xs.getD 0 []; let y := ys.getD 0 []
        let s := setMask s c (bits (vParam i) 4 3) (vCols_ k i) (fun j => vcmpCond (vF i) (bits (vParam i) 0 2) (x.getD j 0) (y.getD j 0))
        vecDone (vecCounts s c 0 0 (maskedLanes k i 1) (padLanes i 1)) c (cdiv (vCols i) 64)

def execVcmp (core : CoreId) (s : State) : Res := vecRow core.val 0x08 (vcmpBody core.val) s

/-- VMASKLD: bit j is bit j mod 8 of X byte j div 8. -/
def vmaskldBody (c : Nat) (s : State) (w : Nat) (q : QEnt) : State :=
  let i := q.inst
  match engRead s c w (f1Win i) (f1Off i * 64) (xSpan i) with
  | .fail s => s
  | .ok bs s =>
    let k := core s c
    let s := setMask s c (bits (vParam i) 4 3) (vCols_ k i) (fun j => (bs.getD (j / 8) 0).getLsbD (j % 8))
    vecDone (vecCounts s c 0 0 (maskedLanes k i 1) 0) c (cdiv (vCols i) 512)

def execVmaskld (core : CoreId) (s : State) : Res := vecRow core.val 0x09 (vmaskldBody core.val) s

/-! ## Reductions (R394) -/

/-- The reduction of a row's unmasked lanes, and how many additions were limited. -/
def reduceRow (op : Nat) (isF : Bool) (xs : List Nat) : Nat × Nat :=
  if isF then
    match op with
    | 0x10 =>
      let (v, n) := xs.foldl (fun (r : Nat × Nat) x => let (v, sat) := addSat32 r.1 (f32 x); (v, r.2 + b2n sat)) (0, 0)
      (v, n)
    | 0x11 => (xs.foldl max32 (fp32.inf true), 0)
    | _ => (xs.foldl min32 (fp32.inf false), 0)
  else
    match op with
    | 0x10 =>
      let (v, n) := xs.foldl (fun (r : Int × Nat) x => let (v, sat) := satInt 32 (r.1 + i32 x); (v, r.2 + b2n sat)) (0, 0)
      (patInt 32 v, n)
    | 0x11 => (patInt 32 (xs.foldl (fun r x => max r (i32 x)) (-2 ^ 31)), 0)
    | _ => (patInt 32 (xs.foldl (fun r x => min r (i32 x)) (2 ^ 31 - 1)), 0)

def reduceBody (op c : Nat) (s : State) (w : Nat) (q : QEnt) : State :=
  let i := q.inst
  if xaccInvalid (core s c) i then invalidField s c
  else match readX s c w i with
    | .fail s => s
    | .ok xs s =>
      let k := core s c
      let cols := vCols_ k i
      let rs := xs.map (fun r => reduceRow op (vF i) (cols.map (fun j => r.getD j 0)))
      let outs := rs.map (fun r => convOut (vO i) (vF i) true r.1)
      let s := writeCols s c w (vDwin i) (vDoff i * 64) (vO i) (List.range (vRows i)) (outs.map (·.1))
      let s := vecCounts s c (rs.foldl (fun n r => n + r.2) 0) (outs.countP (·.2)) (maskedLanes k i (vRows i)) 0
      vecDone s c (cdiv (vRows i) 64 * vCols i)

def execRsum (core : CoreId) (s : State) : Res := vecRow core.val 0x10 (reduceBody 0x10 core.val) s
def execRmax (core : CoreId) (s : State) : Res := vecRow core.val 0x11 (reduceBody 0x11 core.val) s
def execRmin (core : CoreId) (s : State) : Res := vecRow core.val 0x12 (reduceBody 0x12 core.val) s

/-! ## Top-k (R395) -/

/-- `x` ranks strictly before `y`: NaN after every number. -/
def ranksBefore (isF smallest : Bool) (x y : Nat) : Bool :=
  if isF then
    match isNan32 x, isNan32 y with
    | true, _ => false
    | false, true => true
    | false, false => fvCmp (f32 x) (f32 y) == some (if smallest then .lt else .gt)
  else if smallest then decide (i32 x < i32 y) else decide (i32 y < i32 x)

/-- Inserts an element, after those that it does not rank before. -/
def rankIn (isF smallest : Bool) (e : Nat × Nat) : List (Nat × Nat) → List (Nat × Nat)
  | [] => [e]
  | f :: fs => if ranksBefore isF smallest e.2 f.2 then e :: f :: fs else f :: rankIn isF smallest e fs

/-- The k best (column, value) pairs of a row, in rank order; equal values by ascending column. -/
def topRow (isF smallest : Bool) (k : Nat) (es : List (Nat × Nat)) : List (Nat × Nat) :=
  (es.foldl (fun l e => rankIn isF smallest e l) []).take k

/-- The value of a slot without an element. -/
def topFill (t : EType) (smallest : Bool) : Nat :=
  if t.isInt then patInt t.nbits (if smallest then 2 ^ (t.nbits - 1) - 1 else -2 ^ (t.nbits - 1))
  else (convOut t true true (fp32.inf (!smallest))).1

def topkBody (c : Nat) (s : State) (w : Nat) (q : QEnt) : State :=
  let i := q.inst
  if xaccInvalid (core s c) i then invalidField s c
  else match readX s c w i with
    | .fail s => s
    | .ok xs s =>
      let k := core s c
      let n := topK i
      let small := bitAt (vParam i) 8
      let best := xs.map (fun r => topRow (vF i) small n ((vCols_ k i).map (fun j => (j, r.getD j 0))))
      let outs := best.map (fun b => b.map (fun e => convOut (vO i) (vF i) true e.2))
      let s := (List.range (vRows i)).foldl (fun s m =>
        let b := best.getD m []; let o := outs.getD m []
        let vals := (List.range n).map (fun j => match o[j]? with | some x => x.1 | none => topFill (vO i) small)
        let idxs := (List.range n).map (fun j => match b[j]? with | some e => e.1 | none => 0xFFFFFFFF)
        let s := writeCols s c w (vDwin i) (vDoff i * 64 + m * roundUp ((vO i).size n) 64) (vO i) (List.range n) vals
        writeCols s c w (vYwin i) (vYoff i * 64 + m * roundUp (4 * n) 64) .int32 (List.range n) idxs) s
      let s := vecCounts s c 0 (outs.foldl (fun a o => a + o.countP (·.2)) 0) (maskedLanes k i (vRows i)) 0
      let s := countCore s c 0x0E0 (vRows i)
      vecDone s c (vRows i * (cdiv (vCols i) 8 + cdiv n 8))

def execTopk (core : CoreId) (s : State) : Res := vecRow core.val 0x18 (topkBody core.val) s

/-! ## COMBINE (R396) -/

/-- A stored value as a lane value of the other kind where the types differ. -/
def toLane (isF : Bool) (t : EType) (x : Nat) : Nat :=
  if isF then (if t.isInt then fp32.enc (fvInt (t.int x)) else t.widen x)
  else if t.isInt then t.widen x else (convOut .int32 true true (t.widen x)).1

def combineBody (c : Nat) (s : State) (w : Nat) (q : QEnt) : State :=
  let i := q.inst
  match readX s c w i with
  | .fail s => s
  | .ok xs s =>
    let k := core s c
    let t := vO i
    let d := if bitAt (vParam i) 0 then engRead s c w (vDwin i) (vDoff i * 64) (t.size (vCols i)) else .ok [] s
    match d with
    | .fail s => s
    | .ok ds s =>
      let start (j : Nat) : Nat := if bitAt (vParam i) 0 then toLane (vF i) t (t.at ds j) else 0
      let col (j : Nat) : Nat × Nat := xs.foldl (fun (r : Nat × Nat) x =>
        let (v, sat) := accAdd (vF i) r.1 (x.getD j 0); (v, r.2 + b2n sat)) (start j, 0)
      let rs := (List.range (vCols i)).map col
      let outs := rs.map (fun r => convOut t (vF i) true r.1)
      let cols := vCols_ k i
      let s := writeCols s c w (vDwin i) (vDoff i * 64) t cols (outs.map (·.1))
      let s := vecCounts s c (cols.foldl (fun n j => n + (rs.getD j (0, 0)).2) 0)
        (cols.countP (fun j => (outs.getD j (0, false)).2)) (maskedLanes k i (vRows i)) (padLanes i (vRows i))
      vecDone s c (ewCycles i)

def execCombine (core : CoreId) (s : State) : Res := vecRow core.val 0x20 (combineBody core.val) s

/-! ## AADD (R397, R398, R529) -/

/-- The target register that an AADD names. -/
def atgtOf (k : Core) (i : Nat) : Nat := tgetD k.atgt (bits (vParam i) 0 2) 0

def atgtType (t : Nat) : Nat := bits t 56 2
/-- Bytes of a target type. -/
def atgtSize (t : Nat) : Nat := if atgtType t = 2 then 2 else 4

/-- XTYPE agrees with TYPE, FP32 to BF16 apart; TARGET is aligned (Table 15-4). -/
def aaddInvalid (k : Core) (i : Nat) : Bool :=
  let t := atgtOf k i
  !((atgtType t == 0 && vXtype i == 5) || (atgtType t == 1 && vXtype i == 6) || (atgtType t == 2 && (vXtype i == 3 || vXtype i == 5)))
    || bits t 0 44 % atgtSize t != 0 || xaccInvalid k i

/-- The unmasked elements as positions m × COLS + j, rising. -/
def aaddPlaces (k : Core) (i : Nat) : List Nat :=
  (List.range (vRows i)).flatMap (fun m => (vCols_ k i).map (fun j => m * vCols i + j))

/-- The transactions of a remote AADD: runs of places of at most 120 (R529). -/
def aaddRuns (k : Core) (i : Nat) : List (Nat × Nat) :=
  (runsOf (aaddPlaces k i)).flatMap (fun r => (List.range (cdiv r.2 120)).map (fun n => (r.1 + 120 * n, min 120 (r.2 - 120 * n))))

/-- A remote AADD needs a tracker entry for each of its transactions (R519). -/
def aaddReady (s : State) (k : Core) (i : Nat) : Bool :=
  aaddInvalid k i || bits (atgtOf k i) 44 12 == 0 || s.fab.txns.isEmpty
    || decide (s.fab.txns.length + (aaddRuns k i).length ≤ 4096)

def aaddBody (c : Nat) (s : State) (w : Nat) (q : QEnt) : State :=
  let i := q.inst
  let k := core s c
  if aaddInvalid k i then invalidField s c
  else
    let t := atgtOf k i
    let node := bits t 44 12
    let base := bits t 0 44
    let s := setCore s c (takeRanges k 3 q.ord (vecRanges k i))
    match readX s c w i with
    | .fail s => dropInstr s c q.ord
    | .ok xs s =>
      let val (p : Nat) : Nat := (xs.getD (p / vCols i) []).getD (p % vCols i) 0
      let places := aaddPlaces k i
      let n := if node = 0 then places.length else (aaddRuns k i).length
      let s := vecCounts s c 0 0 (maskedLanes k i (vRows i)) (padLanes i (vRows i))
      if n = 0 then vecDone (modCore s c (fun k => freeRanges k q.ord)) c (ewCycles i)
      else
        let p : PendI := { eng := 3, ord := q.ord, left := n, word := wVEC, cycles := 2 + ewCycles i }
        let s := modCore s c (fun k => { k with pend := k.pend ++ [p] })
        if node = 0 then
          let adds : List Add := places.map (fun p => { core := c, ord := q.ord, addr := base + p * atgtSize t, typ := atgtType t,
                                                        val := val p, work := w, gen := workGen s w, tcid := workTcid s w })
          { s with net := { s.net with adds := s.net.adds ++ adds } }
        else
          (aaddRuns k i).foldl (fun s r =>
            sendTxn s node (.aadd (base + r.1 * atgtSize t) (atgtType t) ((List.range r.2).map (fun n => val (r.1 + n))))
              (workTcid s w) (workSlot s w) (workGen s w) (some w) c q.ord) s

/-- AADD: every unmasked element goes out as an add; it retires once all are performed. -/
def execAadd (core : CoreId) (s : State) : Res :=
  .next (engineRow s core.val 3 [0x21] vecRanges (aaddReady s) (aaddBody core.val))

end Sys2Proof.Machine
end

