-- ==== Sys2Proof/Machine/Dispatch.lean ====
section
/-! DEFINITION. One arm per command: a direct call of its meaning. -/

namespace Sys2Proof.Machine

/-- The effect of a command on everything but the queue. -/
def exec (i : Instr) (s : State) : Host.Outcome State Fault Refusal :=
  match i with
  | .powerOn => Sys2Proof.Machine.execPowerOn s
  | .perst => Sys2Proof.Machine.execPerst s
  | .hostCold => Sys2Proof.Machine.execHostCold s
  | .hostWarm => Sys2Proof.Machine.execHostWarm s
  | .flr => Sys2Proof.Machine.execFlr s
  | .hotReset => Sys2Proof.Machine.execHotReset s
  | .eftWatchdog => Sys2Proof.Machine.execEftWatchdog s
  | .inputUndervoltage => Sys2Proof.Machine.execInputUndervoltage s
  | .thermalTrip => Sys2Proof.Machine.execThermalTrip s
  | .pinFreeze => Sys2Proof.Machine.execPinFreeze s
  | .fatalReport block => Sys2Proof.Machine.execFatalReport block s
  | .freezeSequenceStep missed => Sys2Proof.Machine.execFreezeSequenceStep missed s
  | .sroRestart => Sys2Proof.Machine.execSroRestart s
  | .imageVerifyDone flash => Sys2Proof.Machine.execImageVerifyDone flash s
  | .selftestDone failed fatal => Sys2Proof.Machine.execSelftestDone failed fatal s
  | .trainingDone failed => Sys2Proof.Machine.execTrainingDone failed s
  | .tierInitFillDone => Sys2Proof.Machine.execTierInitFillDone s
  | .ready => Sys2Proof.Machine.execReady s
  | .recover value => Sys2Proof.Machine.execRecover value s
  | .trialAbandon => Sys2Proof.Machine.execTrialAbandon s
  | .sleepEntry steps => Sys2Proof.Machine.execSleepEntry steps s
  | .wake cause => Sys2Proof.Machine.execWake cause s
  | .wakeDone => Sys2Proof.Machine.execWakeDone s
  | .torporEntry => Sys2Proof.Machine.execTorporEntry s
  | .torporWake => Sys2Proof.Machine.execTorporWake s
  | .torporWakeDone => Sys2Proof.Machine.execTorporWakeDone s
  | .coreDoze core => Sys2Proof.Machine.execCoreDoze core s
  | .scrubWake => Sys2Proof.Machine.execScrubWake s
  | .spScrubDoze pass => Sys2Proof.Machine.execSpScrubDoze pass s
  | .monitorSample monitor reading => Sys2Proof.Machine.execMonitorSample monitor reading s
  | .currentWarning => Sys2Proof.Machine.execCurrentWarning s
  | .fmaxStep => Sys2Proof.Machine.execFmaxStep s
  | .clockStep => Sys2Proof.Machine.execClockStep s
  | .powerFloor => Sys2Proof.Machine.execPowerFloor s
  | .linkL1Request => Sys2Proof.Machine.execLinkL1Request s
  | .powerMgmtState acc => Sys2Proof.Machine.execPowerMgmtState acc s
  | .bar2Resize log2GiB => Sys2Proof.Machine.execBar2Resize log2GiB s
  | .bar2Access write offset len data req => Sys2Proof.Machine.execBar2Access write offset len data req s
  | .sysWinBaseWrite n value => Sys2Proof.Machine.execSysWinBaseWrite n value s
  | .sysWinCtlWrite n value => Sys2Proof.Machine.execSysWinCtlWrite n value s
  | .sysTimeRead read => Sys2Proof.Machine.execSysTimeRead read s
  | .bar0Write offset size value poisoned => Sys2Proof.Machine.execBar0Write offset size value poisoned s
  | .sqDoorbell ring value => Sys2Proof.Machine.execSqDoorbell ring value s
  | .cqHeadWrite ring value => Sys2Proof.Machine.execCqHeadWrite ring value s
  | .mbxDoorbell mask => Sys2Proof.Machine.execMbxDoorbell mask s
  | .mbxDoneClear mask => Sys2Proof.Machine.execMbxDoneClear mask s
  | .mbxEvqBaseWrite value => Sys2Proof.Machine.execMbxEvqBaseWrite value s
  | .mbxEvqCtlWrite value => Sys2Proof.Machine.execMbxEvqCtlWrite value s
  | .mbxEvqHeadWrite value => Sys2Proof.Machine.execMbxEvqHeadWrite value s
  | .cmdTimeout slot moved => Sys2Proof.Machine.execCmdTimeout slot moved s
  | .croak => Sys2Proof.Machine.execCroak s
  | .identify slot => Sys2Proof.Machine.execIdentify slot s
  | .trayStatus slot => Sys2Proof.Machine.execTrayStatus slot s
  | .timeSet slot => Sys2Proof.Machine.execTimeSet slot s
  | .timeQuery slot => Sys2Proof.Machine.execTimeQuery slot s
  | .powerSet slot => Sys2Proof.Machine.execPowerSet slot s
  | .powerQuery slot => Sys2Proof.Machine.execPowerQuery slot s
  | .tenantCreate slot => Sys2Proof.Machine.execTenantCreate slot s
  | .tenantSet slot => Sys2Proof.Machine.execTenantSet slot s
  | .tenantQuery slot => Sys2Proof.Machine.execTenantQuery slot s
  | .tenantSuspend slot => Sys2Proof.Machine.execTenantSuspend slot s
  | .tenantResume slot => Sys2Proof.Machine.execTenantResume slot s
  | .tenantDestroy slot => Sys2Proof.Machine.execTenantDestroy slot s
  | .commonsAlloc slot => Sys2Proof.Machine.execCommonsAlloc slot s
  | .commonsSeal slot => Sys2Proof.Machine.execCommonsSeal slot s
  | .commonsFree slot => Sys2Proof.Machine.execCommonsFree slot s
  | .commonsQuery slot => Sys2Proof.Machine.execCommonsQuery slot s
  | .regionCreate slot => Sys2Proof.Machine.execRegionCreate slot s
  | .regionSeal slot => Sys2Proof.Machine.execRegionSeal slot s
  | .regionFree slot => Sys2Proof.Machine.execRegionFree slot s
  | .regionQuery slot => Sys2Proof.Machine.execRegionQuery slot s
  | .imageUnregister slot => Sys2Proof.Machine.execImageUnregister slot s
  | .imageQuery slot => Sys2Proof.Machine.execImageQuery slot s
  | .imageBind slot => Sys2Proof.Machine.execImageBind slot s
  | .ringConfigure slot => Sys2Proof.Machine.execRingConfigure slot s
  | .ringDestroy slot => Sys2Proof.Machine.execRingDestroy slot s
  | .ringQuery slot => Sys2Proof.Machine.execRingQuery slot s
  | .ringRestart slot => Sys2Proof.Machine.execRingRestart slot s
  | .unitQuery slot => Sys2Proof.Machine.execUnitQuery slot s
  | .unitSetAdmin slot => Sys2Proof.Machine.execUnitSetAdmin slot s
  | .fabricQuery slot => Sys2Proof.Machine.execFabricQuery slot s
  | .routesAuto slot => Sys2Proof.Machine.execRoutesAuto slot s
  | .hotrowPolicy slot => Sys2Proof.Machine.execHotrowPolicy slot s
  | .ledgerQuery slot => Sys2Proof.Machine.execLedgerQuery slot s
  | .ledgerAck slot => Sys2Proof.Machine.execLedgerAck slot s
  | .ledgerAnchor slot => Sys2Proof.Machine.execLedgerAnchor slot s
  | .traceConfig slot => Sys2Proof.Machine.execTraceConfig slot s
  | .freeze slot => Sys2Proof.Machine.execFreeze slot s
  | .fwStageBegin slot => Sys2Proof.Machine.execFwStageBegin slot s
  | .fwStageEnd slot => Sys2Proof.Machine.execFwStageEnd slot s
  | .fwActivate slot => Sys2Proof.Machine.execFwActivate slot s
  | .fwCommit slot => Sys2Proof.Machine.execFwCommit slot s
  | .commonsLoad slot buf => Sys2Proof.Machine.execCommonsLoad slot buf s
  | .regionLoad slot buf => Sys2Proof.Machine.execRegionLoad slot buf s
  | .routesLoad slot buf => Sys2Proof.Machine.execRoutesLoad slot buf s
  | .fwStageData slot buf => Sys2Proof.Machine.execFwStageData slot buf s
  | .unitList slot hostOk => Sys2Proof.Machine.execUnitList slot hostOk s
  | .ledgerRead slot hostOk => Sys2Proof.Machine.execLedgerRead slot hostOk s
  | .counterSnapshot slot hostOk => Sys2Proof.Machine.execCounterSnapshot slot hostOk s
  | .imageRegister slot buf desc => Sys2Proof.Machine.execImageRegister slot buf desc s
  | .unitRetest slot pass stillBad => Sys2Proof.Machine.execUnitRetest slot pass stillBad s
  | .tenantFreed tcid => Sys2Proof.Machine.execTenantFreed tcid s
  | .descriptorRead ring result => Sys2Proof.Machine.execDescriptorRead ring result s
  | .admissionCheck ring partners => Sys2Proof.Machine.execAdmissionCheck ring partners s
  | .zeroFillDone core => Sys2Proof.Machine.execZeroFillDone core s
  | .stagingDone order find => Sys2Proof.Machine.execStagingDone order find s
  | .configLoad core find => Sys2Proof.Machine.execConfigLoad core find s
  | .feedToken core feed => Sys2Proof.Machine.execFeedToken core feed s
  | .deadlineExpiry job => Sys2Proof.Machine.execDeadlineExpiry job s
  | .quenchAck job ack => Sys2Proof.Machine.execQuenchAck job ack s
  | .quenchBoundExpiry job moverResetOk => Sys2Proof.Machine.execQuenchBoundExpiry job moverResetOk s
  | .completionPost job => Sys2Proof.Machine.execCompletionPost job s
  | .frameRelease job => Sys2Proof.Machine.execFrameRelease job s
  | .roundAdvance job => Sys2Proof.Machine.execRoundAdvance job s
  | .unitHealth unit health => Sys2Proof.Machine.execUnitHealth unit health s
  | .unitStatePoll silent => Sys2Proof.Machine.execUnitStatePoll silent s
  | .lineTestDone core found retestClean => Sys2Proof.Machine.execLineTestDone core found retestClean s
  | .errorRecord => Sys2Proof.Machine.execErrorRecord s
  | .add ag gd ga gb => Sys2Proof.Machine.execAdd ag gd ga gb s
  | .sub ag gd ga gb => Sys2Proof.Machine.execSub ag gd ga gb s
  | .and ag gd ga gb => Sys2Proof.Machine.execAnd ag gd ga gb s
  | .or ag gd ga gb => Sys2Proof.Machine.execOr ag gd ga gb s
  | .xor ag gd ga gb => Sys2Proof.Machine.execXor ag gd ga gb s
  | .sll ag gd ga gb => Sys2Proof.Machine.execSll ag gd ga gb s
  | .srl ag gd ga gb => Sys2Proof.Machine.execSrl ag gd ga gb s
  | .sra ag gd ga gb => Sys2Proof.Machine.execSra ag gd ga gb s
  | .slt ag gd ga gb => Sys2Proof.Machine.execSlt ag gd ga gb s
  | .sltu ag gd ga gb => Sys2Proof.Machine.execSltu ag gd ga gb s
  | .min ag gd ga gb => Sys2Proof.Machine.execMin ag gd ga gb s
  | .max ag gd ga gb => Sys2Proof.Machine.execMax ag gd ga gb s
  | .minu ag gd ga gb => Sys2Proof.Machine.execMinu ag gd ga gb s
  | .maxu ag gd ga gb => Sys2Proof.Machine.execMaxu ag gd ga gb s
  | .mul ag gd ga gb => Sys2Proof.Machine.execMul ag gd ga gb s
  | .mulh ag gd ga gb => Sys2Proof.Machine.execMulh ag gd ga gb s
  | .mulhu ag gd ga gb => Sys2Proof.Machine.execMulhu ag gd ga gb s
  | .div ag gd ga gb => Sys2Proof.Machine.execDiv ag gd ga gb s
  | .divu ag gd ga gb => Sys2Proof.Machine.execDivu ag gd ga gb s
  | .rem ag gd ga gb => Sys2Proof.Machine.execRem ag gd ga gb s
  | .remu ag gd ga gb => Sys2Proof.Machine.execRemu ag gd ga gb s
  | .addi ag gd ga imm => Sys2Proof.Machine.execAddi ag gd ga imm s
  | .andi ag gd ga imm => Sys2Proof.Machine.execAndi ag gd ga imm s
  | .ori ag gd ga imm => Sys2Proof.Machine.execOri ag gd ga imm s
  | .xori ag gd ga imm => Sys2Proof.Machine.execXori ag gd ga imm s
  | .slti ag gd ga imm => Sys2Proof.Machine.execSlti ag gd ga imm s
  | .sltiu ag gd ga imm => Sys2Proof.Machine.execSltiu ag gd ga imm s
  | .slli ag gd ga sh => Sys2Proof.Machine.execSlli ag gd ga sh s
  | .srli ag gd ga sh => Sys2Proof.Machine.execSrli ag gd ga sh s
  | .srai ag gd ga sh => Sys2Proof.Machine.execSrai ag gd ga sh s
  | .lui ag gd imm => Sys2Proof.Machine.execLui ag gd imm s
  | .auipc ag gd imm => Sys2Proof.Machine.execAuipc ag gd imm s
  | .ld1 ag gd ga imm => Sys2Proof.Machine.execLd1 ag gd ga imm s
  | .ld2 ag gd ga imm => Sys2Proof.Machine.execLd2 ag gd ga imm s
  | .ld4 ag gd ga imm => Sys2Proof.Machine.execLd4 ag gd ga imm s
  | .ld8 ag gd ga imm => Sys2Proof.Machine.execLd8 ag gd ga imm s
  | .ld1u ag gd ga imm => Sys2Proof.Machine.execLd1u ag gd ga imm s
  | .ld2u ag gd ga imm => Sys2Proof.Machine.execLd2u ag gd ga imm s
  | .ld4u ag gd ga imm => Sys2Proof.Machine.execLd4u ag gd ga imm s
  | .ldres ag gd ga imm => Sys2Proof.Machine.execLdres ag gd ga imm s
  | .st1 ag gb ga imm => Sys2Proof.Machine.execSt1 ag gb ga imm s
  | .st2 ag gb ga imm => Sys2Proof.Machine.execSt2 ag gb ga imm s
  | .st4 ag gb ga imm => Sys2Proof.Machine.execSt4 ag gb ga imm s
  | .st8 ag gb ga imm => Sys2Proof.Machine.execSt8 ag gb ga imm s
  | .stnt ag gb ga imm => Sys2Proof.Machine.execStnt ag gb ga imm s
  | .stcond ag gd ga gb => Sys2Proof.Machine.execStcond ag gd ga gb s
  | .loadDataReturn ag find => Sys2Proof.Machine.execLoadDataReturn ag find s
  | .storePerformed ag => Sys2Proof.Machine.execStorePerformed ag s
  | .cbFlushAge ag => Sys2Proof.Machine.execCbFlushAge ag s
  | .gbFlushAge core => Sys2Proof.Machine.execGbFlushAge core s
  | .reservationHoldExpiry ag => Sys2Proof.Machine.execReservationHoldExpiry ag s
  | .br ag cond ga gb imm => Sys2Proof.Machine.execBr ag cond ga gb imm s
  | .jal ag gd imm => Sys2Proof.Machine.execJal ag gd imm s
  | .jalr ag gd ga imm => Sys2Proof.Machine.execJalr ag gd ga imm s
  | .sync ag => Sys2Proof.Machine.execSync ag s
  | .syncWatchdog ag => Sys2Proof.Machine.execSyncWatchdog ag s
  | .qsync ag => Sys2Proof.Machine.execQsync ag s
  | .tiss ag ga gb => Sys2Proof.Machine.execTiss ag ga gb s
  | .wait ag => Sys2Proof.Machine.execWait ag s
  | .crr ag gd num => Sys2Proof.Machine.execCrr ag gd num s
  | .crw ag ga num => Sys2Proof.Machine.execCrw ag ga num s
  | .eret ag => Sys2Proof.Machine.execEret ag s
  | .brk ag => Sys2Proof.Machine.execBrk ag s
  | .endSection ag => Sys2Proof.Machine.execEndSection ag s
  | .pcrr ag gd num => Sys2Proof.Machine.execPcrr ag gd num s
  | .pcrw ag ga num => Sys2Proof.Machine.execPcrw ag ga num s
  | .seqTimerExpiry ag => Sys2Proof.Machine.execSeqTimerExpiry ag s
  | .interrupt ag => Sys2Proof.Machine.execInterrupt ag s
  | .wlkNext core n gd => Sys2Proof.Machine.execWlkNext core n gd s
  | .wlkRestart core n => Sys2Proof.Machine.execWlkRestart core n s
  | .chnRelease core region => Sys2Proof.Machine.execChnRelease core region s
  | .passCheck core fails => Sys2Proof.Machine.execPassCheck core fails s
  | .quantumCommit core residueOk => Sys2Proof.Machine.execQuantumCommit core residueOk s
  | .tierAtomicAdd arrivals find => Sys2Proof.Machine.execTierAtomicAdd arrivals find s
  | .gatherRowArrival core index find => Sys2Proof.Machine.execGatherRowArrival core index find s
  | .remoteWrite index find => Sys2Proof.Machine.execRemoteWrite index find s
  | .creditReturn index => Sys2Proof.Machine.execCreditReturn index s
  | .spScrub core group row finds => Sys2Proof.Machine.execSpScrub core group row finds s
  | .scrubForce core group row finds => Sys2Proof.Machine.execScrubForce core group row finds s
  | .tierScrub addr find passEnds => Sys2Proof.Machine.execTierScrub addr find passEnds s
  | .refresh controller => Sys2Proof.Machine.execRefresh controller s
  | .tierFillDone index => Sys2Proof.Machine.execTierFillDone index s
  | .hotrowSent tcid region rows => Sys2Proof.Machine.execHotrowSent tcid region rows s
  | .replicaDrop tcid region => Sys2Proof.Machine.execReplicaDrop tcid region s
  | .moduleInsert port fourLanes withinPower optics => Sys2Proof.Machine.execModuleInsert port fourLanes withinPower optics s
  | .moduleRemove port => Sys2Proof.Machine.execModuleRemove port s
  | .trainingStep port => Sys2Proof.Machine.execTrainingStep port s
  | .trainingTimeout port => Sys2Proof.Machine.execTrainingTimeout port s
  | .trainingRetry port => Sys2Proof.Machine.execTrainingRetry port s
  | .fecLockLoss port => Sys2Proof.Machine.execFecLockLoss port s
  | .codewordReceive port find cw => Sys2Proof.Machine.execCodewordReceive port find cw s
  | .lctl port nak ackSeq crReq crRsp crMgt => Sys2Proof.Machine.execLctl port nak ackSeq crReq crRsp crMgt s
  | .lctlTimer port => Sys2Proof.Machine.execLctlTimer port s
  | .replayTimeout port => Sys2Proof.Machine.execReplayTimeout port s
  | .hello port uid heardUid node nport tentative => Sys2Proof.Machine.execHello port uid heardUid node nport tentative s
  | .helloTimer port => Sys2Proof.Machine.execHelloTimer port s
  | .lsr port rec => Sys2Proof.Machine.execLsr port rec s
  | .lsrRefresh => Sys2Proof.Machine.execLsrRefresh s
  | .lsrAgeExpiry uid => Sys2Proof.Machine.execLsrAgeExpiry uid s
  | .addrFirm => Sys2Proof.Machine.execAddrFirm s
  | .routeCompute => Sys2Proof.Machine.execRouteCompute s
  | .routesInstalled => Sys2Proof.Machine.execRoutesInstalled s
  | .txnForward port frame => Sys2Proof.Machine.execTxnForward port frame s
  | .ageDrop port => Sys2Proof.Machine.execAgeDrop port s
  | .txnRead h region offset len find => Sys2Proof.Machine.execTxnRead h region offset len find s
  | .txnWrite h dcore dreg score tend units offset data tag => Sys2Proof.Machine.execTxnWrite h dcore dreg score tend units offset data tag s
  | .txnAadd h target etype addends find => Sys2Proof.Machine.execTxnAadd h target etype addends find s
  | .txnPool h region row0 etype weighted dim entries find => Sys2Proof.Machine.execTxnPool h region row0 etype weighted dim entries find s
  | .txnClaim h image plan q0 npos ext => Sys2Proof.Machine.execTxnClaim h image plan q0 npos ext s
  | .txnReport h status sat nan => Sys2Proof.Machine.execTxnReport h status sat nan s
  | .txnRelease h => Sys2Proof.Machine.execTxnRelease h s
  | .txnQuench h => Sys2Proof.Machine.execTxnQuench h s
  | .txnHotrow h region row data => Sys2Proof.Machine.execTxnHotrow h region row data s
  | .txnCredit h pcore ccore creg total => Sys2Proof.Machine.execTxnCredit h pcore ccore creg total s
  | .txnResponse r => Sys2Proof.Machine.execTxnResponse r s
  | .e2eRetry txid => Sys2Proof.Machine.execE2eRetry txid s
  | .creditRefresh core => Sys2Proof.Machine.execCreditRefresh core s
  | .obsTselWrite value => Sys2Proof.Machine.execObsTselWrite value s
  | .obsTrcHeadWrite value => Sys2Proof.Machine.execObsTrcHeadWrite value s
  | .traceExport => Sys2Proof.Machine.execTraceExport s
  | .timebase => Sys2Proof.Machine.execTimebase s
  | .i2cTransaction target pointer written len => Sys2Proof.Machine.execI2cTransaction target pointer written len s
  | .tempUpdate tj inlet outlet vr lpddr => Sys2Proof.Machine.execTempUpdate tj inlet outlet vr lpddr s
  | .eftTick edge => Sys2Proof.Machine.execEftTick edge s
  | .perstDeassertion => Sys2Proof.Machine.execPerstDeassertion s
  | .linkL1Exit => Sys2Proof.Machine.execLinkL1Exit s
  | .sroClkRisingEdge => Sys2Proof.Machine.execSroClkRisingEdge s
  | .duplicateRecordExpiry src txid => Sys2Proof.Machine.execDuplicateRecordExpiry src txid s
  | .overcurrentWarningDeassert => Sys2Proof.Machine.execOvercurrentWarningDeassert s
  | .mma core => Sys2Proof.Machine.execMma core s
  | .preload core => Sys2Proof.Machine.execPreload core s
  | .drainWindow core => Sys2Proof.Machine.execDrainWindow core s
  | .drainToken core => Sys2Proof.Machine.execDrainToken core s
  | .drainFabric core => Sys2Proof.Machine.execDrainFabric core s
  | .vadd core => Sys2Proof.Machine.execVadd core s
  | .vsub core => Sys2Proof.Machine.execVsub core s
  | .vmul core => Sys2Proof.Machine.execVmul core s
  | .vmax core => Sys2Proof.Machine.execVmax core s
  | .vmin core => Sys2Proof.Machine.execVmin core s
  | .vcvt core => Sys2Proof.Machine.execVcvt core s
  | .vcmp core => Sys2Proof.Machine.execVcmp core s
  | .vmaskld core => Sys2Proof.Machine.execVmaskld core s
  | .vsel core => Sys2Proof.Machine.execVsel core s
  | .rsum core => Sys2Proof.Machine.execRsum core s
  | .rmax core => Sys2Proof.Machine.execRmax core s
  | .rmin core => Sys2Proof.Machine.execRmin core s
  | .topk core => Sys2Proof.Machine.execTopk core s
  | .combine core => Sys2Proof.Machine.execCombine core s
  | .aadd core => Sys2Proof.Machine.execAadd core s
  | .sdmm core => Sys2Proof.Machine.execSdmm core s
  | .dsmm core => Sys2Proof.Machine.execDsmm core s
  | .ssmm core => Sys2Proof.Machine.execSsmm core s
  | .quanta core => Sys2Proof.Machine.execQuanta core s
  | .freq core => Sys2Proof.Machine.execFreq core s
  | .gather core => Sys2Proof.Machine.execGather core s
  | .route core => Sys2Proof.Machine.execRoute core s

end Sys2Proof.Machine
end

