-- ==== Sys2Proof/Safety.lean ====
section
/-! DEFINITION. What the statements mean by a step that completes, by a mailbox command that is accepted, answered and
written to the ledger, by memory in its canonical form, and by an access that the endpoint check permits. -/

namespace Sys2Proof.Machine

/-- The command answers a next state, and what that state holds. -/
def Completes (i : Instr) (s : State) (post : State → Prop) : Prop := ∃ t, exec i s = .next t ∧ post t

/-- Memory is in its canonical form, so that equal memories are equal data. -/
abbrev Canonical (s : State) : Prop := Memory.wf s.mem = true

/-- A tenant's access to `n` bytes from `a` passes the endpoint check (R45, R468). -/
def Permitted (s : State) (tcid a n : Nat) (write : Bool) : Prop := endpoint s tcid a n write = .ok

/-- Swifort has accepted a request of this opcode in slot `k` and may start it (R145, R146). -/
abbrev Accepted (s : State) (k : SlotId) (opcode : Nat) (r : Req) : Prop :=
  tget s.mbx.reqs k.val = some r ∧ r.opcode = opcode ∧ tget s.mbx.running k.val = none ∧ fwUp s = true ∧
    mayStart s k.val r = true

/-- `Accepted`, with every domain running, room in the ledger, no reserved load's hold under way, and memory in its canonical form:
what a command that changes state needs (R84, R159, R270). -/
abbrev AcceptedChange (s : State) (k : SlotId) (opcode : Nat) (r : Req) : Prop :=
  Accepted s k opcode r ∧ domainsUp s = true ∧ ledgerFull s = false ∧ noHold s = true ∧ Canonical s

/-- The header of a response (Table 6-3). -/
def responseHeader (s : State) (r : Req) (status len : Nat) : List Byte :=
  leBytes 2 r.opcode ++ leBytes 2 (b2n r.force + 2 * b2n r.noirq) ++ leBytes 2 r.tag ++ leBytes 2 len ++ leBytes 2 status
    ++ leBytes 6 (s.eft.time % 2 ^ 48)

/-- The message of vector `v`: the data of its MSI-X table entry, to the entry's address (R136). -/
def vectorMsg (s : State) (v : Nat) : OutMsg := .msix v ((msixEntry s v).setWidth 64) ((msixEntry s v).extractLsb' 64 32)

/-- `t` is `u` with the response to `r` in slot `k`: the slot is in DONE, vector 0 has been raised unless NOIRQ, and nothing
else differs but MGT's rate, which falls back in SLEEP when no command is left (R84, R141, R142). -/
def Answered (u t : State) (k : SlotId) (r : Req) (status : Nat) (payload : List Byte) : Prop :=
  tget t.mbx.slots k.val
      = some (patch (slotBytes u k.val) 0 (responseHeader u r status payload.length ++ payload)) ∧
  (∀ j, j ≠ k.val → tget t.mbx.slots j = tget u.mbx.slots j) ∧
  t.mbx.done = u.mbx.done ||| (1#32 <<< k.val) ∧ t.mbx.own = u.mbx.own &&& ~~~(1#32 <<< k.val) ∧
  t.mbx.reqs = tdel u.mbx.reqs k.val ∧ t.mbx.running = tdel u.mbx.running k.val ∧
  (r.noirq = true → t.host = u.host ∧ t.hostOut = u.hostOut) ∧
  (r.noirq = false → u.host.msixEnable = true → u.host.msixFuncMask = false → (msixEntry u 0).getLsbD 96 = false →
    u.host.d3hot = false → t.hostOut = u.hostOut ++ [vectorMsg u 0]) ∧
  t.mbx.placeWait = u.mbx.placeWait.filter (· != k.val) ∧ t.pwr.mgtMhz = (settleMgt { u with mbx.reqs := t.mbx.reqs }).pwr.mgtMhz ∧
  t = { u with mbx := { u.mbx with slots := t.mbx.slots, done := t.mbx.done, own := t.mbx.own, reqs := t.mbx.reqs,
                                   running := t.mbx.running, placeWait := t.mbx.placeWait },
               pwr.mgtMhz := t.pwr.mgtMhz, host.pba := t.host.pba, host.held := t.host.held, hostOut := t.hostOut }

/-- The ledger entry of a mailbox command (R161, R567). -/
def cmdEntry (k : SlotId) (r : Req) (tcid object : Nat) : LEntry :=
  { origin := 1, tcid := tcid, kind := r.opcode, part := 0, slot := k.val, object := object, value := (sha256 r.payload).take 8 }

/-- `u` is `v` with one entry appended: its 64 bytes stand at the address of its sequence number, HEAD is their digest, and
nothing differs but the event queue, which may have taken LEDGER_WARN or LEDGER_FULL (R573 to R575). -/
def Appended (v u : State) (e : LEntry) : Prop :=
  let a := ledgerAddr v.ledger.next
  let prev := if v.ledger.next = 0 then sha256 (ledgerAnchorBytes v) else v.ledger.head
  let bytes := ledgerBytes e v.ledger.next v.eft.time prev
  u.ledger.next = v.ledger.next + 1 ∧ u.ledger.oldest = v.ledger.oldest ∧ u.ledger.head = sha256 bytes ∧
  u.ledger.chain = v.ledger.chain ∧ mread u.mem a 64 = bytes ∧
  (∀ x, x < a ∨ a + 64 ≤ x → mget u.mem x = mget v.mem x) ∧
  u = { v with ledger := u.ledger, mem := u.mem, ecc.poison := u.ecc.poison, ecc.latent := u.ecc.latent, ecc.rewritten := u.ecc.rewritten,
               mbx := { v.mbx with evqTail := u.mbx.evqTail, evqPhase := u.mbx.evqPhase, evqDrop := u.mbx.evqDrop,
                                   evqSeq := u.mbx.evqSeq, backlog := u.mbx.backlog, drops := u.mbx.drops,
                                   firstDrop := u.mbx.firstDrop },
               host.pba := u.host.pba, host.held := u.host.held, hostOut := u.hostOut }

/-- `t` is `v` with the command's ledger entry appended and its response of status SUCCESS written. -/
def Logged (v t : State) (k : SlotId) (r : Req) (tcid object : Nat) (payload : List Byte) : Prop :=
  ∃ u, Appended v u (cmdEntry k r tcid object) ∧ Answered u t k r 0 payload

/-- A sequencer instruction executes: its agent's sequencer runs, no interrupt is due, and the word at a core's program counter
is this instruction (R282, R286, R296). Swifort's program is not part of the interface, so its rows stand for themselves. -/
abbrev Fetches (s : State) (ag : Agent) (i : Instr) : Prop :=
  agRuns s ag.val = true ∧ (seqOf s ag.val).run = .run ∧ intDue (seqOf s ag.val) = false ∧
    seqDecode ag (if ag.val < 64 then fetchWord (core s ag.val) (seqOf s ag.val).pc else seqEncode i) = some i

/-- Lines that the fetch unit reads with an instruction at `pc` that is no branch or jump (R290). -/
def nextLine (pc : Word) : Nat := if pc.toNat % 32 = 28 then 1 else 0

/-- `t` is `u` with sequencer `q` on the agent. On a core INSTR_RETIRED and FETCH_LINES rise by the two numbers, and a QSYNC
that was complete has left the queues; nothing else differs (R275, R290). -/
def SeqStep (u t : State) (ag : Nat) (q : Seq) (instrs lines : Nat) : Prop :=
  (64 ≤ ag → t = { u with swi := q }) ∧
  (ag < 64 → (∀ d, d ≠ ag → core t d = core u d) ∧
    core t ag = { core u ag with seq := q, queues := (core t ag).queues } ∧
    (barrierDone (core u ag) = false → (core t ag).queues = (core u ag).queues) ∧
    (∀ off, ctr t off = ctr u off + (if off = coreCtr ag 0x000 then BitVec.ofNat 64 instrs
      else if off = coreCtr ag 0x008 then BitVec.ofNat 64 lines else 0)) ∧
    t = { u with cores := t.cores, obs.ctr := t.obs.ctr })

/-- Engine `e` of a core issues the head of its queue, a tile instruction of operation `op`, for the work that runs there (R304). No
gathering buffer holds a line, no word is poisoned or has an error to be found, no reserved load holds stores off, and the sequencer
is not at END, so that the effect is the instruction's own. -/
abbrev Issues (s : State) (c e op : Nat) (ranges : Core → Nat → List Rng) (q : QEnt) (w : Nat) : Prop :=
  domainsUp s = true ∧ issues (core s c) e [op] (ranges (core s c)) = some q ∧ (core s c).work = some w ∧ (core s c).seq.run ≠ .ending ∧
    (∀ d, (core s d).gb = []) ∧ s.ecc.poison = [] ∧ s.ecc.latent = [] ∧ noHold s = true ∧ Canonical s

/-- The state once the head of an engine queue is taken. -/
abbrev Taken (s : State) (c e : Nat) : State := setCore s c (popQueue (core s c) e)

/-- The device address of a window offset of a core (R235). -/
def engineAt (s : State) (c win off : Nat) : Nat := spBase c + winBase (core s c) win * 64 + off

/-- An engine may access `n` bytes at a window offset for a work: inside the window, and permitted at the endpoint (R45, R235). -/
abbrev EngineMay (s : State) (c w win off n : Nat) (write : Bool) : Prop :=
  (winOff (core s c) win off n write).isSome = true ∧ endpoint s (workTcid s w) (engineAt s c win off) n write = .ok

/-- `t` holds `bs` at `a`, and every byte of `s` elsewhere. -/
def Wrote (s t : State) (a : Nat) (bs : List Byte) : Prop :=
  mread t.mem a bs.length = bs ∧ ∀ x, x < a ∨ a + bs.length ≤ x → mget t.mem x = mget s.mem x

/-- A request of one frame arrives in its turn from a source of which no other frame waits (R518, R521). -/
abbrev InTurn (s : State) (h : TxnHdr) : Prop :=
  domainsUp s = true ∧ h.part = 0 ∧ h.last = true ∧ h.eseq = expected s h.src.toNat ∧
    seqAhead h.lowOpen (expected s h.src.toNat) = false ∧ ∀ f ∈ s.fab.reorder, f.h.src ≠ h.src

/-- The state in which a request in its turn is performed. -/
abbrev AtTurn (s : State) (h : TxnHdr) : State :=
  { s with fab := { s.fab with expect := tset s.fab.expect h.src.toNat (h.eseq + 1), partials := s.fab.partials.filter (fun x => !ofTxn h x) } }

/-- The last message that `t` has sent answers the request with these fields (Table 21-3). -/
def Answers (t : State) (h : TxnHdr) (p : Perf) : Prop :=
  ∃ sent, t.fabOut = sent ++ [.response h.src.toNat h.txid p.status p.sat p.nan p.hold p.payload]

end Sys2Proof.Machine
end

