-- ==== Sys2Proof/WellFormed.lean ====
section
/-! DEFINITION. Which commands are well-formed: their operands lie in the ranges that the fields of the manual's tables
have. The meanings answer for the other commands too; the operands are the model's own (log entry 1). -/

namespace Sys2Proof

/-- A TCID, 12 bits (Table 2-2). -/
def isTcid (t : Nat) : Bool := decide (t < 4096)

/-- A 32-bit field. -/
def word32 (x : Nat) : Bool := decide (x < 2 ^ 32)

/-- A 64-bit field. -/
def word64 (x : Nat) : Bool := decide (x < 2 ^ 64)

/-- A unit identifier of Table 7-1: core, pond, tier A stack, tier B channel, fabric port. -/
def unitId (u : Nat) : Bool :=
  (decide (0x1000 ≤ u) && decide (u ≤ 0x103F)) || (decide (0x2000 ≤ u) && decide (u ≤ 0x2007))
    || (decide (0x3000 ≤ u) && decide (u ≤ 0x3003)) || (decide (0x4000 ≤ u) && decide (u ≤ 0x401F))
    || (decide (0x5000 ≤ u) && decide (u ≤ 0x5005))

/-- A line of the array, 0 to 129 (R327). -/
def LineFind.wf : LineFind → Bool
  | .row l => decide (l < 130)
  | .column l => decide (l < 130)
  | .cell r c => decide (r < 130) && decide (c < 130)
  | .checksumLine => true

/-- An index of the logical tile, at most 128 rows, or the 1,024 columns of the widest fold (Table 11-10). -/
def CmpFail.wf : CmpFail → Bool
  | .row m => decide (m < 128)
  | .column n => decide (n < 1024)

/-- A link-state record: 64-bit identifiers and at most six links, each on a port (Table 20-7). -/
def LsrRec.wf (r : LsrRec) : Bool :=
  word64 r.uid && decide (r.links.length ≤ 6)
    && r.links.all (fun l => decide (l.port < 6) && decide (l.nport < 6) && word64 l.nuid)

/-- A request frame's header (Table 21-3). -/
def TxnHdr.wf (h : TxnHdr) : Bool := isTcid h.tcid && decide (h.slot < 8192) && decide (h.part < 128) && decide (1 ≤ h.attempt) && decide (h.attempt ≤ 3)

/-- The operands of a command lie in their fields. -/
def Instr.wf : Instr → Bool
  | .freezeSequenceStep missed => missed.all (fun k => decide (k < 36))
  | .selftestDone failed _ => failed.units.all unitId && failed.banks.all (fun b => decide (b < 2048))
  | .trainingDone failed => failed.all (fun k => decide (k < 36))
  | .bar2Resize g => decide (g ≤ 20)
  | .bar2Access write _ len data _ => decide (0 < len) && (!write || data.length == len)
  | .bar0Write off size _ _ => decide (0 < size) && decide (off + size ≤ 0x1000000)
  | .tenantFreed t => isTcid t
  | .unitRetest _ _ bad => bad.all (fun b => decide (b < 32))
  | .unitHealth u _ => unitId u
  | .unitStatePoll silent => silent.all (fun p => unitId p.1)
  | .lineTestDone _ found _ => found.all LineFind.wf
  | .passCheck _ fails => fails.all CmpFail.wf
  | .tierScrub a _ _ => decide (a ≤ 0x02FFFFFFFFF) || (decide (0x10000000000 ≤ a) && decide (a ≤ 0x1FFFFFFFFFF))
  | .hotrowSent t r rows => isTcid t && word32 r && rows.all (fun p => word32 p.1)
  | .replicaDrop t r => isTcid t && word32 r
  | .codewordReceive _ _ cw => cw.flits.length == 20
  | .hello _ uid heard _ _ _ => word64 uid && word64 heard
  | .lsr _ r => r.wf
  | .lsrAgeExpiry uid => word64 uid
  | .sysTimeRead read => decide (0 < read.size) && decide (read.offset + read.size ≤ 0x1000000)
  | .spScrub _ _ _ finds | .scrubForce _ _ _ finds => finds.all (fun f => decide (f.1 < 64))
  | .spScrubDoze pass => pass.finds.all (fun f => decide (f.1 < 0x100000))
  | .eftTick edge => edge.upsets.all (fun f => decide (f.1 % 8 = 0))
  | .txnForward _ f => decide (0 < f.flits) && decide (f.hops ≤ 15)
  | .txnRead h r off len _ => h.wf && word32 r && word64 off && decide (0 < len)
  | .txnWrite h _ _ _ _ _ off data _ => h.wf && decide (off < 0x800000) && decide (0 < data.length)
  | .txnAadd h t _ addends _ => h.wf && decide (t < 2 ^ 44) && decide (0 < addends.length)
  | .txnPool h r row _ _ _ entries _ => h.wf && word32 r && word64 row && decide (0 < entries.length)
  | .txnClaim h image plan q0 npos _ => h.wf && word32 image && decide (plan < 256) && decide (q0 < 64) && decide (0 < npos) && decide (q0 + npos ≤ 64)
  | .txnReport h _ _ _ => h.wf
  | .txnRelease h => h.wf
  | .txnQuench h => h.wf
  | .txnHotrow h r row _ => h.wf && word32 r && word64 row
  | .txnCredit h _ _ _ _ => h.wf
  | .txnResponse r => decide (r.part < 128)
  | .i2cTransaction _ _ _ len => decide (len ≤ 65536)
  | .powerOn | .perst | .hostCold | .hostWarm | .flr | .hotReset | .eftWatchdog | .inputUndervoltage |
    .thermalTrip | .pinFreeze | .fatalReport _ | .sroRestart | .imageVerifyDone _ | .tierInitFillDone | .ready |
    .recover _ | .trialAbandon | .sleepEntry _ | .wake _ | .wakeDone | .torporEntry | .torporWake |
    .torporWakeDone | .coreDoze _ | .scrubWake | .monitorSample _ _ | .currentWarning | .fmaxStep |
    .clockStep | .powerFloor | .linkL1Request | .powerMgmtState _ | .sysWinBaseWrite _ _ | .sysWinCtlWrite _ _ |
    .sqDoorbell _ _ | .cqHeadWrite _ _ | .mbxDoorbell _ | .mbxDoneClear _ | .mbxEvqBaseWrite _ |
    .mbxEvqCtlWrite _ | .mbxEvqHeadWrite _ | .cmdTimeout _ _ | .croak | .identify _ | .trayStatus _ | .timeSet _ |
    .timeQuery _ | .powerSet _ | .powerQuery _ | .tenantCreate _ | .tenantSet _ | .tenantQuery _ |
    .tenantSuspend _ | .tenantResume _ | .tenantDestroy _ | .commonsAlloc _ | .commonsLoad _ _ | .commonsSeal _ |
    .commonsFree _ | .commonsQuery _ | .regionCreate _ | .regionLoad _ _ | .regionSeal _ | .regionFree _ |
    .regionQuery _ | .imageRegister _ _ _ | .imageUnregister _ | .imageQuery _ | .imageBind _ | .ringConfigure _ |
    .ringDestroy _ | .ringQuery _ | .ringRestart _ | .unitQuery _ | .unitList _ _ | .unitSetAdmin _ |
    .fabricQuery _ | .routesLoad _ _ | .routesAuto _ | .hotrowPolicy _ | .ledgerQuery _ | .ledgerRead _ _ |
    .ledgerAck _ | .ledgerAnchor _ | .traceConfig _ | .counterSnapshot _ _ | .freeze _ | .fwStageBegin _ |
    .fwStageData _ _ | .fwStageEnd _ | .fwActivate _ | .fwCommit _ | .descriptorRead _ _ | .admissionCheck _ _ |
    .zeroFillDone _ | .stagingDone _ _ | .configLoad _ _ | .feedToken _ _ | .deadlineExpiry _ | .quenchAck _ _ |
    .quenchBoundExpiry _ _ | .completionPost _ | .frameRelease _ | .roundAdvance _ | .errorRecord | .add _ _ _ _ |
    .sub _ _ _ _ | .and _ _ _ _ | .or _ _ _ _ | .xor _ _ _ _ | .sll _ _ _ _ | .srl _ _ _ _ | .sra _ _ _ _ |
    .slt _ _ _ _ | .sltu _ _ _ _ | .min _ _ _ _ | .max _ _ _ _ | .minu _ _ _ _ | .maxu _ _ _ _ | .mul _ _ _ _ |
    .mulh _ _ _ _ | .mulhu _ _ _ _ | .div _ _ _ _ | .divu _ _ _ _ | .rem _ _ _ _ | .remu _ _ _ _ | .addi _ _ _ _ |
    .andi _ _ _ _ | .ori _ _ _ _ | .xori _ _ _ _ | .slli _ _ _ _ | .srli _ _ _ _ | .srai _ _ _ _ | .slti _ _ _ _ |
    .sltiu _ _ _ _ | .lui _ _ _ | .auipc _ _ _ | .ld1 _ _ _ _ | .ld2 _ _ _ _ | .ld4 _ _ _ _ | .ld8 _ _ _ _ |
    .ld1u _ _ _ _ | .ld2u _ _ _ _ | .ld4u _ _ _ _ | .loadDataReturn _ _ | .st1 _ _ _ _ | .st2 _ _ _ _ |
    .st4 _ _ _ _ | .st8 _ _ _ _ | .storePerformed _ | .stnt _ _ _ _ | .cbFlushAge _ | .gbFlushAge _ |
    .ldres _ _ _ _ | .stcond _ _ _ _ | .reservationHoldExpiry _ | .br _ _ _ _ _ | .jal _ _ _ | .jalr _ _ _ _ |
    .sync _ | .syncWatchdog _ | .qsync _ | .tiss _ _ _ | .wait _ | .crr _ _ _ | .crw _ _ _ | .eret _ | .brk _ |
    .endSection _ | .pcrr _ _ _ | .pcrw _ _ _ | .seqTimerExpiry _ | .interrupt _ | .wlkNext _ _ _ |
    .wlkRestart _ _ | .chnRelease _ _ | .mma _ | .preload _ | .drainWindow _ | .drainToken _ | .drainFabric _ |
    .vadd _ | .vsub _ | .vmul _ | .vmax _ | .vmin _ | .vcvt _ | .vcmp _ | .vmaskld _ | .vsel _ | .rsum _ | .rmax _ |
    .rmin _ | .topk _ | .combine _ | .aadd _ | .tierAtomicAdd _ _ | .sdmm _ | .dsmm _ | .ssmm _ |
    .quantumCommit _ _ | .quanta _ | .freq _ | .gather _ | .gatherRowArrival _ _ _ | .route _ | .remoteWrite _ _ |
    .creditReturn _ | .refresh _ | .tierFillDone _ |
    .moduleInsert _ _ _ _ | .moduleRemove _ | .trainingStep _ | .trainingTimeout _ | .trainingRetry _ |
    .fecLockLoss _ | .lctl _ _ _ _ _ _ | .lctlTimer _ | .replayTimeout _ | .helloTimer _ | .lsrRefresh | .addrFirm |
    .routeCompute | .routesInstalled | .ageDrop _ | .e2eRetry _ | .creditRefresh _ | .obsTselWrite _ |
    .obsTrcHeadWrite _ | .traceExport | .timebase | .tempUpdate _ _ _ _ _ | .perstDeassertion |
    .linkL1Exit | .sroClkRisingEdge | .duplicateRecordExpiry _ _ | .overcurrentWarningDeassert => true

end Sys2Proof
end

