-- ==== Sys2Proof/Certificates/Slice0/Obligations.lean ====
section
/-! DEFINITION. The statements for the provers, family by family of the command table. -/

open Sys2Proof Sys2Proof.Machine

/-- After POWER_ON, PERST and HOST_COLD tray time is 0, the cause is that of the cause cell when it is written and
else the trigger's, the cell is erased, memory, tenants, rings, jobs, the ledger, cores, counters, power policy and
mailbox hold their Reset values, and the COMMITTED slot, the rollback counter and the chain number are kept. Retired banks
are kept until self-test (R248). A frozen
tray that holds FRZ_N low ignores PERST but for the pin. Rests on 04_startup_and_reset.md R86, R87, R89, R91, R92,
Table 4-2, Table 4-6. -/
def Obligations.ColdResetsClearTheTray : Prop :=
  ∀ s : State,
    let cleared (code : Nat) (t : State) : Prop :=
      t.boot.cause = (match s.eft.causeCell with | .empty => code | .freeze => 8 | .thermalTrip => 7) ∧
      t.boot.status = 0 ∧ t.boot.fwReady = false ∧ t.eft.time = 0 ∧ t.eft.frozen = false ∧ t.eft.causeCell = .empty ∧
      t.mem = [] ∧ t.store = { banks := keptBanks s } ∧ t.rings = [] ∧ t.dsp = {} ∧ t.ledger = {} ∧ t.cores = [] ∧ t.obs = {} ∧
      t.pwr = {} ∧
      t.mbx = {} ∧ t.boot.committed = s.boot.committed ∧ t.boot.rollback = s.boot.rollback ∧
      t.boot.chain = s.boot.chain ∧ t.pending = s.pending
    Completes .powerOn s (cleared 0) ∧
    (s.eft.power = true → (s.eft.frozen && s.eft.frzLow) = false → Completes .perst s (cleared 1)) ∧
    (s.eft.power = true → s.eft.frozen = true → s.eft.frzLow = true →
      exec .perst s = .next { s with eft.perst := true }) ∧
    (linkServes s = true → s.host.d3hot = false → Completes .hostCold s (cleared 2))

/-- After a WARM reset the cause is that of its trigger; tray time, the ledger, the error log, the COMMITTED slot and
the TCID 0x000 reserves of tier memory are kept; tenants, regions, rings, jobs, cores, counters, unit records and
power policy are at their Reset values, and start-up runs again. That TRIAL is cleared is the model's choice (log entry 70).
Rests on 04_startup_and_reset.md R86, R87, R88,
R105, Table 4-2, Table 4-6. -/
def Obligations.WarmResetsKeepTheLedger : Prop :=
  ∀ s : State,
    let warm (code : Nat) (t : State) : Prop :=
      t.boot.cause = code ∧ t.boot.status = 0 ∧ t.boot.fwReady = false ∧ t.boot.trial = none ∧
      t.boot.todo.head? = some .verify ∧ t.boot.committed = s.boot.committed ∧ t.eft.time = s.eft.time ∧
      t.ledger = s.ledger ∧ t.errs.log = s.errs.log ∧ t.mem = s.mem.filter (fun c => inReserve c.1) ∧
      t.store.tenants = [] ∧ t.store.regions = [] ∧ t.store.commons = [] ∧ t.rings = [] ∧ t.dsp = {} ∧ t.cores = [] ∧
      t.obs = {} ∧ t.errs.units = [] ∧ t.pwr = {} ∧ t.mbx = {} ∧ t.pending = s.pending
    (linkServes s = true → s.host.d3hot = false → Completes .hostWarm s (warm 5)) ∧
    (alive s = true → Completes .flr s (warm 3) ∧ Completes .hotReset s (warm 4)) ∧
    (alive s = true → s.pwr.power ≠ .torpor → s.boot.gap = none → Completes .eftWatchdog s (warm 6))

/-- Below 10.8 V the tray is off: memory, cores, tenants and ledger are lost, the cause cell is kept. A thermal trip
sets the trip latch, puts tier memory into self-refresh, drops the host link, writes THERMAL_TRIP into an empty
cause cell and keeps a written one, and stops every other domain, MGT's with them. Rests on 27_electrical_and_mechanical.md R619,
03_clocks_power_and_sleep.md R82, 04_startup_and_reset.md R90. -/
def Obligations.PowerLossAndTrip : Prop :=
  ∀ s : State,
    Completes .inputUndervoltage s (fun t => t.eft.power = false ∧ t.eft.causeCell = s.eft.causeCell ∧ t.mem = [] ∧
      t.cores = [] ∧ t.store = { banks := keptBanks s } ∧ t.ledger = {} ∧ t.eft.frozen = false ∧ t.boot.rollback = s.boot.rollback) ∧
    (s.eft.power = true → s.eft.tripped = false →
      Completes .thermalTrip s (fun t => t.eft.tripped = true ∧ t.pwr.selfRefresh = true ∧ t.host.up = false ∧
        t.eft.causeCell = (if s.eft.causeCell = .empty then .thermalTrip else s.eft.causeCell) ∧
        t = { s with eft.tripped := true, eft.causeCell := t.eft.causeCell, pwr.selfRefresh := true, pwr.mgtMhz := 0, host.up := false }))

/-- At the verification step of a cold or warm start-up the image of the COMMITTED slot is booted when it passes
R98; else the image of the other slot, and the failed version is kept for FW_REVERTED; else SYS_BOOT.STATUS is
NO_VALID_IMAGE, window 0 maps the recovery buffer and its banks are ON. In recovery a write of 1 to RECOVER boots the
image in the recovery buffer when it passes verification, and changes nothing otherwise. Nothing else but the boot
record, Swifort's sequencer, MGT's rate, window 0 and the buffer's banks changes. Rests on 04_startup_and_reset.md R99,
R100. -/
def Obligations.BootRomChoosesTheImage : Prop :=
  ∀ (s : State) (flash : FlashSlots),
    let first := s.boot.committed
    let b1 := slotOf s first (if first then flash.slotB else flash.slotA)
    let b2 := slotOf s (!first) (if first then flash.slotA else flash.slotB)
    (alive s = true → s.boot.todo.head? = some .verify → s.boot.status = 0 → s.boot.kind ≠ .fwActivate →
      Completes (.imageVerifyDone flash) s (fun t =>
        (if verifyImage b1 s.boot.rollback = .ok then
          t.boot.fwver = imgVersion b1 ∧ t.boot.runFrom = (if first then .slotB else .slotA) ∧ t.boot.status = 0 ∧
            t.swi.run = .run ∧ t.pwr.mgtMhz = 500 ∧ BootStep.verify ∉ t.boot.todo
        else if verifyImage b2 s.boot.rollback = .ok then
          t.boot.fwver = imgVersion b2 ∧ t.boot.runFrom = (if first then .slotA else .slotB) ∧ t.pwr.mgtMhz = 500 ∧
            t.boot.revertOf = some (imgVersion b1) ∧ t.boot.status = 0 ∧ t.swi.run = .run ∧ BootStep.verify ∉ t.boot.todo
        else t.boot.status = 2 ∧ t.boot.todo = s.boot.todo ∧
          tgetD t.host.wins 0 {} = { base := 0x80000000000, enable := true, tcid := 0 } ∧
          (∀ b, b < 128 → b % 32 ≠ 31 → (bank t b).power = .on)) ∧
        t = { s with boot := t.boot, swi := t.swi, host.wins := t.host.wins, pwr.mgtMhz := t.pwr.mgtMhz,
                     store.banks := t.store.banks })) ∧
    (linkServes s = true → s.host.d3hot = false → s.boot.status = 2 →
      let b := memRead s 0x80000000000 (min (512 + imgLength (memRead s 0x80000000000 512)) 0x2000000)
      Completes (.recover 0x100) s (fun t =>
        if verifyImage b s.boot.rollback = .ok then
          t.boot.fwver = imgVersion b ∧ t.boot.runFrom = .recovery ∧ t.boot.status = 0 ∧ t.swi.run = .run ∧
            t = { s with boot := t.boot, swi := t.swi, host.wins := t.host.wins, pwr.mgtMhz := 500, store.banks := t.store.banks }
        else t = s))

/-- A self-test without failures leaves every unit ONLINE and GOOD with GEN 0 and no bank retired; training without failures
saves the trained values and a failed one is TRAINING_FATAL; the zero-fill of a cold start leaves memory zero and without
poison. Each removes its own step from start-up. An abandoned trial clears TRIAL, marks the gap as reverted and runs
from the COMMITTED slot when that slot passes verification; when it does not, nothing runs (log entry 77). Rests on
04_startup_and_reset.md R92, R101, R102, R103, R110, Table 4-6, 09_cores_and_scratchpad.md R248. -/
def Obligations.StartUpSteps : Prop :=
  ∀ s : State, alive s = true →
    (∀ rest, s.boot.todo = .selftest :: rest → s.boot.status = 0 →
      Completes (.selftestDone { units := [], banks := [] } []) s (fun t =>
        (∀ u, unitRec t u = { admin := .online, health := .good, gen := 0 }) ∧ (∀ b, (bank t b).retired = false) ∧
        t.boot.todo = rest ∧ t.boot.status = 0 ∧ t.mem = s.mem ∧ t.cores = s.cores ∧
        t.store = { s.store with banks := t.store.banks })) ∧
    (∀ rest failed, s.boot.todo = .training :: rest → s.boot.status = 0 →
      Completes (.trainingDone failed) s (fun t => t.boot.todo = rest ∧
        (if failed = [] then t.boot.trainedSaved = true ∧ t.boot.status = 0 else t.boot.status = 4) ∧
        t = { s with boot := t.boot })) ∧
    (∀ rest, s.boot.todo = .fill :: rest → s.boot.status = 0 → s.boot.kind = .cold →
      Completes .tierInitFillDone s (fun t => t.boot.todo = rest ∧ t.mem = [] ∧ t.ecc.poison = [] ∧
        t = { s with boot.todo := rest, mem := [], ecc.poison := [], ecc.latent := [] })) ∧
    (∀ g, s.boot.gap = some g → g.restarted = true → g.reverted = false →
      Completes .trialAbandon s (fun t => t.boot.trial = none ∧ t.boot.gap = some { g with reverted := true } ∧
        (if verifyImage (slotOf s s.boot.committed []) s.boot.rollback = .ok then
           t.boot.todo = [] ∧ t.boot.runFrom = (if s.boot.committed then .slotB else .slotA) ∧ t.pwr.mgtMhz = 500 ∧
             t.boot.fwver = imgVersion (slotOf s s.boot.committed []) ∧ t.swi.run = .run
         else t.boot.runFrom = .none ∧ t.swi.run = .idle) ∧
        t = { s with boot := t.boot, swi := t.swi, pwr.mgtMhz := t.pwr.mgtMhz }))

/-- The ready event after a cold start sets FW_READY and STATUS OK, raises vector 1 when MSI-X is enabled (its message goes
out when it is unmasked), uses one event sequence number for READY (two when an image failed) and appends the first
entry of a new chain whose number is one more than before. After a warm reset the chain goes on with one entry more
when the ledger is not full. ROUTED stays as it is, and a tray without a cable is ROUTED and claims its node address first
(log entry 46).
Cores, tenants, rings and jobs are unchanged. Rests on 04_startup_and_reset.md R94, R95. -/
def Obligations.ReadyOpensTheChain : Prop :=
  ∀ s : State, alive s = true → s.boot.todo = [] → s.boot.runFrom ≠ .none → s.boot.gap = none → s.boot.fwReady = false →
    s.boot.status = 0 →
    Completes .ready s (fun t =>
      let u := claimAlone { s with boot.routed := s.boot.routed || uncabled s }
      t.boot.fwReady = true ∧ t.boot.status = 1 ∧ t.boot.routed = (s.boot.routed || uncabled s) ∧
      (s.boot.kind = .cold → t.mbx.evqSeq = u.mbx.evqSeq + (if s.boot.revertOf = none then 1 else 2) ∧ t.ledger.next = 1 ∧
        t.ledger.oldest = 0 ∧ t.ledger.chain = s.boot.chain + 1 ∧ t.boot.chain = s.boot.chain + 1) ∧
      (s.boot.kind ≠ .cold → s.ledger.next ≠ 0 → ledgerFull s = false →
        t.ledger.next = s.ledger.next + 1 ∧ t.ledger.chain = s.ledger.chain) ∧
      (s.host.msixEnable = true → s.host.msixFuncMask = false → (msixEntry s 1).getLsbD 96 = false → s.host.d3hot = false →
        vectorMsg s 1 ∈ t.hostOut) ∧
      (uncabled s = true → s.fab.addr = .none → s.fab.lsdb = [] → t.fab.addr = .tentative) ∧
      t = { u with boot := t.boot, ledger := t.ledger, mem := t.mem, ecc := t.ecc, mbx := t.mbx, host := t.host, hostOut := t.hostOut,
                   obs := t.obs })

/-- A tick of a running Eft island adds 320 to tray time modulo 2^64, 320 + D when a step is pending, and 320 less at most
8 ns of the slew still to absorb otherwise; the tick count rises by one and FRZ_N is sampled; a thermal trip does not stop it.
On a frozen tray tray time stands. Nothing outside the Eft island and the idle, SLEEP and scrub counts changes, but that
errors may have come to lie in memory words (log entry 39). Rests on 03_clocks_power_and_sleep.md R60, R61, R62, R82,
26_freeze_and_readout.md R600, R604. -/
def Obligations.EftTickAdvancesTrayTime : Prop :=
  ∀ (s : State) (edge : EftEdge), s.eft.power = true →
    (s.eft.frozen = false →
      Completes (.eftTick edge) s (fun t =>
        t.eft.time = (s.eft.time + (if s.eft.stepAdd ≠ 0 then 320 + s.eft.stepAdd else 320 - min 8 s.eft.slew)) % 2 ^ 64 ∧
        (s.eft.stepAdd = 0 → t.eft.slew = s.eft.slew - min 8 s.eft.slew) ∧
        t.eft.stepAdd = 0 ∧ t.eft.tick = s.eft.tick + 1 ∧ t.eft.frzLow = edge.frzLow ∧ t.eft.frzLowPrev = s.eft.frzLow ∧
        (s.eft.tripped = false → t.pwr.sleepTicks = (if s.pwr.power = .sleep then s.pwr.sleepTicks + 1 else 0)) ∧
        (edge.upsets = [] → t.ecc = s.ecc) ∧
        t = { s with eft := t.eft, pwr.idleTicks := t.pwr.idleTicks, pwr.sleepTicks := t.pwr.sleepTicks,
                     pwr.scrubTicks := t.pwr.scrubTicks, ecc.latent := t.ecc.latent })) ∧
    (s.eft.frozen = true →
      Completes (.eftTick edge) s (fun t => t.eft.time = s.eft.time ∧ t.eft.frzLow = edge.frzLow ∧
        t = { s with eft := t.eft, ecc.latent := t.ecc.latent }))

/-- After a sample, a current warning or a CORE_FMAX step the CORE frequency is the lowest of CORE_FMAX as far as it
has taken effect and every ceiling, and NOC is either unchanged with it or 4/3 of it rounded up to 25 MHz and at
least 400. A monitor samples at the points of its grid, and a reading between them changes nothing. Only the sampled monitor's
ceiling moves: THERMAL_HARD at 105 °C goes to 100 MHz, the first THERMAL sample at 95 °C and every PKG_FAST and TRAY_INPUT
sample above the limit takes one step of 25 MHz, never below 100. The next step of a lowered CORE_FMAX comes 10 µs, 32 ticks,
after the last. Rests on 03_clocks_power_and_sleep.md R58, R62, R78, R79, R80, R81, R85, R640, Table 3-8. -/
def Obligations.MonitorsSetTheClock : Prop :=
  ∀ s : State, alive s = true →
    let follows (t : State) : Prop := t.pwr.coreMhz = coreTarget t ∧
      (t.pwr.coreMhz = s.pwr.coreMhz ∧ t.pwr.nocMhz = s.pwr.nocMhz ∨
        t.pwr.nocMhz = max 400 ((4 * t.pwr.coreMhz + 74) / 75 * 25)) ∧
      t = { s with pwr := t.pwr, obs := t.obs }
    (∀ m x, gridPoint s m = none → exec (.monitorSample m x) s = .next s) ∧
    (monitorsRun s = true →
      (∀ m x, gridPoint s m ≠ none → Completes (.monitorSample m x) s (fun t => follows t ∧
        (∀ k, k ≠ monIdx m → (mon t k).ceil = (mon s k).ceil) ∧
        (m = .thermalHard → 1050 ≤ x → (mon t 1).ceil = 100) ∧
        (m = .thermal → 950 ≤ x → (mon s 0).run = none → (mon t 0).ceil = max 100 ((mon s 0).ceil - 25)) ∧
        (m = .pkgFast → 175000 < x → (mon t 2).ceil = max 100 ((mon s 2).ceil - 25)) ∧
        (m = .trayInput → 185000 < x → (mon t 5).ceil = max 100 ((mon s 5).ceil - 25)))) ∧
      Completes .currentWarning s (fun t => follows t ∧ t.pwr.overcurrent = true ∧
        (mon t 6).ceil = max 100 ((mon s 6).ceil - 25) ∧ (mon t 6).triggered = true) ∧
      (s.pwr.overcurrent = true →
        Completes .overcurrentWarningDeassert s (fun t => t.pwr.overcurrent = false ∧ (mon t 6).triggered = false ∧
          (mon t 6).below = some 0 ∧ (mon t 6).ceil = (mon s 6).ceil ∧ t = { s with pwr := t.pwr }))) ∧
    (s.pwr.coreFmax < s.pwr.fmaxNow → s.pwr.fmaxTick + 32 ≤ s.eft.tick →
      Completes .fmaxStep s (fun t => follows t ∧ t.pwr.fmaxNow = max s.pwr.coreFmax (s.pwr.fmaxNow - 25)))

/-- Outside an activation gap the close of a window whose 1 ms is over uses one event sequence number and leaves no window, and
before that nothing changes. At 100 MHz with a power or current monitor triggered for 10 ms admission is held with that mask;
when every power reading is below 95% of its limit it is released. Each posts one event; only power state, the mailbox and
messages to the host change. Rests on 03_clocks_power_and_sleep.md R62, R80, R81, 06_mailboxes.md R153. -/
def Obligations.ClockStepAndPowerFloor : Prop :=
  ∀ s : State,
    let posted (t : State) : Prop := t.mbx.evqSeq = s.mbx.evqSeq + 1 ∧
      t = { s with pwr := t.pwr, mbx := t.mbx, host := t.host, hostOut := t.hostOut }
    (∀ w, alive s = true → s.boot.gap = none → s.pwr.win = some w → s.pwr.closedWins = [] →
      (w.opened + 3125 ≤ s.eft.tick →
        Completes .clockStep s (fun t => t.pwr.win = none ∧ t.pwr.coreMhz = s.pwr.coreMhz ∧ posted t)) ∧
      (s.eft.tick < w.opened + 3125 → exec .clockStep s = .next s)) ∧
    (fwUp s = true → s.pwr.admitHold = false → s.pwr.coreMhz = 100 → powerMask s ≠ 0 →
      Completes .powerFloor s (fun t => t.pwr.admitHold = true ∧ t.pwr.holdMask = powerMask s ∧ posted t)) ∧
    (fwUp s = true → s.pwr.admitHold = true → powerReleased s = true →
      Completes .powerFloor s (fun t => t.pwr.admitHold = false ∧ posted t))

/-- A whole SLEEP entry closes admission, puts tier memory into self-refresh, sets each bank to RETAIN when it is
tagged or a configuration region and to OFF otherwise, ends DOZE, and keeps jobs, tenants and all memory but the banks that go
OFF, which lose theirs. A wake event in SLEEP starts the wake, in an entry before the point of no return undoes it; ten minutes
in SLEEP raise a scrub wake. The end of a wake releases the dispatcher with retained banks ON and MGT at 500 MHz. Rests on
03_clocks_power_and_sleep.md R63, R66, R67, R68, R74, R75, R76, Table 3-6. -/
def Obligations.SleepEntryAndWake : Prop :=
  ∀ s : State,
    (fwUp s = true → s.pwr.power = .active → sleepDue s = true →
      Completes (.sleepEntry 5) s (fun t => t.pwr.power = .sleep ∧ t.dsp.closed = true ∧ t.pwr.selfRefresh = true ∧
        (∀ b, b < 2048 → (bank t b).power = (if (bank s b).owner ≠ 0 ∨ b % 32 = 31 then .retain else .off) ∧
          (bank t b).owner = (bank s b).owner) ∧
        (∀ a, mget t.mem a =
          if inSp a = true ∧ (bank s (spBank a)).owner = 0 ∧ spBank a % 32 ≠ 31 then 0 else mget s.mem a) ∧
        (∀ c, core t c = { core s c with doze := false }) ∧ t.eft = s.eft ∧ t.dsp.jobs = s.dsp.jobs ∧
        t.store.tenants = s.store.tenants ∧ t.ledger = s.ledger)) ∧
    (∀ cause, alive s = true → wakeDue s cause = true →
      (s.pwr.power = .sleep → exec (.wake cause) s = .next { s with pwr.power := .waking }) ∧
      (∀ k, s.pwr.power = .entering k → k < 4 →
        Completes (.wake cause) s (fun t => t.pwr.power = .active ∧ t.dsp.closed = false ∧ t.pwr.selfRefresh = false ∧
          t.mem = s.mem ∧ t.cores = s.cores ∧ t.ledger = s.ledger))) ∧
    (alive s = true → s.pwr.power = .waking → s.host.parked = [] →
      Completes .wakeDone s (fun t => t.pwr.power = .active ∧ t.dsp.closed = false ∧ t.pwr.selfRefresh = false ∧
        t.pwr.mgtMhz = 500 ∧
        (∀ b, b < 2048 → (bank t b).power = (if (bank s b).power = .retain then .on else (bank s b).power)) ∧
        (∀ c, core t c = { core s c with doze := false }) ∧ t.mem = s.mem ∧ t.ledger = s.ledger ∧
        t.dsp.jobs = s.dsp.jobs)) ∧
    (alive s = true → s.pwr.power = .sleep → 600000000000 ≤ s.pwr.scrubTicks * 320 →
      Completes .scrubWake s (fun t => t.pwr.power = .waking ∧ t.pwr.scrubWake = true ∧ ctr t 0x180 = ctr s 0x180 + 1 ∧
        t = { s with pwr := t.pwr, obs.ctr := t.obs.ctr }))

/-- Under the conditions of R69 the entry drops all scratchpad and tier A copies and replicas and the sections of the
configuration regions, turns every bank OFF, keeps tier B and the saved tier A reserve, and requests L1. The link's exit from
L1 starts the resume, and a doorbell written in TORPOR does so and is then taken as it would be there. At its end, with the
running image's slot as it was, the tray is ACTIVE with tenants, regions, jobs and the ledger as before and every configuration
region ON. Rests on 03_clocks_power_and_sleep.md R69, R70, R71, R72, R73, R75. -/
def Obligations.TorporEntryAndResume : Prop :=
  ∀ s : State,
    (fwUp s = true → torporDue s = true →
      Completes .torporEntry s (fun t => t.pwr.power = .torpor ∧ t.pwr.mgtMhz = 0 ∧ t.host.l1 = true ∧ t.boot.routed = false ∧
        t.store.spCopies = [] ∧ t.store.replicas = [] ∧ t.store.regions.all (fun p => p.2.copy.isNone) = true ∧
        (∀ c, (core t c).bank31 = []) ∧
        (∀ b, b < 2048 → (bank t b).power = .off) ∧ t.store.tenants = s.store.tenants ∧
        t.store.commons = s.store.commons ∧ t.dsp.jobs = s.dsp.jobs)) ∧
    (alive s = true → s.pwr.power = .torpor →
      exec .torporWake s = .next { s with pwr.power := .resuming 0, host.l1 := false } ∧
      (∀ r v, exec (.sqDoorbell r v) s = exec (.sqDoorbell r v) { s with pwr.power := .resuming 0, host.l1 := false })) ∧
    (∀ k, alive s = true → s.pwr.power = .resuming k → resumeImage s = true → s.host.parked = [] → s.mbx.latched = [] →
      Completes .torporWakeDone s (fun t => t.pwr.power = .active ∧ t.pwr.selfRefresh = false ∧ t.dsp.closed = false ∧
        t.pwr.mgtMhz = 500 ∧ (∀ b, b < 2048 → b % 32 = 31 → (bank s b).retired = false → (bank t b).power = .on) ∧
        t.dsp.jobs = s.dsp.jobs ∧ t.store.tenants = s.store.tenants ∧ t.store.regions = s.store.regions ∧
        t.ledger = s.ledger ∧ t.boot = s.boot))

/-- In SLEEP with ASPM L1 enabled the link goes to L1; its exit brings it to L0; D3hot is entered, and the return to
D0 sends every waiting message in order; ASPM Control is taken; enabling MSI-X with vectors unmasked sends each pending message
and keeps none but those of masked entries; Interrupt Pin reads 0x00, and Device ID 0x0400; the release of PERST# on a running
tray brings the link up; running firmware raises the croak counter by one. Nothing else changes. That configuration accesses
share the row POWER_MGMT_STATE is the model's choice (log entry 72). Rests on 05_host_link_and_registers.md R113, R115, R116,
R136, 04_startup_and_reset.md R93, 03_clocks_power_and_sleep.md R67, 06_mailboxes.md R151. -/
def Obligations.HostLinkStates : Prop :=
  ∀ s : State, alive s = true →
    (s.pwr.power = .sleep → s.host.aspmL1 = true → exec .linkL1Request s = .next { s with host.l1 := true }) ∧
    (s.pwr.power ≠ .torpor → exec .linkL1Exit s = .next { s with host.l1 := false }) ∧
    exec (.powerMgmtState (.power true)) s = .next { linkExit s with host.d3hot := true } ∧
    exec (.powerMgmtState (.power false)) s =
      .next { linkExit s with host.d3hot := false, host.held := [], hostOut := s.hostOut ++ s.host.held } ∧
    (∀ on, exec (.powerMgmtState (.aspm on)) s = .next { linkExit s with host.aspmL1 := on }) ∧
    (s.host.d3hot = false → Completes (.powerMgmtState (.msix true false)) s (fun t =>
      t.host.msixEnable = true ∧ t.host.msixFuncMask = false ∧
      t.host.pba = s.host.pba.filter (fun v => (msixEntry s v).getLsbD 96) ∧
      t.hostOut = s.hostOut ++ (s.host.pba.filter (fun v => !(msixEntry s v).getLsbD 96)).map (vectorMsg s) ∧
      t = { linkExit s with host.msixEnable := true, host.msixFuncMask := false, host.pba := t.host.pba, hostOut := t.hostOut })) ∧
    (exec (.powerMgmtState (.read .interruptPin)) s = .next { linkExit s with hostOut := s.hostOut ++ [OutMsg.config 0] } ∧
      exec (.powerMgmtState (.read .deviceId)) s = .next { linkExit s with hostOut := s.hostOut ++ [OutMsg.config 0x0400] }) ∧
    exec .perstDeassertion s = .next { s with eft.perst := false, host.up := true, host.l1 := false } ∧
    (swiRuns s = true → exec .croak s = .next { s with eft.croak := (s.eft.croak + 1) % 2 ^ 64 })

/-- After the ready event a BAR0 write of a wrong size or alignment sets the invalid-write flag of the addressed
block and changes nothing else; a write to a reserved range sets INVWR_SYS; a poisoned write is discarded and reported by AER;
SYS_ERR clears the bits written as one; the bytes of a mailbox slot that belongs to the host are stored and those of
any other slot set INVWR_MBX. Rests on 05_host_link_and_registers.md R118, R119, R120, R121, R130, Table 5-6, 00_scope.md R12,
06_mailboxes.md R138, R143. -/
def Obligations.Bar0WritesByBlock : Prop :=
  ∀ (s : State) (v : Word), barServes s = true → ready s = true →
    (∀ off size, Completes (.bar0Write off size v true) s (fun t => .poisoned ∈ t.host.cfg.aerStatus ∧
      t = { s with host.cfg.aerStatus := t.host.cfg.aerStatus, hostOut := t.hostOut })) ∧
    (∀ off size, sizeAligned off size = false →
      exec (.bar0Write off size v false) s =
        .next { s with host.sysErr := s.host.sysErr ||| (1#6 <<< blockFlag (blockOf off)) }) ∧
    (∀ off size, sizeAligned off size = true →
      (0x20000 ≤ off ∧ off < 0x100000 ∨ 0x200000 ≤ off ∧ off < 0x400000 ∨ 0x800000 ≤ off) →
      exec (.bar0Write off size v false) s = .next { s with host.sysErr := s.host.sysErr ||| 1#6 }) ∧
    exec (.bar0Write 0x40 4 v false) s =
      .next { s with host.sysErr := s.host.sysErr &&& ~~~(BitVec.ofNat 6 v.toNat) } ∧
    (∀ k, k < 32 → ∀ o, o < 0x100 → o % 8 = 0 →
      Completes (.bar0Write (0x10000 + 0x100 * k + o) 8 v false) s (fun t =>
        if slotIsHost s k = true then
          tget t.mbx.slots k = some (patch (slotBytes s k) o (leBytes 8 v.toNat)) ∧
            t = { s with mbx.slots := t.mbx.slots }
        else t = { s with host.sysErr := s.host.sysErr ||| (1#6 <<< 1) }))

/-- A base that is a multiple of the window size and ends at or below 0xEFF_FFFF_FFFF is taken by a disabled window
and refused otherwise, a 4-byte write giving one half of it; a control write with a TCID from 0x001 to 0xFFE sets ENABLE and
TCID; a resize disables every window and clears its base. In an ACTIVE tray, with no access waiting and no reserved load's hold:
a read through a disabled window returns zeros, one refused by the endpoint check returns zeros and sets BAR2_TAG, one at a hole
sets BAR2_HOLE, and neither changes memory. A permitted read answers the bytes of memory after the gathering buffers that
hold some of them are flushed; a permitted write stores its bytes, and a refused one none. A completion carries the attributes
of its request. Rests on 05_host_link_and_registers.md R114, R121, R125, R126, R127, R128, Table 5-6,
09_cores_and_scratchpad.md R232, 02_tenants_and_commons.md R45, R46, 10_memory_ordering.md R270. -/
def Obligations.Bar2WindowsAndResize : Prop :=
  ∀ s : State, barServes s = true →
    (∀ (n : Fin 4) (v : PartWrite),
      let old := (win s n.val).base
      let x := match v.half with
        | none => v.value.toNat
        | some false => old / 2 ^ 32 * 2 ^ 32 + v.value.toNat % 2 ^ 32
        | some true => v.value.toNat % 2 ^ 32 * 2 ^ 32 + old % 2 ^ 32
      Completes (.sysWinBaseWrite n v) s (fun t =>
        if x % (s.host.bar2GiB * 0x10000000) = 0 ∧ x + s.host.bar2GiB * 0x10000000 ≤ 0xF0000000000 ∧
            (win s n.val).enable = false then
          (win t n.val).base = x ∧ (win t n.val).tcid = (win s n.val).tcid ∧ t = { s with host.wins := t.host.wins }
        else t = { s with host.sysErr := s.host.sysErr ||| 1#6 })) ∧
    (∀ (n : Fin 4) (v : W32), bits v.toNat 16 12 ≠ 0 → bits v.toNat 16 12 ≠ 0xFFF →
      Completes (.sysWinCtlWrite n v) s (fun t => (win t n.val).enable = v.getLsbD 0 ∧
        (win t n.val).tcid = bits v.toNat 16 12 ∧ (win t n.val).base = (win s n.val).base ∧
        t = { s with host.wins := t.host.wins })) ∧
    (∀ g, 2 ≤ g → g ≤ 8 →
      Completes (.bar2Resize g) s (fun t => t.host.bar2GiB = 2 ^ g ∧ (∀ n, (win t n).enable = false ∧ (win t n).base = 0) ∧
        t = { s with host.bar2GiB := 2 ^ g, host.wins := t.host.wins })) ∧
    (∀ off len p attr, 0 < len → ready s = true → s.pwr.power = .active → s.host.parked = [] → noHold s = true →
      let n := off / (s.host.bar2GiB * 0x10000000)
      let w := win s n
      let a := w.base + (off - n * (s.host.bar2GiB * 0x10000000))
      let u := flushGb s a len
      let clean := poisonedIn u a len = [] ∧ u.ecc.latent = []
      Completes (.bar2Access false off len [] { poisoned := p, attr := attr }) s (fun t =>
        (w.enable = false → t = { s with hostOut := s.hostOut ++ [OutMsg.read (zeros len) attr] }) ∧
        (w.enable = true → endpoint s w.tcid a len false = .hole →
          t = { s with hostOut := s.hostOut ++ [OutMsg.read (zeros len) attr], host.sysErr := s.host.sysErr ||| (1#6 <<< 4) }) ∧
        (∀ o, w.enable = true → endpoint s w.tcid a len false = .refused o →
          t = { s with hostOut := s.hostOut ++ [OutMsg.read (zeros len) attr], host.sysErr := s.host.sysErr ||| (1#6 <<< 5) }) ∧
        (w.enable = true → endpoint s w.tcid a len false = .ok → clean →
          t = { u with hostOut := u.hostOut ++ [OutMsg.read (memRead u a len) attr] })) ∧
      (∀ data : List Byte, data.length = len →
        Completes (.bar2Access true off len data { poisoned := false, attr := attr }) s (fun t =>
          (w.enable = false → t = s) ∧
          (∀ o, w.enable = true → endpoint s w.tcid a len true = .refused o →
            t = { s with host.sysErr := s.host.sysErr ||| (1#6 <<< 5) }) ∧
          (w.enable = true → endpoint s w.tcid a len true = .ok → clean → t.mem = mwrite u.mem a data))))

/-- A 4-byte read of the low half of SYS_TIME latches the high half, and the next read of that returns it; a BAR0 read of a
wrong size or alignment returns zeros. MBX_EVQ_BASE takes a multiple of 4 KiB while the queue is disabled, a 4-byte write
giving one half, and sets INVWR_MBX otherwise; ENABLE cleared stops the queue; a new start sets ENABLE and, with no backlog
and no drops, TAIL 0 and PHASE 1; HEAD is taken modulo 4,096; OBS_TSEL takes 12 bits; OBS_TRC_HEAD takes a value below
2^LOG2. That every BAR0 read shares the row SYS_TIME_READ is the model's choice (log entry 76). Rests on
05_host_link_and_registers.md R114, R121, R123, 06_mailboxes.md R139, R155, 25_observation.md R585, R599. -/
def Obligations.HostRegisterWrites : Prop :=
  ∀ s : State, barServes s = true → ready s = true →
    (∀ attr, exec (.sysTimeRead { offset := 0x30, size := 4, attr := attr }) s =
        .next { s with host.timeHi := BitVec.ofNat 32 (s.eft.time / 2 ^ 32),
                       hostOut := s.hostOut ++ [OutMsg.read (leBytes 4 s.eft.time) attr] }) ∧
    (∀ attr, exec (.sysTimeRead { offset := 0x34, size := 4, attr := attr }) s =
        .next { s with hostOut := s.hostOut ++ [OutMsg.read (leBytes 4 s.host.timeHi.toNat) attr] }) ∧
    (∀ off size attr, sizeAligned off size = false → off / 8 ≠ 1 →
      exec (.sysTimeRead { offset := off, size := size, attr := attr }) s =
        .next { s with hostOut := s.hostOut ++ [OutMsg.read (zeros size) attr] }) ∧
    (∀ v : PartWrite,
      let x := match v.half with
        | none => v.value.toNat
        | some false => s.mbx.evqBase / 2 ^ 32 * 2 ^ 32 + v.value.toNat % 2 ^ 32
        | some true => v.value.toNat % 2 ^ 32 * 2 ^ 32 + s.mbx.evqBase % 2 ^ 32
      Completes (.mbxEvqBaseWrite v) s (fun t =>
        if x % 4096 = 0 ∧ s.mbx.evqEnable = false then t = { s with mbx.evqBase := x }
        else t = { s with host.sysErr := s.host.sysErr ||| (1#6 <<< 1) })) ∧
    exec (.mbxEvqCtlWrite 0) s = .next { s with mbx.evqEnable := false } ∧
    (s.mbx.evqEnable = false → s.mbx.backlog = [] → s.mbx.drops = 0 →
      exec (.mbxEvqCtlWrite 1) s = .next { s with mbx.evqEnable := true, mbx.evqTail := 0, mbx.evqPhase := true }) ∧
    (∀ v : W32, s.mbx.backlog = [] → s.mbx.drops = 0 →
      exec (.mbxEvqHeadWrite v) s = .next { s with mbx.evqHead := v.toNat % 4096 }) ∧
    (∀ v : Word, exec (.obsTselWrite v) s = .next { s with obs.tsel := v.toNat % 4096 }) ∧
    (∀ v : Word, Completes (.obsTrcHeadWrite v) s (fun t =>
      if v.toNat % 2 ^ 20 < 2 ^ s.obs.log2 then t = { s with obs.trcHead := v.toNat % 2 ^ 20 }
      else t = { s with host.sysErr := s.host.sysErr ||| (1#6 <<< 3) }))

/-- A write of MBX_EVQ_HEAD that makes room for the one record of the backlog writes its 32 bytes at BASE + 32 TAIL
with the current PHASE, moves TAIL on by one modulo 4,096, inverts PHASE at the wrap, empties the backlog, and
changes neither memory nor any other part of the tray. Rests on 06_mailboxes.md R152, R154, R155. -/
def Obligations.EventQueueDrainsInOrder : Prop :=
  ∀ (s : State) (v : W32) (e : EvRec), barServes s = true → ready s = true → s.mbx.backlog = [e] → s.mbx.drops = 0 →
    s.mbx.evqEnable = true → s.mbx.evqTail < 4096 → (s.mbx.evqTail + 1) % 4096 ≠ v.toNat % 4096 →
    Completes (.mbxEvqHeadWrite v) s (fun t =>
      t.mbx.backlog = [] ∧ t.mbx.evqHead = v.toNat % 4096 ∧ t.mbx.evqTail = (s.mbx.evqTail + 1) % 4096 ∧
      t.mbx.evqPhase = (if s.mbx.evqTail = 4095 then !s.mbx.evqPhase else s.mbx.evqPhase) ∧
      (∃ more, t.hostOut = s.hostOut ++
          [OutMsg.write (s.mbx.evqBase + 32 * s.mbx.evqTail) (evBytes e s.mbx.evqPhase)] ++ more ∧
        (more = [] ∨ more = [vectorMsg s 1])) ∧
      t = { s with mbx := t.mbx, host := t.host, hostOut := t.hostOut })

/-- A tail or head not below the ring's entry count, and any write to the page of a ring that is not configured or that a destroy
has closed, is discarded and sets INVWR_DB; the value the field already holds changes nothing; any other tail is taken, stamped with the EFT
tick while fewer than 64 stamps are pending, and any other head frees the completion slots up to it. Formalises
R131. -/
def Obligations.RingDoorbells : Prop :=
  ∀ (s : State) (r : RingId) (v : W32), barServes s = true → ready s = true →
    let g := ring s r.val
    let x := v.toNat % 2 ^ 16
    let flagged : State := { s with host.sysErr := s.host.sysErr ||| (1#6 <<< 2) }
    ((g.configured = false ∨ g.destroying = true ∨ 2 ^ g.log2 ≤ x) →
      exec (.sqDoorbell r v) s = .next flagged ∧ exec (.cqHeadWrite r v) s = .next flagged) ∧
    (g.configured = false ∨ g.destroying = true →
      ∀ o size (w : Word), o < 0x1000 → exec (.bar0Write (0x100000 + 0x1000 * r.val + o) size w false) s = .next flagged) ∧
    (g.configured = true → g.destroying = false → x < 2 ^ g.log2 →
      (x = g.sqTail → exec (.sqDoorbell r v) s = .next s) ∧
      (x = g.cqHead → exec (.cqHeadWrite r v) s = .next s) ∧
      (x ≠ g.sqTail → Completes (.sqDoorbell r v) s (fun t => (ring t r.val).sqTail = x ∧ (ring t r.val).sqHead = g.sqHead ∧
        (g.stamps.length < 64 → (ring t r.val).stamps = g.stamps ++ [(x, s.eft.tick)]) ∧
        (∀ q, q ≠ r.val → ring t q = ring s q) ∧ t = { s with rings := t.rings, pwr.idleTicks := 0 })) ∧
      (x ≠ g.cqHead → g.faultDue = false → Completes (.cqHeadWrite r v) s (fun t => (ring t r.val).cqHead = x ∧
        (ring t r.val).unread = g.unread - (x + 2 ^ g.log2 - g.cqHead) % 2 ^ g.log2 ∧
        (∀ q, q ≠ r.val → ring t q = ring s q) ∧ t = { s with rings := t.rings })))

/-- While Swifort runs, a doorbell bit of a slot in HOST moves it to FW: a request whose header passes is held with
its opcode, flags, tag and payload, but for a firmware command that comes during another, which is refused at once; a header that
fails is answered at once with its status. A bit of a slot that is not in HOST changes no bit of it and sets INVWR_MBX.
MBX_DONE_CLEAR clears DONE of the slots in DONE that the mask names and nothing else, and sets INVWR_MBX when the mask names any
other slot. A started command that reaches its bound is answered with CMD_TIMEOUT and its payload, a ring that it was destroying
stays, and one that has moved nothing answers with none (the model's choice, log entry 81). Rests on 06_mailboxes.md R141, R142,
R143, R144, R145, R146, R150. -/
def Obligations.MailboxBitsMoveSlots : Prop :=
  ∀ s : State, barReady s = true → linkServes s = true → s.host.d3hot = false →
    (∀ mask : W32, fwUp s = true →
      Completes (.mbxDoorbell mask) s (fun t =>
        (∀ k : SlotId, mask.getLsbD k.val = true → slotIsHost s k.val = true → headerStatus (slotBytes s k.val) = none →
          isFwOp (leAt (slotBytes s k.val) 0 2) = false →
          t.mbx.own.getLsbD k.val = true ∧ t.mbx.done.getLsbD k.val = false ∧
          ∃ r, tget t.mbx.reqs k.val = some r ∧ r = { reqOf (slotBytes s k.val) 0 with order := r.order } ∧
            s.mbx.nextOrder ≤ r.order ∧ r.order < t.mbx.nextOrder) ∧
        (∀ (k j : SlotId) q, mask.getLsbD k.val = true → slotIsHost s k.val = true → headerStatus (slotBytes s k.val) = none →
          isFwOp (leAt (slotBytes s k.val) 0 2) = true →
          slotIsHost s j.val = false → tget s.mbx.reqs j.val = some q → isFwOp q.opcode = true →
          t.mbx.own.getLsbD k.val = false ∧ t.mbx.done.getLsbD k.val = true ∧
          leAt (slotBytes t k.val) 8 2 ∈ [0x0102, 0x0106, 0x0143]) ∧
        (∀ (k : SlotId) st, mask.getLsbD k.val = true → slotIsHost s k.val = true →
          headerStatus (slotBytes s k.val) = some st →
          t.mbx.own.getLsbD k.val = false ∧ t.mbx.done.getLsbD k.val = true ∧
          leAt (slotBytes t k.val) 8 2 = st) ∧
        (∀ k : SlotId, mask.getLsbD k.val = false ∨ slotIsHost s k.val = false →
          t.mbx.own.getLsbD k.val = s.mbx.own.getLsbD k.val ∧ t.mbx.done.getLsbD k.val = s.mbx.done.getLsbD k.val ∧
          slotBytes t k.val = slotBytes s k.val) ∧
        ((∃ k : SlotId, mask.getLsbD k.val = true ∧ slotIsHost s k.val = false) → t.host.sysErr.getLsbD 1 = true) ∧
        t = { s with mbx := t.mbx, host := t.host, hostOut := t.hostOut, pwr.idleTicks := t.pwr.idleTicks,
                     pwr.mgtMhz := t.pwr.mgtMhz, obs.ctr := t.obs.ctr })) ∧
    (∀ mask : W32, Completes (.mbxDoneClear mask) s (fun t =>
      t.mbx.done = s.mbx.done &&& ~~~(mask &&& ~~~s.mbx.own) ∧
      (mask &&& ~~~(s.mbx.done &&& ~~~s.mbx.own) = 0 → t.host.sysErr = s.host.sysErr) ∧
      (mask &&& ~~~(s.mbx.done &&& ~~~s.mbx.own) ≠ 0 → t.host.sysErr = s.host.sysErr ||| (1#6 <<< 1)) ∧
      t = { s with mbx.done := t.mbx.done, host.sysErr := t.host.sysErr })) ∧
    (∀ (k : SlotId) p moved, fwUp s = true → tget s.mbx.reqs k.val = some p.req → tget s.mbx.running k.val = some p →
      Completes (.cmdTimeout k moved) s (fun t =>
        Answered { s with rings := t.rings } t k p.req 0x0105 p.payload ∧
        (p.req.opcode ≠ 0x0502 → t.rings = s.rings) ∧
        (p.req.opcode = 0x0502 → (ring t (leAt p.req.payload 0 2)).destroying = false ∧
          ∀ n, n ≠ leAt p.req.payload 0 2 → ring t n = ring s n))) ∧
    (∀ (k : SlotId) r, fwUp s = true → tget s.mbx.reqs k.val = some r → tget s.mbx.running k.val = none →
      mayStart s k.val r = true →
      Completes (.cmdTimeout k []) s (fun t => Answered s t k r 0x0105 []))

/-- Each accepted query command of the tray, tenants, commons, regions, images, rings, units, fabric and ledger
writes its response with status SUCCESS, the payload of its table, and leaves everything but its slot and vector 0
as it was. Rests on 07_management_commands.md R168, R169, R170, R172, R179, R184, R187, Table 7-2, Table 7-3, Table
7-4, Table 7-5, Table 7-6, 06_mailboxes.md R142. -/
def Obligations.QueriesOnlyAnswer : Prop :=
  ∀ (s : State) (k : SlotId) (r : Req),
    (Accepted s k 0x0001 r → Completes (.identify k) s (fun t => Answered s t k r 0
      (leBytes 4 s.boot.fwver ++ leBytes 2 s.boot.svn ++ leBytes 2 s.boot.rollback ++ leBytes 1 Config.stepping
        ++ leBytes 1 7 ++ leBytes 1 (b2n s.boot.committed)
        ++ leBytes 1 (match s.boot.trial with | some b => b2n b | none => 0xFF)
        ++ leBytes 8 Config.serial.toNat ++ leBytes 8 Config.uid.toNat ++ leBytes 2 s.fab.node.toNat ++ zeros 2))) ∧
    (Accepted s k 0x0002 r → Completes (.trayStatus k) s (fun t => Answered s t k r 0
      (leBytes 8 s.eft.time ++ leBytes 2 s.pwr.coreMhz ++ leBytes 2 s.pwr.nocMhz ++ leBytes 2 (int16 s.pwr.tj)
        ++ leBytes 1 (pstate s) ++ leBytes 1 (b2n s.boot.routed + 2 * b2n s.pwr.admitHold)
        ++ leBytes 4 s.pwr.pkgMw.toNat ++ leBytes 4 s.pwr.trayMw.toNat ++ leBytes 2 s.dsp.jobs.length
        ++ leBytes 2 (s.store.tenants.countP (fun p => p.2.state == .active || p.2.state == .suspended))
        ++ leBytes 4 (s.ledger.next - s.ledger.oldest)))) ∧
    (Accepted s k 0x0D02 r → Completes (.timeQuery k) s (fun t =>
      Answered s t k r 0 (leBytes 8 s.eft.time ++ leBytes 8 s.eft.slew))) ∧
    (Accepted s k 0x0702 r → Completes (.powerQuery k) s (fun t => Answered s t k r 0
      (leBytes 4 s.pwr.idleSleep ++ leBytes 4 s.pwr.idleTorpor ++ leBytes 2 s.pwr.coreFmax
        ++ leBytes 1 (b2n s.pwr.torporEn) ++ zeros 5 ++ (List.range 7).flatMap (fun m => leBytes 2 (mon s m).ceil) ++ zeros 2))) ∧
    (Accepted s k 0x0103 r → tcidFields s r.payload = true → tcidOk (leAt r.payload 0 2) = true →
      Completes (.tenantQuery k) s (fun t => Answered s t k r 0 (tenantRecord s (leAt r.payload 0 2)))) ∧
    (∀ o, Accepted s k 0x0405 r → coidFields s r.payload = true → tget s.store.commons (leAt r.payload 0 2) = some o →
      Completes (.commonsQuery k) s (fun t => Answered s t k r 0
        (leBytes 2 (leAt r.payload 0 2) ++ leBytes 1 (if o.sealed then 2 else 1) ++ zeros 1
          ++ leBytes 4 (imagesWith s (· == .commons (leAt r.payload 0 2))) ++ leBytes 8 o.size ++ leBytes 8 o.baseB ++ leBytes 8 o.baseA))) ∧
    (∀ g, Accepted s k 0x0305 r → idFields s r.payload = true → tget s.store.regions (leAt r.payload 0 4) = some g →
      Completes (.regionQuery k) s (fun t => Answered s t k r 0
        (leBytes 4 (leAt r.payload 0 4) ++ leBytes 2 (b2n g.writable + 2 * b2n g.tierA + 4 * b2n g.sealed
            + 8 * b2n (match g.copy with | some c => c.done | none => false))
          ++ leBytes 2 (banksHeld s (leAt r.payload 0 4)) ++ leBytes 8 g.size ++ leBytes 8 g.base ++ zeros 8))) ∧
    (∀ m, Accepted s k 0x0203 r → idFields s r.payload = true → tget s.store.images (leAt r.payload 0 4) = some m →
      Completes (.imageQuery k) s (fun t => Answered s t k r 0
        (leBytes 4 (leAt r.payload 0 4) ++ leBytes 1 m.desc.sections.length ++ leBytes 1 m.desc.shareLayers.length ++ leBytes 1 7
          ++ zeros 1 ++ leBytes 4 (jobsOfImage s (leAt r.payload 0 4)) ++ leBytes 8 m.size ++ padTo 8 m.digest ++ zeros 4))) ∧
    (Accepted s k 0x0503 r → ringFields s r.payload = true →
      let n := leAt r.payload 0 2
      let g := ring s n
      Completes (.ringQuery k) s (fun t => Answered s t k r 0
        (leBytes 2 n ++ leBytes 1 g.log2 ++ leBytes 1 (dbStat g) ++ leBytes 2 g.tcid ++ leBytes 4 (jobsOfRing s n).length
          ++ leBytes 8 g.sqAddr ++ leBytes 8 g.cqAddr ++ leBytes 4 g.deadline ++ leBytes 2 g.stopCause))) ∧
    (Accepted s k 0x0601 r → unitFields s r.payload = true → leAt r.payload 0 2 ∈ allUnits →
      let u := unitRec s (leAt r.payload 0 2)
      Completes (.unitQuery k) s (fun t => Answered s t k r 0
        (leBytes 2 (leAt r.payload 0 2) ++ leBytes 1 (adminCode u.admin) ++ leBytes 1 (healthCode u.health)
          ++ leBytes 2 u.gen.toNat ++ leBytes 2 (min (jobsOfUnit s (leAt r.payload 0 2)).length 0xFFFF)))) ∧
    (Accepted s k 0x0801 r → Completes (.fabricQuery k) s (fun t => Answered s t k r 0
      (leBytes 2 s.fab.node.toNat ++ leBytes 2 (traysReached s) ++ leBytes 1 (b2n s.fab.hostSet.isSome) ++ zeros 3
        ++ leBytes 8 Config.uid.toNat ++ leBytes 8 (rootOf (routed (allRecs s) Config.uid.toNat))
        ++ (List.range 6).flatMap (portRecord s)))) ∧
    (Accepted s k 0x0901 r → Completes (.ledgerQuery k) s (fun t => Answered s t k r 0
      (leBytes 4 (s.ledger.next - s.ledger.oldest) ++ leBytes 4 262144 ++ leBytes 8 s.ledger.oldest ++ leBytes 8 s.ledger.next
        ++ leBytes 8 s.ledger.chain ++ padTo 32 s.ledger.head))) ∧
    (Accepted s k 0x0904 r → Completes (.ledgerAnchor k) s (fun t => Answered s t k r 0
      (leBytes 8 Config.uid.toNat ++ leBytes 8 s.ledger.chain ++ padTo 48 s.ledger.openDigest)))

/-- TIME_SET at or above tray time replaces a step or slew under way by a step of the difference, below it by a slew
of the difference; tray time itself is unchanged until the next tick. POWER_SET with values in the ranges of Table
3-3 sets the four fields; CORE_FMAX takes effect at once when it is raised and by one step of 25 MHz when it is
lowered. Rests on 03_clocks_power_and_sleep.md R61, R65, R85, Table 3-3, 07_management_commands.md R161, R193. -/
def Obligations.TimeAndPowerSet : Prop :=
  ∀ (s : State) (k : SlotId) (r : Req),
    (AcceptedChange s k 0x0D01 r →
      let x := leAt r.payload 0 8
      Completes (.timeSet k) s (fun t =>
        Logged (if s.eft.time ≤ x then { s with eft.stepAdd := x - s.eft.time, eft.slew := 0 }
                else { s with eft.slew := s.eft.time - x, eft.stepAdd := 0 }) t k r 0 0
          (leBytes 8 s.eft.time ++ leBytes 1 (if s.eft.time ≤ x then 0 else 1) ++ zeros 7))) ∧
    (AcceptedChange s k 0x0701 r → powerFields s r.payload = true →
      Completes (.powerSet k) s (fun t => t.pwr.idleSleep = leAt r.payload 0 4 ∧ t.pwr.idleTorpor = leAt r.payload 4 4 ∧
        t.pwr.coreFmax = leAt r.payload 8 2 ∧ (t.pwr.torporEn = true ↔ leAt r.payload 10 1 = 1) ∧
        t.pwr.fmaxNow = (if s.pwr.fmaxNow ≤ leAt r.payload 8 2 then leAt r.payload 8 2 else s.pwr.fmaxNow - 25) ∧
        t.pwr.coreMhz = coreTarget t ∧ ∃ v, v = { s with pwr := t.pwr, obs := t.obs } ∧ Logged v t k r 0 0 []))

/-- TENANT_CREATE makes the named FREE TCID, or the lowest FREE one, ACTIVE with the fields of the record and the
next generation; TENANT_SET on a live tenant writes the RW fields, with one ledger entry for each field that
changes, when no pin is refused; TENANT_SUSPEND moves ACTIVE to SUSPENDED and TENANT_RESUME back. No other tenant
changes, and no memory outside the ledger. Rests on 02_tenants_and_commons.md R25, R26, R28, R33, Table 2-2,
07_management_commands.md R161, R169, R170. -/
def Obligations.TenantsAreCreatedAndChanged : Prop :=
  ∀ (s : State) (k : SlotId) (r : Req),
    let n := leAt r.payload 0 2
    (AcceptedChange s k 0x0101 r → tenantFields s r.payload = true → recTcid r.payload ≠ 0xFFF →
      (recTcid r.payload = 0 ∨ (tenant s (recTcid r.payload)).state = .free) →
      ∀ c, (if recTcid r.payload = 0 then lowestFreeTcid s else some (recTcid r.payload)) = some c →
      Completes (.tenantCreate k) s (fun t =>
        let x := tenant t c
        x = recRw r.payload
          { state := .active, cobatch := bitAt (leAt r.payload 0 8) 16,
            tgen := if (tenant s c).tgen = 0xFFFF then 1 else (tenant s c).tgen + 1 } ∧
        Logged { s with store.tenants := tset s.store.tenants c x, obs.pages := tset s.obs.pages c [],
                        obs.kept := tdel s.obs.kept c } t k r c c (tenantRecord t c))) ∧
    (AcceptedChange s k 0x0102 r → tenantFields s r.payload = true → tcidOk (recTcid r.payload) = true →
      tenantOpen s (recTcid r.payload) = true →
      (tenant s (recTcid r.payload)).cobatch = bitAt (leAt r.payload 0 8) 16 →
      (let x := recRw r.payload (tenant s (recTcid r.payload))
       x.residency = 0 ∨ x.residency = (tenant s (recTcid r.payload)).residency ∨
         pinStatus s (recTcid r.payload) x.residency x.spQuota x.taQuota none = none) →
      Completes (.tenantSet k) s (fun t => tenant t (recTcid r.payload) = recRw r.payload (tenant s (recTcid r.payload)) ∧
        (∀ c, c ≠ recTcid r.payload → tenant t c = tenant s c) ∧
        (recRw r.payload (tenant s (recTcid r.payload)) = tenant s (recTcid r.payload) → t.ledger = s.ledger ∧ t.mem = s.mem) ∧
        leAt (slotBytes t k.val) 8 2 = 0 ∧ t.cores = s.cores ∧ t.dsp = s.dsp ∧ t.rings = s.rings ∧ t.eft = s.eft ∧
        t.store.images = s.store.images ∧ t.store.commons = s.store.commons)) ∧
    (AcceptedChange s k 0x0104 r → tcidFields s r.payload = true → tcidOk n = true → (tenant s n).state = .active →
      s.dsp.jobs.all (fun e => e.2.tcid != n || e.2.stream.isNone) = true →
      Completes (.tenantSuspend k) s (fun t =>
        Logged { s with store.tenants := tset s.store.tenants n { tenant s n with state := .suspended } } t k r n n [])) ∧
    (AcceptedChange s k 0x0105 r → tcidFields s r.payload = true → tcidOk n = true → (tenant s n).state = .suspended →
      Completes (.tenantResume k) s (fun t =>
        Logged { s with store.tenants := tset s.store.tenants n { tenant s n with state := .active } } t k r n n []))

/-- A live tenant without admitted jobs or parts is moved to DESTROYING with one ledger entry and the answer of no
quenched job and its number of regions. Once no job and no part of a DESTROYING tenant is left, Swifort removes its
images with their regions and its other regions, frees the TCID, whose generation is kept, and posts TENANT_FREED.
Other tenants keep their context. Rests on 02_tenants_and_commons.md R27, R54, R55, 07_management_commands.md R170,
22_guarantees_and_arbitration.md R543, 25_observation.md R588. -/
def Obligations.TenantsAreDestroyedAndFreed : Prop :=
  ∀ (s : State),
    (∀ (k : SlotId) (r : Req), AcceptedChange s k 0x0106 r → tcidFields s r.payload = true →
      let n := leAt r.payload 0 2
      tcidOk n = true → tenantOpen s n = true → s.dsp.jobs.all (fun e => e.2.tcid != n) = true →
      s.dsp.parts.all (fun p => p.tcid != n) = true →
      Completes (.tenantDestroy k) s (fun t =>
        Logged { s with store.tenants := tset s.store.tenants n { tenant s n with state := .destroying } } t k r n n
          (leBytes 4 0 ++ leBytes 4 (s.store.regions.countP (fun p => p.2.owner == n))))) ∧
    (∀ n, fwUp s = true → domainsUp s = true → (tenant s n).state = .destroying →
      s.dsp.jobs.all (fun e => e.2.tcid != n) = true → s.dsp.parts.all (fun p => p.tcid != n) = true →
      Completes (.tenantFreed n) s (fun t => tenant t n = { tgen := (tenant s n).tgen } ∧
        (∀ c, c ≠ n → tenant t c = tenant s c) ∧ t.store.regions.all (fun p => p.2.owner != n || p.2.image) = true ∧
        (∀ i m, tget s.store.images i = some m → m.owner = n → tget t.store.regions m.region = none) ∧
        t.store.images.all (fun p => p.2.owner != n) = true ∧ t.store.fills = [] ∧ tget t.obs.pages n = none ∧
        s.mbx.evqSeq < t.mbx.evqSeq ∧ t.dsp = s.dsp ∧ t.rings = s.rings ∧ t.eft = s.eft ∧ t.store.commons = s.store.commons))

/-- An allocation of a free COID reserves a place in each tier; a load of LEN bytes within an OPEN object stores the
buffer's first LEN bytes at its offset; a seal copies tier B to tier A and answers the SHA-256 of the object; a free
of an object that no image references removes it, starts the zero-fill of both copies, and the answer waits for
them. Each writes one ledger entry. Rests on 07_management_commands.md R162, R171, 02_tenants_and_commons.md R36,
19_tier_memory.md R480. -/
def Obligations.CommonsAreAllocatedLoadedSealedAndFreed : Prop :=
  ∀ (s : State) (k : SlotId) (r : Req),
    let c := leAt r.payload 0 2
    (AcceptedChange s k 0x0401 r → commonsAllocFields s r.payload = true → c ≠ 0 → tget s.store.commons c = none →
      s.store.commons.length < 1024 → taNeeded s 0 false none + mib (leAt r.payload 8 8) ≤ 191 * 1024 →
      ∀ b a, allocIn s false (leAt r.payload 8 8) = some b → allocIn s true (leAt r.payload 8 8) = some a →
      Completes (.commonsAlloc k) s (fun t =>
        Logged { s with store.commons := tset s.store.commons c { sealed := false, size := leAt r.payload 8 8, baseB := b,
                                                                   baseA := a, lastUse := 0 } } t k r 0 c
          (leBytes 2 c ++ zeros 6 ++ leBytes 8 b ++ leBytes 8 a))) ∧
    (∀ o (data : List Byte), AcceptedChange s k 0x0402 r → commonsLoadFields s r.payload = true →
      tget s.store.commons c = some o → o.sealed = false → leAt r.payload 8 8 + leAt r.payload 4 4 ≤ o.size →
      leAt r.payload 4 4 ≤ data.length → poisonedIn s (o.baseB + leAt r.payload 8 8) (leAt r.payload 4 4) = [] →
      Completes (.commonsLoad k (.ok data)) s (fun t =>
        Logged { breakRes s none (o.baseB + leAt r.payload 8 8) (leAt r.payload 4 4) with
                 mem := mwrite s.mem (o.baseB + leAt r.payload 8 8) (data.take (leAt r.payload 4 4)) } t k r 0 c [])) ∧
    (∀ o, AcceptedChange s k 0x0403 r → coidFields s r.payload = true → tget s.store.commons c = some o → o.sealed = false →
      Completes (.commonsSeal k) s (fun t =>
        tget t.store.commons c = some { o with sealed := true } ∧
        (o.baseB + o.size ≤ o.baseA ∨ o.baseA + o.size ≤ o.baseB → o.baseA + o.size ≤ 0x02FC0000000 →
          0x10000000000 ≤ o.baseB → Memory.wf s.mem = true →
          (∀ i, i < o.size → mget t.mem (o.baseA + i) = mget s.mem (o.baseB + i)) ∧
          leAt (slotBytes t k.val) 8 2 = 0 ∧ slice (slotBytes t k.val) 16 32 = sha256 (mread s.mem o.baseB o.size)) ∧
        t.ledger.next = s.ledger.next + 1 ∧ t.store.tenants = s.store.tenants ∧ t.store.regions = s.store.regions ∧
        t.dsp = s.dsp ∧ t.rings = s.rings)) ∧
    (∀ o, AcceptedChange s k 0x0404 r → coidFields s r.payload = true → tget s.store.commons c = some o →
      imagesWith s (· == .commons c) = 0 → s.store.spCopies.all (fun x => x.obj != .commons c) = true →
      Completes (.commonsFree k) s (fun t => tget t.store.commons c = none ∧
        t.store.fills = s.store.fills ++ [{ base := o.baseB, size := o.size }, { base := o.baseA, size := o.size }] ∧
        tget t.mbx.running k.val = some { req := r, jobs := [], fills := [o.baseB, o.baseA], payload := [] } ∧
        Appended { s with store.commons := tdel s.store.commons c, store.fills := t.store.fills }
          { t with mbx.running := s.mbx.running, mbx.placeWait := s.mbx.placeWait } (cmdEntry k r 0 c)))

/-- A create within the quota makes an unsealed region of the tenant with the next serial at the named address, or
the lowest place of its tier, and answers identifier and base; a load stores the buffer's LEN bytes at its offset of
an unsealed region; a seal of a read-only region sets SEALED unless a pin refuses it; a free of a region that
nothing uses removes it, starts the zero-fill of its home, and the answer waits for it. Rests on
07_management_commands.md R162, R165, R173, R174, R175, 02_tenants_and_commons.md R33, R50, R52, 19_tier_memory.md
R480. -/
def Obligations.RegionsAreCreatedLoadedSealedAndFreed : Prop :=
  ∀ (s : State) (k : SlotId) (r : Req),
    let n := leAt r.payload 0 2
    let id := leAt r.payload 0 4
    let size := leAt r.payload 8 8
    (∀ base, AcceptedChange s k 0x0301 r → regionCreateFields s r.payload = true → tcidOk n = true → tenantOpen s n = true →
      (if bitAt (leAt r.payload 2 2) 1 then taUsed s n + mib size ≤ (tenant s n).taQuota
       else tbUsed s n + mib size ≤ (tenant s n).tbQuota) →
      (if bitAt (leAt r.payload 2 2) 2 then
         addrConflict s (bitAt (leAt r.payload 2 2) 1) base size = false ∧ placeFree s base size = true ∧ base = leAt r.payload 16 8
       else allocIn s (bitAt (leAt r.payload 2 2) 1) size = some base) →
      s.store.nextRegion ≤ 0xFFFFF →
      Completes (.regionCreate k) s (fun t =>
        Logged { s with store.regions := tset s.store.regions (n + s.store.nextRegion * 2 ^ 12)
                          { owner := n, writable := bitAt (leAt r.payload 2 2) 0,
                            tierA := bitAt (leAt r.payload 2 2) 1, sealed := false, size := size, base := base,
                            image := false, copy := none, pinned := none, lastUse := 0 },
                        store.nextRegion := s.store.nextRegion + 1 } t k r n (n + s.store.nextRegion * 2 ^ 12)
          (leBytes 4 (n + s.store.nextRegion * 2 ^ 12) ++ zeros 4 ++ leBytes 8 base))) ∧
    (∀ g (data : List Byte), AcceptedChange s k 0x0302 r → regionLoadFields s r.payload = true →
      tget s.store.regions id = some g → g.sealed = false → size + leAt r.payload 4 4 ≤ g.size →
      leAt r.payload 4 4 ≤ data.length → poisonedIn s (g.base + size) (leAt r.payload 4 4) = [] →
      Completes (.regionLoad k (.ok data)) s (fun t =>
        Logged { breakRes s none (g.base + size) (leAt r.payload 4 4) with
                 mem := mwrite s.mem (g.base + size) (data.take (leAt r.payload 4 4)) } t k r g.owner id [])) ∧
    (∀ g, AcceptedChange s k 0x0303 r → idFields s r.payload = true → tget s.store.regions id = some g → g.writable = false →
      g.sealed = false →
      ((tenant s g.owner).residency = 0 ∨ pinStatus s g.owner (tenant s g.owner).residency (tenant s g.owner).spQuota
        (tenant s g.owner).taQuota (some g.size) = none) →
      Completes (.regionSeal k) s (fun t =>
        Logged { s with store.regions := tset s.store.regions id { g with sealed := true } } t k r g.owner id [])) ∧
    (∀ g, AcceptedChange s k 0x0304 r → idFields s r.payload = true → tget s.store.regions id = some g →
      regionInUse s id = false → g.copy = none → s.store.spCopies.all (fun x => x.obj != .region id) = true →
      Completes (.regionFree k) s (fun t => tget t.store.regions id = none ∧
        t.store.fills = s.store.fills ++ [{ base := g.base, size := g.size }] ∧
        tget t.mbx.running k.val = some { req := r, jobs := [], fills := [g.base], payload := [] } ∧
        Appended { s with store.regions := tdel s.store.regions id, store.fills := t.store.fills }
          { t with mbx.running := s.mbx.running, mbx.placeWait := s.mbx.placeWait } (cmdEntry k r g.owner id)))

/-- An image of format 7 whose references are sealed and that the checker passes is stored with LEN bytes in a
sealed read-only region of its tenant in tier B; identifier, sections and MiB charged are answered. A binding of a
stage that the image has is kept with the image; an image without jobs is removed with its region and with its
sections on every core, and the answer waits for the zero-fill. Rests on 07_management_commands.md R162, R165, R176,
R177, R178, 17_tiling_buckets_and_chains.md R448, 02_tenants_and_commons.md R48, R50. -/
def Obligations.ImagesAreRegisteredBoundAndUnregistered : Prop :=
  ∀ (s : State) (k : SlotId) (r : Req),
    let n := leAt r.payload 0 2
    let id := leAt r.payload 0 4
    let len := leAt r.payload 4 4
    let size := max 0x10000 (roundUp len 0x10000)
    (∀ (data : List Byte) (desc : ImageDesc) base, AcceptedChange s k 0x0201 r → imageRegisterFields s r.payload = true →
      tcidOk n = true → tenantOpen s n = true → len ≤ data.length → desc.format = some 7 → refStatus s n desc.refs = none →
      checkImage s desc = none → s.store.images.countP (fun e => e.2.owner == n) < 16 → s.store.images.length < 16384 →
      tbUsed s n + mib size ≤ (tenant s n).tbQuota → allocIn s false size = some base → s.store.nextRegion ≤ 0xFFFFF →
      s.store.nextImage ≤ 0xFFFFF → poisonedIn s base len = [] →
      Completes (.imageRegister k (.ok data) desc) s (fun t =>
        let rid := n + s.store.nextRegion * 2 ^ 12
        let iid := n + s.store.nextImage * 2 ^ 12
        let g : Region := { owner := n, writable := false, tierA := false, sealed := true, size := size, base := base,
                            image := true, copy := none, pinned := none, lastUse := 0 }
        let m : Image := { owner := n, region := rid, desc := desc, size := len, digest := sha256 (data.take len), binds := [] }
        Logged { breakRes s none base len with
            store.regions := tset s.store.regions rid g, store.nextRegion := s.store.nextRegion + 1,
            store.images := tset s.store.images iid m, store.nextImage := s.store.nextImage + 1,
            mem := mwrite s.mem base (data.take len) } t k r n iid
          (leBytes 4 iid ++ leBytes 1 (desc.sections.length % 256) ++ leBytes 1 0xFF ++ leBytes 2 0 ++ leBytes 4 (mib size)
            ++ zeros 4))) ∧
    (∀ m, AcceptedChange s k 0x0204 r → imageBindFields s r.payload = true → tget s.store.images id = some m →
      leAt r.payload 4 1 < m.desc.remoteStages → jobsOfImage s id = 0 →
      Completes (.imageBind k) s (fun t =>
        let x : Image := { m with binds := tset m.binds (leAt r.payload 4 1) (leAt r.payload 6 2, leAt r.payload 8 4) }
        Logged { s with store.images := tset s.store.images id x } t k r m.owner id [])) ∧
    (∀ m g, AcceptedChange s k 0x0202 r → idFields s r.payload = true → tget s.store.images id = some m →
      tget s.store.regions m.region = some g → jobsOfImage s id = 0 →
      Completes (.imageUnregister k) s (fun t => tget t.store.images id = none ∧ tget t.store.regions m.region = none ∧
        (⟨g.base, g.size⟩ : Fill) ∈ t.store.fills ∧
        (∀ c b, b ∈ (Machine.core t c).bank31 → b.1 ≠ id) ∧ (∀ c x, (Machine.core t c).sec = some x → x.1 ≠ id) ∧
        tget t.mbx.running k.val = some { req := r, jobs := [], fills := [g.base], payload := [] } ∧
        t.ledger.next = s.ledger.next + 1 ∧ t.store.tenants = s.store.tenants ∧ t.dsp = s.dsp ∧ t.rings = s.rings))

/-- A configuration of an unconfigured ring sets its fields and empties it; a stopped ring restarts with its HEAD
kept and the copy dropped; a ring without admitted jobs is unconfigured and answers the descriptors it discards;
under FORCE a ring with jobs discards its span, quenches every one of them, and answers once they have ended. No
other ring's configuration changes. Rests on 07_management_commands.md R180, R181, 08_jobs_and_dispatch.md R199,
R211. -/
def Obligations.RingsAreConfiguredDestroyedAndRestarted : Prop :=
  ∀ (s : State) (k : SlotId) (r : Req),
    let n := leAt r.payload 0 2
    let g := ring s n
    (AcceptedChange s k 0x0501 r → ringConfigureFields s r.payload = true → g.configured = false →
      (leAt r.payload 24 4 = 0 ∨ 200 ≤ leAt r.payload 24 4) →
      Completes (.ringConfigure k) s (fun t =>
        let x : Ring := { configured := true, log2 := leAt r.payload 2 1, tcid := leAt r.payload 4 2, sqAddr := leAt r.payload 8 8,
                          cqAddr := leAt r.payload 16 8, deadline := leAt r.payload 24 4 }
        Logged { s with rings := tset s.rings n x } t k r (leAt r.payload 4 2) n [])) ∧
    (AcceptedChange s k 0x0504 r → ringFields s r.payload = true → g.stopped = true →
      Completes (.ringRestart k) s (fun t =>
        Logged { s with rings := tset s.rings n { g with stopped := false, stopCause := 0, reads := 0, copy := none } } t k r
          g.tcid n [])) ∧
    (AcceptedChange s k 0x0502 r → ringFields s r.payload = true → g.configured = true → g.destroying = false → g.claim = none →
      (jobsOfRing s n = [] →
        Completes (.ringDestroy k) s (fun t =>
          Logged { s with rings := tset s.rings n {} } t k r g.tcid n (leBytes 4 0 ++ leBytes 4 (unreadDesc g)))) ∧
      (jobsOfRing s n ≠ [] → r.force = true →
        Completes (.ringDestroy k) s (fun t => (ring t n).destroying = true ∧ (ring t n).sqHead = g.sqTail ∧
          (ring t n).copy = none ∧ (∀ q, q ≠ n → ring t q = ring s q) ∧
          (∀ j ∈ jobsOfRing s n, ∃ x, tget t.dsp.jobs j = some x ∧ x.quench.isSome = true) ∧
          tget t.mbx.running k.val = some { req := r, jobs := jobsOfRing s n, fills := [],
                                            payload := leBytes 4 (jobsOfRing s n).length ++ leBytes 4 (unreadDesc g) } ∧
          t.ledger.next = s.ledger.next + 1)))

/-- UNIT_LIST writes the 114 records of 8 bytes to the host buffer. UNIT_SET_ADMIN writes ADMIN; on a unit that is
no fabric port a change advances GEN by one, writes one entry and leaves HEALTH, and an equal value changes no
record and writes none; OFFLINE during a field repair of the core changes nothing. A retest of an OFFLINE, unused core, pond port or fabric port sets HEALTH from the result.
UNIT_HEALTH takes the unit's oldest notification: belief follows, one event at least, and a unit at FAULT is
OFFLINE. Where none is queued, HEALTH changes now and the same follows (the model's choice, log entry 39). After a
poll Swifort's belief of every unit is its HEALTH. Rests on 07_management_commands.md R166, R167, R182, R183,
12_matrix_array.md R638, 22_guarantees_and_arbitration.md R543, R545, 23_faults_checks_and_repair.md R560. -/
def Obligations.UnitCommandsAndFencing : Prop :=
  ∀ s : State,
    (∀ (k : SlotId) (r : Req),
      let u := leAt r.payload 0 2
      let a := adminOf (leAt r.payload 2 1)
      (Accepted s k 0x0602 r → leAt r.payload 0 8 % 64 = 0 → s.host.d3hot = false →
        Completes (.unitList k true) s (fun t =>
          Answered { s with hostOut := s.hostOut ++ [OutMsg.write (leAt r.payload 0 8) (allUnits.flatMap (unitBytes s))] } t k r 0
            (leBytes 4 114))) ∧
      (AcceptedChange s k 0x0603 r → u / 0x1000 = 1 → u ∈ allUnits → leAt r.payload 2 1 = 2 → leAt r.payload 3 1 = 0 →
        (tget s.repairs (u % 0x1000)).isSome = true →
        Completes (.unitSetAdmin k) s (fun t => Answered s t k r 0 (unitBytes s u))) ∧
      (AcceptedChange s k 0x0603 r → u ∈ allUnits → leAt r.payload 2 1 ≤ 2 → leAt r.payload 3 1 = 0 →
        (a ≠ .offline ∨ u / 0x1000 ≠ 1 ∨ tget s.repairs (u % 0x1000) = none) →
        Completes (.unitSetAdmin k) s (fun t => (unitRec t u).admin = a ∧
          (u / 0x1000 ≠ 5 → (unitRec t u).health = (unitRec s u).health ∧ (∀ v, v ≠ u → unitRec t v = unitRec s v) ∧
            (unitRec t u).gen = (if (unitRec s u).admin = a then (unitRec s u).gen else (unitRec s u).gen + 1) ∧
            (r.force = false →
              t.ledger.next = (if (unitRec s u).admin = a then s.ledger.next else s.ledger.next + 1) ∧
              t.dsp = s.dsp ∧ t.rings = s.rings ∧ t.store = s.store ∧ t.cores = s.cores)))) ∧
      (∀ pass bad, AcceptedChange s k 0x0604 r → unitFields s r.payload = true → u ∈ allUnits →
        (u / 0x1000 = 1 ∨ u / 0x1000 = 2 ∨ u / 0x1000 = 5) → (unitRec s u).admin = .offline → unitUsed s u = false →
        Completes (.unitRetest k pass bad) s (fun t => (unitRec t u).health = (if pass then .good else .fault) ∧
          (unitRec t u).admin = .offline ∧ t.ledger.next = s.ledger.next + 1 ∧
          (pass = true → u / 0x1000 = 1 → ∀ b, b / 32 = u % 0x1000 → b % 32 ∉ bad → (bank t b).retired = false)))) ∧
    (∀ n, fwUp s = true → s.errs.notes.find? (fun x => x.unit == n.unit) = some n →
      Completes (.unitHealth n.unit n.new) s (fun t => (unitRec t n.unit).belief = n.new ∧ s.mbx.evqSeq < t.mbx.evqSeq ∧
        (n.unit / 0x1000 ≠ 5 → t.errs.notes = s.errs.notes.erase n) ∧
        (n.new = .fault → (unitRec t n.unit).admin = .offline))) ∧
    (∀ u h, fwUp s = true → u ∈ allUnits → u / 0x1000 ≠ 5 → h ≠ .good → (unitRec s u).health = .good →
      s.errs.notes.all (fun x => x.unit != u) = true →
      Completes (.unitHealth u h) s (fun t => (unitRec t u).belief = h ∧ s.mbx.evqSeq < t.mbx.evqSeq ∧
        (h = .fault → (unitRec t u).admin = .offline))) ∧
    (∀ silent, fwUp s = true →
      Completes (.unitStatePoll silent) s (fun t => (∀ u ∈ allUnits, (unitRec t u).belief = (unitRec t u).health) ∧
        ((∀ u ∈ allUnits, (unitRec s u).belief = (unitRec s u).health) → silent = [] → t = s)))

/-- The report that Swifort takes first becomes the record of the next INDEX in slot INDEX mod 4,096, leaves its
queue, and one event at least follows; a report of any class but CHECK_LINE changes nothing more. In a field repair
under test one faulty line with a free fuse is skipped by that fuse, whose field takes the physical line plus one,
with a ledger entry and an event, and the repair ends when the retest is clean; while the ledger is full no fuse is blown, and
the refusal is counted; any other finding ends the repair with the fuses unchanged. Rests on 12_matrix_array.md R327, R329, R330, R331, 23_faults_checks_and_repair.md R549,
R550, R551, R552, R553, 24_change_ledger.md R576. -/
def Obligations.RecordsAndFieldRepair : Prop :=
  ∀ s : State,
    (∀ q rep, recordsRun s = true → nextReport s = some (q, rep) →
      Completes .errorRecord s (fun t => tget t.errs.log (s.errs.next % 4096) = some (s.errs.next, rep) ∧
        t.errs.next = (s.errs.next + 1) % 2 ^ 32 ∧ tgetD t.errs.queues q [] = (tgetD s.errs.queues q []).drop 1 ∧
        s.mbx.evqSeq < t.mbx.evqSeq ∧
        (rep.cls ≠ 0x08 → t = { s with errs := t.errs, mbx := t.mbx, host := t.host, hostOut := t.hostOut } ∧
          t.errs.units = s.errs.units ∧ t.mbx.evqSeq = s.mbx.evqSeq + 1))) ∧
    (∀ (c : CoreId) x found clean, tget s.repairs c.val = some x → fwUp s = true → x.testing = true →
      (unitRec s (coreUnit c.val)).admin = .offline →
      let map := tgetD s.boot.arrMap c.val 0
      (∀ col l f, repairable found = some (col, l) → fuseField map col = some f → physLine map col l < 130 →
        (ledgerFull s = true → exec (.lineTestDone c found clean) s = .next (ctrAdd s 0x800 1)) ∧
        (ledgerFull s = false → Completes (.lineTestDone c found clean) s (fun t =>
          tgetD t.boot.arrMap c.val 0 = map + (physLine map col l + 1) % 256 * 2 ^ (8 * f) ∧
          (∀ d, d ≠ c.val → tgetD t.boot.arrMap d 0 = tgetD s.boot.arrMap d 0) ∧
          tget t.repairs c.val = (if clean then none else some { x with blown := x.blown + 1 }) ∧
          t.ledger.next = s.ledger.next + 1 ∧ s.mbx.evqSeq < t.mbx.evqSeq ∧ t.errs = s.errs ∧ t.cores = s.cores ∧
          t.dsp = s.dsp))) ∧
      (repairable found = none →
        Completes (.lineTestDone c found clean) s (fun t => tget t.repairs c.val = none ∧
          t = { s with repairs := t.repairs, errs := t.errs } ∧ t.errs.units = s.errs.units)))

/-- A route set that fails R514 or R515 is refused with ROUTES_FORMAT or ROUTES_CYCLIC and changes nothing; one that
passes, on a tray whose jobs have no remote parts, becomes the seven tables with ROUTES_INSTALLED. ROUTES_AUTO drops
the host's set and starts the computation. A policy is kept with its tenant, and MODE 0 forgets flagged rows.
HOTROW_SENT takes every flagged row of the table. A replica that its owner no longer wants and no work reads is
dropped, and its zero-fill starts. Rests on 07_management_commands.md R184, R185,
21_fabric_routing_and_remote_operations.md R511, R514, R515, R517, 16_embeddings_and_gather.md R419, R420, R422. -/
def Obligations.FabricCommandsAndHotRows : Prop :=
  ∀ s : State,
    (∀ (k : SlotId) (r : Req),
      (∀ data : List Byte, AcceptedChange s k 0x0802 r → routesLoadFields s r.payload = true → leAt r.payload 8 4 ≤ data.length →
        s.dsp.jobs.all (fun e => e.2.parts.isEmpty) = true → s.dsp.parts = [] →
        Completes (.routesLoad k (.ok data)) s (fun t =>
          match routeSet s (leAt r.payload 8 4) (data.take (leAt r.payload 8 4)) with
          | none => Answered s t k r 0x0411 []
          | some bs => match rblockOf bs Config.uid.toNat with
            | none => Answered s t k r 0x0411 []
            | some own =>
              if setSound (allRecs s) bs = true then
                ∃ v, v.fab.tables = own.tabs ∧ v.fab.hostSet = some (bs.map (fun b => (b.node, b.uid))) ∧
                  v.fab.computing = false ∧ v.fab.dirty = false ∧ v.mbx.evqSeq = s.mbx.evqSeq + 1 ∧
                  v = { s with fab := v.fab, boot.routed := v.boot.routed, mbx := v.mbx, host := v.host, hostOut := v.hostOut } ∧
                  Logged v t k r 0 0 []
              else Answered s t k r 0x0410 [])) ∧
      (AcceptedChange s k 0x0803 r →
        Completes (.routesAuto k) s (fun t =>
          Logged { s with fab.hostSet := none, fab.dirty := false, fab.computing := true,
                          fab.nextTables := routeTables (allRecs s) (selfRec s) } t k r 0 0 [])) ∧
      (AcceptedChange s k 0x0804 r → hotrowPolicyFields s r.payload = true → tcidOk (leAt r.payload 0 2) = true →
        tenantOpen s (leAt r.payload 0 2) = true →
        let n := leAt r.payload 0 2
        let m := leAt r.payload 2 1
        Completes (.hotrowPolicy k) s (fun t =>
          Logged { s with store.tenants := tset s.store.tenants n { tenant s n with hotMode := m, hotMax := leAt r.payload 4 4 },
                          store.hotRows := if m = 0 then s.store.hotRows.filter (fun x => x.1 != n) else s.store.hotRows }
            t k r n n []))) ∧
    (∀ n region h rows, fwUp s = true → domainsUp s = true → (tenant s n).hotMode = 1 → hotTable s n region = some h →
      Completes (.hotrowSent n region rows) s (fun t =>
        t.store.hotRows = s.store.hotRows.filter (fun x => !(x.1 == n && h.entries.any (fun e => e.2.2 == x.2.1))) ∧
        (t.store.hotRows = s.store.hotRows → t = s) ∧ t.store.tenants = s.store.tenants ∧ t.dsp = s.dsp ∧ t.rings = s.rings ∧
        t.eft = s.eft)) ∧
    (∀ n region rep, fwUp s = true → domainsUp s = true → (tenant s n).hotMode = 0 → tableRead s n region = false →
      tget s.store.replicas (n * 2 ^ 32 + region) = some rep →
      Completes (.replicaDrop n region) s (fun t => tget t.store.replicas (n * 2 ^ 32 + region) = none ∧
        (⟨rep.base, rep.size⟩ : Fill) ∈ t.store.fills ∧ (∀ f ∈ s.store.fills, f ∈ t.store.fills) ∧
        t = { s with store.replicas := t.store.replicas, store.fills := t.store.fills }))

/-- LEDGER_READ writes the held entries from FROM on to the buffer and answers their number; LEDGER_ACK frees the
entries up to UP_TO, then appends its own entry and that of suppressed ones; TRACE_CONFIG sets the destination and
starts its ring again when it moves; COUNTER_SNAPSHOT writes the chosen scope to the buffer. An export to the host
writes one run of records at TAIL and moves TAIL on by their number; TIMEBASE puts tray time into the buffer of the
lowest pond. Rests on 24_change_ledger.md R575, R577, R579, R580, 25_observation.md R590, R595, R597, R598,
07_management_commands.md R162, R187, R188. -/
def Obligations.LedgerAndObservationCommands : Prop :=
  ∀ s : State,
    (∀ (k : SlotId) (r : Req),
      let from_ := leAt r.payload 0 8
      let n := min (leAt r.payload 16 4) (s.ledger.next - from_)
      let idx := (List.range n).map (fun i => from_ + i)
      (Accepted s k 0x0902 r → domainsUp s = true → ledgerReadFields s r.payload = true → ledgerHas s from_ = true →
        idx.flatMap (fun q => poisonedIn s (ledgerAddr q) 64) = [] → s.host.d3hot = false →
        Completes (.ledgerRead k true) s (fun t =>
          Answered { s with hostOut := s.hostOut ++ [OutMsg.write (leAt r.payload 8 8)
            (idx.flatMap (fun q => memRead s (ledgerAddr q) 64))] } t k r 0 (leBytes 4 n ++ zeros 4))) ∧
      (Accepted s k 0x0903 r → domainsUp s = true → ledgerHas s from_ = true → s.ledger.next ≤ from_ + 262144 →
        Completes (.ledgerAck k) s (fun t => t.ledger.oldest = from_ + 1 ∧
          t.ledger.next = s.ledger.next + (if s.ledger.suppressed ≠ 0 ∧ s.ledger.next < from_ + 262144 then 2 else 1) ∧
          (s.ledger.next < from_ + 262144 → t.ledger.suppressed = 0) ∧ leAt (slotBytes t k.val) 8 2 = 0 ∧
          leAt (slotBytes t k.val) 16 4 = t.ledger.next - t.ledger.oldest)) ∧
      (AcceptedChange s k 0x0A01 r → traceConfigFields s r.payload = true →
        let moved := leAt r.payload 1 1 ≠ s.obs.dest ∨ leAt r.payload 2 1 ≠ s.obs.log2 ∨ leAt r.payload 8 8 ≠ s.obs.hostAddr
        Completes (.traceConfig k) s (fun t => t.obs.pondMask = leAt r.payload 0 1 ∧ t.obs.dest = leAt r.payload 1 1 ∧
          t.obs.log2 = leAt r.payload 2 1 ∧ t.obs.hostAddr = leAt r.payload 8 8 ∧ t.obs.timebaseDue = true ∧
          (moved → t.obs.trcTail = 0 ∧ t.obs.trcHead = 0) ∧
          (¬ moved → t.obs.trcTail = s.obs.trcTail ∧ t.obs.trcHead = s.obs.trcHead) ∧
          (∀ p, bitAt (leAt r.payload 0 1) p = false → (tgetD t.obs.ponds p {}).recs = []) ∧
          ∃ v, v = { s with obs := t.obs } ∧ Logged v t k r 0 0 [])) ∧
      (Accepted s k 0x0A02 r → domainsUp s = true → leAt r.payload 0 8 % 64 = 0 → leAt r.payload 8 2 < 0xFFF →
        leAt r.payload 10 6 = 0 → s.host.d3hot = false →
        Completes (.counterSnapshot k true) s (fun t =>
          Answered { s with hostOut := s.hostOut ++ [OutMsg.write (leAt r.payload 0 8) (snapshot s (leAt r.payload 8 2))] } t k r 0
            (leBytes 4 (snapshot s (leAt r.payload 8 2)).length ++ zeros 4)))) ∧
    (alive s = true → ready s = true → obsRuns s = true → s.obs.dest = 1 → s.host.d3hot = false → s.obs.timebaseDue = false →
      let size := 2 ^ s.obs.log2
      let recs := (takeRecs (min 32 (min (size - 1 - trcHeld s) (size - s.obs.trcTail))) s).1
      recs ≠ [] →
      Completes .traceExport s (fun t =>
        t.hostOut = s.hostOut ++ [OutMsg.write (s.obs.hostAddr + 16 * s.obs.trcTail) (recs.flatMap trcBytes)] ∧
        t.obs.trcTail = (s.obs.trcTail + recs.length) % size ∧
        t = { s with obs.ponds := t.obs.ponds, obs.trcTail := t.obs.trcTail, hostOut := t.hostOut })) ∧
    (alive s = true → ready s = true → obsRuns s = true →
      ∀ p, (maskBits s.obs.pondMask 8).head? = some p → (tgetD s.obs.ponds p {}).dropped = 0 →
      (tgetD s.obs.ponds p {}).recs.length < 16384 →
      Completes .timebase s (fun t =>
        (tgetD t.obs.ponds p {}).recs = (tgetD s.obs.ponds p {}).recs
          ++ [{ w0 := 1 + 2 ^ 14 + (s.eft.time / 4) % 2 ^ 32 * 2 ^ 32, w1 := s.eft.time }] ∧
        (∀ q, q ≠ p → tgetD t.obs.ponds q {} = tgetD s.obs.ponds q {}) ∧ ctr t 0x808 = ctr s 0x808 + 1 ∧
        t = { s with obs.ponds := t.obs.ponds, obs.ctr := t.obs.ctr }))

/-- A begin starts staging anew; data within the announced length is kept by offset; the end verifies under R98:
BAD_IMAGE and ROLLBACK are refused without effect, and a good image stands in the slot that is not COMMITTED and as
the verified copy. An activation without a staged image is refused; one on a quiet tray sets TRIAL to the staged slot, idles
Swifort and gives no response yet, and until the tray is quiet it waits. A commit of
the running trial image makes its slot COMMITTED and raises the rollback counter to its SVN. Rests on
04_startup_and_reset.md R98, R108, R109, R111, 06_mailboxes.md R157, 07_management_commands.md R161, R190, R191. -/
def Obligations.FirmwareCommands : Prop :=
  ∀ (s : State) (k : SlotId) (r : Req),
    (Accepted s k 0x0C01 r → fwBeginFields s r.payload = true →
      Completes (.fwStageBegin k) s (fun t =>
        Answered { s with boot.staging := some { length := leAt r.payload 0 4, got := [] } } t k r 0 [])) ∧
    (∀ st (data : List Byte), Accepted s k 0x0C02 r → fwDataFields s r.payload = true →
      s.boot.staging = some st → leAt r.payload 0 4 + leAt r.payload 4 4 ≤ st.length → leAt r.payload 4 4 ≤ data.length →
      Completes (.fwStageData k (.ok data)) s (fun t => ∃ got,
        (∀ i, i < leAt r.payload 4 4 → tget got (leAt r.payload 0 4 + i) = data[i]?) ∧
        (∀ i, (i < leAt r.payload 0 4 ∨ leAt r.payload 0 4 + leAt r.payload 4 4 ≤ i) → tget got i = tget st.got i) ∧
        Answered { s with boot.staging := some { st with got := got } } t k r 0 [])) ∧
    (∀ st, AcceptedChange s k 0x0C03 r → s.boot.staging = some st → st.length ≤ st.got.length →
      let b := st.got.map (·.2)
      Completes (.fwStageEnd k) s (fun t => match verifyImage b s.boot.rollback with
        | .bad => Answered s t k r 0x0140 []
        | .rollback => Answered s t k r 0x0141 []
        | .ok => Logged { s with boot.slotA := if s.boot.committed then some b else s.boot.slotA,
                                 boot.slotB := if s.boot.committed then s.boot.slotB else some b,
                                 boot.staging := none, boot.staged := some (!s.boot.committed, b), eft.digest := sha384 b } t k r 0 0
            (leBytes 4 (imgVersion b) ++ leBytes 2 (imgSvn b) ++ leBytes 1 (if s.boot.committed then 0 else 1) ++ zeros 1))) ∧
    (AcceptedChange s k 0x0C04 r → s.boot.staged = none →
      Completes (.fwActivate k) s (fun t => Answered s t k r 0x0142 [])) ∧
    (∀ slot b, AcceptedChange s k 0x0C04 r → s.boot.staged = some (slot, b) →
      (activationFree s k.val = false → exec (.fwActivate k) s = .next s) ∧
      (fabricQuiet s = true → s.swi.sb = [] → s.swi.early = [] → s.swi.cb = [] → s.mbx.latched = [] →
        s.mbx.reqs.all (fun p => p.1 == k.val) = true →
        Completes (.fwActivate k) s (fun t => t.boot.trial = some slot ∧ t.boot.kind = .fwActivate ∧
          t.boot.todo = [.verify] ∧ t.swi = { s.swi with run := .idle } ∧ t.fab.withdrawn = true ∧
          t.boot.gap = some { slot := k.val, restarted := true, reverted := false, trialVersion := imgVersion b } ∧
          t.ledger.next = s.ledger.next + 1 ∧ t.mbx.reqs = s.mbx.reqs ∧ t.mbx.own = s.mbx.own ∧ t.mbx.done = s.mbx.done ∧
          t.cores = s.cores ∧ t.dsp = s.dsp ∧ t.store = s.store ∧ t.rings = s.rings))) ∧
    (AcceptedChange s k 0x0C05 r → trialRuns s = true →
      Completes (.fwCommit k) s (fun t => some t.boot.committed = s.boot.trial ∧ t.boot.trial = none ∧
        t.boot.rollback = max s.boot.rollback s.boot.svn ∧ s.ledger.next < t.ledger.next ∧
        (s.boot.svn ≤ s.boot.rollback → t.ledger.next = s.ledger.next + 1) ∧ leAt (slotBytes t k.val) 8 2 = 0 ∧
        leAt (slotBytes t k.val) 16 2 = max s.boot.rollback s.boot.svn % 2 ^ 16 ∧ t.store = s.store ∧ t.dsp = s.dsp))

/-- A read of the descriptor at HEAD keeps its eight words; a failure is reported by AER, the first is retried, and the second stops
the ring with RING_READ_FAULT. A ring is checked when its turn has come, and the turn passes to the next ring. In its turn a copy
with bad fields ends in one completion with INVALID_FIELD, and
HEAD moves on. A RUN or STREAM copy that passes every check, for which check 15 finds a chain on this tray and no
co-batch partner stands, becomes the job of one slot, in order, with its chain; its completion slot is reserved,
HEAD moves on, and no other job changes. Rests on 05_host_link_and_registers.md R118, 08_jobs_and_dispatch.md R195, R197, R199, R200, R202, R203, R204,
R205, R210, Table 8-4. -/
def Obligations.DescriptorsAreReadCheckedAndAdmitted : Prop :=
  ∀ (s : State) (r : RingId), domainsUp s = true → (ring s r.val).configured = true → (ring s r.val).destroying = false →
    let g := ring s r.val
    (s.host.d3hot = false → g.stopped = false → g.copy = none → g.sqHead ≠ g.sqTail →
      (∀ w0 w1 w2 w3 w4 w5 w6 w7, Completes (.descriptorRead r (.ok w0 w1 w2 w3 w4 w5 w6 w7)) s (fun t =>
        (ring t r.val).copy = some [w0, w1, w2, w3, w4, w5, w6, w7] ∧ (ring t r.val).sqHead = g.sqHead ∧
        (∀ q, q ≠ r.val → ring t q = ring s q) ∧ t = { s with rings := t.rings })) ∧
      (∀ bad, (bad = .timeout ∨ bad = .poisoned) → Completes (.descriptorRead r bad) s (fun t =>
        (if bad = .poisoned then AerErr.poisoned else AerErr.timeout) ∈ t.host.cfg.aerStatus ∧
        (g.reads = 0 → (ring t r.val).reads = 1 ∧ (ring t r.val).stopped = false ∧
          t = { s with rings := t.rings, host.cfg := t.host.cfg, hostOut := t.hostOut }) ∧
        (g.reads ≠ 0 → (ring t r.val).stopped = true ∧ (ring t r.val).stopCause = 0x0212 ∧
          (slotFree g = true → (ring t r.val).faultDue = false ∧ ctr t 0x8 = ctr s 0x8 + 1) ∧
          (slotFree g = false → (ring t r.val).faultDue = true))))) ∧
    let s1 : State := { s with dsp.turn := (r.val + 1) % 256 }
    (∀ partners, nextTurn s ≠ some r.val → exec (.admissionCheck r partners) s = .next s) ∧
    (∀ d partners, nextTurn s = some r.val → copyOf g = some d → slotFree g = true → chkFields g d ≠ .pass → g.claim = none →
      Completes (.admissionCheck r partners) s (fun t => (ring t r.val).sqHead = (g.sqHead + 1) % 2 ^ g.log2 ∧
        (ring t r.val).copy = none ∧ (ring t r.val).cqIdx = (g.cqIdx + 1) % 2 ^ g.log2 ∧ ctr t 0x10 = ctr s 0x10 + 1 ∧
        t.dsp = s1.dsp ∧ (∀ q, q ≠ r.val → ring t q = ring s q) ∧ t.store = s.store ∧ t.mem = s.mem ∧
        (s.host.d3hot = false →
          let x : Compl := { status := 0x0102, sqIndex := g.sqHead, cookie := d.cookie, stamp := headStamp s g, irq := d.irq,
                             tcid := d.tcid }
          OutMsg.write (g.cqAddr + 32 * g.cqIdx) (complBytes s g x) ∈ t.hostOut))) ∧
    (∀ d m u chain tag joined, nextTurn s = some r.val → copyOf g = some d → slotFree g = true → chkFields g d = .pass → d.epoch = g.epoch →
      tenantActive s d.tcid = true → d.kind ≠ kStop → chkImage s1 d = .pass → chkAdmit s1 g d = .pass →
      candOf s1 r.val d d.exts = some m → g.claim = none → partsOf m = [] →
      assign s1 [m] s.dsp.nextOrder = .chain u chain tag joined →
      Completes (.admissionCheck r []) s (fun t => ∃ slot j, tget t.dsp.jobs slot = some j ∧ j.order = s.dsp.nextOrder ∧
        j.tcid = d.tcid ∧ j.image = d.image ∧ j.cookie = d.cookie ∧ j.ring = r.val ∧ j.sqIndex = g.sqHead ∧ j.chain = chain ∧
        j.tag = tag ∧ j.quench = none ∧ j.epoch = g.epoch ∧ (∀ i, i ≠ slot → tget t.dsp.jobs i = tget s.dsp.jobs i) ∧
        t.dsp.nextOrder = s.dsp.nextOrder + 1 ∧ (ring t r.val).sqHead = (g.sqHead + 1) % 2 ^ g.log2 ∧
        (ring t r.val).copy = none ∧ (ring t r.val).reserved = g.reserved + 1 ∧ ctr t 0x0 = ctr s 0x0 + 1))

/-- An occupant zero-fill clears every ON bank of the core that is neither RES nor retired, its accumulators, masks
and targets, and nothing else in memory. A staging order that reads clean leaves the queue with its copies
performed; a tier A copy holds its source's bytes. The loader gives an idle core its section: code, entry and a
running sequencer. A feed within its credits reads the rows of its next tile and sends them as one token. Rests on
02_tenants_and_commons.md R47, R49, 09_cores_and_scratchpad.md R251, 19_tier_memory.md R475,
17_tiling_buckets_and_chains.md R429, R434, R442, R443, 11_sequencer_and_tile_instructions.md R284. -/
def Obligations.CoresAreFilledStagedAndLoaded : Prop :=
  ∀ s : State, domainsUp s = true →
    (∀ c : CoreId, (Machine.core s c.val).filling = true →
      let mine (a : Nat) : Prop := ∃ b ∈ fillBanks s c.val, spBase c.val + b * 0x40000 ≤ a ∧ a < spBase c.val + (b + 1) * 0x40000
      Completes (.zeroFillDone c) s (fun t => (∀ a, mine a → mget t.mem a = 0) ∧ (∀ a, ¬ mine a → mget t.mem a = mget s.mem a) ∧
        (Machine.core t c.val).filling = false ∧ (Machine.core t c.val).acc = [] ∧ (Machine.core t c.val).maskReg = [] ∧ (Machine.core t c.val).atgt = [] ∧
        (Machine.core t c.val).seq.g = [])) ∧
    (∀ n o src size ta, n < 16 → s.store.orders[n]? = some o → stageSource s o.obj = some (src, size, ta) → s.ecc.poison = [] →
      s.ecc.latent = [] → noHold s = true →
      Completes (.stagingDone n .clean) s (fun t => t.store.orders = s.store.orders.eraseIdx n ∧
        (∀ y ∈ t.store.spCopies, y.obj = o.obj → y.core ∈ o.cores → y.done = true) ∧
        (∀ a i, ta = some a → o.obj = .region i → ∀ g, tget s.store.regions i = some g →
          ∃ x p, tget t.store.regions i = some { g with copy := some x, pinned := p } ∧ (g.pinned ≠ none → p = g.pinned) ∧
            x.done = true ∧ x.base = a) ∧
        (∀ a, ta = some a → (∃ i, o.obj = .region i) → s.store.spCopies = [] → Memory.wf s.mem = true →
          (src + size ≤ a ∨ a + size ≤ src) → ∀ i, i < size → mget t.mem (a + i) = mget s.mem (src + i)))) ∧
    (∀ (c : CoreId) w id x, (Machine.core s c.val).work = some w → sectionOf s w c.val = some id → secDesc s id = some x →
      (Machine.core s c.val).filling = false → (Machine.core s c.val).seq.run = .idle → (Machine.core s c.val).sec ≠ some id →
      (members s w).any (staging s) = false → (Machine.core s c.val).bank31.any (fun b => b.1 == id.1 && b.2.1 == id.2) = true →
      s.ecc.poison = [] → s.ecc.latent = [] → (bank s (c.val * 32 + 31)).retired = false →
      Completes (.configLoad c .clean) s (fun t => (Machine.core t c.val).sec = some id ∧ (Machine.core t c.val).work = some w ∧
        (Machine.core t c.val).seq.run = .run ∧ (Machine.core t c.val).seq.pc = pcOf (BitVec.ofNat 64 x.entry) ∧ (Machine.core t c.val).imem = numbered x.code ∧
        (Machine.core t c.val).codeLen = 4 * x.code.length ∧ (Machine.core t c.val).drn = numbered x.drn ∧ t.dsp.parts = s.dsp.parts ∧
        t.store = s.store)) ∧
    (∀ (c : CoreId) (n : Fin 4) f w base size v, (Machine.core s c.val).seq.run ≠ .idle → (Machine.core s c.val).feeds[n.val]? = some f →
      (Machine.core s c.val).work = some w → f.walk.done = false → walkOk f.walk.w (Machine.core s c.val).ext = true →
      feedSource s w f.desc.source = some (base, size, v) →
      let d := f.desc
      let units := cdiv (d.rowBytes * d.rowsPerTile) 4096
      let ix (i : Nat) : Nat := walkIdx f.walk (Machine.core s c.val).ext i
      let a := base + Config.feedTile (ix 0) (ix 1) (ix 2) (ix 3) d.rowBytes d.rowsPerTile d.pitch
                % (size - ((d.rowsPerTile - 1) * d.pitch + d.rowBytes) + 1)
      units ≤ f.credits → s.ecc.latent = [] →
      (∀ i, i < d.rowsPerTile → endpoint s v (a + i * d.pitch) d.rowBytes false = .ok ∧ poisonedIn s (a + i * d.pitch) d.rowBytes = []) →
      let data := (List.range d.rowsPerTile).flatMap (fun i => mread s.mem (a + i * d.pitch) d.rowBytes)
      let m : TokMsg := { writer := 0, core := 64, ord := 0, dcore := c.val, dreg := d.dest, tag := workTag s w, units := units,
                          data := data, work := w, gen := workGen s w, tcid := workTcid s w }
      let f' : Feed := { f with walk := (walkNext f.walk (Machine.core s c.val).ext).2, credits := f.credits - units }
      Completes (.feedToken c n) s (fun t => t.net.toks = s.net.toks ++ [m] ∧
        (Machine.core t c.val).feeds = (Machine.core s c.val).feeds.set n.val f' ∧ (∀ d, d ≠ c.val → Machine.core t d = Machine.core s d) ∧
        t = { s with net.toks := t.net.toks, cores := t.cores }))

/-- At its deadline a job that is not quenched starts a quench with DEADLINE_MISSED. An acknowledgement that is not
the last strikes its unit off, and one of an older generation is discarded and counted in DSP_LATE_DROPS; at the bound every unit that is missing goes to FAULT and the job is gone. A job
whose cores have all ended posts its one completion at the ring's index, and its slot is free with the next
generation. A stream's release tick takes a completion slot and starts the frame, or skips it when none is free. A
round whose cores have all ended starts the next. Rests on 08_jobs_and_dispatch.md R202, R205, R212, R213, R214,
R216, R218, R219, 17_tiling_buckets_and_chains.md R445, 23_faults_checks_and_repair.md R563. -/
def Obligations.JobsEndQuenchAndAdvance : Prop :=
  ∀ (s : State) (j : JobId) (x : Job), domainsUp s = true → tget s.dsp.jobs j.val = some x →
    let gone (t : State) : Prop := tget t.dsp.jobs j.val = none ∧ tgetD t.dsp.gens j.val 0 = x.gen + 1
    (x.quench = none → x.stream = none → x.stamp + x.deadline ≤ s.eft.tick →
      Completes (.deadlineExpiry j) s (fun t => ∃ y q, tget t.dsp.jobs j.val = some y ∧ y.quench = some q ∧ q.status = 0x0201 ∧
        q.start = s.eft.tick ∧ (∀ i, i ≠ j.val → tget t.dsp.jobs i = tget s.dsp.jobs i) ∧ t.rings = s.rings)) ∧
    (∀ q u, x.quench = some q → u ∈ q.units → (q.units.filter (· != u) ≠ [] ∨ q.remote ≠ []) →
      s.cores.all (fun p => p.2.gather.isNone) = true →
      let y : Job := { x with quench := some { q with units := q.units.filter (· != u) } }
      exec (.quenchAck j { gen := x.gen, unit := u }) s = .next { s with dsp.jobs := tset s.dsp.jobs j.val y }) ∧
    (∀ g u, x.quench = none → g ≠ x.gen → s.dsp.parts = [] →
      Completes (.quenchAck j { gen := g, unit := u }) s (fun t => ctr t 0x20 = ctr s 0x20 + 1 ∧ t = { s with obs.ctr := t.obs.ctr })) ∧
    (∀ q, x.quench = some q → x.stream = none → x.superseded = false → s.eft.tick ≥ q.start + quenchBound x →
      Completes (.quenchBoundExpiry j true) s (fun t => gone t ∧
        (∀ u ∈ q.units, u ≠ moverUnit → (unitRec t u).health = .fault) ∧
        ((ring s x.ring).destroying = false →
          (ring t x.ring).cqIdx = ((ring s x.ring).cqIdx + 1) % 2 ^ (ring s x.ring).log2))) ∧
    (jobEnded s j.val x = true → x.stream = none →
      Completes (.completionPost j) s (fun t => gone t ∧ ctr t 0x8 = ctr s 0x8 + 1 ∧ (s.host.d3hot = false →
        ∃ more, t.hostOut = s.hostOut ++ OutMsg.write ((ring s x.ring).cqAddr + 32 * (ring s x.ring).cqIdx)
          (complBytes s (ring s x.ring) (jobCompl x 0 0)) :: more))) ∧
    (∀ st, x.stream = some st → st.ending = false → x.quench = none → st.admitted + st.released * st.period ≤ s.eft.tick →
      (slotFree (ring s x.ring) = false →
        let y : Job := { x with stream := some { st with released := st.released + 1, skipped := st.skipped + 1 } }
        exec (.frameRelease j) s = .next { s with dsp.jobs := tset s.dsp.jobs j.val y }) ∧
      (slotFree (ring s x.ring) = true → x.frame = none →
        Completes (.frameRelease j) s (fun t => ∃ y, tget t.dsp.jobs j.val = some y ∧
          y.frame = some (st.released, st.admitted + st.released * st.period) ∧
          y.stream = some { st with released := st.released + 1 } ∧ y.ended = [] ∧
          (ring t x.ring).reserved = (ring s x.ring).reserved + 1))) ∧
    (x.quench = none → (x.stream = none ∨ x.frame ≠ none) → x.group = [] → x.round + 1 < roundsOf s j.val →
      x.chain.all (fun p => x.ended.contains p.2) = true →
      Completes (.roundAdvance j) s (fun t => tget t.dsp.jobs j.val = some { x with round := x.round + 1, ended := [] } ∧
        (∀ i, i ≠ j.val → tget t.dsp.jobs i = tget s.dsp.jobs i) ∧ t.rings = s.rings ∧ t.store = s.store ∧ t.mem = s.mem))

/-- When a sequencer executes a row of format R (ADD, SUB, AND, OR, XOR, SLL, SRL, SRA, SLT, SLTU, MIN, MAX, MINU,
MAXU, MUL, MULH, MULHU, DIV, DIVU, REM, REMU), gd takes the result of ga and gb, the program counter moves on by 4
and the instruction retires. A write to g0 is discarded and g0 reads zero. Shifts take gb[5:0]; a divisor of 0 gives
all ones and the dividend, and the most negative value over -1 gives itself and 0. Other registers, memory and the
rest of the tray are as before. Rests on 11_sequencer_and_tile_instructions.md R281, R285, R286, R290, R292, Table
11-4. -/
def Obligations.RegisterRowsWriteTheirResult : Prop :=
  ∀ (s : State) (ag : Agent) (gd ga gb : RegId),
    let q := seqOf s ag.val
    let x := gget q ga
    let y := gget q gb
    let gives (i : Instr) (v : Word) : Prop := Fetches s ag i → Completes i s (fun t =>
      SeqStep s t ag.val ((gset q gd v).next (q.pc + 4)) 1 (nextLine q.pc))
    (∀ r v, gget (gset q gd v) r = if r = gd ∧ gd.val ≠ 0 then v else gget q r) ∧ gget q 0 = 0 ∧
    gives (.add ag gd ga gb) (x + y) ∧ gives (.sub ag gd ga gb) (x - y) ∧ gives (.and ag gd ga gb) (x &&& y) ∧
    gives (.or ag gd ga gb) (x ||| y) ∧ gives (.xor ag gd ga gb) (x ^^^ y) ∧
    gives (.sll ag gd ga gb) (BitVec.ofNat 64 (x.toNat * 2 ^ (y.toNat % 64))) ∧
    gives (.srl ag gd ga gb) (BitVec.ofNat 64 (x.toNat / 2 ^ (y.toNat % 64))) ∧
    gives (.sra ag gd ga gb) (BitVec.ofInt 64 (x.toInt / 2 ^ (y.toNat % 64))) ∧
    gives (.slt ag gd ga gb) (if x.toInt < y.toInt then 1 else 0) ∧ gives (.sltu ag gd ga gb) (if x.toNat < y.toNat then 1 else 0) ∧
    gives (.min ag gd ga gb) (BitVec.ofInt 64 (min x.toInt y.toInt)) ∧
    gives (.max ag gd ga gb) (BitVec.ofInt 64 (max x.toInt y.toInt)) ∧
    gives (.minu ag gd ga gb) (BitVec.ofNat 64 (min x.toNat y.toNat)) ∧
    gives (.maxu ag gd ga gb) (BitVec.ofNat 64 (max x.toNat y.toNat)) ∧
    gives (.mul ag gd ga gb) (BitVec.ofNat 64 (x.toNat * y.toNat)) ∧
    gives (.mulh ag gd ga gb) (BitVec.ofInt 64 (x.toInt * y.toInt / 2 ^ 64)) ∧
    gives (.mulhu ag gd ga gb) (BitVec.ofNat 64 (x.toNat * y.toNat / 2 ^ 64)) ∧
    gives (.div ag gd ga gb) (if y = 0 then BitVec.allOnes 64 else BitVec.ofInt 64 (x.toInt.tdiv y.toInt)) ∧
    gives (.divu ag gd ga gb) (if y = 0 then BitVec.allOnes 64 else BitVec.ofNat 64 (x.toNat / y.toNat)) ∧
    gives (.rem ag gd ga gb) (if y = 0 then x else BitVec.ofInt 64 (x.toInt.tmod y.toInt)) ∧
    gives (.remu ag gd ga gb) (if y = 0 then x else BitVec.ofNat 64 (x.toNat % y.toNat))

/-- When a sequencer executes ADDI, ANDI, ORI, XORI, SLLI, SRLI, SRAI, SLTI, SLTIU, LUI or AUIPC, gd takes the
result, the immediate being sign-extended to 64 bits, the program counter moves on by 4 and the instruction retires.
SLTIU compares the sign-extended immediate without sign. A write to g0 is discarded. Other registers, memory and the
rest of the tray are as before. Rests on 11_sequencer_and_tile_instructions.md R281, R285, R286, Table 11-4. -/
def Obligations.ImmediateRowsWriteTheirResult : Prop :=
  ∀ (s : State) (ag : Agent) (gd ga : RegId) (imm : BitVec 15) (sh : BitVec 6) (up : BitVec 20),
    let q := seqOf s ag.val
    let x := gget q ga
    let z := BitVec.ofInt 64 imm.toInt
    let gives (i : Instr) (v : Word) : Prop := Fetches s ag i → Completes i s (fun t =>
      SeqStep s t ag.val ((gset q gd v).next (q.pc + 4)) 1 (nextLine q.pc))
    gives (.addi ag gd ga imm) (x + z) ∧ gives (.andi ag gd ga imm) (x &&& z) ∧ gives (.ori ag gd ga imm) (x ||| z) ∧
    gives (.xori ag gd ga imm) (x ^^^ z) ∧
    gives (.slli ag gd ga sh) (BitVec.ofNat 64 (x.toNat * 2 ^ sh.toNat)) ∧
    gives (.srli ag gd ga sh) (BitVec.ofNat 64 (x.toNat / 2 ^ sh.toNat)) ∧
    gives (.srai ag gd ga sh) (BitVec.ofInt 64 (x.toInt / 2 ^ sh.toNat)) ∧
    gives (.slti ag gd ga imm) (if x.toInt < imm.toInt then 1 else 0) ∧
    gives (.sltiu ag gd ga imm) (if x.toNat < z.toNat then 1 else 0) ∧
    gives (.lui ag gd up) (BitVec.ofInt 64 (up.toInt * 4096)) ∧
    gives (.auipc ag gd up) (q.pc + BitVec.ofInt 64 (up.toInt * 4096))

/-- An aligned load whose address its agent may read waits for its data, or takes its bytes from the youngest store
buffer entry that covers it; LDRES always waits. When clean data return from memory and no earlier store stands in
the way, gd takes the bytes, with a core's own gathered bytes in their place, sign- or zero-extended, and a reserved
load places its reservation. A load of WLKn_NEXT returns the walk's next combination and the walk advances. Rests on
10_memory_ordering.md R257, R261, R267, 11_sequencer_and_tile_instructions.md R287, R288, 09_cores_and_scratchpad.md
R230, R233, 17_tiling_buckets_and_chains.md R428. -/
def Obligations.LoadsIssueAndReturn : Prop :=
  ∀ (s : State) (ag : Agent) (gd ga : RegId) (imm : BitVec 15),
    let q := seqOf s ag.val
    let ea := gget q ga + BitVec.ofInt 64 imm.toInt
    let into (q : Seq) (r : Nat) (v : Word) : Seq := (if r = 0 then q else { q with g := tset q.g r v }).next (q.pc + 4)
    let extend (signed : Bool) (n : Nat) (bs : List Byte) : Word :=
      if signed then BitVec.ofInt 64 (BitVec.ofNat (8 * n) (ofLeBytes bs)).toInt else BitVec.ofNat 64 (ofLeBytes bs)
    let issues (i : Instr) (n : Nat) (signed reserve : Bool) : Prop := ∀ a, Fetches s ag i → ea.toNat % n = 0 →
      (target s ag.val ea n false = .mem a ∧ Permitted s (agTcid s ag.val) a n false ∧
          (∀ l ∈ q.cb, l.addr + 64 ≤ a ∨ a + n ≤ l.addr)
        ∨ (target s ag.val ea n false = .ctl a ∧ reserve = false)) →
      let l : Load := { ea := ea, addr := a, size := n, signed := signed, gd := gd.val, reserve := reserve }
      Completes i s (fun t => match (if reserve then none else forward q.sb a n) with
        | some bs => SeqStep s t ag.val (into q gd.val (extend signed n bs)) 1 (nextLine q.pc)
        | none => SeqStep s t ag.val { q with run := .load l } 0 (nextLine q.pc))
    issues (.ld1 ag gd ga imm) 1 true false ∧ issues (.ld2 ag gd ga imm) 2 true false ∧ issues (.ld4 ag gd ga imm) 4 true false ∧
    issues (.ld8 ag gd ga imm) 8 false false ∧ issues (.ld1u ag gd ga imm) 1 false false ∧ issues (.ld2u ag gd ga imm) 2 false false ∧
    issues (.ld4u ag gd ga imm) 4 false false ∧ issues (.ldres ag gd ga imm) 8 false true ∧
    (∀ l, q.run = .load l → agRuns s ag.val = true → loadMayGo s ag.val l = true →
      (inTierA l.addr || inTierB l.addr || inSp l.addr) = true → poisonedIn s l.addr l.size = [] → s.ecc.latent = [] →
      (64 ≤ ag.val → inSp l.addr = true → (Machine.core s (spCore l.addr)).gb = []) →
      let mem := mread s.mem l.addr l.size
      let v := extend l.signed l.size (if ag.val < 64 then overlay (Machine.core s ag.val).gb l.addr mem else mem)
      let q' := into q l.gd v
      Completes (.loadDataReturn ag .clean) s (fun t => SeqStep s t ag.val
        (if l.reserve then { q' with res := some (l.addr / 64), hold := true, since := if q'.defer = 0 then 0 else q'.since } else q') 1 0)) ∧
    (∀ (c : CoreId) (n : Fin 8) l, ag.val = c.val → q.run = .load l → agRuns s ag.val = true → loadMayGo s ag.val l = true →
      ctlBase c.val ≤ l.addr → l.addr < ctlBase c.val + 0x10000 → l.addr % 0x10000 = 0x900 + 0x40 * n.val + 0x20 →
      l.gd = gd.val → l.size = 8 → l.signed = false → l.reserve = false →
      let k := Machine.core s c.val
      let x := tgetD k.walks n.val {}
      walkOk x.w k.ext = true →
      Completes (.wlkNext c n gd) s (fun t => SeqStep (setCore s c.val { k with walks := tset k.walks n.val (walkNext x k.ext).2 }) t
        c.val (into q gd.val (BitVec.ofNat 64 (walkNext x k.ext).1)) 1 0))

/-- An aligned store enters the store buffer while it has a place; a non-temporal one to tier memory enters the
combining buffer. A performed store to tier memory writes its bytes and no other byte. A flushed combining or
gathering line writes exactly its valid bytes. STCOND writes its eight bytes and gives 0 while its reservation
covers them, else it writes nothing and gives 1; either way the reservation is gone. The end of a hold leaves all
else. Performed stores to WLKn_RESTART and CHN_RELEASE restart the walk and release the oldest token. Rests on
10_memory_ordering.md R260, R262, R266, R268, R269, R270, 09_cores_and_scratchpad.md R232,
17_tiling_buckets_and_chains.md R428, R436. -/
def Obligations.StoresAreBufferedAndPerformed : Prop :=
  ∀ (s : State) (ag : Agent), Canonical s → s.ecc.poison = [] →
    let q := seqOf s ag.val
    let wrote (t : State) (a : Nat) (bs : List Byte) : Prop := mread t.mem a bs.length = bs ∧
      ∀ x, x < a ∨ a + bs.length ≤ x → mget t.mem x = mget s.mem x
    let flushed (t : State) (l : Line) : Prop :=
      (∀ i, i < 64 → bitAt l.mask i = true → mget t.mem (l.addr + i) = l.data.getD i 0) ∧
      ∀ x, (∀ i, i < 64 → bitAt l.mask i = true → x ≠ l.addr + i) → mget t.mem x = mget s.mem x
    (∀ (gb ga : RegId) (imm : BitVec 15) a,
      let ea := gget q ga + BitVec.ofInt 64 imm.toInt
      let stores (i : Instr) (n : Nat) : Prop := Fetches s ag i → ea.toNat % n = 0 → q.sb.length < 16 →
        (target s ag.val ea n true = .mem a ∨ target s ag.val ea n true = .ctl a) →
        Completes i s (fun t => SeqStep s t ag.val
          (({ q with sb := q.sb ++ [{ ea := ea, addr := a, data := leBytes n (gget q gb).toNat }] } : Seq).next (q.pc + 4)) 1 (nextLine q.pc))
      stores (.st1 ag gb ga imm) 1 ∧ stores (.st2 ag gb ga imm) 2 ∧ stores (.st4 ag gb ga imm) 4 ∧ stores (.st8 ag gb ga imm) 8 ∧
      (target s ag.val ea 8 true = .ctl a ∨ inSp a = true → stores (.stnt ag gb ga imm) 8) ∧
      (Fetches s ag (.stnt ag gb ga imm) → ea.toNat % 8 = 0 → q.sb.length < 16 → target s ag.val ea 8 true = .mem a → inSp a = false →
        (∀ l ∈ q.cb, l.addr ≠ a / 64 * 64 ∧ lineFull l = false) → q.cb.length < 4 →
        Completes (.stnt ag gb ga imm) s (fun t => SeqStep s t ag.val
          { q.next (q.pc + 4) with cb := q.cb ++ [(Line.new a).merge a (leBytes 8 (gget q gb).toNat)] } 1 (nextLine q.pc)))) ∧
    (∀ e rest, agRuns s ag.val = true → q.run = .run → q.sb = e :: rest → (inTierA e.addr || inTierB e.addr) = true →
      heldOff s ag.val e.addr e.data.length = false → Permitted s (agTcid s ag.val) e.addr e.data.length true →
      Completes (.storePerformed ag) s (fun t => wrote t e.addr e.data ∧ (seqOf t ag.val) = { q with sb := rest } ∧
        (∀ d : Agent, d ≠ ag → resHit (seqOf t d.val) e.addr e.data.length = false) ∧ t.hostOut = s.hostOut ∧ t.dsp = s.dsp ∧ t.store = s.store)) ∧
    (∀ l rest, agRuns s ag.val = true → q.run = .run → q.cb = l :: rest → l.data.length = 64 → l.addr % 64 = 0 →
      (∀ x ∈ rest, x.addr ≠ l.addr) → Permitted s (agTcid s ag.val) l.addr 64 true → heldOff s ag.val l.addr 64 = false →
      Completes (.cbFlushAge ag) s (fun t => flushed t l ∧ seqOf t ag.val = { q with cb := rest } ∧ t.dsp = s.dsp ∧ t.store = s.store)) ∧
    (∀ (c : CoreId) l rest, domainsUp s = true → (Machine.core s c.val).gb = l :: rest → l.data.length = 64 → l.addr % 64 = 0 →
      (∀ x ∈ rest, x.addr ≠ l.addr) →
      Completes (.gbFlushAge c) s (fun t => flushed t l ∧ Machine.core t c.val = { Machine.core s c.val with gb := rest, recs := (Machine.core t c.val).recs } ∧
        t.dsp = s.dsp ∧ t.store = s.store)) ∧
    (∀ (gd ga gb : RegId) a, Fetches s ag (.stcond ag gd ga gb) → (gget q ga).toNat % 8 = 0 →
      target s ag.val (gget q ga) 8 true = .mem a → q.sb = [] → Permitted s (agTcid s ag.val) a 8 true →
      (inSp a = true → (Machine.core s (spCore a)).gb = [] ∧ (ag.val < 64 → rowFree (Machine.core s ag.val) a true = true)) →
      let held := q.res = some (a / 64)
      (held → heldOff s ag.val a 8 = false) →
      Completes (.stcond ag gd ga gb) s (fun t =>
        seqOf t ag.val = (gset { q with res := none, hold := false, since := 0, defer := 0 } gd (if held then 0 else 1)).next (q.pc + 4) ∧
        (held → wrote t a (leBytes 8 (gget q gb).toNat)) ∧ (¬ held → t.mem = s.mem) ∧ t.dsp = s.dsp ∧ t.store = s.store)) ∧
    (agRuns s ag.val = true → s.host.parked = [] → s.fab.reorder = [] → (∀ p ∈ s.cores, p.2.gather = none) →
      exec (.reservationHoldExpiry ag) s = .next (setSeq s ag.val { q with hold := false })) ∧
    (∀ (c : CoreId) e rest, ag.val = c.val → agRuns s ag.val = true → q.run = .run → q.sb = e :: rest → isEarly q e.addr = false →
      (∀ n : Fin 8, e.addr = ctlBase c.val + 0x900 + 0x40 * n.val + 0x28 →
        Completes (.wlkRestart c n) s (fun t => SeqStep
          (setCore s c.val { Machine.core s c.val with walks := tmod (Machine.core s c.val).walks n.val {} (fun x => { w := x.w }) }) t c.val
          { q with sb := rest } 0 0)) ∧
      (∀ (r : Fin 16) tok more w, e.addr = ctlBase c.val + 0xB00 → ofLeBytes e.data % 16 = r.val →
        (circ s c.val r.val).toks = tok :: more → (Machine.core s c.val).work = some w → (circ s c.val r.val).source < 0x5000 →
        Completes (.chnRelease c r) s (fun t =>
          circ t c.val r.val = { circ s c.val r.val with toks := more, head := ((circ s c.val r.val).head + tok.units * 4096) %
            (2 * (circ s c.val r.val).bytes) } ∧
          (∃ m, t.net.creds = s.net.creds ++ [m] ∧ m.core = c.val ∧ m.region = r.val ∧ m.n = tok.units) ∧
          (Machine.core t c.val).seq = { q with sb := rest } ∧ t.mem = s.mem ∧ t.dsp = s.dsp)))

/-- A taken BR, JAL and JALR retire at their target inside the code and fetch its line; a BR not taken goes to the
next instruction; JAL and JALR put the return offset into gd, and JALR reads ga first and clears bits [1:0]. BREAK
outside the handler and an interrupt save the program counter, cause and value, set INTRAP, clear IE and any
reservation and jump to SEQ_TVEC; TIMER goes before TOKEN. ERET returns to SEQ_EPC with INTRAP = 0 and IE = 1. WAIT
stands still until an interrupt is pending, and the timer's end sets TIMER, which ends a WAIT. Rests on
11_sequencer_and_tile_instructions.md R286, R290, R291, R292, R294, R295, R296, Table 11-4, Table 11-6. -/
def Obligations.BranchesTrapsAndInterrupts : Prop :=
  ∀ (s : State) (ag : Agent) (gd ga gb : RegId),
    let q := seqOf s ag.val
    let inside (pc : Word) : Prop := ag.val < 64 → pc.toNat < (Machine.core s ag.val).codeLen
    let jumps (i : Instr) (q' : Seq) (target : Word) : Prop := Fetches s ag i → inside target →
      Completes i s (fun t => SeqStep s t ag.val (q'.next target) 1 1)
    let enters (i : Instr) (cause : Nat) (tval : Word) (lines : Nat) : Prop := inside q.tvec →
      (ag.val < 64 → (Machine.core s ag.val).gb = []) → Completes i s (fun t =>
        seqOf t ag.val = { q with epc := q.pc, cause := cause, tval := tval, intrap := true, ie := false, pc := q.tvec &&& ~~~3#64,
                                  run := .run, res := none, hold := false, since := 0, defer := 0, begun := false } ∧
        (∀ d, d ≠ ag.val → Machine.core t d = Machine.core s d) ∧ t = { s with cores := t.cores, swi := t.swi, obs := t.obs } ∧
        (ag.val < 64 → Machine.core t ag.val = { Machine.core s ag.val with seq := (Machine.core t ag.val).seq, queues := (Machine.core t ag.val).queues } ∧ ctr t (coreCtr ag.val 0x000) = ctr s (coreCtr ag.val 0x000) ∧
          ctr t (coreCtr ag.val 0x008) = ctr s (coreCtr ag.val 0x008) + BitVec.ofNat 64 lines))
    (∀ (cond : BitVec 3) (imm : BitVec 12),
      let x := gget q ga
      let y := gget q gb
      let taken : Bool := match cond.toNat with
        | 0 => decide (x = y) | 1 => decide (x ≠ y) | 2 => decide (x.toInt < y.toInt) | 3 => decide (y.toInt ≤ x.toInt)
        | 4 => decide (x.toNat < y.toNat) | _ => decide (y.toNat ≤ x.toNat)
      (taken = true → jumps (.br ag cond ga gb imm) q (q.pc + BitVec.ofInt 64 (imm.toInt * 4))) ∧
      (taken = false → Fetches s ag (.br ag cond ga gb imm) → Completes (.br ag cond ga gb imm) s (fun t =>
        SeqStep s t ag.val (q.next (q.pc + 4)) 1 (nextLine q.pc)))) ∧
    (∀ imm : BitVec 20, jumps (.jal ag gd imm) (gset q gd (q.pc + 4)) (q.pc + BitVec.ofInt 64 (imm.toInt * 4))) ∧
    (∀ imm : BitVec 15, jumps (.jalr ag gd ga imm) (gset q gd (q.pc + 4)) ((gget q ga + BitVec.ofInt 64 imm.toInt) &&& ~~~3#64)) ∧
    (q.intrap = true → Fetches s ag (.eret ag) → Completes (.eret ag) s (fun t =>
      SeqStep s t ag.val (({ q with intrap := false, ie := true } : Seq).next (q.epc &&& ~~~3#64)) 1 1)) ∧
    (q.intrap = false → Fetches s ag (.brk ag) → enters (.brk ag) 6 0x37 (1 + nextLine q.pc)) ∧
    (Fetches s ag (.wait ag) → Completes (.wait ag) s (fun t =>
      if q.ip = 0 then SeqStep s t ag.val { q with run := .wait } 0 (nextLine q.pc)
      else SeqStep s t ag.val (q.next (q.pc + 4)) 1 (nextLine q.pc))) ∧
    (agRuns s ag.val = true → q.timer ≠ 0 →
      let put : Bool := q.res.isSome && decide (q.since < 16) && !q.ip.getLsbD 0
      let q' : Seq := { q with timer := 0, ip := q.ip ||| 1, defer := if put then q.defer ||| 1 else q.defer }
      (q.run = .run → Completes (.seqTimerExpiry ag) s (fun t => SeqStep s t ag.val q' 0 0)) ∧
      (q.run = .wait → Completes (.seqTimerExpiry ag) s (fun t => SeqStep s t ag.val (q'.next (q.pc + 4)) 1 0))) ∧
    (agRuns s ag.val = true → q.run = .run → q.ie = true → q.begun = false →
      let live (n : Nat) : Bool := q.ip.getLsbD n && q.imask.getLsbD n && !q.defer.getLsbD n
      (live 0 = true → enters (.interrupt ag) 0x10 0 1) ∧
      (live 0 = false → live 1 = true →
        enters (.interrupt ag) 0x11 (BitVec.ofNat 64 q.tokReg) 1))

/-- SYNC with nothing outstanding retires at once, and otherwise waits. QSYNC puts a barrier at the tail of every
engine queue, and TISS puts a tile instruction whose fields are valid at the tail of the queue that ENGINE names,
while there is a place. END places the barrier and waits; with nothing outstanding in the last round it reports its
core's part of the job as done. A SYNC that outlasts its watchdog ends the job with WATCHDOG, and on Swifort writes
a record alone. Rests on 10_memory_ordering.md R274, R275, R276, 11_sequencer_and_tile_instructions.md R289, R302,
R303. -/
def Obligations.BarriersAndTileIssue : Prop :=
  ∀ (s : State) (ag : Agent), let q := seqOf s ag.val
    let placed (k : Core) (in_ : Nat → Prop) (e : QEnt) : Prop :=
      (∀ n, (in_ n → tgetD k.queues n [] = tgetD (Machine.core s ag.val).queues n [] ++ [e]) ∧
            (¬ in_ n → tgetD k.queues n [] = tgetD (Machine.core s ag.val).queues n [])) ∧
      k = { Machine.core s ag.val with queues := k.queues, nextOrd := (Machine.core s ag.val).nextOrd + 1 }
    let bar : QEnt := { inst := 0, bar := true, ord := (Machine.core s ag.val).nextOrd }
    let clean : Prop := q.cb = [] ∧ (ag.val < 64 → (Machine.core s ag.val).gb = [])
    (Fetches s ag (.sync ag) → clean →
      (q.sb = [] → q.early = [] → (ag.val < 64 → anyBarrier (Machine.core s ag.val) = false) →
        Completes (.sync ag) s (fun t => SeqStep s t ag.val (q.next (q.pc + 4)) 1 (nextLine q.pc))) ∧
      (q.sb ≠ [] ∨ q.early ≠ [] → Completes (.sync ag) s (fun t => SeqStep s t ag.val { q with run := .sync } 0 (nextLine q.pc)))) ∧
    (Fetches s ag (.qsync ag) → (∀ n, 1 ≤ n → n ≤ 7 → (tgetD (Machine.core s ag.val).queues n []).length < 16) →
      Completes (.qsync ag) s (fun t => ∃ k, placed k (fun n => 1 ≤ n ∧ n ≤ 7) bar ∧
        SeqStep (setCore s ag.val k) t ag.val (q.next (q.pc + 4)) 1 (nextLine q.pc))) ∧
    (∀ ga gb : RegId, Fetches s ag (.tiss ag ga gb) →
      let i := (gget q ga).toNat + (gget q gb).toNat * 2 ^ 64
      tileOk (Machine.core s ag.val) i = true → (tgetD (Machine.core s ag.val).queues (iEngine i) []).length < 16 →
      Completes (.tiss ag ga gb) s (fun t => ∃ k, placed k (fun n => n = iEngine i) { inst := i, bar := false, ord := (Machine.core s ag.val).nextOrd } ∧
        SeqStep (setCore s ag.val k) t ag.val (q.next (q.pc + 4)) 1 (nextLine q.pc))) ∧
    (Fetches s ag (.endSection ag) → (∀ n, 1 ≤ n → n ≤ 7 → (tgetD (Machine.core s ag.val).queues n []).length < 16) → clean →
      (q.sb ≠ [] → Completes (.endSection ag) s (fun t => ∃ k, placed k (fun n => 1 ≤ n ∧ n ≤ 7) bar ∧
        SeqStep (setCore s ag.val k) t ag.val { q with run := .ending } 0 (nextLine q.pc))) ∧
      (∀ w x, q.sb = [] → q.early = [] → (Machine.core s ag.val).queues = [] → (Machine.core s ag.val).passes = [] → (Machine.core s ag.val).merge = none →
        (Machine.core s ag.val).gather = none → (Machine.core s ag.val).pend = [] → (Machine.core s ag.val).circ = [] → (Machine.core s ag.val).work = some w →
        w < 8192 → tget s.dsp.jobs w = some x → x.group = [] → roundsOf s w ≤ x.round + 1 → noHold s = true →
        Completes (.endSection ag) s (fun t => ∃ y, tget t.dsp.jobs w = some y ∧ y.ended = x.ended ++ [ag.val] ∧ y.quench = x.quench ∧
          (∀ j, j ≠ w → tget t.dsp.jobs j = tget s.dsp.jobs j) ∧ t.mem = s.mem))) ∧
    (agRuns s ag.val = true → (q.run = .sync ∨ q.run = .ending) →
      (64 ≤ ag.val → exec (.syncWatchdog ag) s = .next (latch s 0 (report s 0x10 0 0 0 0 0 100 (syncUnit q)))) ∧
      (∀ w x, ag.val < 64 → (Machine.core s ag.val).work = some w → w < 8192 → tget s.dsp.jobs w = some x → x.group = [] → x.quench = none →
        Completes (.syncWatchdog ag) s (fun t => ∃ y k, tget t.dsp.jobs w = some y ∧ y.quench = some k ∧ k.status = 0x0602 ∧
          k.start = s.eft.tick ∧ (∀ j, j ≠ w → tget t.dsp.jobs j = tget s.dsp.jobs j))))

/-- CRR puts the register into gd for every number of Table 11-1: status, saved pc, cause, value, entries, stopped
timer, pending and masks, scratch, and on a core its number, extents, buckets, windows, regions and attributes. A
running SEQ_TIMER, SEQ_CYCLE and, on Swifort, the core registers read a free value (the model's choice, log entries
11 and 12). CRW writes IE, SEQ_EPC, SEQ_TIMER, SEQ_IMASK and SEQ_SCRATCH, and clears the SEQ_IP bits written 1. PCRR
and PCRW read and write MGT_RATTRn; word 0 keeps its value when BASE or LIMIT breaks R265. Rests on
11_sequencer_and_tile_instructions.md R283, R298, Table 11-1, Table 11-2, 09_cores_and_scratchpad.md Table 9-5,
Table 9-6, 10_memory_ordering.md R265, Table 10-2. -/
def Obligations.ControlRegistersReadAndWrite : Prop :=
  ∀ (s : State) (ag : Agent) (r : RegId) (num : BitVec 12),
    let q := seqOf s ag.val
    let k := Machine.core s ag.val
    let n := num.toNat
    let reads (i : Instr) (v : Word) : Prop := Fetches s ag i → Completes i s (fun t =>
      SeqStep s t ag.val ((gset q r v).next (q.pc + 4)) 1 (nextLine q.pc))
    let readsFree (i : Instr) : Prop := Fetches s ag i → Completes i s (fun t =>
      ∃ v, SeqStep { s with freeCtr := s.freeCtr + 1 } t ag.val ((gset q r v).next (q.pc + 4)) 1 (nextLine q.pc))
    let writes (i : Instr) (q' : Seq) : Prop := Fetches s ag i → Completes i s (fun t =>
      SeqStep s t ag.val (q'.next (q.pc + 4)) 1 (nextLine q.pc))
    let v := gget q r
    let i := Instr.crr ag r num
    let core_ : Prop := ag.val < 64
    let attr (m : Nat) : Nat := if m % 2 = 0 then (tgetD q.rattr (m / 2) (0, 0)).1 else (tgetD q.rattr (m / 2) (0, 0)).2
    (n = 0x000 → reads i (BitVec.ofNat 64 (b2n q.ie + 2 * b2n q.intrap))) ∧ (n = 0x001 → reads i q.epc) ∧
    (n = 0x002 → reads i (BitVec.ofNat 64 q.cause)) ∧ (n = 0x003 → reads i q.tval) ∧ (n = 0x004 → reads i q.tvec) ∧
    (n = 0x005 → reads i q.entry) ∧ (n = 0x006 → if q.timer = 0 then reads i 0 else readsFree i) ∧
    (n = 0x007 → reads i (q.ip.zeroExtend 64)) ∧ (n = 0x008 → reads i q.imask) ∧ (n = 0x009 → reads i q.scratch) ∧
    (n = 0x030 → readsFree i) ∧ (core_ → n = 0x010 → reads i (BitVec.ofNat 64 ag.val)) ∧
    (core_ → ∀ d, d < 4 → (n = 0x020 + d → reads i (BitVec.ofNat 64 (k.ext.getD d 0))) ∧
      (n = 0x024 + d → reads i (BitVec.ofNat 64 (k.bkt.getD d 0))) ∧ (n = 0x040 + d → reads i (BitVec.ofNat 64 (tgetD k.spwin d 0)))) ∧
    (core_ → ∀ c, c < 16 → let x := tgetD k.circ c {}
      (n = 0x080 + 2 * c → reads i (BitVec.ofNat 64 (x.base + x.size * 2 ^ 16 + x.source * 2 ^ 32))) ∧
      (n = 0x081 + 2 * c → reads i (BitVec.ofNat 64 (x.head + x.tail * 2 ^ 32)))) ∧
    (core_ → ∀ m, m < 16 → n = 0x0C0 + m → reads i (BitVec.ofNat 64 (attr m))) ∧
    (¬ core_ → (n = 0x010 ∨ (0x020 ≤ n ∧ n < 0x028) ∨ (0x040 ≤ n ∧ n < 0x044) ∨ (0x080 ≤ n ∧ n < 0x0A0) ∨ (0x0C0 ≤ n ∧ n < 0x0D0)) →
      readsFree i) ∧
    (n = 0x000 → writes (.crw ag r num) { q with ie := v.getLsbD 0 }) ∧ (n = 0x001 → writes (.crw ag r num) { q with epc := v }) ∧
    (n = 0x006 → writes (.crw ag r num) { q with timer := v }) ∧
    (n = 0x007 → writes (.crw ag r num) { q with ip := q.ip &&& ~~~(v.truncate 2), defer := q.defer &&& ~~~(v.truncate 2) }) ∧
    (n = 0x008 → writes (.crw ag r num) { q with imask := v &&& 0xFFFF0003 }) ∧
    (n = 0x009 → writes (.crw ag r num) { q with scratch := v }) ∧
    (∀ m, m < 16 → n = 0x0C0 + m → reads (.pcrr ag r num) (BitVec.ofNat 64 (attr m))) ∧
    ((n < 0x0C0 ∨ 0x0D0 ≤ n) → readsFree (.pcrr ag r num)) ∧
    (∀ m, m < 8 → n = 0x0C0 + 2 * m →
      let ok := decide (0xF0000000 ≤ v.toNat % 2 ^ 32) && decide (v.toNat % 2 ^ 32 ≤ v.toNat / 2 ^ 32)
      writes (.pcrw ag r num) (if ok then { q with rattr := tset q.rattr m (v.toNat, (tgetD q.rattr m (0, 0)).2) } else q)) ∧
    (∀ m, m < 8 → n = 0x0C1 + 2 * m →
      writes (.pcrw ag r num) { q with rattr := tset q.rattr m ((tgetD q.rattr m (0, 0)).1, v.toNat % 4) }) ∧
    ((n < 0x0C0 ∨ 0x0D0 ≤ n) → writes (.pcrw ag r num) q)

/-- On a core that runs a job, an undefined word, a misaligned access, an effective address in space 0b10 or 0b11, a
tile instruction with a bad field, an ERET outside a handler, a CRW to a number that is not writable and a BREAK
inside the handler each stop the sequencer where it is with SEQ_CAUSE and SEQ_TVAL of Table 11-6. The job starts a
quench with the status of that table, and no other job and no byte of memory changes. Rests on
11_sequencer_and_tile_instructions.md R286, R287, R288, R293, R294, R302, Table 11-6. -/
def Obligations.FatalTrapsEndTheWork : Prop :=
  ∀ (s : State) (c : CoreId) (ag : Agent) w x, ag.val = c.val → agRuns s c.val = true → (Machine.core s c.val).seq.run = .run →
    intDue (Machine.core s c.val).seq = false → (Machine.core s c.val).work = some w → w < 8192 → tget s.dsp.jobs w = some x → x.group = [] →
    x.quench = none → noHold s = true →
    let q := (Machine.core s c.val).seq
    let traps (i : Instr) (cause : Nat) (tval : Word) (status : Nat) : Prop := Completes i s (fun t =>
      (Machine.core t c.val).seq.cause = cause ∧ (Machine.core t c.val).seq.tval = tval ∧ (Machine.core t c.val).seq.pc = q.pc ∧ (Machine.core t c.val).seq.run = .idle ∧
      (∃ y k, tget t.dsp.jobs w = some y ∧ y.quench = some k ∧ k.status = status ∧ k.start = s.eft.tick) ∧
      (∀ j, j ≠ w → tget t.dsp.jobs j = tget s.dsp.jobs j) ∧ (s.store.orders = [] → t.mem = s.mem))
    (∀ gd ga gb, seqDecode ag (fetchWord (Machine.core s c.val) q.pc) = none →
      traps (.add ag gd ga gb) 1 (BitVec.ofNat 64 (fetchWord (Machine.core s c.val) q.pc)) 0x0102) ∧
    (∀ gd ga imm, let ea := gget q ga + BitVec.ofInt 64 imm.toInt
      (Fetches s ag (.ld4 ag gd ga imm) → ea.toNat % 4 ≠ 0 → traps (.ld4 ag gd ga imm) 2 ea 0x0102) ∧
      (Fetches s ag (.st8 ag gd ga imm) → ea.toNat % 8 ≠ 0 → traps (.st8 ag gd ga imm) 2 ea 0x0102) ∧
      (Fetches s ag (.ld8 ag gd ga imm) → ea.toNat % 8 = 0 → 2 ^ 63 ≤ ea.toNat → traps (.ld8 ag gd ga imm) 3 ea 0x0501)) ∧
    (∀ ga gb, Fetches s ag (.tiss ag ga gb) →
      tileOk (Machine.core s c.val) ((gget q ga).toNat + (gget q gb).toNat * 2 ^ 64) = false → traps (.tiss ag ga gb) 4 (gget q ga) 0x0102) ∧
    (Fetches s ag (.eret ag) → q.intrap = false → traps (.eret ag) 1 0x36 0x0102) ∧
    (Fetches s ag (.brk ag) → q.intrap = true → traps (.brk ag) 6 0x37 0x0102) ∧
    (∀ ga num, Fetches s ag (.crw ag ga num) → ¬ num.toNat ∈ [0, 1, 6, 7, 8, 9] →
      traps (.crw ag ga num) 1 (BitVec.ofNat 64 (seqEncode (.crw ag ga num))) 0x0102)

/-- An MMA that issues with its operands read becomes the youngest uncommitted pass, whose element (m, n) is the sum
of products over KV, exact modulo 2^32 for integers. The oldest pass with no failed comparison commits: its set
takes the product, or adds it with one rounding when ACCUM is 1, and no other set changes. A first failure is
counted and the pass stands for re-execution; a second makes the core SUSPECT. PRELOAD puts its elements, widened,
into its set. None of them writes memory. Rests on 12_matrix_array.md R311, R313, R317, R318, R323, R324,
13_accumulation_and_drain.md R333, R336, R337, R338, R339, 11_sequencer_and_tile_instructions.md R306. -/
def Obligations.PassesStreamCheckAndCommit : Prop :=
  ∀ (s : State) (c : CoreId) (q : QEnt) (w : Nat),
    let k := Machine.core s c.val
    let i := q.inst
    let sets (t : State) (n : Nat) : AccSet := accSet (Machine.core t c.val) n
    (∀ b, Issues s c.val 1 1 mmaRanges q w → mmaOk i = true → k.passes.length < 8 → mmaInvalid k i = false →
      let ta := etypeOf (mAtype i)
      let tb := etypeOf (mBtype i)
      let s0 := setCore (Taken s c.val 1) c.val (takeRanges (Machine.core (Taken s c.val 1) c.val) 1 q.ord (mmaRanges (Machine.core (Taken s c.val 1) c.val) i))
      let row (win off : Nat) (ty : EType) (n cnt m : Nat) : List Nat :=
        elems ty (mread s.mem (engineAt s c.val win (off + m * pitchOf ty n)) (ty.size cnt)) cnt
      let mayRow (win off : Nat) (ty : EType) (n cnt m : Nat) : Prop := EngineMay s c.val w win (off + m * pitchOf ty n) (ty.size cnt) false
      let a (m : Nat) : List Nat := row (f1Win i) (f1Off i * 64) ta (foldK (mFold i)) (mKv i) m
      (∀ m, m < mMv i → mayRow (f1Win i) (f1Off i * 64) ta (foldK (mFold i)) (mKv i) m) →
      (if mHold i then b = k.heldB
       else if mBfmt i = 0 then
        (∀ kk, kk < mKv i → mayRow (f2Win i) (f2Off i * 64) tb (foldN (mFold i)) (mNv i) kk) ∧
        b = (List.range (mKv i)).map (fun kk => (row (f2Win i) (f2Off i * 64) tb (foldN (mFold i)) (mNv i) kk).map some)
       else ∃ r s1 s2, readTile 1 c.val w (f1Win i) (f1Off i * 64) (pitchOf ta (foldK (mFold i))) (ta.size (mKv i)) (mMv i) s0 = .ok r s1 ∧
        loadB s1 c.val w i = .ok b s2) →
      Completes (.mma c) s (fun t => ∃ p, (Machine.core t c.val).passes = k.passes ++ [p] ∧ p.inst = i ∧ p.ord = q.ord ∧ p.retried = false ∧
        (∀ m n, m < mMv i → n < mNv i → tgetD p.prod (accWord (mFold i) m n) 0 =
          if ta.isInt then
            ((List.range (mKv i)).foldl (fun (z : Int) kk => z + (match bAt b kk n with
              | some y => ta.int ((a m).getD kk 0) * tb.int y | none => 0)) 0 % 2 ^ 32).toNat
          else (passSum ta tb true (a m) (fun kk => bAt b kk n) (mKv i)).1) ∧
        (Machine.core t c.val).heldB = b ∧ (Machine.core t c.val).acc = k.acc ∧ t.mem = s.mem ∧ t.dsp = s.dsp ∧ t.store = s.store)) ∧
    (∀ p rest fails, domainsUp s = true → k.seq.run ≠ .ending → k.passes = p :: rest → mmaOk p.inst = true →
      (p.cmp = [] → fails = [] → (∀ m, m < mMv p.inst → p.rows.any (fun r => r.row == m) = true) →
        let f := mFold p.inst
        let isF := !(etypeOf (mAtype p.inst)).isInt
        Completes (.passCheck c fails) s (fun t => (Machine.core t c.val).passes = rest ∧
          (∀ m n, m < mMv p.inst → n < mNv p.inst → accGet (sets t (iAcc p.inst)) f m n =
            if mAccum p.inst then (accAdd isF (accGet (accSet k (iAcc p.inst)) f m n) (tgetD p.prod (accWord f m n) 0)).1
            else tgetD p.prod (accWord f m n) 0) ∧
          (sets t (iAcc p.inst)).tag = some (isF, f) ∧ (∀ n, n ≠ iAcc p.inst → sets t n = accSet k n) ∧
          t.mem = s.mem ∧ t.dsp = s.dsp ∧ t.store = s.store)) ∧
      (p.cmp ≠ [] → p.retried = false → Completes (.passCheck c fails) s (fun t =>
        (Machine.core t c.val).passes = { p with retried := true } :: rest ∧ (Machine.core t c.val).acc = k.acc ∧
        ctr t (coreCtr c.val 0x050) = ctr s (coreCtr c.val 0x050) + 1 ∧ t.mem = s.mem ∧ t.dsp = s.dsp ∧ t.store = s.store)) ∧
      (p.cmp ≠ [] → p.retried = true → (unitRec s (coreUnit c.val)).health = .good → Completes (.passCheck c fails) s (fun t =>
        (unitRec t (coreUnit c.val)).health = .suspect ∧ (Machine.core t c.val).acc = k.acc))) ∧
    (Issues s c.val 1 2 preloadRanges q w → preloadOk i = true → k.passes = [] →
      let ty := etypeOf (mAtype i)
      let one := bits i 18 2 = 1
      let at_ (m : Nat) : Nat := f1Off i * 64 + m * pitchOf ty (foldN (mFold i))
      (∀ m, m < (if one then 1 else mMv i) → EngineMay s c.val w (f1Win i) (at_ m) (ty.size (mNv i)) false) →
      Completes (.preload c) s (fun t =>
        (∀ m n, m < mMv i → n < mNv i → accGet (sets t (iAcc i)) (mFold i) m n =
          ty.widen (ty.at (mread s.mem (engineAt s c.val (f1Win i) (at_ (if one then 0 else m))) (ty.size (mNv i))) n)) ∧
        (sets t (iAcc i)).tag = some (!ty.isInt, mFold i) ∧ (∀ n, n ≠ iAcc i → sets t n = accSet k n) ∧
        t.mem = s.mem ∧ t.dsp = s.dsp ∧ t.store = s.store))

/-- A DRAIN that issues and may take effect drains MV rows of its set, each element through the program and the
output conversion. OP 0x01 writes each row at its place in the window and no other byte, and DRN_STATUS tells what
the rows met. A ROWSTAT writes the pairs of the rows, eight to a write, and nothing else is written. OP 0x02 sends one
token of whole 4 KiB units with the instruction's tag to the mapped core, and spends its credits. OP 0x03 sends the
token's bytes as WRITE transactions of 480 B to the mapped node, the last one marked, and counts its units. With an
empty program an element is the converted value of the set. The rows are checked against the endpoint under their
owners. Rests on 13_accumulation_and_drain.md R344, R345, R346, R348, R350, R353, Table 13-6,
09_cores_and_scratchpad.md R242, R243, R244, 21_fabric_routing_and_remote_operations.md R527, R528. -/
def Obligations.DrainsWriteSendAndCount : Prop :=
  ∀ (s : State) (c : CoreId) (q : QEnt) (w : Nat),
    let k := Machine.core s c.val
    let i := q.inst
    let p := drainProg k i
    let ty := etypeOf (dOtype i)
    let isF := (drainTag k i).1
    let fold := (drainTag k i).2
    let x := accSet k (iAcc i)
    let y := if dMerge2 i then some (accSet k (dAcc2 i)) else none
    let pitch := drainPitch k i
    let units := drainUnits k i
    let s1 := Taken s c.val 2
    let s0 := if dShadow i then setCore s1 c.val { Machine.core s1 c.val with acc := tset (tset (Machine.core s1 c.val).acc 16 x) (iAcc i) {} } else s1
    ∀ runs s2, loadOps c.val w (mMv i) (mNv i) (foldN fold) (drnOps p) s0 = .ok runs s2 →
      drainOk i = true → drainInvalid k i = false → drainReady s c.val k i = true →
      let row (m : Nat) : DrnRow := drainRow p runs ty isF fold (mNv i) x y (rowOwner s c.val m) m
      let rows := (List.range (mMv i)).map row
      -- owner, window, offset and bytes of every write
      let pairs : List (Nat × Nat × Nat × List Byte) := match runs.find? (fun u => u.op.opc == 0x0E) with
        | some u => (statWrites ((List.range rows.length).zip rows)).map (fun z => (z.2.1, u.op.win, u.op.off * 64 + 8 * z.1, z.2.2))
        | none => []
      let outs : List (Nat × Nat × Nat × List Byte) :=
        (List.range (mMv i)).map (fun m => ((row m).owner, f1Win i, f1Off i * 64 + m * pitch, (row m).bytes))
      let may (z : Nat × Nat × Nat × List Byte) : Prop :=
        let a := engineAt s c.val z.2.1 z.2.2.1
        (winOff k z.2.1 z.2.2.1 z.2.2.2.length true).isSome = true ∧
        endpoint s (if groupBank s c.val z.1 a then (bank s (spBank a)).owner else z.1) a z.2.2.2.length true = .ok
      let stored (zs : List (Nat × Nat × Nat × List Byte)) : List Host.Cell :=
        zs.foldl (fun m z => mwrite m (engineAt s c.val z.2.1 z.2.2.1) z.2.2.2) s.mem
      let token (bs : List Byte) : Prop := bs.length = mMv i * pitch ∧
        ∀ m, m < mMv i → (bs.drop (m * pitch)).take (row m).bytes.length = (row m).bytes
      (∀ m, m < mMv i → (rowWork s c.val (row m).owner).isSome = true) → (∀ z ∈ pairs, may z) →
      (runs = [] → dMerge2 i = false → pairs = [] ∧ ∀ m, (row m).bytes
        = packElems ty ((List.range (mNv i)).map (fun n => (convOut ty isF true (accGet x fold m n)).1))) ∧
      (Issues s c.val 2 1 drainRanges q w → (∀ z ∈ outs, may z) →
        Completes (.drainWindow c) s (fun t => t.mem = stored (pairs ++ outs) ∧
          (∀ m, m < mMv i → mread t.mem (engineAt s c.val (f1Win i) (f1Off i * 64 + m * pitch)) (row m).bytes.length = (row m).bytes) ∧
          (pairs = [] → ∀ a, (∀ m, m < mMv i → a < engineAt s c.val (f1Win i) (f1Off i * 64 + m * pitch) ∨
            engineAt s c.val (f1Win i) (f1Off i * 64 + m * pitch) + (row m).bytes.length ≤ a) → mget t.mem a = mget s.mem a) ∧
          (Machine.core t c.val).drnStatus = drainStatus rows ∧ t.store = s.store ∧ t.net = s.net)) ∧
      (Issues s c.val 2 2 drainRanges q w → Completes (.drainToken c) s (fun t => ∃ m : TokMsg, t.net.toks = s.net.toks ++ [m] ∧
        token m.data ∧ m.units = units ∧ m.dcore = mapCore k (dCore i) ∧ m.dreg = dReg i ∧ m.tag = iTag i ∧ m.writer = coreUnit c.val ∧
        m.work = w ∧ m.ord = q.ord ∧
        creditOf (Machine.core t c.val) (mapCore k (dCore i)) (dReg i) = creditOf k (mapCore k (dCore i)) (dReg i) - units ∧
        t.mem = stored pairs ∧ t.store = s.store)) ∧
      (Issues s c.val 2 3 drainRanges q w → s.pwr.power = .active → Completes (.drainFabric c) s (fun t => ∃ bs : List Byte, token bs ∧
        let n := pieceCount bs.length
        let node := mapNode k (dCore i)
        let key := totKey c.val node (mapCore k (dCore i)) (dReg i)
        let ops (out : List FabOut) : List (Nat × TxnOp) := out.filterMap (fun m => match m with
          | .request _ _ dst _ _ _ _ _ op => some (dst, op) | _ => none)
        ops t.fabOut = ops s.fabOut ++ (List.range n).map (fun j => (node, TxnOp.write (mapCore k (dCore i)) (dReg i) c.val (j + 1 == n) units
          (480 * j) ((bs.drop (480 * j)).take 480) (iTag i))) ∧
        tgetD t.fab.totals key (0, 0) = ((tgetD s.fab.totals key (0, 0)).1, (tgetD s.fab.totals key (0, 0)).2 + units) ∧
        t.mem = stored pairs ∧ t.store = s.store))

/-- A VECTOR instruction that issues with its operands readable and its destination writable computes each lane of X
(from its window or from a set) and Y in FP32, or in INT32 with saturation, converts the result to OTYPE and writes
exactly the unmasked elements. VSEL writes every column, X where the mask bit is 1 and Y elsewhere. VCMP and VMASKLD
set the bits of the unmasked columns in their mask register and change no other bit. Rests on
15_vector_engine_and_reductions.md R388, R389, R390, R391, R392, 13_accumulation_and_drain.md Table 13-5,
11_sequencer_and_tile_instructions.md R301. -/
def Obligations.ElementwiseVectorRows : Prop :=
  ∀ (s : State) (c : CoreId) (q : QEnt) (w : Nat),
    let k := Machine.core s c.val
    let i := q.inst
    let xt := vX i
    let ot := vO i
    let z := ot.nbits / 8
    let setFold : Nat := match (accSet k (iAcc i)).tag with | some (_, f) => f | none => 0
    let xOff (m : Nat) : Nat := f1Off i * 64 + m * vPitch i
    let yOff (m : Nat) : Nat := vYoff i * 64 + (if vYbcast i then 0 else m) * vPitch i
    let x (m j : Nat) : Nat := if vXacc i then accGet (accSet k (iAcc i)) setFold m j
      else xt.widen (xt.at (mread s.mem (engineAt s c.val (f1Win i) (xOff m)) (xt.size (vCols i))) j)
    let y (m j : Nat) : Nat := xt.widen (xt.at (mread s.mem (engineAt s c.val (vYwin i) (yOff m)) (xt.size (vCols i))) j)
    let mayX : Prop := xaccInvalid k i = false ∧
      (vXacc i = false → ∀ m, m < vRows i → EngineMay s c.val w (f1Win i) (xOff m) (xt.size (vCols i)) false)
    let mayY : Prop := ∀ m, m < vRows i → EngineMay s c.val w (vYwin i) (yOff m) (xt.size (vCols i)) false
    let mayD : Prop := ∀ m o n, m < vRows i → 0 < n → o + n ≤ ot.size (vCols i) →
      EngineMay s c.val w (vDwin i) (vDoff i * 64 + m * oPitch i + o) n true
    let at_ (m j : Nat) : Nat := engineAt s c.val (vDwin i) (vDoff i * 64 + m * oPitch i + j * z)
    let runs (op : Nat) (j : Instr) (post : State → Prop) : Prop := Issues s c.val 3 op vecRanges q w → vectorOk i = true →
      Completes j s (fun t => post t ∧ t.dsp = s.dsp ∧ t.store = s.store ∧ t.net = s.net)
    let writes (f : Nat → Nat → Nat) (all : Bool) (t : State) : Prop :=
      let chosen (m j : Nat) : Prop := m < vRows i ∧ j < vCols i ∧ (all = true ∨ vMasked k i j = false)
      (∀ m j, chosen m j → mread t.mem (at_ m j) z = leBytes z (convOut ot (vF i) true (f m j)).1) ∧
      (∀ a, (∀ m j, chosen m j → a < at_ m j ∨ at_ m j + z ≤ a) → mget t.mem a = mget s.mem a)
    let sets (reg : Nat) (f : Nat → Bool) (t : State) : Prop :=
      (∀ r j, bitAt (tgetD (Machine.core t c.val).maskReg r 0) j =
        if r = reg ∧ j < vCols i ∧ vMasked k i j = false then f j else bitAt (tgetD k.maskReg r 0) j) ∧ t.mem = s.mem
    let sat32 (v : Int) : Nat := patInt 32 (max (-2 ^ 31) (min v (2 ^ 31 - 1)))
    let lane (float : Nat → Nat → Nat) (int : Int → Int → Int) (m j : Nat) : Nat :=
      if vF i then float (x m j) (y m j) else sat32 (int (i32 (x m j)) (i32 (y m j)))
    (mayX → mayY → mayD →
      runs 0x01 (.vadd c) (writes (lane add32 (· + ·)) false) ∧ runs 0x02 (.vsub c) (writes (lane sub32 (· - ·)) false) ∧
      runs 0x03 (.vmul c) (writes (lane mul32 (· * ·)) false) ∧ runs 0x05 (.vmax c) (writes (lane max32 max) false) ∧
      runs 0x06 (.vmin c) (writes (lane min32 min) false) ∧
      runs 0x0A (.vsel c) (writes (fun m j => if bitAt (tgetD k.maskReg (vMsel i) 0) j then x m j else y m j) true)) ∧
    (mayX → mayD → runs 0x07 (.vcvt c) (writes x false)) ∧
    (mayX → mayY → runs 0x08 (.vcmp c) (sets (bits (vParam i) 4 3) (fun j =>
      let o := if vF i then fvCmp (f32 (x 0 j)) (f32 (y 0 j)) else some (compare (i32 (x 0 j)) (i32 (y 0 j)))
      match bits (vParam i) 0 2 with
      | 0 => o == some .lt | 1 => o == some .lt || o == some .eq | 2 => o == some .eq | _ => !(o == some .eq)))) ∧
    (EngineMay s c.val w (f1Win i) (f1Off i * 64) (cdiv (vCols i) 8) false →
      runs 0x09 (.vmaskld c) (sets (bits (vParam i) 4 3) (fun j =>
        (mget s.mem (engineAt s c.val (f1Win i) (f1Off i * 64) + j / 8)).getLsbD (j % 8))))

/-- A reduction that issues writes one converted result per row, over the unmasked columns in order. TOPK writes the
k best elements of each row and their columns, best first, and fills the rest; no element left out ranks before one
chosen. COMBINE adds the partials in source order. AADD sends each unmasked element, in order, as an add to its
target on this tray, or in runs of at most 120 to another. A controller that takes an add of a live job replaces the
stored element by the sum, rounded once, counts it, and changes no other byte. Rests on
15_vector_engine_and_reductions.md R389, R391, R394, R395, R396, R397, R398, 19_tier_memory.md R478, R479,
21_fabric_routing_and_remote_operations.md R529. -/
def Obligations.ReductionsTopKAndAdds : Prop :=
  ∀ (s : State) (c : CoreId) (q : QEnt) (w : Nat),
    let k := Machine.core s c.val
    let i := q.inst
    let xt := vX i
    let ot := vO i
    let z := ot.nbits / 8
    let setFold : Nat := match (accSet k (iAcc i)).tag with | some (_, f) => f | none => 0
    let pitch : Nat := if iOp i = 0x20 then partStride i else vPitch i
    let xOff (m : Nat) : Nat := f1Off i * 64 + m * pitch
    let x (m j : Nat) : Nat := if vXacc i then accGet (accSet k (iAcc i)) setFold m j
      else xt.widen (xt.at (mread s.mem (engineAt s c.val (f1Win i) (xOff m)) (xt.size (vCols i))) j)
    let cols := (List.range (vCols i)).filter (fun j => !vMasked k i j)
    let dAt (o : Nat) : Nat := engineAt s c.val (vDwin i) (vDoff i * 64 + o)
    let conv (v : Nat) : Nat := (convOut ot (vF i) true v).1
    let runs (op : Nat) (j : Instr) (post : State → Prop) : Prop := Issues s c.val 3 op vecRanges q w → vectorOk i = true →
      (vXacc i = false → ∀ m, m < vRows i → EngineMay s c.val w (f1Win i) (xOff m) (xt.size (vCols i)) false) →
      Completes j s (fun t => post t ∧ t.dsp = s.dsp ∧ t.store = s.store)
    let sat32 (v : Int) : Int := max (-2 ^ 31) (min v (2 ^ 31 - 1))
    let rows (red : List Nat → Nat) (t : State) : Prop :=
      Wrote s t (dAt 0) ((List.range (vRows i)).flatMap (fun m => leBytes z (conv (red (cols.map (x m)))))) ∧ t.net = s.net
    let n := topK i
    let small := bitAt (vParam i) 8
    let best (m : Nat) : List (Nat × Nat) := topRow (vF i) small n (cols.map (fun j => (j, x m j)))
    let yAt (o : Nat) : Nat := engineAt s c.val (vYwin i) (vYoff i * 64 + o)
    let dRow := roundUp (ot.size n) 64
    let yRow := roundUp (4 * n) 64
    let target := atgtOf k i
    let val (p : Nat) : Nat := x (p / vCols i) (p % vCols i)
    (xaccInvalid k i = false → EngineMay s c.val w (vDwin i) (vDoff i * 64) (vRows i * z) true →
      runs 0x10 (.rsum c) (rows (fun l => if vF i then l.foldl (fun v y => (addSat32 v (f32 y)).1) 0
        else patInt 32 (l.foldl (fun v y => sat32 (v + i32 y)) 0))) ∧
      runs 0x11 (.rmax c) (rows (fun l => if vF i then l.foldl max32 (fp32.inf true) else patInt 32 (l.foldl (fun v y => max v (i32 y)) (-2 ^ 31)))) ∧
      runs 0x12 (.rmin c) (rows (fun l => if vF i then l.foldl min32 (fp32.inf false)
        else patInt 32 (l.foldl (fun v y => min v (i32 y)) (2 ^ 31 - 1))))) ∧
    (∀ (isF sm : Bool) (cnt : Nat) (es : List (Nat × Nat)), let r := topRow isF sm cnt es
      r.length = min cnt es.length ∧ (∀ e ∈ r, e ∈ es) ∧ (∀ e ∈ es, e ∉ r → ∀ b ∈ r, ranksBefore isF sm e.2 b.2 = false)) ∧
    (xaccInvalid k i = false → (∀ m, m < vRows i → EngineMay s c.val w (vDwin i) (vDoff i * 64 + m * dRow) (ot.size n) true ∧
        EngineMay s c.val w (vYwin i) (vYoff i * 64 + m * yRow) (4 * n) true) →
      (dAt 0 + vRows i * dRow ≤ yAt 0 ∨ yAt 0 + vRows i * yRow ≤ dAt 0) →
      runs 0x18 (.topk c) (fun t => (∀ m j, m < vRows i → j < n →
          mread t.mem (dAt (m * dRow + j * z)) z = leBytes z (match (best m)[j]? with | some e => conv e.2 | none => topFill ot small) ∧
          mread t.mem (yAt (m * yRow + 4 * j)) 4 = leBytes 4 (match (best m)[j]? with | some e => e.1 | none => 0xFFFFFFFF)) ∧
        (∀ a, (∀ m, m < vRows i → (a < dAt (m * dRow) ∨ dAt (m * dRow) + n * z ≤ a) ∧ (a < yAt (m * yRow) ∨ yAt (m * yRow) + 4 * n ≤ a)) →
          mget t.mem a = mget s.mem a))) ∧
    ((bitAt (vParam i) 0 = true → EngineMay s c.val w (vDwin i) (vDoff i * 64) (ot.size (vCols i)) false) →
      (∀ o m, 0 < m → o + m ≤ ot.size (vCols i) → EngineMay s c.val w (vDwin i) (vDoff i * 64 + o) m true) →
      let start (j : Nat) : Nat := if bitAt (vParam i) 0 then toLane (vF i) ot (ot.at (mread s.mem (dAt 0) (ot.size (vCols i))) j) else 0
      runs 0x20 (.combine c) (fun t =>
        (∀ j, j ∈ cols → mread t.mem (dAt (j * z)) z
          = leBytes z (conv ((List.range (vRows i)).foldl (fun v m => (accAdd (vF i) v (x m j)).1) (start j)))) ∧
        (∀ a, (∀ j, j ∈ cols → a < dAt (j * z) ∨ dAt (j * z) + z ≤ a) → mget t.mem a = mget s.mem a))) ∧
    (aaddInvalid k i = false → aaddReady s k i = true →
      let node := bits target 44 12
      let base := bits target 0 44
      let size := if bits target 56 2 = 2 then 2 else 4
      let ops (out : List FabOut) : List (Nat × TxnOp) := out.filterMap (fun m => match m with
        | .request _ _ dst _ _ _ _ _ op => some (dst, op) | _ => none)
      let places := (List.range (vRows i)).flatMap (fun m => cols.map (fun j => m * vCols i + j))
      runs 0x21 (.aadd c) (fun t => t.mem = s.mem ∧
        (node = 0 → t.net.adds = s.net.adds ++ places.map (fun p =>
          let y : Add := { core := c.val, ord := q.ord, addr := base + p * size, typ := bits target 56 2, val := val p, work := w,
                           gen := workGen s w, tcid := workTcid s w }
          y)) ∧
        (node ≠ 0 → t.net.adds = s.net.adds ∧ ops t.fabOut = ops s.fabOut ++ (aaddRuns k i).map (fun r =>
          (node, TxnOp.aadd (base + r.1 * size) (bits target 56 2) ((List.range r.2).map (fun m => val (r.1 + m)))))))) ∧
    (∀ ix (a : Add), domainsUp s = true → s.net.adds[ix]? = some a → workLive s a.work = true → workGen s a.work = a.gen →
      (∀ d, (Machine.core s d).gb = []) → s.ecc.poison = [] → s.ecc.latent = [] → noHold s = true → Canonical s →
      (Machine.core s a.core).seq.run ≠ .ending →
      let bytes := if a.typ = 2 then 2 else 4
      Permitted s a.tcid a.addr bytes true →
      let old := mnum s.mem a.addr bytes
      let sum := if a.typ = 1 then patInt 32 (sat32 (i32 old + i32 a.val)) else (atomicSum a.typ old a.val).1
      Completes (.tierAtomicAdd [ix] .clean) s (fun t => Wrote s t a.addr (leBytes bytes sum) ∧ t.net.adds = s.net.adds.eraseIdx ix ∧
        ctr t 0x228 = ctr s 0x228 + 1 ∧ t.store = s.store))

/-- A MERGE that issues with readable operands puts its set at its start value and becomes the MERGE under way with
its quanta; one without quanta retires. SDMM takes the quanta of its core's phase, and an element of a quantum is
the sum of its products in order. The oldest quantum with a good residue enters the set alone; a first bad residue
is counted and the quantum stands again; a second makes the core SUSPECT. QUANTA writes for every 2,048 nonzeros the
fibre that holds the first of them, and NQ and QVALID, and no other byte. Rests on
14_sparse_formats_and_intersection.md R364, R365, R371, R372, R373, R374, R375, R376, R378, R387,
13_accumulation_and_drain.md R333, R334. -/
def Obligations.MergesFormAndCommitQuanta : Prop :=
  ∀ (s : State) (c : CoreId) (q : QEnt) (w : Nat),
    let k := Machine.core s c.val
    let i := q.inst
    let isF (i : Nat) : Bool := !(etypeOf (gAtype i)).isInt
    let keeps (t : State) : Prop := t.mem = s.mem ∧ t.dsp = s.dsp ∧ t.store = s.store
    let others (t : State) (a : Nat) : Prop := ∀ n, n ≠ a → accSet (Machine.core t c.val) n = accSet k n
    let s0 := setCore (Taken s c.val 4) c.val (takeRanges (Machine.core (Taken s c.val 4) c.val) 4 q.ord (mergeRanges (Machine.core (Taken s c.val 4) c.val) i))
    (∀ r ∈ ([(1, .sdmm c), (2, .dsmm c), (3, .ssmm c)] : List (Nat × Instr)), ∀ qs rowSet s1,
      Issues s c.val 4 r.1 mergeRanges q w → k.merge = none → mergeOk i = true → (gAccum i = true → tagsAgree k (iAcc i) (isF i, gFold i) = true) →
      formMerge c.val w i s0 = .ok qs rowSet s1 → s1.dsp = s.dsp →
      (r.1 = 1 → ∃ x b s2 s3, readFb (winRd c.val w (f1Win i) (f1Off i * 64)) (etypeOf (gAtype i)) true (fun h => h.major == 0 && h.nfib == gMv i) s0
          = .ok x s2 ∧
        readDense c.val w (f2Win i) (f2Off i * 64) (f2Len i) (x.h.minor + 1) (foldN (gFold i)) (gNv i) (etypeOf (gBtype i)) s2 = .ok b s3 ∧
        qs.map (·.num) = (List.range (cdiv x.h.nnz 2048)).filter (fun n => n % (gStride i + 1) == gPhase i) ∧
        ∀ y ∈ qs, ∀ m n lo hi, (m, lo, hi) ∈ x.parts y.num → n < gNv i → tgetD y.prod (accWord (gFold i) m n) 0
          = (sumProducts (etypeOf (gAtype i)) (etypeOf (gBtype i)) (isF i) ((List.range (hi - lo)).map (fun j =>
              (x.vals.getD (lo + j) 0, b.at (x.crds.getD (lo + j) 0) n)))).1) ∧
      Completes r.2 s (fun t => keeps t ∧ others t (iAcc i) ∧
        accSet (Machine.core t c.val) (iAcc i) = mergeStart (accSet k (iAcc i)) (isF i) (gFold i) (gAccum i) rowSet (rowOwner s c.val) ∧
        (qs = [] → (Machine.core t c.val).merge = none) ∧
        (qs ≠ [] → ∃ m, (Machine.core t c.val).merge = some m ∧ m.inst = i ∧ m.ord = q.ord ∧ m.quanta = qs ∧ m.seen = []))) ∧
    (∀ m y rest, domainsUp s = true → k.merge = some m → m.quanta = y :: rest → y.bad = false → k.seq.run ≠ .ending →
      let a := iAcc m.inst
      let x := accSet k a
      let f := gFold m.inst
      Completes (.quantumCommit c true) s (fun t => keeps t ∧ others t a ∧
        accSet (Machine.core t c.val) a = commitQuant x (isF m.inst) f (gAccum m.inst) m.seen y ∧
        (gAccum m.inst = true → tsorted y.prod = true → ∀ e ∈ y.prod, tgetD (accSet (Machine.core t c.val) a).words e.1 0
          = (accAdd (isF m.inst) (if (accRow x (wordRow f e.1)).clear then 0 else tgetD x.words e.1 0) e.2).1) ∧
        (rest = [] → (Machine.core t c.val).merge = none) ∧
        (rest ≠ [] → ∃ n, (Machine.core t c.val).merge = some n ∧ n.inst = m.inst ∧ n.quanta = rest)) ∧
      (y.retried = false → Completes (.quantumCommit c false) s (fun t => keeps t ∧ (Machine.core t c.val).acc = k.acc ∧
        (Machine.core t c.val).merge = some { m with quanta := { y with retried := true } :: rest } ∧
        ctr t (coreCtr c.val 0x050) = ctr s (coreCtr c.val 0x050) + 1)) ∧
      (y.retried = true → (unitRec s (coreUnit c.val)).health = .good → Completes (.quantumCommit c false) s (fun t =>
        (unitRec t (coreUnit c.val)).health = .suspect ∧ (Machine.core t c.val).acc = k.acc))) ∧
    (Issues s c.val 6 1 quantaRanges q w → winWr k (f1Win i) = true →
      let at_ (o : Nat) : Nat := engineAt s c.val (f1Win i) (f1Off i * 64 + o)
      let may (o n : Nat) (write : Bool) : Prop := EngineMay s c.val w (f1Win i) (f1Off i * 64 + o) n write
      let h := fbHdr (mread s.mem (at_ 0) 64)
      let ptr (f : Nat) : Nat := (words 4 (mread s.mem (at_ h.ptrOff) (4 * (h.nfib + 1)))).getD f 0
      let nq := cdiv h.nnz 2048
      may 0 64 false → h.inLimits = true → may h.ptrOff (4 * (h.nfib + 1)) false →
      ptrsOk h (words 4 (mread s.mem (at_ h.ptrOff) (4 * (h.nfib + 1)))) = true →
      0 < h.qtOff → may h.qtOff (4 * nq) true → may 0 8 true →
      Completes (.quanta c) s (fun t => t.dsp = s.dsp ∧ t.store = s.store ∧
        (∀ j, j < nq → ∃ f, f < h.nfib ∧ ptr f ≤ 2048 * j ∧ 2048 * j < ptr (f + 1) ∧ mread t.mem (at_ (h.qtOff + 4 * j)) 4 = leBytes 4 f) ∧
        mread t.mem (at_ 0) 8 = leBytes 8 (setBits (setBits (mnum s.mem (at_ 0) 8) 32 16 nq) 48 1 1) ∧
        (∀ a, a < at_ 0 ∨ (at_ 8 ≤ a ∧ a < at_ h.qtOff) ∨ at_ (h.qtOff + 4 * nq) ≤ a → mget t.mem a = mget s.mem a)))

/-- A GATHER without pooling over a table of tier rows, with the window off and every key below ROWS, takes one slot
per entry in list order and writes nothing. When the row of a slot arrives, its slot is free and its bytes are at
hand; the last arrival writes every row, converted to OTYPE, at its place, retires the GATHER, and changes no other
byte. FREQ writes 2 KiB of records by falling estimate and rising row; with at most 127 distinct rows each estimate
is how often its row occurs, and every row has a record. Rests on 16_embeddings_and_gather.md R403, R404, R405,
R406, R408, R416, R417, 18_cost_model_and_saturation.md R453. -/
def Obligations.GathersLookUpPoolAndWrite : Prop :=
  ∀ (s : State) (c : CoreId) (q : QEnt) (w : Nat),
    let k := Machine.core s c.val
    let i := q.inst
    let tb := hTable i
    let s0 (e : Nat) (rs : Core → Nat → List Rng) : State :=
      setCore (Taken s c.val e) c.val (takeRanges (Machine.core (Taken s c.val e) c.val) e q.ord (rs (Machine.core (Taken s c.val e) c.val) i))
    let same (t : State) : Prop := t.dsp = s.dsp ∧ t.store = s.store ∧ t.net = s.net ∧ t.fab = s.fab
    (∀ h ptrs es, Issues s c.val 5 1 gatherRanges q w → gatherOk k i = true → k.gather = none → hPool i = 0 → gthWen k = false →
      etPlace k tb = 0 → etCompose k tb = 0 →
      readBags c.val w (f1Win i) (f1Off i * 64) (f1Len i) (etKey64 k tb) false (s0 5 gatherRanges) = .ok h ptrs es (s0 5 gatherRanges) →
      0 < es.length → es.length = h.nidx → es.length ≤ 512 → k.gthRead + es.length ≤ 16777216 → (∀ e ∈ es, e.1 < etRows k tb) →
      (h.nidx - 1) * outPitch k i + (etypeOf (hOtype i)).size (etDim k tb) ≤ f2Len i * 256 →
      Completes (.gather c) s (fun t => ∃ g, (Machine.core t c.val).gather = some g ∧ g.inst = i ∧ g.ord = q.ord ∧ g.todo = [] ∧ g.got = [] ∧
        g.slots = es.map (fun e => { table := tb, row := e.1, addr := etBase k tb + e.1 * etPitch k tb, len := etPitch k tb,
                                     remote := false, txid := 0 }) ∧
        g.resolved.map (fun e => e.2.2) = es.map (fun e => GRes.rows e.1 none) ∧ t.mem = s.mem ∧ same t)) ∧
    (∀ (g : GatherRun) (ix : Nat) (sl : GSlot), domainsUp s = true → k.work = some w → k.gather = some g → g.slots[ix]? = some sl →
      sl.remote = false → g.todo = [] → g.subTodo = some [] → (∀ e ∈ g.resolved, ∃ r, e.2.2 = .rows r none) → k.seq.run ≠ .ending →
      (∀ d, (Machine.core s d).gb = []) → s.ecc.poison = [] → s.ecc.latent = [] → noHold s = true → Canonical s →
      Permitted s (workTcid s w) sl.addr sl.len false →
      let g' : GatherRun := { g with slots := g.slots.eraseIdx ix, got := g.got ++ [(sl.table, sl.row, mread s.mem sl.addr sl.len)] }
      (g'.slots ≠ [] → Completes (.gatherRowArrival c ix .clean) s (fun t => (Machine.core t c.val).gather = some g' ∧ t.mem = s.mem ∧ same t)) ∧
      (g'.slots = [] → hPool g.inst = 0 → g.resolved.length = g.nidx →
        let gi := g.inst
        let ot := etypeOf (hOtype gi)
        let out (n : Nat) : List Byte := match g.resolved[n]? with
          | some (_, _, .rows r _) => ((elems (etType k (hTable gi)) (gotRow g' (hTable gi) r) (etDim k (hTable gi))).map
              (etType k (hTable gi)).widen).flatMap (fun x => leBytes (ot.nbits / 8) (convOut ot true false x).1)
          | _ => []
        let off (n : Nat) : Nat := f2Off gi * 64 + n * outPitch k gi
        (∀ n, n < g.nidx → EngineMay s c.val w (f2Win gi) (off n) (out n).length true) →
        Completes (.gatherRowArrival c ix .clean) s (fun t => (Machine.core t c.val).gather = none ∧ same t ∧
          (∀ n, n < g.nidx → mread t.mem (engineAt s c.val (f2Win gi) (off n)) (out n).length = out n) ∧
          (∀ a, (∀ n, n < g.nidx → a < engineAt s c.val (f2Win gi) (off n) ∨
            engineAt s c.val (f2Win gi) (off n) + (out n).length ≤ a) → mget t.mem a = mget s.mem a)))) ∧
    (∀ h ptrs es, Issues s c.val 6 2 freqRanges q w → censusOk k i = true → etPlace k tb = 0 → etCompose k tb = 0 →
      readBags c.val w (f1Win i) (f1Off i * 64) (f1Len i) (etKey64 k tb) false (Taken s c.val 6) = .ok h ptrs es (Taken s c.val 6) →
      (∀ e ∈ es, e.1 < etRows k tb) → EngineMay s c.val w (f2Win i) (f2Off i * 64) 2048 true →
      let rows := es.map (·.1)
      Completes (.freq c) s (fun t => ∃ recs : List HotKey, same t ∧ recs.length ≤ 127 ∧
        Wrote s t (engineAt s c.val (f2Win i) (f2Off i * 64)) (padTo 2048 (recs.flatMap (fun r =>
          leBytes 4 r.row ++ leBytes 4 tb ++ leBytes 4 r.est ++ zeros 4))) ∧
        recs.Pairwise (fun a b => b.est < a.est ∨ (a.est = b.est ∧ a.row < b.row)) ∧
        (rows.eraseDups.length ≤ 127 → (∀ r ∈ recs, r.est = rows.count r.row) ∧ ∀ r ∈ rows, ∃ x ∈ recs, x.row = r) ∧
        (hJobsum i = false → (Machine.core t c.val).hot = k.hot ∧ (Machine.core t c.val).hotN = k.hotN) ∧
        (hJobsum i = true → (Machine.core t c.val).hotN = k.hotN + rows.length)))

/-- A STEER that issues with the oldest token of its region readable sends that token whole, with its tag, to side 1
where its predicate holds and to side 0 elsewhere, spends its credits and counts the side; with RELEASE the token
leaves its region. A token that lands in time, from the region's producer, is written at TAIL with its last unit
filled with zeros, TAIL advances by its units, it joins the token list, and no other byte changes. One from another
writer, or of another work or generation, is discarded and counted. A credit return adds its credits to the one
counter or feed, and one of an older generation is discarded and counted. Rests on 08_jobs_and_dispatch.md R212, 09_cores_and_scratchpad.md R236, R241, R242, R243, R244,
17_tiling_buckets_and_chains.md R436, R440, R441, 11_sequencer_and_tile_instructions.md R301. -/
def Obligations.TokensMoveUnderCredits : Prop :=
  ∀ (s : State) (c : CoreId) (q : QEnt) (w : Nat),
    let k := Machine.core s c.val
    let i := q.inst
    let x := circ s c.val (tSreg i)
    (∀ tk rest, Issues s c.val 7 1 (fun _ _ => []) q w → steerReady s c.val k i = true → x.toks = tk :: rest → tk.tag = iTag i →
      steerInvalid k i tk.units = false → circEndpoint s c.val x (workTcid s w) x.head (tk.units * 4096) false = .ok →
      let bs := circRead s c.val x x.head (tk.units * 4096)
      let p : Int := i32 (leAt bs (4 * tPword i) 4)
      let v : Int := i32 (tKval i)
      let yes : Prop := match tCond i with | 0 => p = v | 1 => p ≠ v | 2 => p < v | _ => v ≤ p
      let sent (pos reg off : Nat) (t : State) : Prop :=
        (∃ m : TokMsg, t.net.toks = s.net.toks ++ [m] ∧ m.data = bs ∧ m.units = tk.units ∧ m.tag = iTag i ∧ m.dcore = mapCore k pos ∧
          m.dreg = reg ∧ m.writer = coreUnit c.val ∧ m.work = w ∧ m.ord = q.ord) ∧
        creditOf (Machine.core t c.val) (mapCore k pos) reg = creditOf k (mapCore k pos) reg - tk.units ∧
        ctr t (coreCtr c.val off) = ctr s (coreCtr c.val off) + 1
      Completes (.route c) s (fun t => (yes → sent (tCore1 i) (tReg1 i) 0x208 t) ∧ (¬yes → sent (tCore0 i) (tReg0 i) 0x200 t) ∧
        (tRelease i = false → (circ t c.val (tSreg i)) = x) ∧
        (tRelease i = true → (circ t c.val (tSreg i)).toks = rest ∧
          (circ t c.val (tSreg i)).head = (x.head + tk.units * 4096) % (2 * (x.size * 4096))) ∧
        t.mem = s.mem ∧ t.store = s.store ∧ t.dsp = s.dsp)) ∧
    (∀ ix (m : TokMsg), domainsUp s = true → s.net.toks[ix]? = some m → (Machine.core s m.core).seq.run ≠ .ending →
      (Machine.core s m.dcore).seq.run ≠ .ending →
      let y := circ s m.dcore m.dreg
      let n := m.units * 4096
      let at_ (j : Nat) : Nat := spBase m.dcore + y.base * 4096 + (y.tail + j) % (y.size * 4096)
      let quiet : Prop := ∀ z ∈ (Machine.core s m.core).pend, z.ord = m.ord → ∀ f ∈ z.flags, f.2 = (false, false)
      (writerOk y m.writer = true → sameWork s m.dcore m.work m.gen = true → (∀ d, (Machine.core s d).gb = []) → s.ecc.poison = [] →
        noHold s = true → badOwner s m = none → Canonical s → n ≤ y.size * 4096 → m.data.length ≤ n → circEndpoint s m.dcore y m.tcid y.tail n true = .ok →
        Completes (.remoteWrite ix .clean) s (fun t => t.net.toks = s.net.toks.eraseIdx ix ∧
          (∀ j, j < n → mget t.mem (at_ j) = m.data.getD j 0) ∧ (∀ a, (∀ j, j < n → a ≠ at_ j) → mget t.mem a = mget s.mem a) ∧
          (circ t m.dcore m.dreg).tail = (y.tail + n) % (2 * (y.size * 4096)) ∧ (circ t m.dcore m.dreg).head = y.head ∧
          (circ t m.dcore m.dreg).toks = y.toks ++ [{ tag := m.tag, units := m.units }] ∧ (Machine.core t m.dcore).doze = false ∧
          ((Machine.core s m.dcore).seq.imask.getLsbD (16 + m.dreg) = true → (Machine.core t m.dcore).seq.ip.getLsbD 1 = true) ∧
          t.store = s.store ∧ (quiet → t.dsp = s.dsp))) ∧
      (writerOk y m.writer = false ∨ sameWork s m.dcore m.work m.gen = false →
        Completes (.remoteWrite ix .clean) s (fun t => t.net.toks = s.net.toks.eraseIdx ix ∧ circ t m.dcore m.dreg = y ∧
          (writerOk y m.writer = false ∨ workGen s m.work ≠ m.gen →
            ctr t (coreCtr m.dcore 0x248) = ctr s (coreCtr m.dcore 0x248) + 1) ∧
          (writerOk y m.writer = true → ctr t 0x020 = ctr s 0x020 + 1) ∧ t.mem = s.mem ∧ t.store = s.store ∧ (quiet → t.dsp = s.dsp)))) ∧
    (∀ ix (m : CredMsg), domainsUp s = true → s.net.creds[ix]? = some m → let live := flightLive s m.work m.gen
      (live = false → Completes (.creditReturn ix) s (fun t => ctr t 0x020 = ctr s 0x020 + 1 ∧
        t = { s with net.creds := s.net.creds.eraseIdx ix, obs.ctr := t.obs.ctr })) ∧
      (live = true → m.pcore ≠ feedProducer → ((Machine.core s m.pcore).creds.any (fun z => z.core == m.core && z.region == m.region) = true ∨
          (Machine.core s m.pcore).creds.length < 16) → Completes (.creditReturn ix) s (fun t =>
        creditOf (Machine.core t m.pcore) m.core m.region = creditOf (Machine.core s m.pcore) m.core m.region + m.n ∧
        (∀ d r, d ≠ m.core ∨ r ≠ m.region → creditOf (Machine.core t m.pcore) d r = creditOf (Machine.core s m.pcore) d r) ∧
        (∀ d, d ≠ m.pcore → Machine.core t d = Machine.core s d) ∧ (Machine.core t m.pcore).doze = false ∧
        t = { s with net.creds := s.net.creds.eraseIdx ix, cores := t.cores })) ∧
      (live = true → m.pcore = feedProducer → Completes (.creditReturn ix) s (fun t =>
        Machine.core t m.core = { Machine.core s m.core with feeds := (Machine.core s m.core).feeds.map (fun f =>
          if f.desc.dest = m.region then { f with credits := f.credits + m.n } else f) } ∧ (∀ d, d ≠ m.core → Machine.core t d = Machine.core s d) ∧
        t = { s with net.creds := s.net.creds.eraseIdx ix, cores := t.cores })))

/-- A core with empty queues, a waiting sequencer and a stopped timer enters DOZE after the ready event. A scrub of a
sound beat changes no memory; one that finds a corrected error in a word counts it; one that finds an uncorrectable
word poisons it and changes neither memory nor any job, while no idle copy lies there. A forced scrub counts a stall
under SCRUB for each queue whose head waits. The scrub of a dozing core counts a run, and the core dozes on. A tier
scrub that ends a pass counts it. REFRESH changes nothing. A finished tier fill leaves zeros in its range, and every
other byte as it was. Rests on 03_clocks_power_and_sleep.md R64, 09_cores_and_scratchpad.md R246, R247, R249, R250,
11_sequencer_and_tile_instructions.md R295, 19_tier_memory.md R473, R474, R480, 18_cost_model_and_saturation.md
Table 18-3. -/
def Obligations.ScrubRefreshDozeAndFill : Prop :=
  ∀ (s : State) (c : CoreId) (group : Fin 4) (row : Fin 32768),
    let k := Machine.core s c.val
    let a := (spBase c.val + group.val * 0x200000 + row.val * 64) / 512 * 512
    let rests (u t : State) : Prop := t.mem = u.mem ∧ t.dsp = u.dsp ∧ t.net = u.net
    let sound : Prop := s.ecc.poison = [] ∧ s.ecc.latent = []
    -- no copy that no admitted job holds lies in the bank of an address
    let kept (x : Nat) : Prop := ∀ y ∈ s.store.spCopies, y.core = c.val → spBank x ∈ y.banks → objInUse s y.obj (some c.val) = true
    (domainsUp s = true → ready s = true → k.doze = false → (k.seq.run = .idle ∨ k.seq.run = .done ∨ k.seq.run = .wait) → k.seq.timer = 0 →
      (∀ p ∈ k.queues, p.2 = []) →
      Completes (.coreDoze c) s (fun t => Machine.core t c.val = { k with doze := true } ∧ (∀ d, d ≠ c.val → Machine.core t d = Machine.core s d) ∧
        rests s t ∧ t.store = s.store)) ∧
    (domainsUp s = true → scrubs s (spBank a) = true → k.gb = [] →
      (sound → Completes (.spScrub c group row []) s (fun t => rests s t ∧ t.store = s.store ∧ t.ecc = s.ecc ∧ t.obs = s.obs) ∧
        (∀ n, n < 64 → Completes (.spScrub c group row [(n, .corrected)]) s (fun t => rests s t ∧ t.store = s.store ∧ t.ecc.poison = [] ∧
          t.ecc.latent = [] ∧ ctr t (coreCtr c.val 0x240) = ctr s (coreCtr c.val 0x240) + 1)) ∧
        Completes (.scrubForce c group row []) s (fun t => rests s t ∧ t.store = s.store ∧ t.ecc = s.ecc ∧
          ctr t (coreCtr c.val 0x430) = ctr s (coreCtr c.val 0x430) + BitVec.ofNat 64 (k.queues.countP (fun p => !p.2.isEmpty)))) ∧
      (∀ n syn, n < 64 → s.ecc.latent = [] → (∀ j, j < 64 → s.ecc.rewritten.contains (a + 8 * j) = false) → kept a →
        ∀ i ∈ ([.spScrub c group row [(n, .uncorrectable syn)], .scrubForce c group row [(n, .uncorrectable syn)]] : List Instr),
        Completes i s (fun t => rests s t ∧ t.ecc.poison.contains (a + 8 * n) = true ∧ ∀ x ∈ s.ecc.poison, x ∈ t.ecc.poison))) ∧
    (domainsUp s = true → k.doze = true → k.scrubbed + 1500000000 ≤ s.eft.tick → sound →
      Completes (.spScrubDoze { core := c, finds := [] }) s (fun t => Machine.core t c.val = { k with scrubbed := s.eft.tick } ∧
        ctr t (coreCtr c.val 0x250) = ctr s (coreCtr c.val 0x250) + 1 ∧ rests s t ∧ t.store = s.store ∧ t.ecc = s.ecc) ∧
      (∀ n syn, n < 0x100000 → let x := spBase c.val + 8 * n
        scrubs s (spBank x) = true → s.ecc.rewritten.contains x = false → kept x →
        Completes (.spScrubDoze { core := c, finds := [(n, .uncorrectable syn)] }) s (fun t => t.ecc.poison = [x] ∧ rests s t ∧
          (Machine.core t c.val).doze = true))) ∧
    (∀ addr syn (ends : Bool), domainsUp s = true → inTierA addr = true ∨ inTierB addr = true →
      let word := addr / 8 * 8
      (sound → Completes (.tierScrub addr .clean ends) s (fun t => rests s t ∧ t.store = s.store ∧ t.ecc = s.ecc ∧
        ctr t 0x220 = ctr s 0x220 + (if ends then 1 else 0))) ∧
      ((gtag s (word / 0x10000)).fill = true → Completes (.tierScrub addr (.uncorrectable syn) ends) s (fun t => rests s t ∧ t.ecc = s.ecc)) ∧
      ((gtag s (word / 0x10000)).fill = false → s.ecc.rewritten.contains word = false →
        (∀ p ∈ s.store.commons, p.2.sealed = true → word < p.2.baseA ∨ p.2.baseA + p.2.size ≤ word) →
        Completes (.tierScrub addr (.uncorrectable syn) ends) s (fun t => rests s t ∧ t.ecc.poison.contains word = true))) ∧
    (∀ ctl, Completes (.refresh ctl) s (fun t => t = s)) ∧
    (∀ ix f, domainsUp s = true → Canonical s → s.store.fills[ix]? = some f → Completes (.tierFillDone ix) s (fun t =>
      t.store = { s.store with fills := s.store.fills.eraseIdx ix } ∧ t.dsp = s.dsp ∧ t.net = s.net ∧
      ∀ x, mget t.mem x = if f.base ≤ x ∧ x < f.base + f.size then 0 else mget s.mem x))

/-- A pin freeze, an accepted FREEZE and a fatal report of a tray that is not frozen latch the cause PIN, COMMAND or
FATAL, which the header of the freeze image gives as 1, 2 or 3. At the tick of the latch a fatal report makes the
cause FATAL, and a FREEZE makes it COMMAND where it was PIN; a cause of lower or equal rank leaves it. After that
tick an assertion of any of the three changes nothing. Formalises R601. -/
def Obligations.OneFreezeCauseIsLatched : Prop :=
  ∀ (s : State) (k : SlotId) (b : FatalBlock) (r : Req), s.eft.power = true → s.eft.tripped = false →
    let confirmed : Prop := leAt r.payload 0 4 = 0x46525A21 ∧ leAt r.payload 4 4 = 0
    let latched (cause : FrzCause) (code : Byte) (t : State) : Prop :=
      t.eft.frozen = true ∧ t.eft.frzCause = cause ∧ t.eft.frzTick = s.eft.tick ∧ frzImage t 6 = code
    let low : Prop := s.eft.frzLow = true ∧ s.eft.frzLowPrev = true
    (s.eft.frozen = false →
      (low → Completes .pinFreeze s (latched .pin 1)) ∧
      (AcceptedChange s k 0x0B01 r → confirmed → Completes (.freeze k) s (latched .command 2)) ∧
      Completes (.fatalReport b) s (latched .fatal 3)) ∧
    (s.eft.frozen = true → s.eft.frzStep = 0 → s.eft.tick = s.eft.frzTick →
      Completes (.fatalReport b) s (latched .fatal 3) ∧
      (s.eft.frzCause = .pin → AcceptedChange { s with eft.frozen := false } k 0x0B01 r → confirmed →
        Completes (.freeze k) s (latched .command 2)) ∧
      (s.eft.frzCause = .command ∨ s.eft.frzCause = .fatal → ∀ i ∈ ([.pinFreeze, .freeze k] : List Instr), Completes i s (fun t => t = s)) ∧
      (s.eft.frzCause = .pin → Completes .pinFreeze s (fun t => t = s))) ∧
    (s.eft.frozen = true → s.eft.frzTick < s.eft.tick → ∀ i ∈ ([.pinFreeze, .freeze k, .fatalReport b] : List Instr),
      Completes i s (fun t => t = s))

/-- A fatal freeze writes no ledger entry; a pin freeze and a FREEZE write one where the ledger engine runs, and
FREEZE leaves its slot without a response; memory below the ledger stays. Each step of the freeze sequence is taken
no earlier than its tick, step 2 puts both tiers into self-refresh and notes the controllers that missed it, and
step 8 takes the host link down. After the last step every edge of SRO_CLK gives the next nibble of the image, low
nibble first, and 0 before that and past the end; a restart goes back to byte 0. The I2C port answers the bytes of
its two targets and advances their pointers. Formalises R611. -/
def Obligations.FreezeHoldsStepsAndReadsOut : Prop :=
  ∀ (s : State) (k : SlotId) (b : FatalBlock) (r : Req), s.eft.power = true →
    (s.eft.tripped = false → s.eft.frozen = false →
      Completes (.fatalReport b) s (fun t => t = { s with eft := t.eft, freeCtr := t.freeCtr } ∧ t.eft.frzBlock = some b ∧
        t.eft.frzTime = s.eft.time ∧ t.eft.frzStep = 0 ∧ (s.eft.causeCell = .empty → t.eft.causeCell = .freeze)) ∧
      (s.eft.frzLow = true → s.eft.frzLowPrev = true → Canonical s → Completes .pinFreeze s (fun t =>
        t = { s with eft := t.eft, freeCtr := t.freeCtr, mem := t.mem, ledger := t.ledger, ecc := t.ecc } ∧
        t.ledger.next = s.ledger.next + (if domainsUp s && ready s && s.boot.gap.isNone && !ledgerFull s then 1 else 0) ∧
        (∀ a, a < ledgerAddr s.ledger.next ∨ ledgerAddr s.ledger.next + 64 ≤ a → mget t.mem a = mget s.mem a))) ∧
      (AcceptedChange s k 0x0B01 r → leAt r.payload 0 4 = 0x46525A21 → leAt r.payload 4 4 = 0 →
        Completes (.freeze k) s (fun t => ∃ u, Appended s u (cmdEntry k r 0 0) ∧ t = { u with eft := t.eft, freeCtr := t.freeCtr } ∧
          tget t.mbx.reqs k.val = some r))) ∧
    (∀ missed at_, s.eft.tripped = false → s.eft.frozen = true →
      -- the step that comes next: those of domains that did not run at the latch are skipped
      let n := (skipStopped 11 s).eft.frzStep
      frzTicks[n]? = some at_ →
      (s.eft.frzRunning = 0b111111111 → n = s.eft.frzStep) ∧
      (s.eft.tick < s.eft.frzTick + at_ → Completes (.freezeSequenceStep missed) s (fun t => t = { s with eft.frzStep := n })) ∧
      (s.eft.frzTick + at_ ≤ s.eft.tick → Completes (.freezeSequenceStep missed) s (fun t =>
        t.eft.frzStep = n + 1 ∧ t.host.up = (s.host.up && decide (n ≠ 7)) ∧
        t.pwr.selfRefresh = (s.pwr.selfRefresh || decide (n = 1)) ∧
        (n = 1 → t.eft.noSr = missed.filter (fun k => decide (k < 36))) ∧ t.mem = s.mem ∧ t.cores = s.cores))) ∧
    (freezeDone s = false → Completes .sroClkRisingEdge s (fun t => t = { s with eft.sroDat := 0 }) ∧
      Completes .sroRestart s (fun t => t = s)) ∧
    (freezeDone s = true → Completes .sroRestart s (fun t => t = { s with eft.sroPos := 0 }) ∧
      Completes .sroClkRisingEdge s (fun t =>
        (∀ n, s.eft.sroPos = 2 * n → n < frzTotal → t.eft.sroDat = (frzImage s n).toNat % 16 ∧ t.eft.sroPos = 2 * n + 1) ∧
        (∀ n, s.eft.sroPos = 2 * n + 1 → n < frzTotal → t.eft.sroDat = (frzImage s n).toNat / 16 ∧ t.eft.sroPos = 2 * n + 2) ∧
        (2 * frzTotal ≤ s.eft.sroPos → t.eft.sroDat = 0 ∧ t.eft.sroPos = s.eft.sroPos) ∧
        t = { s with eft := { s.eft with sroDat := t.eft.sroDat, sroPos := t.eft.sroPos } })) ∧
    (∀ (p : BitVec 16) ws n,
      Completes (.i2cTransaction 0x50 p ws n) s (fun t => ∃ bs : List Byte, bs.length = n ∧
        (∀ j, j < n → 0x0800 ≤ (p.toNat + j) % 65536 → bs[j]? = some 0xFF) ∧
        t = { s with board.fruPtr := (p.toNat + n) % 65536, hostOut := s.hostOut ++ [.i2c bs] }) ∧
      Completes (.i2cTransaction 0x4C p ws n) s (fun t => ∃ bs : List Byte, bs.length = n ∧
        (∀ j, j < n → (p.toNat + j) % 256 = 0 → bs[j]? = some (BitVec.ofInt 8 s.board.tj)) ∧
        t = { s with board.tmpPtr := (p.toNat + n) % 256, hostOut := s.hostOut ++ [.i2c bs] })) ∧
    (∀ tj inlet outlet vr lpddr : Int,
      let run : Bool := alive s && decide (s.pwr.power ≠ .torpor) && !(match s.pwr.power with | .resuming _ => true | _ => false)
      Completes (.tempUpdate tj inlet outlet vr lpddr) s (fun t =>
      t.board.tj = (if run then tj else s.board.tj) ∧
      t.board.inlet = inlet ∧ t.board.outlet = outlet ∧ t.board.vr = vr ∧ t.board.lpddr = lpddr ∧
      t.board.flags / 8 = (if run then 0 else 1) ∧
      t = { s with board := t.board }))

/-- A fitting module starts training, one that does not fit is counted, and one taken out takes its port down.
Training goes from step to step; step 5 with the two-way HELLO brings the port UP with every stored record sent, and
an overrun counts a failure and waits for the retry. A frame lies in a codeword from the header flit that its S bit
marks to its last data flit. The next frame in sequence is accepted; the first other one is answered by a NAK, and a
bad one or a bad codeword is counted. An acknowledgement clears the replay buffer up to its
frame, a NAK or a timeout resends the rest, the 16th resend of an episode takes the link down, and a lost lock
counts the frames that it drops. A frame for another tray is forwarded, or dropped for its hops or its route. Rests
on 20_fabric_links_and_discovery.md R483, R484, R485, R490, R491, R492, R493, R494, R496, Table 20-5,
21_fabric_routing_and_remote_operations.md R510. -/
def Obligations.PortsTrainAndCarryFrames : Prop :=
  ∀ (s : State) (pp : PortId),
    let p := pp.val
    let x := port s p
    let sends (t : State) (m : FabOut) : Prop := t.fabOut = s.fabOut ++ [m]
    let up1 (t : State) (k : Nat) : Prop := ctr t (portCtr p k) = ctr s (portCtr p k) + 1
    let rests (t : State) : Prop := t.mem = s.mem ∧ t.dsp = s.dsp ∧ t.store = s.store
    (∀ four power optics, x.present = false → x.st = .down →
      let u := setPort s p { x with present := true, fits := four && power, optics := optics }
      Completes (.moduleInsert pp four power optics) s (fun t => (port t p).present = true ∧ rests t ∧
        (mayTrain u p = true → four = true → power = true → (port t p).st = .training 1) ∧
        (mayTrain u p = true → four = false ∨ power = false → (port t p).st = .down ∧ up1 t 7) ∧
        (mayTrain u p = false → t = u))) ∧
    Completes (.moduleRemove pp) s (fun t => (port t p).present = false ∧ (port t p).st = .down) ∧
    (∀ n, linkRuns s = true → x.st = .training n →
      (n = 1 → Completes (.trainingStep pp) s (fun t => t = setPort s p { x with st := .training (if x.optics then 3 else 2) })) ∧
      (n = 2 ∨ n = 3 → Completes (.trainingStep pp) s (fun t => t = setPort s p { x with st := .training (n + 1) })) ∧
      (n = 4 → Completes (.trainingStep pp) s (fun t => (port t p).st = .training 5 ∧ (port t p).txSeq = 0 ∧ (port t p).rxSeq = none ∧
        (port t p).replay = [] ∧ (port t p).granted = { req := 2048, rsp := 2048, mgt := 64 } ∧ rests t ∧
        sends t (.lctl p false 0xFFFF { req := 2048, rsp := 2048, mgt := 64 }))) ∧
      (n = 5 → x.twoWay = true → fabRuns s = true → Completes (.trainingStep pp) s (fun t => (port t p).st = .up ∧
        (∀ r ∈ s.fab.lsdb, FabOut.lsr p r.2.lsr ∈ t.fabOut))) ∧
      Completes (.trainingTimeout pp) s (fun t => (port t p).st = .down ∧ (port t p).retry = true ∧ up1 t 5 ∧ rests t)) ∧
    (linkRuns s = true → x.st = .down → x.present = true → x.fits = true → x.retry = true ∨ x.held = true →
      mayTrain (setPort s p { x with held := false }) p = true →
      Completes (.trainingRetry pp) s (fun t => (port t p).st = .training 1 ∧ (port t p).held = false ∧ up1 t 6 ∧ rests t)) ∧
    (linkRuns s = true → x.st = .down → x.present = false → x.retry = true ∨ x.held = true →
      Completes (.trainingRetry pp) s (fun t => t = setPort s p { x with held := false })) ∧
    (linkRuns s = true → x.st = .up → Completes (.fecLockLoss pp) s (fun t => (port t p).st = .down ∧ (port t p).retry = true ∧
      (port t p).replay = [] ∧ ctr t (portCtr p 4) = ctr s (portCtr p 4) + BitVec.ofNat 64 x.replay.length ∧
      ((port t p).held = true ↔ 3 ≤ x.downs.countP (fun d => decide (s.eft.time < d + 60000000000))))) ∧
    (linkOn s p = true →
      (∀ syn cw, Completes (.codewordReceive pp (.uncorrectable syn) cw) s (fun t => up1 t 1 ∧ (port t p) = { x with rx := [] } ∧
        t.fabOut = s.fabOut ∧ rests t)) ∧
      (∀ (f : RxFrame) cw rx, takeFlits x.rx cw = ([f], rx) → let next : BitVec 16 := match x.rxSeq with | some n => n + 1 | none => 0
        (f.valid = false → Completes (.codewordReceive pp .clean cw) s (fun t => up1 t 2 ∧ (port t p) = { x with rx := rx } ∧
          t.fabOut = s.fabOut ∧ rests t)) ∧
        (f.valid = true → f.lseq = next → Completes (.codewordReceive pp .clean cw) s (fun t => (port t p).rxSeq = some next ∧
          (port t p).freed = x.freed.add f.vc f.flits ∧ rests t ∧ (x.rxCount < 15 → t.fabOut = s.fabOut) ∧
          (15 ≤ x.rxCount → sends t (.lctl p false next (x.freed.add f.vc f.flits))))) ∧
        (f.valid = true → f.lseq ≠ next → Completes (.codewordReceive pp .clean cw) s (fun t => (port t p).rxSeq = x.rxSeq ∧
          (port t p).freed = x.freed ∧ rests t ∧ (x.nakSent = true → t.fabOut = s.fabOut) ∧
          (x.nakSent = false → sends t (.lctl p true (x.rxSeq.getD 0xFFFF) x.freed))))) ∧
      (∀ a (f : TxFrame) b ack req rsp mgt, x.replay = a ++ f :: b → f.lseq = ack → (∀ g ∈ a, g.lseq ≠ ack) → x.outq = [] →
        Completes (.lctl pp false ack req rsp mgt) s (fun t => (port t p).replay = b ∧ (port t p).resends = 0 ∧
          (port t p).granted = { req := req, rsp := rsp, mgt := mgt } ∧ t.fabOut = s.fabOut ∧ rests t) ∧
        (b ≠ [] → Completes (.lctl pp true ack req rsp mgt) s (fun t => (port t p).replay = b ∧ sends t (.resend p b) ∧ up1 t 3 ∧
          (port t p).resends = 1 ∧ rests t))) ∧
      Completes (.lctlTimer pp) s (fun t => sends t (.lctl p false (x.rxSeq.getD 0xFFFF) x.freed) ∧ (port t p).rxCount = 0 ∧ rests t) ∧
      (x.replay ≠ [] → x.resends < 15 → s.eft.tick < x.episode.getD s.eft.tick + 125 → Completes (.replayTimeout pp) s (fun t =>
        (port t p).replay = x.replay ∧ sends t (.resend p x.replay) ∧ up1 t 3 ∧ (port t p).resends = x.resends + 1 ∧ rests t)) ∧
      (x.replay ≠ [] → 15 ≤ x.resends → Completes (.replayTimeout pp) s (fun t => (port t p).st = .down ∧ (port t p).replay = [])) ∧
      (∀ uid heard node nport tent, fabRuns s = true →
        (x.heard ≠ 0 → x.heard ≠ uid → Completes (.hello pp uid heard node nport tent) s (fun t => (port t p).st = .down)) ∧
        (x.heard = 0 ∨ x.heard = uid → Completes (.hello pp uid heard node nport tent) s (fun t => (port t p).heard = uid ∧
          (port t p).nbr = some { uid := uid, node := node.toNat, nport := nport.val, tentative := tent } ∧ (port t p).st = x.st ∧
          ((port t p).twoWay = true ↔ x.twoWay = true ∨ heard = Config.uid.toNat) ∧ rests t ∧
          (x.twoWay = false → heard = Config.uid.toNat → sends t (.hello p uid s.fab.node.toNat (s.fab.addr == .tentative))) ∧
          (x.twoWay = true ∨ heard ≠ Config.uid.toNat → t.fabOut = s.fabOut))))) ∧
    (fabRuns s = true → x.st = .training 5 → Completes (.helloTimer pp) s (fun t =>
      sends t (.hello p x.heard s.fab.node.toNat (s.fab.addr == .tentative)) ∧ (port t p).st = x.st ∧ rests t)) ∧
    (∀ a f b, linkRuns s = true → x.outq = a ++ f :: b → f.1 ≠ .mgt → (∀ g ∈ a, g.1 = .mgt) →
      Completes (.ageDrop pp) s (fun t => (port t p) = { x with outq := a ++ b } ∧ up1 t 10 ∧ t.fabOut = s.fabOut ∧ rests t)) ∧
    (∀ (cw : Codeword) (h : BitVec 256) (ds : List (BitVec 256)), flitType h = 1 ∨ flitType h = 2 → flitData h = ds.length → ds.length ≤ 16 →
      cw.sbits.getLsbD 0 = true → cw.flits.getD 0 0 = h →
      (∀ j, j < ds.length → cw.sbits.getLsbD (j + 1) = false ∧ cw.flits.getD (j + 1) 0 = ds.getD j 0) →
      (∀ j, ds.length < j → j < 20 → cw.sbits.getLsbD j = true ∧ flitType (cw.flits.getD j 0) = 0) →
      takeFlits [] cw = ([frameOf h ds], [])) ∧
    (∀ f : FwdFrame, linkRuns s = true →
      let e := routeEntry s p f.dst.toNat
      let good : Prop := entryValid e = true ∧ entryDeliver e = false ∧ (port s (entryOut e)).st = .up
      (16 ≤ f.hops → Completes (.txnForward pp f) s (fun t => up1 t 8 ∧ t.fab = s.fab ∧ t.fabOut = s.fabOut ∧ rests t)) ∧
      (f.hops < 16 → good → Completes (.txnForward pp f) s (fun t => sends t (.forward (entryOut e) { f with hops := f.hops + 1 }) ∧ rests t ∧
        (∀ d, d ≠ entryOut e → port t d = port s d))) ∧
      (f.hops < 16 → ¬good → Completes (.txnForward pp f) s (fun t => up1 t 9 ∧ t.fab = s.fab ∧ t.fabOut = s.fabOut ∧ rests t)))

/-- A record of another tray that is new, or newer than the one held, is stored with its time and sent on every
other UP port; one that is not newer changes nothing, and one that finds the database full is counted. A record of
this tray that is newer than its own raises SEQ one above it. A conflict that this tray loses makes it give up its
address. A refresh sends the tray's record with the next SEQ. A record of an unreachable tray is deleted at its age.
A tentative address without conflict becomes firm. A computation makes the seven tables, which are then installed at
once, and no table routes to a tentative address. Rests on 20_fabric_links_and_discovery.md R497, R498, R499, R500,
R503, R504, 21_fabric_routing_and_remote_operations.md R509, R511, R517. -/
def Obligations.RecordsFloodAndRoutesFollow : Prop :=
  ∀ (s : State) (pp : PortId) (r : LsrRec), fabRuns s = true →
    let p := pp.val
    let sent (t : State) (r : LsrRec) (from_ : Option Nat) : Prop :=
      ∀ q, q < 6 → from_ ≠ some q → (port s q).st = .up → FabOut.lsr q r ∈ t.fabOut
    let own (t : State) (n : BitVec 32) : Prop := t.fab.seq = n ∧ ∃ o, t.fab.own = some o ∧ o.seq = n ∧ o.uid = Config.uid.toNat ∧ sent t o none
    (linkOn s p = true →
      (r.uid ≠ Config.uid.toNat →
        (match tget s.fab.lsdb r.uid with
          | some h => 1 ≤ (r.seq - h.lsr.seq).toNat ∧ (r.seq - h.lsr.seq).toNat ≤ 2147483647
          | none => s.fab.lsdb.length < 4096) →
        Completes (.lsr pp r) s (fun t => tget t.fab.lsdb r.uid = some { lsr := r, time := s.eft.time } ∧
          (∀ u, u ≠ r.uid → tget t.fab.lsdb u = tget s.fab.lsdb u) ∧ sent t r (some p) ∧
          (losesTo s r = true → s.fab.node ≠ 0 → t.fab.node ≠ s.fab.node ∧ t.fab.addr ≠ .firm))) ∧
      (∀ h, r.uid ≠ Config.uid.toNat → tget s.fab.lsdb r.uid = some h →
        (r.seq - h.lsr.seq).toNat = 0 ∨ 2147483647 < (r.seq - h.lsr.seq).toNat → Completes (.lsr pp r) s (fun t => t = s)) ∧
      (r.uid ≠ Config.uid.toNat → tget s.fab.lsdb r.uid = none → 4096 ≤ s.fab.lsdb.length →
        Completes (.lsr pp r) s (fun t => ctr t 0x728 = ctr s 0x728 + 1 ∧ t.fab = s.fab ∧ t.fabOut = s.fabOut)) ∧
      (r.uid = Config.uid.toNat → 1 ≤ (r.seq - s.fab.seq).toNat → (r.seq - s.fab.seq).toNat ≤ 2147483647 →
        Completes (.lsr pp r) s (fun t => own t (r.seq + 1)))) ∧
    Completes .lsrRefresh s (fun t => own t (s.fab.seq + 1) ∧ t.fab.lsdb = s.fab.lsdb) ∧
    (∀ uid e, tget s.fab.lsdb uid = some e → (reachable (allRecs s) Config.uid.toNat).contains uid = false →
      e.time + (if e.lsr.withdrawn then 3600000000000 else 7000000000) ≤ s.eft.time →
      Completes (.lsrAgeExpiry uid) s (fun t => tget t.fab.lsdb uid = none ∧ (∀ u, u ≠ uid → tget t.fab.lsdb u = tget s.fab.lsdb u) ∧
        t = { s with fab.lsdb := t.fab.lsdb })) ∧
    (s.fab.addr = .tentative → (∀ e ∈ s.fab.lsdb, losesTo s e.2.lsr = false) →
      Completes .addrFirm s (fun t => t.fab.addr = .firm ∧ t.fab.node = s.fab.node ∧ t.eft.lastNode = s.fab.node)) ∧
    (s.fab.dirty = true → s.fab.hostSet = none → Completes .routeCompute s (fun t => t.fab.dirty = false ∧ t.fab.computing = true ∧
      t.fab.tables = s.fab.tables ∧ t.fab.nextTables.length = 7 ∧
      (s.fab.node ≠ 0 → ∀ i, i < 7 → tgetD (tgetD t.fab.nextTables i []) s.fab.node.toNat 0 = 0b11000) ∧
      (∀ e ∈ s.fab.lsdb, e.2.lsr.node ≠ s.fab.node → (∀ d ∈ s.fab.lsdb, d.2.lsr.node = e.2.lsr.node → d.2.lsr.tentative = true) →
        ∀ i, i < 7 → tgetD (tgetD t.fab.nextTables i []) e.2.lsr.node.toNat 0 = 0))) ∧
    (s.fab.computing = true → Completes .routesInstalled s (fun t => t.fab.tables = s.fab.nextTables ∧ t.fab.computing = false ∧
      t.boot.routed = (s.boot.routed || s.fab.node != 0) ∧ (∀ e ∈ t.fab.expect, hasRoute t e.1 = true) ∧
      (∀ d ∈ t.fab.dups, hasRoute t d.src = true)))

/-- READ answers the bytes of a region that the tenant owns, POOL the pooled vector with its counts, and neither
writes. WRITE lands its bytes at their place in the token, and its last piece fills the token with zeros and moves
TAIL; one that the region does not take is counted. AADD replaces each element by its sum. CLAIM answers the cores
of the part that it makes. REPORT ends the part at the origin and joins its flags, RELEASE frees a part, QUENCH
stops one, and HOTROW adds the row to the replica with a ledger entry, or declines it. Every one is answered once,
but a QUENCH whose units still run. Rests on 21_fabric_routing_and_remote_operations.md R518, R521, R522, R524,
R525, R526, R527, R529, R530, Table 21-4, 16_embeddings_and_gather.md R402, R420, R423, 09_cores_and_scratchpad.md
R241, 08_jobs_and_dispatch.md R216. -/
def Obligations.RequestsArePerformedInTurn : Prop :=
  ∀ (s : State) (h : TxnHdr), InTurn s h → noHold s = true → s.ecc.latent = [] →
    let u := AtTurn s h
    let ends (i : Instr) (p : Perf) (post : State → Prop) : Prop := Completes i s (fun t => Answers t h p ∧ expected t h.src.toNat = h.eseq + 1 ∧ post t)
    let keeps (t : State) : Prop := t.mem = s.mem ∧ t.dsp = s.dsp ∧ t.store = s.store
    let still : Prop := (∀ d, (Machine.core s d).gb = []) ∧ s.ecc.poison = [] ∧ Canonical s
    (∀ region off len, ownedRegion s h.tcid region = none → ends (.txnRead h region off len .clean) { status := 0x0314 } keeps) ∧
    (∀ region off len g, ownedRegion s h.tcid region = some g → s.ecc.poison = [] →
      (off % 64 = 0 ∧ len % 64 = 0 ∧ 64 ≤ len ∧ len ≤ 8192 ∧ off + len ≤ g.size → Permitted s h.tcid (g.base + off) len false →
        ends (.txnRead h region off len .clean) { payload := mread s.mem (g.base + off) len } keeps) ∧
      (off % 64 ≠ 0 ∨ len % 64 ≠ 0 ∨ len < 64 ∨ 8192 < len ∨ g.size < off + len →
        ends (.txnRead h region off len .clean) { status := 0x0102 } keeps)) ∧
    (∀ region row0 et (wt : Bool) dim (es : List PoolEntry) g, ownedRegion s h.tcid region = some g → s.ecc.poison = [] → et ≤ 5 →
      1 ≤ dim → dim ≤ 2048 → es ≠ [] → es.length ≤ 4096 →
      let rp := rowPitch (etypeOf et) dim
      let at_ (r : Nat) : Nat := g.base + (r - row0) * rp
      let ps := es.map (fun e => (e.row, e.weight.toNat))
      let inside := ps.filter (fun e => decide (row0 ≤ e.1) && decide ((e.1 - row0 + 1) * rp ≤ g.size))
      (∀ e ∈ inside, Permitted s h.tcid (at_ e.1) rp false) →
      let r := poolBag dim wt inside (fun r => if inside.any (fun e => e.1 == r) then (elems (etypeOf et) (mread s.mem (at_ r) rp) dim).map
        (etypeOf et).widen else [])
      let bytes := r.1.flatMap (leBytes 4) ++ leBytes 4 inside.length ++ leBytes 4 (ps.length - inside.length)
      ends (.txnPool h region row0 et wt dim es .clean) { sat := r.2.2, nan := r.1.any isNan32, payload := bytes } keeps) ∧
    (∀ (c : CoreId) (reg : Fin 16) (sc : CoreId) (tend : Bool) units off data (tag : Fin 16), (Machine.core s c.val).seq.run ≠ .ending →
      let y := circ s c.val reg.val
      let i : Instr := .txnWrite h c reg sc tend units off data tag
      let n := if tend then units * 4096 - off else data.length
      let at_ (j : Nat) : Nat := spBase c.val + y.base * 4096 + (y.tail + off + j) % (y.size * 4096)
      (∀ w, workOn s h c.val = some w → fabricWriter s w c.val reg.val h.src.toNat sc.val = true → units ≤ y.size →
        off + data.length ≤ units * 4096 → still → circEndpoint s c.val y (workTcid s w) (y.tail + off) n true = .ok →
        ends i {} (fun t => (∀ j, j < n → mget t.mem (at_ j) = data.getD j 0) ∧
          (∀ a, (∀ j, j < n → a ≠ at_ j) → mget t.mem a = mget s.mem a) ∧ t.dsp = s.dsp ∧ t.store = s.store ∧
          (tend = false → circ t c.val reg.val = y) ∧
          (tend = true → (circ t c.val reg.val).tail = (y.tail + units * 4096) % (2 * (y.size * 4096)) ∧
            (circ t c.val reg.val).toks = y.toks ++ [{ tag := tag.val, units := units }]))) ∧
      (workOn s h c.val = none → ends i {} (fun t => keeps t ∧ circ t c.val reg.val = y ∧
        ctr t (coreCtr c.val 0x248) = ctr s (coreCtr c.val 0x248) + 1))) ∧
    (∀ target et (vs : List W32), et ≤ 2 → vs ≠ [] → vs.length ≤ 120 → still →
      let z := if et = 2 then 2 else 4
      target % z = 0 → Permitted s h.tcid target (vs.length * z) true → (∀ j, j < vs.length → Permitted s h.tcid (target + j * z) z true) →
      Completes (.txnAadd h target et vs .clean) s (fun t => (∃ sat nan, Answers t h { sat := sat, nan := nan }) ∧
        (∀ j v, vs[j]? = some v → mread t.mem (target + j * z) z = leBytes z (atomicSum et (mnum s.mem (target + j * z) z) v.toNat).1) ∧
        (∀ a, a < target ∨ target + vs.length * z ≤ a → mget t.mem a = mget s.mem a) ∧
        ctr t 0x228 = ctr s 0x228 + BitVec.ofNat 64 vs.length ∧ t.dsp = s.dsp ∧ t.store = s.store)) ∧
    (∀ image plan q0 npos ext,
      let v := dropStale u h
      let old := (partsFrom v h).find? (fun p => p.q0 == q0 && p.quench.isNone)
      let i : Instr := .txnClaim h image plan q0 npos ext
      (∀ p, old = some p → ends i { payload := p.cores.map (BitVec.ofNat 8) } (fun t => ∃ x ∈ t.dsp.parts, x.work = p.work ∧ x.cores = p.cores)) ∧
      (∀ st d, old = none → chkClaim v h image plan npos = .refuse st d → ends i { status := st } (fun t => t.dsp = v.dsp ∧ t.cores = v.cores)) ∧
      (old = none → chkClaim v h image plan npos = .hold → ends i { hold := true } (fun t => t.dsp = v.dsp ∧ t.cores = v.cores)) ∧
      (∀ m p v' chain a b, old = none → chkClaim v h image plan npos = .pass → tget v.store.images image = some m →
        m.desc.plans[plan]? = some p → joinPart v h image plan q0 npos = none →
        assignFree v [claimCand m h image plan p ext] v.dsp.nextOrder = some (.chain v' chain a b) →
        let cores := (List.range npos).map (fun n => tgetD chain n 0)
        ends i { payload := cores.map (BitVec.ofNat 8) } (fun t => ∃ x ∈ t.dsp.parts, x.origin = h.src.toNat ∧ x.slot = h.slot ∧
          x.gen = h.gen ∧ x.tcid = h.tcid ∧ x.image = image ∧ x.plan = plan ∧ x.q0 = q0 ∧ x.cores = cores))) ∧
    (∀ j a p b (sat nan : Bool), tget s.dsp.jobs h.slot = some j → j.gen = h.gen → j.parts = a ++ p :: b → p.node = h.src.toNat →
      p.st = .claimed → (∀ x ∈ a, ¬(x.node = h.src.toNat ∧ x.st = .claimed)) →
      ends (.txnReport h 0 sat nan) {} (fun t => t.mem = s.mem ∧ t.store = s.store ∧ tget t.dsp.jobs h.slot
        = some { j with parts := a ++ { p with st := .ended } :: b, sat := j.sat || sat, nan := j.nan || nan })) ∧
    (∀ st sat nan, (∀ j, tget s.dsp.jobs h.slot = some j → j.gen ≠ h.gen) →
      ends (.txnReport h st sat nan) {} (fun t => keeps t ∧ ctr t 0x0020 = ctr s 0x0020 + 1)) ∧
    (∀ p rest, partsFrom s h = p :: rest → ends (.txnRelease h) {} (fun t => ∀ x ∈ t.dsp.parts, x.work ≠ p.work)) ∧
    (∀ p, (partsFrom s h).find? (fun p => p.quench.isNone) = some p →
      Completes (.txnQuench h) s (fun t => t.fabOut = s.fabOut ∧ ∃ x ∈ t.dsp.parts, x.work = p.work ∧ ∃ us, x.quench = some (us, h.txid))) ∧
    (partsFrom s h = [] → ends (.txnRelease h) {} keeps) ∧
    ((partsFrom s h).find? (fun p => p.quench.isNone) = none → ends (.txnQuench h) {} keeps) ∧
    (∀ region row data, fwUp s = true →
      (hotTable s (region % 4096) region = none → ends (.txnHotrow h region row data) {} keeps) ∧
      (∀ tb v, hotTable s (region % 4096) region = some tb → replicated s (region % 4096) tb row = false →
        insertHot u (region % 4096) tb row data = some v →
        ends (.txnHotrow h region row data) {} (fun t => replicated t (region % 4096) tb row = true ∧ t.ledger.next = s.ledger.next + 1)))

/-- A request behind its turn that was recorded is answered from the record and performed no second time; one
without a record is counted and dropped. A request ahead of its turn waits in the reorder store, or is counted when
the store is full. A response that no open transaction expects is counted. The last frame of a response frees the
tracker entry, and a claim that it grants is entered with its cores. After its time an attempt is sent again with
the same TXID and ESEQ, and the third one ends the work. A newer CREDIT total is kept and an older one ignored; a
refresh sends the total of every region that another tray writes. Rests on
21_fabric_routing_and_remote_operations.md R519, R520, R521, R522, R524, R528, 08_jobs_and_dispatch.md R212. -/
def Obligations.TransactionsRetryAndComplete : Prop :=
  ∀ (s : State) (h : TxnHdr), domainsUp s = true →
    let e := expected s h.src.toNat
    let keeps (t : State) : Prop := t.mem = s.mem ∧ t.dsp = s.dsp ∧ t.store = s.store ∧ t.cores = s.cores
    let quiet : Prop := ∀ p ∈ s.cores, p.2.gather = none
    (seqAhead h.lowOpen e = false → (∀ f ∈ s.fab.reorder, f.h.src ≠ h.src) →
      ∀ i ∈ ([.txnReport h 0 false false, .txnRelease h, .txnQuench h, .txnAadd h 0 1 [1] .clean] : List Instr),
        (h.eseq ≠ e → seqAhead h.eseq e = false →
          (∀ d, s.fab.dups.find? (fun d => d.src == h.src.toNat && d.txid == h.txid) = some d → Completes i s (fun t => keeps t ∧
            Answers t h { status := d.status, sat := d.sat, nan := d.nan } ∧ ctr t 0x718 = ctr s 0x718 + 1)) ∧
          (s.fab.dups.find? (fun d => d.src == h.src.toNat && d.txid == h.txid) = none → Completes i s (fun t => t = ctrAdd s 0x720 1))) ∧
        (seqAhead h.eseq e = true →
          (s.fab.reorder.length < 256 → Completes i s (fun t => ∃ f : ReqFrame, f.h = h ∧
            t = { s with fab.reorder := s.fab.reorder ++ [f] })) ∧
          (256 ≤ s.fab.reorder.length → Completes i s (fun t => t = ctrAdd s 0x710 1)))) ∧
    (∀ r : TxnRsp, let id := r.txid.toNat
      ((∀ x, tget s.fab.txns id = some x → x.dst ≠ r.src.toNat) → Completes (.txnResponse r) s (fun t => t = ctrAdd s 0x708 1)) ∧
      (∀ x, tget s.fab.txns id = some x → x.dst = r.src.toNat → x.got = [] → x.lastPart = none →
        (r.last = false → Completes (.txnResponse r) s (fun t =>
          tget t.fab.txns id = some { x with got := [(r.part, r.payload)] } ∧ t = { s with fab := { s.fab with txns := t.fab.txns } })) ∧
        (r.last = true → r.part = 0 → quiet →
          (∀ st sa na, x.op = .report st sa na → x.work = none → Completes (.txnResponse r) s (fun t => t = { s with fab := { s.fab with txns := tdel s.fab.txns id } })) ∧
          (∀ w, x.work = some w → flightLive s w x.gen = false → Completes (.txnResponse r) s (fun t => tget t.fab.txns id = none ∧
            keeps t ∧ ctr t 0x020 = ctr s 0x020 + 1)) ∧
          (∀ dc dr sc te un off d tg w, x.op = .write dc dr sc te un off d tg → x.work = some w → r.status = 0 → r.sat = false → r.nan = false →
            flightLive s w x.gen = true →
            (Machine.core s x.core).seq.run ≠ .ending → Completes (.txnResponse r) s (fun t => tget t.fab.txns id = none ∧
              t.mem = s.mem ∧ ((∀ z ∈ (Machine.core s x.core).pend, z.ord = x.ord → ∀ f ∈ z.flags, f.2 = (false, false)) → t.dsp = s.dsp) ∧
              t.store = s.store ∧
              (∀ p, (Machine.core s x.core).pend.find? (fun p => p.ord == x.ord) = some p → p.left ≤ 1 →
                ∀ p' ∈ (Machine.core t x.core).pend, p'.ord ≠ x.ord))) ∧
          (∀ im pl q0 np ex j, x.op = .claim im pl q0 np ex → txnLive s x = true → r.status = 0 → r.hold = false → tget s.dsp.jobs x.slot = some j →
            j.gen = x.gen → Completes (.txnResponse r) s (fun t => tget t.fab.txns id = none ∧ t.mem = s.mem ∧
              ∃ j', tget t.dsp.jobs x.slot = some j' ∧ ∀ (n : Nat) (p : OPart), j.parts[n]? = some p → p.node = x.dst → p.q0 = q0 → p.st = .claiming →
                ∃ p', j'.parts[n]? = some p' ∧ p'.st = .claimed ∧
                  (0 < np → r.payload ≠ [] → p'.cores = (r.payload.take np).map (fun b => b.toNat % 64))))))) ∧
    (∀ (id : BitVec 32) x, tget s.fab.txns id.toNat = some x →
      (s.eft.tick < x.start + 1563 → Completes (.e2eRetry id) s (fun t => t = s)) ∧
      (x.start + 1563 ≤ s.eft.tick → x.attempt < 3 → Completes (.e2eRetry id) s (fun t => keeps t ∧
        tget t.fab.txns id.toNat = some { x with attempt := x.attempt + 1, start := s.eft.tick } ∧ ctr t 0x700 = ctr s 0x700 + 1 ∧
        ∃ low, t.fabOut = s.fabOut ++ [.request id (x.attempt + 1) x.dst x.eseq low x.tcid x.slot x.gen x.op])) ∧
      (x.start + 1563 ≤ s.eft.tick → 3 ≤ x.attempt → ∀ st sa na, x.op = .report st sa na → x.work = none → 64 ≤ x.core → quiet →
        Completes (.e2eRetry id) s (fun t => t = { s with fab := { s.fab with txns := tdel s.fab.txns id.toNat } })) ∧
      (x.start + 1563 ≤ s.eft.tick → 3 ≤ x.attempt → ∀ dc dr sc te un off d tg w, x.op = .write dc dr sc te un off d tg → x.work = some w →
        w < 8192 → flightLive s w x.gen = true → (Machine.core s x.core).seq.run ≠ .ending → quiet → Completes (.e2eRetry id) s (fun t => ∀ j, tget t.dsp.jobs w = some j → j.quench.isSome = true))) ∧
    (∀ (pc cc : CoreId) (reg : Fin 16) (total : W32),
      let key := totKey pc.val h.src.toNat cc.val reg.val
      let held := tgetD s.fab.totals key (0, 0)
      (workOn s h pc.val = none → Completes (.txnCredit h pc cc reg total) s (fun t => t = ctrAdd s 0x0020 1)) ∧
      (∀ w, workOn s h pc.val = some w →
        (0 < (total - held.1).toNat → (total - held.1).toNat < 2147483648 → Completes (.txnCredit h pc cc reg total) s (fun t =>
          tget t.fab.totals key = some (total, held.2) ∧ (∀ k, k ≠ key → tget t.fab.totals k = tget s.fab.totals k) ∧
          (Machine.core t pc.val).doze = false ∧ t.mem = s.mem ∧ t.dsp = s.dsp ∧ t.fabOut = s.fabOut)) ∧
        (total = held.1 ∨ 2147483648 ≤ (total - held.1).toNat → Completes (.txnCredit h pc cc reg total) s (fun t => t = s)))) ∧
    (∀ (c : CoreId) w, (Machine.core s c.val).work = some w → Completes (.creditRefresh c) s (fun t => keeps t ∧
      ∀ e ∈ (Machine.core s c.val).circ, tget (Machine.core s c.val).circ e.1 = some e.2 → 0x5000 ≤ e.2.source → 0 < e.2.size → ∀ q, producerPos s w c.val e.1 = some q →
        FabOut.credit (mapNode (Machine.core s c.val) q) (workTcid s w) (workSlot s w) (workGen s w) (mapCore (Machine.core s c.val) q) c.val e.1 e.2.total ∈ t.fabOut)) ∧
    (∀ (src : BitVec 12) (id : BitVec 32), Completes (.duplicateRecordExpiry src id) s (fun t =>
      t = { s with fab := { s.fab with dups := t.fab.dups } } ∧
      ∀ d, d ∈ t.fab.dups ↔ d ∈ s.fab.dups ∧ ¬(d.src = src.toNat ∧ d.txid = id)))

/-- For every command c and state s, a step of s with c in front of its queue is exec of c on s with the rest of its
queue. That the tray idles on an empty queue is the model's choice (log entry 7). Rests on
95_what_each_step_holds.md. -/
def Obligations.StepRunsTheFrontCommand : Prop :=
  (∀ (s : State) (c : Instr) (rest : List Instr), step { s with pending := c :: rest } = exec c { s with pending := rest }) ∧
  (∀ s : State, s.pending = [] → step s = .next s)

/-- At reset the queue is empty, tray time is 0, the ready event has not been posted, memory is in its canonical
form and reads zero everywhere, every accumulator element reads zero, no tenant, commons object, region, ring or job
exists, the ledger starts a new chain at sequence number 0, every counter is zero, and the power policy holds its
defaults. Rests on 04_startup_and_reset.md R92, R105, Table 4-6, 03_clocks_power_and_sleep.md R60, Table 3-3,
13_accumulation_and_drain.md R333. -/
def Obligations.ResetLeavesTheTrayCleared : Prop :=
  let s := State.reset
  s.pending = [] ∧ s.eft.time = 0 ∧ s.eft.frozen = false ∧ ready s = false ∧ Canonical s ∧ (∀ a, mget s.mem a = 0) ∧
  (∀ c set f m n, accGet (accSet (Machine.core s c) set) f m n = 0) ∧ s.store.tenants = [] ∧ s.store.commons = [] ∧ s.store.regions = [] ∧
  s.rings = [] ∧ s.dsp.jobs = [] ∧ s.ledger.next = 0 ∧ (∀ off, ctr s off = 0) ∧
  s.pwr.idleSleep = 10000 ∧ s.pwr.idleTorpor = 60000 ∧ s.pwr.coreFmax = 900 ∧ s.pwr.torporEn = false

/-- For every agent and every value of every operand field, the word of an instruction that the agent has decodes to
that instruction; and a word that decodes at all is the word of the instruction that it decodes to, so that no bit
of it is dropped. Cores have no PCRR and PCRW, Swifort has no QSYNC, TISS and END, and a branch has six conditions.
Rests on 11_sequencer_and_tile_instructions.md R285, R286, R298, Table 11-3, Table 11-4. -/
def Obligations.SequencerWordsRoundTrip : Prop :=
  (∀ (ag : Agent) (gd ga gb : RegId) (i15 : BitVec 15) (i20 : BitVec 20) (i12 num : BitVec 12) (sh : BitVec 6) (cond : BitVec 3),
    (∀ i ∈ ([.add ag gd ga gb, .sub ag gd ga gb, .and ag gd ga gb, .or ag gd ga gb, .xor ag gd ga gb, .sll ag gd ga gb, .srl ag gd ga gb,
        .sra ag gd ga gb, .slt ag gd ga gb, .sltu ag gd ga gb, .min ag gd ga gb, .max ag gd ga gb, .minu ag gd ga gb, .maxu ag gd ga gb,
        .mul ag gd ga gb, .mulh ag gd ga gb, .mulhu ag gd ga gb, .div ag gd ga gb, .divu ag gd ga gb, .rem ag gd ga gb, .remu ag gd ga gb,
        .addi ag gd ga i15, .andi ag gd ga i15, .ori ag gd ga i15, .xori ag gd ga i15, .slli ag gd ga sh, .srli ag gd ga sh,
        .srai ag gd ga sh, .slti ag gd ga i15, .sltiu ag gd ga i15, .lui ag gd i20, .auipc ag gd i20, .ld1 ag gd ga i15, .ld2 ag gd ga i15,
        .ld4 ag gd ga i15, .ld8 ag gd ga i15, .ld1u ag gd ga i15, .ld2u ag gd ga i15, .ld4u ag gd ga i15, .st1 ag gd ga i15,
        .st2 ag gd ga i15, .st4 ag gd ga i15, .st8 ag gd ga i15, .stnt ag gd ga i15, .ldres ag gd ga i15, .stcond ag gd ga gb,
        .jal ag gd i20, .jalr ag gd ga i15, .sync ag, .wait ag, .crr ag gd num, .crw ag ga num, .eret ag, .brk ag] : List Instr),
      seqDecode ag (seqEncode i) = some i ∧ seqEncode i < 2 ^ 32) ∧
    (cond.toNat < 6 → seqDecode ag (seqEncode (.br ag cond ga gb i12)) = some (.br ag cond ga gb i12)) ∧
    (∀ i ∈ ([.qsync ag, .tiss ag ga gb, .endSection ag] : List Instr),
      seqDecode ag (seqEncode i) = if ag.val < 64 then some i else none) ∧
    (∀ i ∈ ([.pcrr ag gd num, .pcrw ag ga num] : List Instr), seqDecode ag (seqEncode i) = if ag.val = 64 then some i else none)) ∧
  (∀ (ag : Agent) (x : Nat) (i : Instr), seqDecode ag x = some i → seqEncode i = x ∧ x < 2 ^ 32)

/-- No command of the table stops the tray: in every state each of them answers a next state. A step that answers a
next state keeps memory in its canonical form, with addresses rising and no cell that reads as an unlisted one, so
that equal memories stay equal data. That memory has the form at reset is a statement of its own. Rests on
09_cores_and_scratchpad.md R224, 19_tier_memory.md R463, 95_what_each_step_holds.md. -/
def Obligations.CommandsCompleteAndKeepMemory : Prop :=
  (∀ (i : Instr) (s : State), ∃ t, exec i s = .next t) ∧
  (∀ s t : State, Canonical s → step s = .next t → Canonical t)
end

