-- ==== Sys2Proof/Laws/Memory.lean ====
section
/-! SUPPORT. What the memory operations do: a read after a write, writes elsewhere, and the canonical form. -/

namespace Sys2Proof.Machine

/-- Every address of a memory is above a bound. -/
def Memory.above (b : Nat) (m : Memory) : Prop := ∀ c ∈ m, b < c.1

theorem Memory.wf_cons {c : Host.Cell} {m : Memory} :
    Memory.wf (c :: m) = true ↔ c.2 ≠ 0 ∧ Memory.above c.1 m ∧ Memory.wf m = true := by
  induction m generalizing c with
  | nil => simp [Memory.wf, Memory.above]
  | cons d m ih =>
    have h := @ih d
    simp only [Memory.wf, Bool.and_eq_true, bne_iff_ne, ne_eq, decide_eq_true_eq, and_assoc]
    rw [h]
    constructor
    · rintro ⟨h1, h2, h3, h4, h5⟩
      refine ⟨h1, ?_, h3, h4, h5⟩
      intro x hx
      rcases List.mem_cons.mp hx with rfl | hx
      · exact h2
      · exact Nat.lt_trans h2 (h4 x hx)
    · rintro ⟨h1, h2, h3, h4, h5⟩
      exact ⟨h1, h2 d (by simp), h3, h4, h5⟩

theorem mem_mset {m : Memory} {a : Nat} {b : Byte} {c : Host.Cell} (h : c ∈ mset m a b) : c ∈ m ∨ c = (a, b) := by
  induction m with
  | nil => simp only [mset] at h; split at h <;> simp_all
  | cons d m ih =>
    simp only [mset] at h
    split at h
    · split at h <;> simp_all
      tauto
    · split at h
      · split at h <;> simp_all
        tauto
      · rcases List.mem_cons.mp h with h | h
        · exact .inl (by simp [h])
        · rcases ih h with h | h
          · exact .inl (by simp [h])
          · exact .inr h

/-- A write of one byte keeps the canonical form. -/
theorem mset_wf {m : Memory} (a : Nat) (b : Byte) (h : Memory.wf m = true) : Memory.wf (mset m a b) = true := by
  induction m with
  | nil => simp only [mset]; split <;> simp_all [Memory.wf]
  | cons d m ih =>
    obtain ⟨h1, h2, h3⟩ := Memory.wf_cons.mp h
    simp only [mset]
    split
    · rename_i hlt
      split
      · exact h
      · rename_i hb
        refine Memory.wf_cons.mpr ⟨hb, ?_, h⟩
        intro x hx
        rcases List.mem_cons.mp hx with rfl | hx
        · exact hlt
        · exact Nat.lt_trans hlt (h2 x hx)
    · split
      · rename_i heq
        split
        · exact h3
        · rename_i hb
          exact Memory.wf_cons.mpr ⟨hb, by rw [heq]; exact h2, h3⟩
      · refine Memory.wf_cons.mpr ⟨h1, ?_, ih h3⟩
        intro x hx
        rcases mem_mset hx with hx | rfl
        · exact h2 x hx
        · simp only; omega

/-- A write of bytes keeps the canonical form. -/
theorem mwrite_wf {m : Memory} (a : Nat) (bs : List Byte) (h : Memory.wf m = true) : Memory.wf (mwrite m a bs) = true := by
  induction bs generalizing m a with
  | nil => exact h
  | cons b bs ih => exact ih _ (mset_wf _ _ h)

theorem mputNum_wf {m : Memory} (a n x : Nat) (h : Memory.wf m = true) : Memory.wf (mputNum m a n x) = true :=
  mwrite_wf _ _ h

/-- Dropping cells keeps the canonical form. -/
theorem filter_wf {m : Memory} (p : Host.Cell → Bool) (h : Memory.wf m = true) : Memory.wf (m.filter p) = true := by
  induction m with
  | nil => rfl
  | cons d m ih =>
    obtain ⟨h1, h2, h3⟩ := Memory.wf_cons.mp h
    rw [List.filter_cons]
    split
    · exact Memory.wf_cons.mpr ⟨h1, fun x hx => h2 x (List.mem_filter.mp hx).1, ih h3⟩
    · exact ih h3

theorem mzero_wf {m : Memory} (a n : Nat) (h : Memory.wf m = true) : Memory.wf (mzero m a n) = true := filter_wf _ h

/-- A fold of writes keeps the canonical form. -/
theorem foldl_wf {α : Type} (f : Memory → α → Memory) (hf : ∀ m x, Memory.wf m = true → Memory.wf (f m x) = true)
    (l : List α) {m : Memory} (h : Memory.wf m = true) : Memory.wf (l.foldl f m) = true := by
  induction l generalizing m with
  | nil => exact h
  | cons x l ih => exact ih (hf _ _ h)

theorem mcopy_wf {m : Memory} (src dst n : Nat) (h : Memory.wf m = true) : Memory.wf (mcopy m src dst n) = true :=
  foldl_wf _ (fun _ _ h => mset_wf _ _ h) _ (mzero_wf _ _ h)

theorem mget_of_above {m : Memory} {a : Nat} (h : Memory.above a m) : mget m a = 0 := by
  induction m with
  | nil => rfl
  | cons d m ih =>
    have h1 := h d (by simp)
    simp only [mget]
    rw [if_neg (by omega)]
    exact ih (fun x hx => h x (by simp [hx]))

/-- A read after a write of one byte. -/
theorem mget_mset {m : Memory} (a b : Nat) (v : Byte) (h : Memory.wf m = true) :
    mget (mset m a v) b = if b = a then v else mget m b := by
  induction m with
  | nil =>
    simp only [mset]
    by_cases hv : v = 0
    · rw [if_pos hv]; by_cases hb : b = a
      · rw [if_pos hb, hv]; rfl
      · rw [if_neg hb]
    · rw [if_neg hv]
      show (if a = b then v else 0) = if b = a then v else 0
      by_cases hb : b = a
      · rw [if_pos hb, if_pos hb.symm]
      · rw [if_neg hb, if_neg (Ne.symm hb)]
  | cons d m ih =>
    obtain ⟨h1, h2, h3⟩ := Memory.wf_cons.mp h
    simp only [mset]
    by_cases hlt : a < d.1
    · rw [if_pos hlt]
      have h0 : mget (d :: m) a = 0 := by
        apply mget_of_above
        intro x hx
        rcases List.mem_cons.mp hx with rfl | hx
        · exact hlt
        · exact Nat.lt_trans hlt (h2 x hx)
      by_cases hv : v = 0
      · rw [if_pos hv]
        by_cases hb : b = a
        · subst hb; rw [if_pos rfl, h0, hv]
        · rw [if_neg hb]
      · rw [if_neg hv]
        by_cases hb : b = a
        · subst hb; simp [mget]
        · rw [if_neg hb]
          show (if a = b then v else mget (d :: m) b) = _
          rw [if_neg (Ne.symm hb)]
    · rw [if_neg hlt]
      by_cases heq : a = d.1
      · rw [if_pos heq]
        by_cases hb : b = a
        · subst hb
          rw [if_pos rfl]
          by_cases hv : v = 0
          · rw [if_pos hv, hv]
            exact mget_of_above (by rw [heq]; exact h2)
          · rw [if_neg hv]; simp [mget]
        · rw [if_neg hb]
          have hb' : ¬ d.1 = b := fun h => hb (by rw [heq, h])
          by_cases hv : v = 0
          · rw [if_pos hv]; simp [mget, hb']
          · rw [if_neg hv]; simp [mget, hb', Ne.symm hb]
      · rw [if_neg heq]
        simp only [mget]
        by_cases hb : d.1 = b
        · rw [if_pos hb, if_pos hb, if_neg (fun h => heq (by rw [← h, ← hb]))]
        · rw [if_neg hb, if_neg hb, ih h3]

/-- A write of bytes, read back byte by byte. -/
theorem mget_mwrite {m : Memory} (a b : Nat) (bs : List Byte) (h : Memory.wf m = true) :
    mget (mwrite m a bs) b = if a ≤ b ∧ b < a + bs.length then bs.getD (b - a) 0 else mget m b := by
  induction bs generalizing m a with
  | nil => rw [if_neg (by simp)]; rfl
  | cons v bs ih =>
    simp only [mwrite]
    rw [ih _ (mset_wf _ _ h), mget_mset _ _ _ h]
    by_cases h1 : b = a
    · subst h1; simp
    · by_cases h2 : a + 1 ≤ b ∧ b < a + 1 + bs.length
      · rw [if_pos h2, if_pos (by simp only [List.length_cons]; omega)]
        obtain ⟨k, hk⟩ : ∃ k, b - a = k + 1 := ⟨b - a - 1, by omega⟩
        rw [hk, show b - (a + 1) = k by omega]
        simp
      · rw [if_neg h2, if_neg h1, if_neg (by simp only [List.length_cons]; omega)]

theorem mget_mzero {m : Memory} (a n b : Nat) : mget (mzero m a n) b = if a ≤ b ∧ b < a + n then 0 else mget m b := by
  induction m with
  | nil => simp [mzero, mget]
  | cons d m ih =>
    simp only [mzero, List.filter_cons] at ih ⊢
    by_cases hd : a ≤ d.1 ∧ d.1 < a + n
    · rw [if_neg (by simp; omega), ih]
      by_cases hb : a ≤ b ∧ b < a + n
      · rw [if_pos hb, if_pos hb]
      · rw [if_neg hb, if_neg hb]; simp only [mget]; rw [if_neg (by intro h; rw [h] at hd; exact hb hd)]
    · rw [if_pos (by simp; omega)]
      simp only [mget]
      by_cases hb : d.1 = b
      · rw [if_pos hb, if_pos hb, if_neg (by rw [← hb]; exact hd)]
      · rw [if_neg hb, if_neg hb, ih]

end Sys2Proof.Machine
end

