-- ==== Sys2Proof/Laws/Tab.lean ====
section
/-! SUPPORT. What the table operations do: the entry set, the other entries, and rising keys. -/

namespace Sys2Proof.Machine

theorem tget_tset {α : Type} (t : Tab α) (k j : Nat) (v : α) :
    tget (tset t k v) j = if k = j then some v else tget t j := by
  induction t with
  | nil => simp [tset, tget]
  | cons p t ih =>
    obtain ⟨k', v'⟩ := p
    simp only [tset]
    split
    · simp [tget]
    · split
      · rename_i h
        subst h
        by_cases hj : k = j <;> simp [tget, hj]
      · rename_i h
        simp only [tget]
        rw [ih]
        by_cases hj : k' = j
        · rw [if_pos hj, if_neg (by rw [← hj]; exact h), if_pos hj]
        · rw [if_neg hj, if_neg hj]

@[simp] theorem tgetD_tset_self {α : Type} (t : Tab α) (k : Nat) (v d : α) : tgetD (tset t k v) k d = v := by
  simp [tgetD, tget_tset]

theorem tgetD_tset_ne {α : Type} (t : Tab α) {k j : Nat} (h : k ≠ j) (v d : α) :
    tgetD (tset t k v) j d = tgetD t j d := by
  simp [tgetD, tget_tset, h]

theorem tget_tdel {α : Type} (t : Tab α) (k j : Nat) : tget (tdel t k) j = if k = j then none else tget t j := by
  induction t with
  | nil => simp [tdel, tget]
  | cons p t ih =>
    obtain ⟨k', v'⟩ := p
    simp only [tdel, List.filter_cons] at ih ⊢
    by_cases h : k' = k
    · subst h
      simp only [bne_self_eq_false, Bool.false_eq_true, if_false, ih]
      by_cases hj : k' = j <;> simp [tget, hj]
    · rw [if_pos (by simpa using h)]
      simp only [tget, ih]
      by_cases hj : k' = j
      · rw [if_pos hj, if_neg (by rw [← hj]; exact fun e => h e.symm), if_pos hj]
      · rw [if_neg hj, if_neg hj]

/-- An entry of the table after a set is an old one or the one set. -/
theorem tset_keys {α : Type} (t : Tab α) (k : Nat) (v : α) (p : Nat × α) (h : p ∈ tset t k v) : p ∈ t ∨ p = (k, v) := by
  induction t with
  | nil => simp only [tset, List.mem_singleton] at h; exact .inr h
  | cons q t ih =>
    simp only [tset] at h
    split at h
    · rcases List.mem_cons.mp h with h | h
      · exact .inr h
      · exact .inl h
    · split at h
      · rcases List.mem_cons.mp h with h | h
        · exact .inr h
        · exact .inl (List.mem_cons_of_mem _ h)
      · rcases List.mem_cons.mp h with h | h
        · exact .inl (by rw [h]; exact List.mem_cons_self)
        · rcases ih h with h | h
          · exact .inl (List.mem_cons_of_mem _ h)
          · exact .inr h

/-- The lowest item is an item. -/
theorem minBy_mem {α : Type} (key : α → Nat) (l : List α) (y : α) (h : minBy key l = some y) : y ∈ l := by
  induction l generalizing y with
  | nil => simp [minBy] at h
  | cons x xs ih =>
    simp only [minBy] at h
    split at h
    · cases h
      exact List.mem_cons_self
    · rename_i z hz
      split at h
      · cases h
        exact List.mem_cons_self
      · cases h
        exact List.mem_cons_of_mem _ (ih _ hz)

/-- The first item is the lowest when no other is below it. -/
theorem minBy_head {α : Type} (key : α → Nat) (x : α) (xs : List α) (h : ∀ y ∈ xs, key x ≤ key y) :
    minBy key (x :: xs) = some x := by
  simp only [minBy]
  split
  · rfl
  · rename_i z hz
    rw [if_pos (h z (minBy_mem key xs z hz))]

end Sys2Proof.Machine
end

