-- ==== Sys2Proof/Laws/State.lean ====
section
/-! SUPPORT. What the plain updates of the state leave alone, field by field, and the few that read back. -/

namespace Sys2Proof.Machine

@[simp] theorem ctrAdd_pending (s : State) (off n : Nat) : (ctrAdd s off n).pending = s.pending := rfl
@[simp] theorem ctrAdd_freeCtr (s : State) (off n : Nat) : (ctrAdd s off n).freeCtr = s.freeCtr := rfl
@[simp] theorem ctrAdd_hostOut (s : State) (off n : Nat) : (ctrAdd s off n).hostOut = s.hostOut := rfl
@[simp] theorem ctrAdd_eft (s : State) (off n : Nat) : (ctrAdd s off n).eft = s.eft := rfl
@[simp] theorem ctrAdd_pwr (s : State) (off n : Nat) : (ctrAdd s off n).pwr = s.pwr := rfl
@[simp] theorem ctrAdd_boot (s : State) (off n : Nat) : (ctrAdd s off n).boot = s.boot := rfl
@[simp] theorem ctrAdd_host (s : State) (off n : Nat) : (ctrAdd s off n).host = s.host := rfl
@[simp] theorem ctrAdd_rings (s : State) (off n : Nat) : (ctrAdd s off n).rings = s.rings := rfl
@[simp] theorem ctrAdd_mbx (s : State) (off n : Nat) : (ctrAdd s off n).mbx = s.mbx := rfl
@[simp] theorem ctrAdd_store (s : State) (off n : Nat) : (ctrAdd s off n).store = s.store := rfl
@[simp] theorem ctrAdd_dsp (s : State) (off n : Nat) : (ctrAdd s off n).dsp = s.dsp := rfl
@[simp] theorem ctrAdd_errs (s : State) (off n : Nat) : (ctrAdd s off n).errs = s.errs := rfl
@[simp] theorem ctrAdd_ecc (s : State) (off n : Nat) : (ctrAdd s off n).ecc = s.ecc := rfl
@[simp] theorem ctrAdd_repairs (s : State) (off n : Nat) : (ctrAdd s off n).repairs = s.repairs := rfl
@[simp] theorem ctrAdd_ledger (s : State) (off n : Nat) : (ctrAdd s off n).ledger = s.ledger := rfl
@[simp] theorem ctrAdd_cores (s : State) (off n : Nat) : (ctrAdd s off n).cores = s.cores := rfl
@[simp] theorem ctrAdd_swi (s : State) (off n : Nat) : (ctrAdd s off n).swi = s.swi := rfl
@[simp] theorem ctrAdd_net (s : State) (off n : Nat) : (ctrAdd s off n).net = s.net := rfl
@[simp] theorem ctrAdd_fab (s : State) (off n : Nat) : (ctrAdd s off n).fab = s.fab := rfl
@[simp] theorem ctrAdd_fabOut (s : State) (off n : Nat) : (ctrAdd s off n).fabOut = s.fabOut := rfl
@[simp] theorem ctrAdd_board (s : State) (off n : Nat) : (ctrAdd s off n).board = s.board := rfl
@[simp] theorem ctrAdd_mem (s : State) (off n : Nat) : (ctrAdd s off n).mem = s.mem := rfl
@[simp] theorem sysErr_pending (s : State) (bit : Nat) : (sysErr s bit).pending = s.pending := rfl
@[simp] theorem sysErr_freeCtr (s : State) (bit : Nat) : (sysErr s bit).freeCtr = s.freeCtr := rfl
@[simp] theorem sysErr_hostOut (s : State) (bit : Nat) : (sysErr s bit).hostOut = s.hostOut := rfl
@[simp] theorem sysErr_eft (s : State) (bit : Nat) : (sysErr s bit).eft = s.eft := rfl
@[simp] theorem sysErr_pwr (s : State) (bit : Nat) : (sysErr s bit).pwr = s.pwr := rfl
@[simp] theorem sysErr_boot (s : State) (bit : Nat) : (sysErr s bit).boot = s.boot := rfl
@[simp] theorem sysErr_rings (s : State) (bit : Nat) : (sysErr s bit).rings = s.rings := rfl
@[simp] theorem sysErr_mbx (s : State) (bit : Nat) : (sysErr s bit).mbx = s.mbx := rfl
@[simp] theorem sysErr_store (s : State) (bit : Nat) : (sysErr s bit).store = s.store := rfl
@[simp] theorem sysErr_dsp (s : State) (bit : Nat) : (sysErr s bit).dsp = s.dsp := rfl
@[simp] theorem sysErr_errs (s : State) (bit : Nat) : (sysErr s bit).errs = s.errs := rfl
@[simp] theorem sysErr_ecc (s : State) (bit : Nat) : (sysErr s bit).ecc = s.ecc := rfl
@[simp] theorem sysErr_repairs (s : State) (bit : Nat) : (sysErr s bit).repairs = s.repairs := rfl
@[simp] theorem sysErr_ledger (s : State) (bit : Nat) : (sysErr s bit).ledger = s.ledger := rfl
@[simp] theorem sysErr_cores (s : State) (bit : Nat) : (sysErr s bit).cores = s.cores := rfl
@[simp] theorem sysErr_swi (s : State) (bit : Nat) : (sysErr s bit).swi = s.swi := rfl
@[simp] theorem sysErr_net (s : State) (bit : Nat) : (sysErr s bit).net = s.net := rfl
@[simp] theorem sysErr_fab (s : State) (bit : Nat) : (sysErr s bit).fab = s.fab := rfl
@[simp] theorem sysErr_fabOut (s : State) (bit : Nat) : (sysErr s bit).fabOut = s.fabOut := rfl
@[simp] theorem sysErr_obs (s : State) (bit : Nat) : (sysErr s bit).obs = s.obs := rfl
@[simp] theorem sysErr_board (s : State) (bit : Nat) : (sysErr s bit).board = s.board := rfl
@[simp] theorem sysErr_mem (s : State) (bit : Nat) : (sysErr s bit).mem = s.mem := rfl
@[simp] theorem setCore_pending (s : State) (c : Nat) (k : Core) : (setCore s c k).pending = s.pending := rfl
@[simp] theorem setCore_freeCtr (s : State) (c : Nat) (k : Core) : (setCore s c k).freeCtr = s.freeCtr := rfl
@[simp] theorem setCore_hostOut (s : State) (c : Nat) (k : Core) : (setCore s c k).hostOut = s.hostOut := rfl
@[simp] theorem setCore_eft (s : State) (c : Nat) (k : Core) : (setCore s c k).eft = s.eft := rfl
@[simp] theorem setCore_pwr (s : State) (c : Nat) (k : Core) : (setCore s c k).pwr = s.pwr := rfl
@[simp] theorem setCore_boot (s : State) (c : Nat) (k : Core) : (setCore s c k).boot = s.boot := rfl
@[simp] theorem setCore_host (s : State) (c : Nat) (k : Core) : (setCore s c k).host = s.host := rfl
@[simp] theorem setCore_rings (s : State) (c : Nat) (k : Core) : (setCore s c k).rings = s.rings := rfl
@[simp] theorem setCore_mbx (s : State) (c : Nat) (k : Core) : (setCore s c k).mbx = s.mbx := rfl
@[simp] theorem setCore_store (s : State) (c : Nat) (k : Core) : (setCore s c k).store = s.store := rfl
@[simp] theorem setCore_dsp (s : State) (c : Nat) (k : Core) : (setCore s c k).dsp = s.dsp := rfl
@[simp] theorem setCore_errs (s : State) (c : Nat) (k : Core) : (setCore s c k).errs = s.errs := rfl
@[simp] theorem setCore_ecc (s : State) (c : Nat) (k : Core) : (setCore s c k).ecc = s.ecc := rfl
@[simp] theorem setCore_repairs (s : State) (c : Nat) (k : Core) : (setCore s c k).repairs = s.repairs := rfl
@[simp] theorem setCore_ledger (s : State) (c : Nat) (k : Core) : (setCore s c k).ledger = s.ledger := rfl
@[simp] theorem setCore_swi (s : State) (c : Nat) (k : Core) : (setCore s c k).swi = s.swi := rfl
@[simp] theorem setCore_net (s : State) (c : Nat) (k : Core) : (setCore s c k).net = s.net := rfl
@[simp] theorem setCore_fab (s : State) (c : Nat) (k : Core) : (setCore s c k).fab = s.fab := rfl
@[simp] theorem setCore_fabOut (s : State) (c : Nat) (k : Core) : (setCore s c k).fabOut = s.fabOut := rfl
@[simp] theorem setCore_obs (s : State) (c : Nat) (k : Core) : (setCore s c k).obs = s.obs := rfl
@[simp] theorem setCore_board (s : State) (c : Nat) (k : Core) : (setCore s c k).board = s.board := rfl
@[simp] theorem setCore_mem (s : State) (c : Nat) (k : Core) : (setCore s c k).mem = s.mem := rfl
@[simp] theorem modCore_pending (s : State) (c : Nat) (f : Core → Core) : (modCore s c f).pending = s.pending := rfl
@[simp] theorem modCore_freeCtr (s : State) (c : Nat) (f : Core → Core) : (modCore s c f).freeCtr = s.freeCtr := rfl
@[simp] theorem modCore_hostOut (s : State) (c : Nat) (f : Core → Core) : (modCore s c f).hostOut = s.hostOut := rfl
@[simp] theorem modCore_eft (s : State) (c : Nat) (f : Core → Core) : (modCore s c f).eft = s.eft := rfl
@[simp] theorem modCore_pwr (s : State) (c : Nat) (f : Core → Core) : (modCore s c f).pwr = s.pwr := rfl
@[simp] theorem modCore_boot (s : State) (c : Nat) (f : Core → Core) : (modCore s c f).boot = s.boot := rfl
@[simp] theorem modCore_host (s : State) (c : Nat) (f : Core → Core) : (modCore s c f).host = s.host := rfl
@[simp] theorem modCore_rings (s : State) (c : Nat) (f : Core → Core) : (modCore s c f).rings = s.rings := rfl
@[simp] theorem modCore_mbx (s : State) (c : Nat) (f : Core → Core) : (modCore s c f).mbx = s.mbx := rfl
@[simp] theorem modCore_store (s : State) (c : Nat) (f : Core → Core) : (modCore s c f).store = s.store := rfl
@[simp] theorem modCore_dsp (s : State) (c : Nat) (f : Core → Core) : (modCore s c f).dsp = s.dsp := rfl
@[simp] theorem modCore_errs (s : State) (c : Nat) (f : Core → Core) : (modCore s c f).errs = s.errs := rfl
@[simp] theorem modCore_ecc (s : State) (c : Nat) (f : Core → Core) : (modCore s c f).ecc = s.ecc := rfl
@[simp] theorem modCore_repairs (s : State) (c : Nat) (f : Core → Core) : (modCore s c f).repairs = s.repairs := rfl
@[simp] theorem modCore_ledger (s : State) (c : Nat) (f : Core → Core) : (modCore s c f).ledger = s.ledger := rfl
@[simp] theorem modCore_swi (s : State) (c : Nat) (f : Core → Core) : (modCore s c f).swi = s.swi := rfl
@[simp] theorem modCore_net (s : State) (c : Nat) (f : Core → Core) : (modCore s c f).net = s.net := rfl
@[simp] theorem modCore_fab (s : State) (c : Nat) (f : Core → Core) : (modCore s c f).fab = s.fab := rfl
@[simp] theorem modCore_fabOut (s : State) (c : Nat) (f : Core → Core) : (modCore s c f).fabOut = s.fabOut := rfl
@[simp] theorem modCore_obs (s : State) (c : Nat) (f : Core → Core) : (modCore s c f).obs = s.obs := rfl
@[simp] theorem modCore_board (s : State) (c : Nat) (f : Core → Core) : (modCore s c f).board = s.board := rfl
@[simp] theorem modCore_mem (s : State) (c : Nat) (f : Core → Core) : (modCore s c f).mem = s.mem := rfl
@[simp] theorem draw_pending (s : State) (w : Nat) : ((draw s w).2).pending = s.pending := rfl
@[simp] theorem draw_hostOut (s : State) (w : Nat) : ((draw s w).2).hostOut = s.hostOut := rfl
@[simp] theorem draw_eft (s : State) (w : Nat) : ((draw s w).2).eft = s.eft := rfl
@[simp] theorem draw_pwr (s : State) (w : Nat) : ((draw s w).2).pwr = s.pwr := rfl
@[simp] theorem draw_boot (s : State) (w : Nat) : ((draw s w).2).boot = s.boot := rfl
@[simp] theorem draw_host (s : State) (w : Nat) : ((draw s w).2).host = s.host := rfl
@[simp] theorem draw_rings (s : State) (w : Nat) : ((draw s w).2).rings = s.rings := rfl
@[simp] theorem draw_mbx (s : State) (w : Nat) : ((draw s w).2).mbx = s.mbx := rfl
@[simp] theorem draw_store (s : State) (w : Nat) : ((draw s w).2).store = s.store := rfl
@[simp] theorem draw_dsp (s : State) (w : Nat) : ((draw s w).2).dsp = s.dsp := rfl
@[simp] theorem draw_errs (s : State) (w : Nat) : ((draw s w).2).errs = s.errs := rfl
@[simp] theorem draw_ecc (s : State) (w : Nat) : ((draw s w).2).ecc = s.ecc := rfl
@[simp] theorem draw_repairs (s : State) (w : Nat) : ((draw s w).2).repairs = s.repairs := rfl
@[simp] theorem draw_ledger (s : State) (w : Nat) : ((draw s w).2).ledger = s.ledger := rfl
@[simp] theorem draw_cores (s : State) (w : Nat) : ((draw s w).2).cores = s.cores := rfl
@[simp] theorem draw_swi (s : State) (w : Nat) : ((draw s w).2).swi = s.swi := rfl
@[simp] theorem draw_net (s : State) (w : Nat) : ((draw s w).2).net = s.net := rfl
@[simp] theorem draw_fab (s : State) (w : Nat) : ((draw s w).2).fab = s.fab := rfl
@[simp] theorem draw_fabOut (s : State) (w : Nat) : ((draw s w).2).fabOut = s.fabOut := rfl
@[simp] theorem draw_obs (s : State) (w : Nat) : ((draw s w).2).obs = s.obs := rfl
@[simp] theorem draw_board (s : State) (w : Nat) : ((draw s w).2).board = s.board := rfl
@[simp] theorem draw_mem (s : State) (w : Nat) : ((draw s w).2).mem = s.mem := rfl

@[simp] theorem core_setCore_self (s : State) (c : Nat) (k : Core) : core (setCore s c k) c = k := by
  simp [core, setCore]

theorem core_setCore_ne (s : State) {c d : Nat} (h : c ≠ d) (k : Core) : core (setCore s c k) d = core s d := by
  simp [core, setCore, tgetD_tset_ne _ h]

@[simp] theorem core_modCore_self (s : State) (c : Nat) (f : Core → Core) : core (modCore s c f) c = f (core s c) := by
  simp [modCore]

theorem core_modCore_ne (s : State) {c d : Nat} (h : c ≠ d) (f : Core → Core) : core (modCore s c f) d = core s d := by
  simp [modCore, core_setCore_ne s h]

@[simp] theorem seqOf_setSeq (s : State) (ag : Nat) (q : Seq) : seqOf (setSeq s ag q) ag = q := by
  unfold seqOf setSeq
  split <;> simp

@[simp] theorem ctr_ctrAdd (s : State) (off n : Nat) : ctr (ctrAdd s off n) off = ctr s off + BitVec.ofNat 64 n := by
  simp [ctr, ctrAdd, tmod]

theorem ctr_ctrAdd_ne (s : State) {off k : Nat} (h : off ≠ k) (n : Nat) : ctr (ctrAdd s off n) k = ctr s k := by
  simp [ctr, ctrAdd, tmod, tgetD_tset_ne _ h]

end Sys2Proof.Machine
end

