-- ==== Sys2Proof/Laws/Ops.lean ====
section
/-! SUPPORT. The canonical form of memory under the shared operations, and what messages to the host leave alone. -/

namespace Sys2Proof.Machine

@[simp] theorem breakRes_mem (s : State) (by_ : Option Nat) (a n : Nat) : (breakRes s by_ a n).mem = s.mem := rfl

@[simp] theorem cure_mem (s : State) (f : Nat → Bool) : (cure s f).mem = s.mem := by
  unfold cure; simp only []; split <;> split <;> rfl

@[simp] theorem cure_cores (s : State) (f : Nat → Bool) : (cure s f).cores = s.cores := by
  unfold cure; simp only []; split <;> split <;> rfl

theorem memWriteBy_wf (s : State) (by_ : Option Nat) (a : Nat) (ds : List Byte) (h : Memory.wf s.mem = true) :
    Memory.wf (memWriteBy s by_ a ds).1.mem = true := by
  unfold memWriteBy memPut
  simp only []
  split
  · simpa using mwrite_wf _ _ h
  · refine foldl_wf _ ?_ _ (by simpa using h)
    intro m i hm
    split
    · exact hm
    · exact mset_wf _ _ hm

theorem memZero_wf (s : State) (a n : Nat) (h : Memory.wf s.mem = true) : Memory.wf (memZero s a n).mem = true := by
  simpa [memZero] using mzero_wf a n h

theorem memCopy_wf (s : State) (src dst n : Nat) (h : Memory.wf s.mem = true) : Memory.wf (memCopy s src dst n).mem = true :=
  mcopy_wf _ _ _ (memZero_wf s dst n h)

@[simp] theorem send_mem (s : State) (m : OutMsg) : (send s m).mem = s.mem := by unfold send; split <;> rfl

@[simp] theorem hostWrite_mem (s : State) (a : Nat) (d : List Byte) : (hostWrite s a d).mem = s.mem := send_mem _ _

@[simp] theorem raiseMsix_mem (s : State) (v : Nat) : (raiseMsix s v).mem = s.mem := by
  unfold raiseMsix
  split
  · rfl
  · split
    · split <;> rfl
    · exact send_mem _ _

@[simp] theorem evqWrite_mem (s : State) (e : EvRec) : (evqWrite s e).mem = s.mem := by
  simp [evqWrite]

@[simp] theorem raiseEvent_mem (s : State) (t p q : Nat) : (raiseEvent s t p q).mem = s.mem := by
  unfold raiseEvent
  simp only []
  split
  · simp
  · split <;> rfl

theorem ite_mem (c : Prop) [Decidable c] (a b : State) : (if c then a else b).mem = if c then a.mem else b.mem := by
  split <;> rfl

/-! ## Holds (R270) -/

theorem holdLost_self (q r : Seq) (h : r.res = q.res) : holdLost q r = false := by
  unfold holdLost
  rw [h]
  cases q.res <;> simp

/-- Without a hold nothing waits. -/
@[simp] theorem waitHold_of_noHold {s : State} (h : noHold s = true) (ag : Option Nat) (t : State) : waitHold ag s t = t := by
  unfold waitHold
  simp [h]

/-- A step that takes no reservation from another agent waits for no hold. -/
theorem waitHold_of_seqs {ag : Option Nat} {s t : State} (hc : ∀ c, ag ≠ some c → (core t c).seq.res = (core s c).seq.res)
    (h6 : ag ≠ some 64 → t.swi.res = s.swi.res) : waitHold ag s t = t := by
  unfold waitHold
  have h : holdBroken ag s t = false := by
    unfold holdBroken
    rw [Bool.or_eq_false_iff]
    constructor
    · rw [List.any_eq_false]
      intro p _
      by_cases hp : ag = some p.1
      · simp [hp]
      · simp [holdLost_self _ _ (hc p.1 hp)]
    · by_cases hp : ag = some 64
      · simp [hp]
      · simp [holdLost_self _ _ (h6 hp)]
  simp [h]

/-- Where the link serves requests, an access finds it in L0. -/
@[simp] theorem linkExit_of_serves (s : State) (h : linkServes s = true) : linkExit s = s := by
  unfold linkServes at h
  unfold linkExit
  simp at h
  simp [h.2]

/-- After a host access has met the link, it serves whenever the tray runs. -/
theorem linkServes_linkExit (s : State) : linkServes (linkExit s) = alive s := by
  unfold linkExit linkServes
  split
  · rename_i h; simp at h; simp [alive] at h ⊢
  · rename_i h; simp at h
    cases ha : alive s
    · rfl
    · simp [h ha]

@[simp] theorem linkExit_mem (s : State) : (linkExit s).mem = s.mem := by
  unfold linkExit; split <;> rfl

@[simp] theorem ledgerEvents_mem (s : State) : (ledgerEvents s).mem = s.mem := by
  simp only [ledgerEvents, ite_mem, raiseEvent_mem, ite_self]

/-- Appending an entry keeps the canonical form. -/
theorem ledgerAppend_wf (s : State) (e : LEntry) (h : Memory.wf s.mem = true) :
    Memory.wf (ledgerAppend s e).mem = true := by
  unfold ledgerAppend
  split
  · exact h
  · simp only [ledgerEvents_mem]
    exact mwrite_wf _ _ (by simpa using h)

end Sys2Proof.Machine
end

