-- ==== Sys2Proof/Laws/Command.lean ====
section
/-! SUPPORT. What a mailbox command's response and its ledger entry do, each said once: the statements about commands rest on these. -/

namespace Sys2Proof.Machine

theorem length_mread (m : Memory) (a n : Nat) : (mread m a n).length = n := by
  induction n generalizing a with
  | zero => rfl
  | succ n ih => simp [mread, ih]

theorem getElem?_mread (m : Memory) (a n i : Nat) : (mread m a n)[i]? = if i < n then some (mget m (a + i)) else none := by
  induction n generalizing a i with
  | zero => simp [mread]
  | succ n ih =>
    cases i with
    | zero => simp [mread]
    | succ i => simp only [mread, List.getElem?_cons_succ, ih, Nat.add_lt_add_iff_right]; rw [show a + 1 + i = a + (i + 1) by omega]

/-- A read of what was written. -/
theorem mread_mwrite {m : Memory} (a : Nat) (bs : List Byte) (h : Memory.wf m = true) : mread (mwrite m a bs) a bs.length = bs := by
  refine List.ext_getElem? fun i => ?_
  rw [getElem?_mread]
  split
  · rename_i hi
    rw [mget_mwrite _ _ _ h, if_pos ⟨by omega, by omega⟩]
    simp [List.getElem?_eq_getElem hi]
  · rename_i hi
    exact (List.getElem?_eq_none (by omega)).symm

theorem length_leBytes (n x : Nat) : (leBytes n x).length = n := by
  induction n generalizing x with
  | zero => rfl
  | succ n ih => simp [leBytes, ih]

theorem length_padTo (n : Nat) (bs : List Byte) : (padTo n bs).length = n := by simp [padTo, zeros]; omega

theorem length_ledgerBytes (e : LEntry) (seq time : Nat) (prev : List Byte) : (ledgerBytes e seq time prev).length = 64 := by
  simp [ledgerBytes, length_leBytes, length_padTo]

/-- `u` is `v` but for the event queue and messages to the host. -/
def Told (v u : State) : Prop :=
  u = { v with
    mbx := { v.mbx with evqTail := u.mbx.evqTail, evqPhase := u.mbx.evqPhase, evqDrop := u.mbx.evqDrop, evqSeq := u.mbx.evqSeq,
                        backlog := u.mbx.backlog, drops := u.mbx.drops, firstDrop := u.mbx.firstDrop },
    host.pba := u.host.pba, host.held := u.host.held, hostOut := u.hostOut }

theorem Told.refl (s : State) : Told s s := rfl

theorem Told.trans {a b c : State} (h : Told a b) (g : Told b c) : Told a c := by
  unfold Told at h g ⊢
  rw [h] at g
  exact g

theorem Told.ledger {v u : State} (h : Told v u) : u.ledger = v.ledger := by rw [h]

theorem Told.mem {v u : State} (h : Told v u) : u.mem = v.mem := by rw [h]

theorem send_told (s : State) (m : OutMsg) : Told s (send s m) := by unfold send; split <;> rfl

theorem raiseMsix_told (s : State) (v : Nat) : Told s (raiseMsix s v) := by
  unfold raiseMsix
  split
  · rfl
  · split
    · split <;> rfl
    · exact send_told _ _

theorem evqWrite_told (s : State) (e : EvRec) : Told s (evqWrite s e) := by
  unfold evqWrite
  have h : Told s (hostWrite s (s.mbx.evqBase + 32 * s.mbx.evqTail) (evBytes e s.mbx.evqPhase)) := send_told _ _
  simp only []
  generalize hostWrite s _ _ = u at h ⊢
  exact (h.trans (by unfold Told; rfl)).trans (raiseMsix_told _ 1)

/-- An event changes the queue and messages to the host alone. -/
theorem raiseEvent_told (s : State) (type p q : Nat) : Told s (raiseEvent s type p q) := by
  unfold raiseEvent
  simp only []
  split
  · exact Told.trans (b := { s with mbx.evqSeq := s.mbx.evqSeq + 1 }) (by unfold Told; rfl) (evqWrite_told _ _)
  · split <;> rfl

/-- Writing whole words changes no byte, and of the tray only the poison, the errors to be found and the words noted as rewritten. -/
theorem cure_eq (s : State) (f : Nat → Bool) :
    cure s f = { s with ecc.poison := (cure s f).ecc.poison, ecc.latent := (cure s f).ecc.latent, ecc.rewritten := (cure s f).ecc.rewritten } := by
  unfold cure
  simp only []
  split <;> split <;> rfl

theorem ledgerEvents_told (v : State) : ∃ arm, Told { v with ledger.warnArmed := arm } (ledgerEvents v) := by
  unfold ledgerEvents
  simp only []
  split
  · refine ⟨false, ?_⟩
    split
    · exact (raiseEvent_told _ _ _ _).trans (raiseEvent_told _ _ _ _)
    · exact raiseEvent_told _ _ _ _
  · refine ⟨v.ledger.warnArmed, ?_⟩
    split
    · exact raiseEvent_told _ _ _ _
    · exact Told.refl _

/-- An entry's bytes stand at an address, and what else an append has changed: what `Appended` asks. -/
theorem appended_of_told {s c u : State} {e : LEntry} {bytes : List Byte} {arm : Bool} (hc : Canonical s)
    (hb : bytes = ledgerBytes e s.ledger.next s.eft.time (if s.ledger.next = 0 then sha256 (ledgerAnchorBytes s) else s.ledger.head))
    (h : c = { s with ecc.poison := c.ecc.poison, ecc.latent := c.ecc.latent, ecc.rewritten := c.ecc.rewritten })
    (hu : Told { c with mem := mwrite c.mem (ledgerAddr s.ledger.next) bytes, ledger.next := s.ledger.next + 1, ledger.head := sha256 bytes,
                        ledger.warnArmed := arm } u) : Appended s u e := by
  have hn : bytes.length = 64 := by rw [hb]; exact length_ledgerBytes _ _ _ _
  have hm : u.mem = mwrite s.mem (ledgerAddr s.ledger.next) bytes := by rw [hu.mem, h]
  have hl : u.ledger = { s.ledger with next := s.ledger.next + 1, head := sha256 bytes, warnArmed := arm } := by rw [hu.ledger, h]
  unfold Appended
  simp only []
  rw [← hb]
  refine ⟨by rw [hl], by rw [hl], by rw [hl], by rw [hl], ?_, ?_, ?_⟩
  · rw [hm, ← hn]; exact mread_mwrite _ _ hc
  · intro x hx
    rw [hm, mget_mwrite _ _ _ hc, if_neg (by omega)]
  · unfold Told at hu
    rw [h] at hu
    rw [hu]

/-- What an append to a ledger with room leaves: the entry, and LEDGER_WARN and LEDGER_FULL at most. -/
theorem appended_ledgerAppend {s : State} (e : LEntry) (hc : Canonical s) (hf : ledgerFull s = false) : Appended s (ledgerAppend s e) e := by
  unfold ledgerAppend
  rw [if_neg (by simp [hf])]
  have hq := cure_eq s (fun w => decide (ledgerAddr s.ledger.next ≤ w) && decide (w < ledgerAddr s.ledger.next + 64))
  simp only []
  generalize hb : ledgerBytes e s.ledger.next s.eft.time (if s.ledger.next = 0 then sha256 (ledgerAnchorBytes s) else s.ledger.head) = bytes
  generalize cure s _ = c at hq ⊢
  obtain ⟨arm, h⟩ := ledgerEvents_told { c with mem := mwrite c.mem (ledgerAddr s.ledger.next) bytes, ledger.next := s.ledger.next + 1,
                                                ledger.head := sha256 bytes }
  exact appended_of_told hc hb.symm hq h

/-- The entry of a mailbox command. -/
theorem appended_ledgerCmd {s : State} (k : SlotId) (r : Req) (tcid object : Nat) (hc : Canonical s) (hf : ledgerFull s = false) :
    Appended s (ledgerCmd s k.val r tcid object 0) (cmdEntry k r tcid object) := appended_ledgerAppend _ hc hf

theorem settleMgt_eq (s : State) : settleMgt s = { s with pwr.mgtMhz := (settleMgt s).pwr.mgtMhz } := by unfold settleMgt; split <;> rfl

/-- MGT's rate follows the requests that are left alone. -/
theorem settleMgt_mgtMhz {s t : State} (hp : s.pwr = t.pwr) (hr : s.mbx.reqs = t.mbx.reqs) :
    (settleMgt s).pwr.mgtMhz = (settleMgt t).pwr.mgtMhz := by
  unfold settleMgt
  rw [hp, hr]
  split <;> simp [hp]

/-- Raising a vector changes no register of the mailbox. -/
theorem raiseMsix_mbx (s : State) (v : Nat) : (raiseMsix s v).mbx = s.mbx := by
  unfold raiseMsix sendMsix send
  split
  · rfl
  · split
    · split <;> rfl
    · split <;> rfl

/-- A vector that is enabled and unmasked in D0 is sent. -/
theorem raiseMsix_sent {s : State} {v : Nat} (he : s.host.msixEnable = true) (hf : s.host.msixFuncMask = false)
    (hm : (msixEntry s v).getLsbD 96 = false) (hd : s.host.d3hot = false) : (raiseMsix s v).hostOut = s.hostOut ++ [vectorMsg s v] := by
  unfold raiseMsix sendMsix send
  rw [if_neg (by simp [he]), if_neg (by rw [hf, hm]; decide), if_neg (by simp [hd])]
  rfl

/-- `Answered` of a state that the response's vector and MGT's rate follow. -/
theorem answered_of {u m w : State} {k : SlotId} {r : Req} {status : Nat} {payload : List Byte}
    (hm : m = { u with mbx.slots := tset u.mbx.slots k.val (patch (slotBytes u k.val) 0 (responseHeader u r status payload.length ++ payload)),
                       mbx.done := u.mbx.done ||| (1#32 <<< k.val), mbx.own := u.mbx.own &&& ~~~(1#32 <<< k.val),
                       mbx.reqs := tdel u.mbx.reqs k.val, mbx.running := tdel u.mbx.running k.val,
                       mbx.placeWait := u.mbx.placeWait.filter (· != k.val) })
    (hw : w = if r.noirq then m else raiseMsix m 0) : Answered u (settleMgt w) k r status payload := by
  have ht : Told m w := by
    rw [hw]; split
    · rfl
    · exact raiseMsix_told _ _
  have hb : w.mbx = m.mbx := by
    rw [hw]; split
    · rfl
    · exact raiseMsix_mbx _ _
  have hs := settleMgt_eq w
  have e1 : (settleMgt w).mbx = m.mbx := by rw [hs]; exact hb
  have e2 : (settleMgt w).host = w.host := by rw [hs]
  have e3 : (settleMgt w).hostOut = w.hostOut := by rw [hs]
  have hp : w.pwr = u.pwr := by rw [ht]; rw [hm]
  unfold Answered
  rw [e1, e2, e3]
  refine ⟨?_, ?_, ?_, ?_, ?_, ?_, ?_, ?_, ?_, ?_, ?_⟩
  · rw [hm]; simp [tget_tset]
  · intro j hj; rw [hm]; simp [tget_tset, Ne.symm hj]
  · rw [hm]
  · rw [hm]
  · rw [hm]
  · rw [hm]
  · intro hq; rw [hw, if_pos hq, hm]; exact ⟨rfl, rfl⟩
  · intro hq he hf hx hd
    rw [hw, if_neg (by simp [hq])]
    have := raiseMsix_sent (s := m) (v := 0) (by rw [hm]; exact he) (by rw [hm]; exact hf) (by rw [hm]; exact hx) (by rw [hm]; exact hd)
    rw [this, hm]; rfl
  · rw [hm]
  · exact settleMgt_mgtMhz (by rw [hp]) (by rw [hb])
  · unfold Told at ht
    have hq : settleMgt w = { w with pwr.mgtMhz := (settleMgt w).pwr.mgtMhz } := hs
    generalize (settleMgt w).pwr.mgtMhz = g at hq ⊢
    rw [hq, ht, hb, hm]

/-- What a response leaves. -/
theorem answered_respond (u : State) (k : SlotId) (r : Req) (status : Nat) (payload : List Byte) :
    Answered u (respond u k.val r status payload) k r status payload := answered_of rfl rfl

/-- A command that a change may follow runs its checks and its effect. -/
theorem runCmd_change {s : State} {k : SlotId} {op : Nat} {r : Req} (h : AcceptedChange s k op r) (ledger : Bool)
    {fields : State → List Byte → Bool} (hf : fields s r.payload = true) (body : Req → State → CmdOut) :
    runCmd k.val op ledger fields body s = finishCmd s k.val r (body r s) := by
  obtain ⟨⟨hr, ho, hn, hu, hm⟩, hd, hl, hh, -⟩ := h
  unfold runCmd
  rw [hr]
  simp only []
  rw [if_neg (by simp [ho, hn, hu, hm, hd]), if_neg (by simp [hf]), if_neg (by simp [hl]), waitHold_of_noHold hh]

/-- A command that has ended after its ledger entry. -/
theorem logged_respond {v : State} (k : SlotId) (r : Req) (tcid object : Nat) (payload : List Byte) (hc : Canonical v) (hf : ledgerFull v = false) :
    Logged v (respond (ledgerCmd v k.val r tcid object 0) k.val r 0 payload) k r tcid object payload :=
  ⟨_, appended_ledgerCmd k r tcid object hc hf, answered_respond _ _ _ _ _⟩

end Sys2Proof.Machine
end

