-- ==== Sys2Proof/Laws/Seq.lean ====
section
/-! SUPPORT. What an instruction that a sequencer executes leaves of the rest of the tray, once for every row: settling a core whose
sequencer runs only takes completed barriers off its queues. -/

namespace Sys2Proof.Machine

theorem core_setCore (s : State) (c d : Nat) (k : Core) : core (setCore s c k) d = if c = d then k else core s d := by
  unfold core setCore tgetD
  simp only [tget_tset]
  split <;> rfl

@[simp] theorem core_ctrAdd (s : State) (off n d : Nat) : core (ctrAdd s off n) d = core s d := rfl

theorem ctr_ctrAdd_at (s : State) (off n o : Nat) :
    ctr (ctrAdd s off n) o = ctr s o + (if off = o then BitVec.ofNat 64 n else 0) := by
  unfold ctr ctrAdd tmod tgetD
  simp only [tget_tset]
  by_cases h : off = o
  · subst h; simp
  · simp [h]

@[simp] theorem ctr_setCore (s : State) (c : Nat) (k : Core) (o : Nat) : ctr (setCore s c k) o = ctr s o := rfl

/-- `t` is `s` with other queues on the core and, while no barrier is complete, `s` itself. -/
def Popped (s t : State) (c : Nat) : Prop :=
  (∀ d, d ≠ c → core t d = core s d) ∧ core t c = { core s c with queues := (core t c).queues } ∧
    (barrierDone (core s c) = false → t = s) ∧ t = { s with cores := t.cores }

theorem popAll_core (k : Core) (l : List Nat) :
    l.foldl (fun k i => popQueue k (i + 1)) k = { k with queues := (l.foldl (fun k i => popQueue k (i + 1)) k).queues } := by
  induction l generalizing k with
  | nil => rfl
  | cons a l ih => simp only [List.foldl_cons]; rw [ih]; rfl

theorem popped_settle1 (s : State) (c : Nat) (h : (core s c).seq.run = .run) :
    Popped s (settle1 s c) c ∧ (core (settle1 s c) c).seq.run = .run := by
  unfold settle1
  by_cases hb : barrierDone (core s c) = true
  · have hr : ((List.range 7).foldl (fun k i => popQueue k (i + 1)) (core s c)).seq.run = .run := by rw [popAll_core]; exact h
    simp only [hb, if_true, core_setCore_self, hr]
    refine ⟨⟨fun d hd => core_setCore_ne _ (Ne.symm hd) _, ?_, fun h => ?_, rfl⟩, trivial⟩
    · rw [core_setCore_self]; exact popAll_core _ _
    · rw [hb] at h; cases h
  · simp only [hb, Bool.false_eq_true, if_false, h]
    exact ⟨⟨fun _ _ => rfl, rfl, fun _ => rfl, rfl⟩, trivial⟩

theorem popped_trans {s t u : State} {c : Nat} (h1 : Popped s t c) (h2 : Popped t u c) : Popped s u c := by
  obtain ⟨a1, b1, c1, d1⟩ := h1
  obtain ⟨a2, b2, c2, d2⟩ := h2
  refine ⟨fun d hd => (a2 d hd).trans (a1 d hd), ?_, fun h => ?_, ?_⟩
  · rw [b2, b1]
  · have e := c1 h; subst e; exact c2 h
  · rw [d2, d1]

theorem popped_fold (s : State) (c : Nat) (h : (core s c).seq.run = .run) (l : List Nat) :
    Popped s (l.foldl (fun s _ => settle1 s c) s) c := by
  induction l generalizing s with
  | nil => exact ⟨fun _ _ => rfl, rfl, fun _ => rfl, rfl⟩
  | cons a l ih => exact popped_trans (popped_settle1 s c h).1 (ih _ (popped_settle1 s c h).2)

theorem popped_settle (s : State) (c : Nat) (h : (core s c).seq.run = .run) : Popped s (settle s c) c := popped_fold s c h _

/-- The line that a row reads with the last instruction of a line. -/
def lineOf (s : State) (ag : Nat) : State := if (seqOf s ag).pc.toNat % 32 = 28 then fetchLine s ag else s

theorem lineOf_core (s : State) (ag d : Nat) : core (lineOf s ag) d = core s d := by
  unfold lineOf fetchLine
  split
  · split <;> rfl
  · rfl

theorem lineOf_swi (s : State) (ag : Nat) : (lineOf s ag).swi = s.swi := by
  unfold lineOf fetchLine
  split
  · split <;> rfl
  · rfl

theorem lineOf_seqOf (s : State) (ag : Nat) : seqOf (lineOf s ag) ag = seqOf s ag := by
  unfold seqOf; rw [lineOf_core, lineOf_swi]

/-- A row that executes: its body acts after the line read, and the agent settles. -/
theorem seqRow_fetches {s : State} {ag : Agent} {i : Instr} {body : State → Option State} {u : State} (h : Fetches s ag i)
    (hj : seqJumps i = false) (hb : body (lineOf s ag.val) = some u) :
    seqRow ag i body s = .next (waitHold (some ag.val) s (settleAg u ag.val)) := by
  obtain ⟨h1, h2, h3, h4⟩ := h
  simp only [lineOf] at hb
  simp [seqRow, h1, h2, h3, h4, hj, hb]

/-- A row that executes a jump. -/
theorem seqRow_jumps {s : State} {ag : Agent} {i : Instr} {body : State → Option State} {u : State} (h : Fetches s ag i)
    (hj : seqJumps i = true) (hb : body s = some u) :
    seqRow ag i body s = .next (waitHold (some ag.val) s (settleAg u ag.val)) := by
  obtain ⟨h1, h2, h3, h4⟩ := h
  simp [seqRow, h1, h2, h3, h4, hj, hb]

/-- Settling after a change of one running sequencer and of its counters. -/
theorem seqStep_settle (u v : State) (ag : Nat) (q : Seq) (n m : Nat) (hag : ag < 65) (hr : q.run = .run)
    (h64 : 64 ≤ ag → v = { u with swi := q })
    (hc : ag < 64 → (∀ d, core v d = if d = ag then { core u ag with seq := q } else core u d) ∧
      (∀ off, ctr v off = ctr u off + (if off = coreCtr ag 0x000 then BitVec.ofNat 64 n
        else if off = coreCtr ag 0x008 then BitVec.ofNat 64 m else 0)) ∧
      v = { u with cores := v.cores, obs.ctr := v.obs.ctr }) : SeqStep u (settleAg v ag) ag q n m := by
  constructor
  · intro h
    have e : ag = 64 := by omega
    subst e
    have hv := h64 (Nat.le_refl _)
    subst hv
    simp [settleAg, hr]
  · intro h
    obtain ⟨a, b, c⟩ := hc h
    have hq : core v ag = { core u ag with seq := q } := by simp [a ag]
    have hp := popped_settle v ag (by rw [hq]; exact hr)
    simp only [settleAg, h, if_true]
    obtain ⟨p1, p2, p3, p4⟩ := hp
    refine ⟨fun d hd => ?_, ?_, fun hb => ?_, fun off => ?_, ?_⟩
    · rw [p1 d hd, a d, if_neg hd]
    · rw [p2, hq]
    · have : barrierDone (core v ag) = false := by rw [hq]; exact hb
      rw [p3 this, hq]
    · have e : (settle v ag).obs = v.obs := by rw [p4]
      rw [← b off]
      unfold ctr
      rw [e]
    · rw [p4, c]

theorem coreCtr_ne (c : Nat) : coreCtr c 0x008 ≠ coreCtr c 0x000 := by unfold coreCtr; omega

/-- An instruction that retires with sequencer `q` and no jump. -/
theorem seqStep_retire (s : State) (ag : Nat) (q : Seq) (pc : Word) (hag : ag < 65) :
    SeqStep s (settleAg (retireSeq (setSeq (lineOf s ag) ag q) ag pc) ag) ag (q.next pc) 1 (nextLine (seqOf s ag).pc) := by
  have hsw := lineOf_swi s ag
  have hco := lineOf_core s ag
  refine seqStep_settle _ _ _ _ _ _ hag rfl (fun h => ?_) (fun h => ?_)
  · have h' : ¬ ag < 64 := by omega
    have : lineOf s ag = s := by unfold lineOf fetchLine; simp [h']
    simp [retireSeq, setSeq, seqOf, h', this]
  · refine ⟨fun d => ?_, fun off => ?_, ?_⟩
    · simp only [retireSeq, setSeq, modCore, seqOf, h, if_true, countCore, core_ctrAdd, core_setCore, hco]
      by_cases hd : ag = d
      · subst hd; simp
      · simp [hd, Ne.symm hd]
    · have hl : ctr (lineOf s ag) off = ctr s off + (if off = coreCtr ag 0x008 then BitVec.ofNat 64 (nextLine (seqOf s ag).pc) else 0) := by
        unfold lineOf nextLine fetchLine countCore
        by_cases hp : (seqOf s ag).pc.toNat % 32 = 28
        · simp only [hp, h, ctr_ctrAdd_at, if_true]
          by_cases ho : off = coreCtr ag 0x008
          · simp [ho]
          · simp [ho, Ne.symm ho]
        · simp [hp]
      simp only [retireSeq, setSeq, modCore, h, if_true, countCore, ctr_ctrAdd_at, ctr_setCore, hl]
      by_cases h0 : off = coreCtr ag 0x000
      · subst h0; simp [(coreCtr_ne ag).symm]
      · simp [h0, Ne.symm h0]
    · simp only [retireSeq, setSeq, modCore, h, if_true, countCore, ctrAdd, setCore]
      unfold lineOf fetchLine countCore ctrAdd
      split
      · simp
      · rfl

/-- An instruction that touches only its own agent's sequencer, queues and counters waits for no hold. -/
theorem waitHold_seqStep {s t : State} {ag : Nat} {q : Seq} {n m : Nat} (hag : ag < 65) (h : SeqStep s t ag q n m) :
    waitHold (some ag) s t = t := by
  obtain ⟨h1, h2⟩ := h
  refine waitHold_of_seqs (fun c hc => ?_) (fun h6 => ?_)
  · have hne : c ≠ ag := fun e => hc (by rw [e])
    by_cases ha : ag < 64
    · rw [(h2 ha).1 c hne]
    · rw [h1 (by omega)]
      rfl
  · by_cases ha : ag < 64
    · rw [(h2 ha).2.2.2.2]
    · exact absurd (by rw [show ag = 64 by omega]) h6

/-- What every row of format R does when it executes. -/
theorem aluR_step {i : Instr} {ag : Agent} {gd ga gb : RegId} {f : Word → Word → Word} {s : State} (h : Fetches s ag i)
    (hj : seqJumps i = false) : ∃ t, aluR i ag gd ga gb f s = .next t ∧
      let q := seqOf s ag.val
      SeqStep s t ag.val ((gset q gd (f (gget q ga) (gget q gb))).next (q.pc + 4)) 1 (nextLine q.pc) := by
  have hs := seqStep_retire s ag.val (gset (seqOf s ag.val) gd (f (gget (seqOf s ag.val) ga) (gget (seqOf s ag.val) gb)))
    ((seqOf s ag.val).pc + 4) ag.isLt
  refine ⟨_, ?_, hs⟩
  rw [← waitHold_seqStep ag.isLt hs]
  exact seqRow_fetches h hj (by simp only [retireGd, lineOf_seqOf])

end Sys2Proof.Machine
end

