-- ==== Sys2Proof/Laws/Engine.lean ====
section
/-! SUPPORT. What an engine's read of a window does when it may: the bytes there, and no change of the state. -/

namespace Sys2Proof.Machine

theorem poisonedIn_nil {s : State} (h : s.ecc.poison = []) (a n : Nat) : poisonedIn s a n = [] := by
  simp [poisonedIn, h]

theorem flushGb_nil {s : State} (h : ∀ d, (core s d).gb = []) (a n : Nat) : flushGb s a n = s := by
  unfold flushGb flushWhere
  rw [h]
  simp

theorem eccCheck_clean {s : State} (hp : s.ecc.poison = []) (hl : s.ecc.latent = []) (a n : Nat) (w : Option Nat) :
    eccCheck s a n w = (s, true) := by
  simp [eccCheck, hp, hl]

theorem eccRead_clean {s : State} (hp : s.ecc.poison = []) (hl : s.ecc.latent = []) (a n : Nat) (w : Option Nat) :
    eccRead s a n .clean w = (s, true) := eccCheck_clean hp hl a n w

theorem devRead_ok {s : State} {c w a n : Nat} (hn : n ≠ 0) (hg : ∀ d, (core s d).gb = []) (hp : s.ecc.poison = [])
    (hl : s.ecc.latent = []) (h : endpoint s (workTcid s w) a n false = .ok) : devRead s c w a n = .ok (mread s.mem a n) s := by
  unfold devRead
  rw [if_neg hn, flushGb_nil hg]
  simp only [h, eccRead_clean hp hl]

theorem winOff_at {s : State} {c win off n o : Nat} {write : Bool} (h : winOff (core s c) win off n write = some o) :
    spBase c + o = engineAt s c win off := by
  unfold winOff at h
  split at h
  · cases h
  · cases h
    exact (Nat.add_assoc _ _ _).symm

/-- A permitted read of clean words with no gathered lines answers the bytes at its address. -/
theorem engRead_ok {s : State} {c w win off n : Nat} (hg : ∀ d, (core s d).gb = []) (hp : s.ecc.poison = [])
    (hl : s.ecc.latent = []) (h : EngineMay s c w win off n false) : engRead s c w win off n = .ok (mread s.mem (engineAt s c win off) n) s := by
  obtain ⟨h1, h2⟩ := h
  unfold engRead
  by_cases hn : n = 0
  · rw [if_pos hn, hn]
    rfl
  · rw [if_neg hn]
    obtain ⟨o, ho⟩ := Option.isSome_iff_exists.mp h1
    rw [ho]
    simp only [winOff_at ho]
    exact devRead_ok hn hg hp hl h2

/-- Rows that may all be read. -/
theorem readRows_ok {s : State} {c w win off pitch n : Nat} (hg : ∀ d, (core s d).gb = []) (hp : s.ecc.poison = [])
    (hl : s.ecc.latent = []) (cnt i : Nat)
    (h : ∀ m, i ≤ m → m < i + cnt → EngineMay s c w win (off + m * pitch) n false) :
    readRows c w win off pitch n cnt i s
      = .ok ((List.range' i cnt).map (fun m => mread s.mem (engineAt s c win (off + m * pitch)) n)) s := by
  induction cnt generalizing i with
  | zero => rfl
  | succ k ih =>
    unfold readRows
    rw [engRead_ok hg hp hl (h i (Nat.le_refl _) (by omega))]
    simp only [ih (i + 1) (fun m h1 h2 => h m (by omega) (by omega)), List.range'_succ, List.map_cons]

end Sys2Proof.Machine
end

