-- ==== Sys2Proof/Tests/Slice0.lean ====
section
/-! SUPPORT. Tests: ill-formed commands are refused, the words of sequencer instructions, single steps on small states, and for
each statement a state and operands that meet its hypotheses. -/

namespace Sys2Proof.Tests

open Sys2Proof.Machine

/-- A request of this opcode and payload. -/
def askedReq (op : Nat) (p : List Byte) : Req :=
  { opcode := op, force := false, noirq := true, tag := 1, payload := p, order := 0 }

/-- `s` with a running Swifort that has accepted the request in slot 0. -/
def on (s : State) (op : Nat) (p : List Byte) : State :=
  { s with boot.fwReady := true, mbx := { reqs := [(0, askedReq op p)] } }

/-- An image of one section on one core. -/
def bareSection : SectionDesc :=
  { code := [0x38], drn := [], regBytes := 0, data := [], dataOff := 0, steered := false, header := [], entry := 0, tvec := 0,
    windows := [], circs := [], rattrs := [], nmcfg := 0, nmPatterns := [], gthCfg := 0, tables := [], walks := [], fires := [],
    feeds := [], sparse := [], producers := [], hasSteer := false, reconverges := true, shareable := false, basePlusDelta := true,
    readsSetByVector := false, hasGather := false }
def smallSection : SectionDesc := { bareSection with header := secHeader bareSection }
def smallImage : ImageDesc :=
  { format := some 7, headerOk := true, refs := [], buckets := [], batchDim := none,
    plans := [{ stages := [{ cores := 1, remote := none }], rounds := [[0]], layerOwners := [[(0, 0)]], inSize := 64, outSize := 64,
                scratch := [] }],
    sections := [smallSection], shareLayers := [], remoteStages := 1, shardMaps := [] }
def smallEntry : Image := { owner := 5, region := 0x3005, desc := smallImage, size := 4, digest := [], binds := [] }

/-- An admitted job of ring 3. -/
def smallJob : Job :=
  { gen := 1, order := 1, tcid := 5, ring := 3, sqIndex := 0, irq := false, cookie := 0, epoch := 0, image := 0x1005, plan := 0, exts := [],
    buckets := [], inRegion := 0x2005, outRegion := 0x3005, inOff := 0, outOff := 0, stamp := 0, deadline := 3125, chain := [(0, 0)],
    tag := 0, group := [], units := [(0x1000, 0)], fabric := false, uses := [] }

/-! ## Ill-formed commands: one or more for every check of Instr.wf -/

/-- A request header in range. -/
def hdr : TxnHdr := { src := 9, attempt := 1, last := true, part := 0, txid := 1, eseq := 0, lowOpen := 0, tcid := 5, slot := 4, gen := 1 }

/-- Port, unit and tenant numbers out of their fields (Tables 2-2, 7-1, 27-1). -/
theorem test_wf_numbers : ∀ i ∈ ([.freezeSequenceStep [36], .selftestDone { units := [0x1040] } [], .selftestDone { units := [0x2008] } [],
      .selftestDone { units := [0x3004] } [], .selftestDone { units := [0x4020] } [], .selftestDone { units := [0x5006] } [],
      .selftestDone { units := [], banks := [2048] } [], .trainingDone [36], .tenantFreed 4096, .unitRetest 0 false [32],
      .unitHealth 0 .fault, .unitStatePoll [(0x6000, .good)]] : List Instr), i.wf = false := by decide

/-- Windows and sizes of the host link (Tables 5-1 and 5-3). -/
theorem test_wf_host : ∀ i ∈ ([.bar2Resize 21, .bar2Access false 0 0 [] {}, .bar2Access true 0 2 [1] {}, .bar0Write 0 0 0 false,
      .bar0Write 0xFFFFFC 8 0 false, .sysTimeRead { offset := 0, size := 0 }, .sysTimeRead { offset := 0xFFFFFC, size := 8 }, .i2cTransaction 0x48 0 [] 65537] : List Instr), i.wf = false := by decide

/-- Lines of the array, rows and columns of a pass, and addresses of the tiers (R327, Table 11-10, R463). -/
theorem test_wf_core : ∀ i ∈ ([.lineTestDone 3 [.row 130] true, .lineTestDone 3 [.column 130] true, .lineTestDone 3 [.cell 130 0] true,
      .passCheck 3 [.row 128], .passCheck 3 [.column 1024], .tierScrub 0x03000000000 .clean false,
      .tierScrub 0x20000000000 .clean false, .spScrub 3 0 0 [(64, .corrected)], .scrubForce 3 0 0 [(64, .corrected)],
      .spScrubDoze { core := 3, finds := [(0x100000, .corrected)] }, .eftTick { frzLow := false, upsets := [(4, .corrected)] }] : List Instr), i.wf = false := by decide

/-- Records and frames of the fabric (Tables 20-7 and 21-3). -/
theorem test_wf_fabric : ∀ i ∈ ([.hotrowSent 4096 0 [], .hotrowSent 5 (2 ^ 32) [], .hotrowSent 5 0 [(2 ^ 32, [])], .replicaDrop 4096 0,
      .replicaDrop 5 (2 ^ 32), .codewordReceive 0 .clean { flits := [], sbits := 0 },
      .hello 0 (2 ^ 64) 1 0 0 false, .hello 0 1 (2 ^ 64) 0 0 false, .lsrAgeExpiry (2 ^ 64),
      .lsr 0 { uid := 1, seq := 0, node := 0, tentative := false, withdrawn := false, links := List.replicate 7 { port := 0, nport := 0, nuid := 2 } },
      .lsr 0 { uid := 1, seq := 0, node := 0, tentative := false, withdrawn := false, links := [{ port := 6, nport := 0, nuid := 2 }] },
      .txnForward 0 { dst := 9, hops := 0, vc := .req, flits := 0 },
      .txnForward 0 { dst := 9, hops := 16, vc := .req, flits := 1 }] : List Instr), i.wf = false := by decide

/-- Fields of a request (Table 21-3). -/
theorem test_wf_requests : ∀ i ∈ ([.txnRead { hdr with tcid := 4096 } 1 0 64 .clean, .txnRead { hdr with slot := 8192 } 1 0 64 .clean,
      .txnRead { hdr with part := 128 } 1 0 64 .clean, .txnRead { hdr with attempt := 0 } 1 0 64 .clean, .txnRead { hdr with attempt := 4 } 1 0 64 .clean,
      .txnRead hdr (2 ^ 32) 0 64 .clean, .txnRead hdr 1 (2 ^ 64) 64 .clean, .txnRead hdr 1 0 0 .clean,
      .txnWrite hdr 0 0 0 false 1 0x800000 [1] 0, .txnWrite hdr 0 0 0 false 1 0 [] 0, .txnAadd hdr (2 ^ 44) 0 [0] .clean, .txnAadd hdr 0 0 [] .clean,
      .txnPool hdr 1 0 0 false 8 [] .clean, .txnPool hdr 1 (2 ^ 64) 0 false 8 [{ row := 0, weight := 0 }] .clean,
      .txnClaim hdr (2 ^ 32) 0 0 1 [], .txnClaim hdr 1 256 0 1 [], .txnClaim hdr 1 0 64 1 [], .txnClaim hdr 1 0 0 0 [], .txnClaim hdr 1 0 60 5 [],
      .txnReport { hdr with attempt := 0 } 0 false false, .txnRelease { hdr with attempt := 0 }, .txnQuench { hdr with attempt := 0 },
      .txnHotrow hdr (2 ^ 32) 0 [], .txnHotrow hdr 1 (2 ^ 64) [], .txnCredit { hdr with attempt := 0 } 0 0 0 0,
      .txnResponse { src := 9, txid := 0, last := true, part := 128, status := 0, sat := false, nan := false, hold := false, payload := [] }] :
      List Instr), i.wf = false := by decide

/-! ## Words of sequencer instructions, their bits written out in the order of Tables 11-3 and 11-4 -/

/-- Format R: funct, gb, ga, gd, opcode. -/
theorem test_words_r : seqDecode 3 0b0000000000_00111_00110_00101_0000001 = some (.add 3 5 6 7)
    ∧ seqDecode 3 0b0000000111_00111_00110_00101_0000001 = some (.sra 3 5 6 7)
    ∧ seqDecode 3 0b0000001101_00111_00110_00101_0000001 = some (.maxu 3 5 6 7)
    ∧ seqDecode 3 0b0000010010_00111_00110_00101_0000001 = some (.mulhu 3 5 6 7)
    ∧ seqDecode 3 0b0000011011_00111_00110_00101_0000001 = some (.remu 3 5 6 7)
    ∧ seqDecode 3 0b0000000000_00111_00110_00101_0011110 = some (.stcond 3 5 6 7)
    ∧ seqDecode 3 0b0000000000_00110_00101_00000_0110010 = some (.tiss 3 5 6) := by decide

/-- Formats I and S: the immediate, ga, gd or gb, opcode. -/
theorem test_words_i : seqDecode 3 0b111111111111111_00110_00101_0000010 = some (.addi 3 5 6 0x7FFF)
    ∧ seqDecode 3 0b000000000111111_00110_00101_0001000 = some (.srai 3 5 6 63)
    ∧ seqDecode 3 0b000000001000000_00110_00101_0001000 = none
    ∧ seqDecode 3 0b000000000001000_00110_00101_0010011 = some (.ld8 3 5 6 8)
    ∧ seqDecode 3 0b000000000001000_00110_00101_0010110 = some (.ld4u 3 5 6 8)
    ∧ seqDecode 3 0b100000000000000_00110_00101_0011011 = some (.st8 3 5 6 0x4000)
    ∧ seqDecode 3 0b000000000000000_00110_00101_0011100 = some (.stnt 3 5 6 0)
    ∧ seqDecode 3 0b000000000000100_00110_00001_0100010 = some (.jalr 3 1 6 4) := by decide

/-- Formats B, J and U, the control registers, and the rows of no operand. -/
theorem test_words_b : seqDecode 3 0b111111111011_001_00110_00101_0100000 = some (.br 3 1 5 6 0xFFB)
    ∧ seqDecode 3 0b000000000000_110_00110_00101_0100000 = none
    ∧ seqDecode 3 0b10000000000000000001_00001_0100001 = some (.jal 3 1 0x80001)
    ∧ seqDecode 3 0b00000000000000000001_00101_0001011 = some (.lui 3 5 1)
    ∧ seqDecode 3 0b000_000000000011_00000_00101_0110100 = some (.crr 3 5 3)
    ∧ seqDecode 3 0b000_000000000011_00110_00000_0110101 = some (.crw 3 6 3)
    ∧ seqDecode 3 0x30 = some (.sync 3) ∧ seqDecode 3 0x36 = some (.eret 3) ∧ seqDecode 3 0x37 = some (.brk 3)
    ∧ seqDecode 3 0x38 = some (.endSection 3) ∧ seqDecode 3 0 = none := by decide

/-- Swifort has PCRR and PCRW, and neither TISS, QSYNC nor END (R298). -/
theorem test_words_swifort : seqDecode 64 0b000_000011000001_00000_00101_1000000 = some (.pcrr 64 5 0x0C1)
    ∧ seqDecode 3 0b000_000011000001_00000_00101_1000000 = none ∧ seqDecode 64 0x31 = none ∧ seqDecode 64 0x38 = none
    ∧ seqDecode 64 0b0000000000_00110_00101_00000_0110010 = none := by decide

/-! ## Worked cases of the manual -/

/-- 11, Table 11-12: the fields of the last MMA, and what the scoreboard takes. -/
theorem test_tile_fields : let i := 0xC008068002008C11 + 0x0050000081A01C01 * 2 ^ 64
    mmaOk i = true ∧ iAcc i = 3 ∧ mBfmt i = 1 ∧ mMv i = 104 ∧ mNv i = 128 ∧ mKv i = 128 ∧ mAccum i = true
      ∧ f1Win i = 1 ∧ f1Off i = 0x700 ∧ f1Len i = 52 ∧ f2Win i = 2 ∧ f2Off i = 0 ∧ f2Len i = 40 := by decide

/-- 14, worked case: the DSMM's fields. -/
theorem test_dsmm_fields : let i := 0x0000808000800424 + 0x0000001102001001 * 2 ^ 64
    mergeOk i = true ∧ iAcc i = 1 ∧ gBfmt i = 2 ∧ gMv i = 128 ∧ gNv i = 128 ∧ f1Win i = 1 ∧ f1Off i = 0x400 ∧ f1Len i = 64
      ∧ f2Off i = 17 := by decide

/-- 17, Table 17-7: the first loads of WLK0_NEXT with EXT0 = 300. -/
def walk300 : Walk := { w := { w0 := 0x0001001000100000, w1 := 0x14C9, w2 := 0x80, w3 := 0 } }
def walkLoads : Nat → Walk → List Nat
  | 0, _ => []
  | n + 1, x => (walkNext x [300]).1 :: walkLoads n (walkNext x [300]).2
theorem test_walk_next : walkLoads 6 walk300 = [0x0800000000000000, 0x0800000000000001, 0x0900000000000002, 0x0900000010000002,
    0x0800000010000001, 0x0800000010000000] := by decide +kernel

/-- 9, worked case: region 3 of core 12, whose third token wraps. -/
theorem test_circular_region : let x : Circ := { base := 0x100, size := 16, source := 0x1008 }
    circAddr 12 x 0 = 0x80006100000 ∧ circAddr 12 x 49152 = 0x80006100000 + 12 * 4096 ∧ circAddr 12 x 73728 = 0x80006100000 + 2 * 4096 := by decide

/-- 13, worked case: 463.7 (as FP32) converts to E4M3's 448. -/
theorem test_e4m3_limit : (convOut .e4m3 true true 0x43E7D99A).1 = 0x7E := by decide +kernel

/-- 15, worked case: the partials 1.0, 2^-24, 2^-24 and +0 in the order of COMBINE, and another order. -/
theorem test_combine_order : [0x3F800000, 0x33800000, 0x33800000, 0].foldl add32 0 = 0x3F800000
    ∧ add32 (add32 0x33800000 0x33800000) 0x3F800000 = 0x3F800001 := by decide +kernel

/-- 15, worked case: of two equal scores, the one of the lower column ranks first. -/
theorem test_topk_tie : topRow true false 3 [(3, 0x40000000), (88, 0x3F800000), (417, 0x3F800000)]
    = [(3, 0x40000000), (88, 0x3F800000), (417, 0x3F800000)]
    ∧ topRow true false 2 [(88, 0x3F800000), (417, 0x3F800000), (500, 0x40000000)] = [(500, 0x40000000), (88, 0x3F800000)] := by decide +kernel

/-- 16, worked case: 1.0 and eleven weights of 2^-24. -/
theorem test_compensated_weight : compSum (0x3F800000 :: List.replicate 11 0x33800000) = 0x3F800006 := by decide +kernel

/-- 24, worked case: the slot of SEQ 302,144. -/
theorem test_ledger_slot : ledgerAddr 302144 = 0x02FC0271000 := by decide

-- ColdResetsClearTheTray
theorem witness_cold_resets : State.reset.eft.power = true ∧ (State.reset.eft.frozen && State.reset.eft.frzLow) = false ∧
    linkServes State.reset = true ∧ State.reset.host.d3hot = false := by decide
theorem witness_perst_ignored : let s : State := { eft := { frozen := true, frzLow := true } }
    s.eft.power = true ∧ s.eft.frozen = true ∧ s.eft.frzLow = true := by decide

-- WarmResetsKeepTheLedger
theorem witness_warm_resets : linkServes State.reset = true ∧ State.reset.host.d3hot = false ∧ alive State.reset = true ∧
    State.reset.pwr.power ≠ .torpor ∧ State.reset.boot.gap = none := by decide

-- PowerLossAndTrip
theorem witness_thermal_trip : State.reset.eft.power = true ∧ State.reset.eft.tripped = false := by decide

-- BootRomChoosesTheImage
theorem witness_boot_rom : alive State.reset = true ∧ State.reset.boot.todo.head? = some .verify ∧ State.reset.boot.status = 0 ∧
    State.reset.boot.kind ≠ .fwActivate := by decide
theorem witness_recover : let s : State := { boot := { status := 2 } }
    linkServes s = true ∧ s.host.d3hot = false ∧ s.boot.status = 2 := by decide

-- StartUpSteps
theorem witness_startup_steps :
    (let s : State := { boot := { todo := [.selftest, .training, .fill] } }
     alive s = true ∧ s.boot.todo = .selftest :: [.training, .fill] ∧ s.boot.status = 0) ∧
    (let s : State := { boot := { todo := [.training, .fill] } }
     alive s = true ∧ s.boot.todo = .training :: [.fill] ∧ s.boot.status = 0) ∧
    (let s : State := { boot := { todo := [.fill] } }
     alive s = true ∧ s.boot.todo = .fill :: [] ∧ s.boot.status = 0 ∧ s.boot.kind = .cold) ∧
    (let g : Gap := { slot := 3, restarted := true, reverted := false, trialVersion := 7 }
     let s : State := { boot := { gap := some g } }
     alive s = true ∧ s.boot.gap = some g ∧ g.restarted = true ∧ g.reverted = false) := by decide

-- ReadyOpensTheChain
theorem witness_ready : let s : State := { boot := { todo := [], runFrom := .slotA }, host := { msixEnable := true, msix := [(1, 0)] } }
    alive s = true ∧ s.boot.todo = [] ∧ s.boot.runFrom ≠ .none ∧ s.boot.gap = none ∧ s.boot.fwReady = false ∧ s.boot.status = 0 ∧
    s.boot.kind = .cold ∧ s.host.msixFuncMask = false ∧ (msixEntry s 1).getLsbD 96 = false ∧ uncabled s = true ∧ s.fab.addr = .none ∧
    s.fab.lsdb = [] := by decide

-- EftTickAdvancesTrayTime
theorem witness_eft_tick : State.reset.eft.power = true ∧ State.reset.eft.tripped = false ∧ State.reset.eft.frozen = false := by decide
theorem witness_eft_tick_frozen : let s : State := { eft := { frozen := true } }
    s.eft.power = true ∧ s.eft.tripped = false ∧ s.eft.frozen = true := by decide

-- MonitorsSetTheClock
theorem witness_monitors : let s : State := { eft := { tick := 18750 } }
    alive s = true ∧ monitorsRun s = true ∧ (∀ m ∈ [Monitor.thermalHard, .thermal, .pkgFast, .trayInput], gridPoint s m ≠ none) ∧
    (mon s 0).run = none ∧ gridPoint State.reset .thermal = none := by decide
theorem witness_fmax_and_overcurrent : let s : State := { eft := { tick := 18750 }, pwr := { coreFmax := 600, overcurrent := true } }
    monitorsRun s = true ∧ s.pwr.coreFmax < s.pwr.fmaxNow ∧ s.pwr.fmaxTick + 32 ≤ s.eft.tick ∧ s.pwr.overcurrent = true := by decide

-- ClockStepAndPowerFloor
theorem witness_clock_step : let w : ClkWin := { opened := 0, steps := 1, first := 900, last := 875, mask := 1 }
    let s : State := { pwr := { win := some w }, eft := { tick := w.opened + 3125 } }
    alive s = true ∧ s.boot.gap = none ∧ s.pwr.win = some w ∧ s.pwr.closedWins = [] ∧ w.opened + 3125 ≤ s.eft.tick ∧
    0 < w.opened + 3125 := by decide
theorem witness_power_floor : let s : State := { boot := { fwReady := true }, eft := { tick := 31250 },
                                                   pwr := { coreMhz := 100, mons := [(2, { triggered := true })] } }
    fwUp s = true ∧ s.pwr.admitHold = false ∧ s.pwr.coreMhz = 100 ∧ powerMask s ≠ 0 := by decide
theorem witness_power_release : let s : State := { boot := { fwReady := true }, pwr := { admitHold := true } }
    fwUp s = true ∧ s.pwr.admitHold = true ∧ powerReleased s = true := by decide

-- SleepEntryAndWake
theorem witness_sleep_entry : let s : State := { boot := { fwReady := true }, pwr := { idleTicks := 31250 } }
    fwUp s = true ∧ s.pwr.power = .active ∧ sleepDue s = true := by decide
theorem witness_wake : let s : State := { pwr := { power := .sleep }, fab := { addr := .firm, node := 5 } }
    alive s = true ∧ wakeDue s (.txnFrame 5) = true ∧ s.pwr.power = .sleep := by decide
theorem witness_wake_undoes : let s : State := { pwr := { power := .entering 3 }, fab := { addr := .firm, node := 5 } }
    alive s = true ∧ wakeDue s (.txnFrame 5) = true ∧ s.pwr.power = .entering 3 := by decide
theorem witness_wake_done : let s : State := { pwr := { power := .waking } }
    alive s = true ∧ s.pwr.power = .waking ∧ s.host.parked = [] := by decide
theorem witness_scrub_wake : let s : State := { pwr := { power := .sleep, scrubTicks := 1875000000 } }
    alive s = true ∧ s.pwr.power = .sleep ∧ 600000000000 ≤ s.pwr.scrubTicks * 320 := by decide

-- TorporEntryAndResume
theorem witness_torpor_entry :
    let s : State := { boot := { fwReady := true }, host := { aspmL1 := true },
                       pwr := { power := .sleep, torporEn := true, sleepTicks := 187500000 } }
    fwUp s = true ∧ torporDue s = true := by decide
theorem witness_torpor_wake : let s : State := { pwr := { power := .torpor } }
    alive s = true ∧ s.pwr.power = .torpor := by decide
theorem witness_torpor_wake_done :
    let s : State := { boot := { runFrom := .slotA, runDigest := sha384 (imgBytes (slotOf {} false [])) }, pwr := { power := .resuming 3 } }
    alive s = true ∧ s.pwr.power = .resuming 3 ∧ resumeImage s = true ∧ s.host.parked = [] ∧ s.mbx.latched = [] := by decide +kernel

-- HostLinkStates
theorem witness_host_link_states : let s : State := { boot := { fwReady := true }, host := { aspmL1 := true }, pwr := { power := .sleep } }
    alive s = true ∧ s.pwr.power = .sleep ∧ s.host.aspmL1 = true ∧ s.pwr.power ≠ .torpor ∧ s.host.d3hot = false ∧
    swiRuns { boot := { runFrom := .slotA, todo := [] } } = true := by decide

-- Bar0WritesByBlock
theorem witness_bar0 : let s : State := { boot := { fwReady := true } }
    barServes s = true ∧ ready s = true ∧ sizeAligned 3 4 = false ∧ sizeAligned 0x20000 4 = true ∧ slotIsHost s 0 = true := by decide

-- Bar2WindowsAndResize
theorem witness_bar2 : let s : State := { boot := { fwReady := true } }
    barServes s = true ∧ ready s = true ∧ bits (0x02A70001 : W32).toNat 16 12 ≠ 0 ∧ bits (0x02A70001 : W32).toNat 16 12 ≠ 0xFFF := by decide
theorem witness_bar2_kinds :
    let s : State := { boot := { fwReady := true }, host := { wins := [(0, { enable := true, tcid := 0x2A7 })] },
                       store := { banks := [(0, { owner := 0x2A7, power := .on })] } }
    barServes s = true ∧ ready s = true ∧ s.pwr.power = .active ∧ s.host.parked = [] ∧ noHold s = true ∧ (win s 0).enable = true ∧
      (win s 1).enable = false ∧ endpoint s 0x2A7 0 8 false = .refused 0 ∧ endpoint s 0x2A7 0 8 true = .refused 0 ∧
      endpoint s 0x2A7 0x30000000000 8 false = .hole ∧ endpoint s 0x2A7 0x80000000000 8 false = .ok ∧
      endpoint s 0x2A7 0x80000000000 8 true = .ok ∧ poisonedIn (flushGb s 0x80000000000 8) 0x80000000000 8 = [] ∧
      (flushGb s 0x80000000000 8).ecc.latent = [] := by decide

-- HostRegisterWrites
theorem witness_host_registers : let s : State := { boot := { fwReady := true } }
    barServes s = true ∧ ready s = true ∧ s.mbx.evqEnable = false ∧ s.mbx.backlog = [] ∧ s.mbx.drops = 0 ∧ sizeAligned 0x12 4 = false ∧
    0x12 / 8 ≠ 1 ∧ (0x12345000 : Nat) % 4096 = 0 := by decide

-- EventQueueDrainsInOrder
theorem witness_event_backlog : let e : EvRec := { type := 1, seq := 1, time := 0, p0 := 0, p1 := 0 }
    let s : State := { boot := { fwReady := true }, mbx := { evqEnable := true, backlog := [e] } }
    barServes s = true ∧ ready s = true ∧ s.mbx.backlog = [e] ∧ s.mbx.drops = 0 ∧ s.mbx.evqEnable = true ∧
    s.mbx.evqTail < 4096 ∧ (s.mbx.evqTail + 1) % 4096 ≠ (0 : W32).toNat % 4096 := by decide

-- RingDoorbells
theorem witness_doorbell : let s : State := { boot := { fwReady := true }, rings := [(5, { configured := true }),
                                                                                (7, { configured := true, destroying := true })] }
    (ring s 7).destroying = true ∧ barServes s = true ∧ ready s = true ∧ (ring s 5).configured = true ∧ (ring s 5).destroying = false ∧
    (3 : W32).toNat % 2 ^ 16 < 2 ^ (ring s 5).log2 ∧ (3 : W32).toNat % 2 ^ 16 ≠ (ring s 5).sqTail ∧ (ring s 5).faultDue = false ∧
    (ring s 6).configured = false := by decide

-- MailboxBitsMoveSlots
theorem witness_mailbox_bits :
    let p : Pend := { req := { opcode := 0x0304, force := false, noirq := true, tag := 9, payload := [], order := 0 },
                      jobs := [], fills := [0], payload := [] }
    let s : State := { boot := { fwReady := true },
                       mbx := { own := 0x32, done := 4, reqs := [(1, p.req), (4, askedReq 0x0C04 []), (5, askedReq 0x0001 [])],
                                running := [(1, p)], slots := [(0, [1, 0]), (3, [9]), (6, [4, 0x0C])] } }
    slotIsHost s 6 = true ∧ headerStatus (slotBytes s 6) = none ∧ isFwOp (leAt (slotBytes s 6) 0 2) = true ∧
    isFwOp (leAt (slotBytes s 0) 0 2) = false ∧ slotIsHost s 4 = false ∧ tget s.mbx.reqs 4 = some (askedReq 0x0C04 []) ∧
    isFwOp (askedReq 0x0C04 []).opcode = true ∧ tget s.mbx.reqs 1 = some p.req ∧ tget s.mbx.reqs 5 = some (askedReq 0x0001 []) ∧
    tget s.mbx.running 5 = none ∧ mayStart s 5 (askedReq 0x0001 []) = true ∧
    barReady s = true ∧ linkServes s = true ∧ s.host.d3hot = false ∧ fwUp s = true ∧ s.boot.gap = none ∧
    slotIsHost s 0 = true ∧ headerStatus (slotBytes s 0) = none ∧ slotIsHost s 3 = true ∧
    headerStatus (slotBytes s 3) = some 0x0101 ∧ slotIsHost s 2 = false ∧ tget s.mbx.running 1 = some p ∧
    opRow p.req.opcode = some (8, 0, false) := by decide

-- QueriesOnlyAnswer
theorem witness_plain_queries : ∀ op ∈ [0x0001, 0x0002, 0x0D02, 0x0702, 0x0801, 0x0901, 0x0904],
    Accepted (on {} op []) 0 op (askedReq op []) := by decide
theorem witness_object_queries :
    let o : Commons := { sealed := false, size := 0x10000, baseB := 0x10000000000, baseA := 0, lastUse := 0 }
    let g : Region := { owner := 5, writable := true, tierA := true, sealed := false, size := 0x10000, base := 0, image := false,
                        copy := none, pinned := none, lastUse := 0 }
    let s : State := { store := { commons := [(5, o)], regions := [(5, g)], images := [(5, smallEntry)] } }
    let p : List Byte := [5]
    let u : List Byte := [0, 0x10]
    (∀ op ∈ [0x0103, 0x0405, 0x0305, 0x0203, 0x0503], Accepted (on s op p) 0 op (askedReq op p)) ∧
    Accepted (on s 0x0601 u) 0 0x0601 (askedReq 0x0601 u) ∧
    tcidFields s p = true ∧ tcidOk (leAt p 0 2) = true ∧ coidFields s p = true ∧ idFields s p = true ∧ ringFields s p = true ∧
    unitFields s u = true ∧ leAt u 0 2 ∈ allUnits ∧ tget s.store.commons (leAt p 0 2) = some o ∧
    tget s.store.regions (leAt p 0 4) = some g ∧ tget s.store.images (leAt p 0 4) = some smallEntry := by decide

-- TimeAndPowerSet
theorem witness_time_and_power_set :
    let p : List Byte := [0x10, 0x27, 0, 0, 0x60, 0xEA, 0, 0, 0x58, 0x02, 1, 0, 0, 0, 0, 0]
    AcceptedChange (on {} 0x0D01 [9]) 0 0x0D01 (askedReq 0x0D01 [9]) ∧ AcceptedChange (on {} 0x0701 p) 0 0x0701 (askedReq 0x0701 p) ∧
    powerFields (on {} 0x0701 p) p = true := by decide

-- TenantsAreCreatedAndChanged
theorem witness_tenant_create :
    let p : List Byte := [5, 0, 0, 0, 0, 0, 64, 0]
    let s := on {} 0x0101 p
    AcceptedChange s 0 0x0101 (askedReq 0x0101 p) ∧ tenantFields s p = true ∧ recTcid p = 5 ∧ recTcid p ≠ 0xFFF ∧
    (tenant s 5).state = .free := by decide
theorem witness_tenant_lowest : lowestFreeTcid State.reset = some 1 := by
  have h : ((List.range 0xFFE).map (· + 1)).filter (fun t => (tenant State.reset t).state == .free)
      = 1 :: ((List.range 0xFFD).map (· + 2)) := by
    have e : ∀ l : List Nat, l.filter (fun t => (tenant State.reset t).state == .free) = l :=
      fun l => List.filter_eq_self.mpr (fun _ _ => rfl)
    rw [e, show 0xFFE = 0xFFD + 1 from rfl, List.range_succ_eq_map]
    simp [Function.comp_def]
  unfold lowestFreeTcid
  rw [h]
  exact minBy_head _ _ _ (by simp)
theorem witness_tenant_set :
    let p : List Byte := [5, 0, 0, 0, 0, 0, 64, 0]
    let s := on { store := { tenants := [(5, { state := .active })] } } 0x0102 p
    AcceptedChange s 0 0x0102 (askedReq 0x0102 p) ∧ tenantFields s p = true ∧ tcidOk (recTcid p) = true ∧ tenantOpen s (recTcid p) = true ∧
    (tenant s (recTcid p)).cobatch = bitAt (leAt p 0 8) 16 ∧ (recRw p (tenant s (recTcid p))).residency = 0 := by decide
theorem witness_tenant_suspend_resume :
    let s := on { store := { tenants := [(5, { state := .active }), (6, { state := .suspended })] } } 0x0104 [5]
    let u := on { store := s.store } 0x0105 [6]
    AcceptedChange s 0 0x0104 (askedReq 0x0104 [5]) ∧ tcidFields s [5] = true ∧ tcidOk (leAt [5] 0 2) = true ∧
    (tenant s (leAt [5] 0 2)).state = .active ∧ s.dsp.jobs.all (fun e => e.2.tcid != leAt [5] 0 2 || e.2.stream.isNone) = true ∧
    AcceptedChange u 0 0x0105 (askedReq 0x0105 [6]) ∧ tcidFields u [6] = true ∧ tcidOk (leAt [6] 0 2) = true ∧
    (tenant u (leAt [6] 0 2)).state = .suspended := by decide

-- TenantsAreDestroyedAndFreed
theorem witness_tenant_destroy :
    let s := on { store := { tenants := [(5, { state := .suspended })] } } 0x0106 [5]
    let u : State := { boot := { fwReady := true }, store := { tenants := [(5, { state := .destroying, tgen := 2 })] } }
    AcceptedChange s 0 0x0106 (askedReq 0x0106 [5]) ∧ tcidFields s [5] = true ∧ tcidOk (leAt [5] 0 2) = true ∧
    tenantOpen s (leAt [5] 0 2) = true ∧ s.dsp.jobs = [] ∧ s.dsp.parts = [] ∧
    fwUp u = true ∧ domainsUp u = true ∧ (tenant u 5).state = .destroying ∧ u.dsp.jobs = [] ∧ u.dsp.parts = [] := by decide

-- CommonsAreAllocatedLoadedSealedAndFreed
theorem witness_commons :
    let o : Commons := { sealed := false, size := 0x10000, baseB := 0x10000000000, baseA := 0, lastUse := 0 }
    let p : List Byte := [5, 0, 0, 0, 0, 0, 0, 0, 0, 0, 1, 0, 0, 0, 0, 0]
    let q : List Byte := [5, 0, 0, 0, 4, 0, 0, 0]
    let a := on {} 0x0401 p
    let s := on { store := { commons := [(5, o)] } } 0x0402 q
    AcceptedChange a 0 0x0401 (askedReq 0x0401 p) ∧ commonsAllocFields a p = true ∧ leAt p 0 2 ≠ 0 ∧
    tget a.store.commons (leAt p 0 2) = none ∧ a.store.commons.length < 1024 ∧
    taNeeded a 0 false none + mib (leAt p 8 8) ≤ 191 * 1024 ∧ allocIn a false (leAt p 8 8) = some 0x10000000000 ∧
    allocIn a true (leAt p 8 8) = some 0 ∧
    AcceptedChange s 0 0x0402 (askedReq 0x0402 q) ∧ commonsLoadFields s q = true ∧ tget s.store.commons (leAt q 0 2) = some o ∧
    o.sealed = false ∧ leAt q 8 8 + leAt q 4 4 ≤ o.size ∧ leAt q 4 4 ≤ ([1, 2, 3, 4] : List Byte).length ∧
    poisonedIn s (o.baseB + leAt q 8 8) (leAt q 4 4) = [] := by decide
theorem witness_commons_seal_and_free :
    let o : Commons := { sealed := false, size := 0x10000, baseB := 0x10000000000, baseA := 0, lastUse := 0 }
    let s := on { store := { commons := [(5, o)] } } 0x0403 [5]
    let u := on { store := { commons := [(5, o)] } } 0x0404 [5]
    AcceptedChange s 0 0x0403 (askedReq 0x0403 [5]) ∧ coidFields s [5] = true ∧ tget s.store.commons (leAt [5] 0 2) = some o ∧
    o.sealed = false ∧ o.baseA + o.size ≤ o.baseB ∧ o.baseA + o.size ≤ 0x02FC0000000 ∧ 0x10000000000 ≤ o.baseB ∧
    Memory.wf s.mem = true ∧ AcceptedChange u 0 0x0404 (askedReq 0x0404 [5]) ∧
    imagesWith u (· == .commons (leAt [5] 0 2)) = 0 ∧ u.store.spCopies = [] := by decide

-- RegionsAreCreatedLoadedSealedAndFreed
theorem witness_region_create :
    let q : List Byte := [5, 0, 1, 0, 0, 0, 0, 0, 0, 0, 1, 0, 0, 0, 0, 0]
    let s := on { store := { tenants := [(5, { state := .active, tbQuota := 4 })] } } 0x0301 q
    AcceptedChange s 0 0x0301 (askedReq 0x0301 q) ∧ regionCreateFields s q = true ∧ tcidOk (leAt q 0 2) = true ∧
    tenantOpen s (leAt q 0 2) = true ∧ bitAt (leAt q 2 2) 1 = false ∧ bitAt (leAt q 2 2) 2 = false ∧
    tbUsed s (leAt q 0 2) + mib (leAt q 8 8) ≤ (tenant s (leAt q 0 2)).tbQuota ∧
    allocIn s false (leAt q 8 8) = some 0x10000000000 ∧ s.store.nextRegion ≤ 0xFFFFF := by decide
theorem witness_regions :
    let g : Region := { owner := 5, writable := false, tierA := false, sealed := false, size := 0x10000, base := 0x10000000000,
                        image := false, copy := none, pinned := none, lastUse := 0 }
    let p : List Byte := [5, 0x20, 0, 0, 4, 0, 0, 0, 0, 0, 0, 0, 0, 0, 0, 0]
    let q : List Byte := [5, 0x20]
    let st : Store := { tenants := [(5, { state := .active, tbQuota := 4 })], regions := [(0x2005, g)] }
    let s := on { store := st } 0x0302 p
    AcceptedChange s 0 0x0302 (askedReq 0x0302 p) ∧ regionLoadFields s p = true ∧ tget s.store.regions (leAt p 0 4) = some g ∧
    leAt p 8 8 + leAt p 4 4 ≤ g.size ∧ leAt p 4 4 ≤ ([1, 2, 3, 4] : List Byte).length ∧
    poisonedIn s (g.base + leAt p 8 8) (leAt p 4 4) = [] ∧
    (∀ op ∈ [0x0303, 0x0304], AcceptedChange (on { store := st } op q) 0 op (askedReq op q)) ∧ idFields s q = true ∧
    tget s.store.regions (leAt q 0 4) = some g ∧ g.writable = false ∧ g.sealed = false ∧ (tenant s g.owner).residency = 0 ∧
    regionInUse s (leAt q 0 4) = false ∧ g.copy = none ∧ s.store.spCopies = [] := by decide

-- ImagesAreRegisteredBoundAndUnregistered
theorem witness_images :
    let p : List Byte := [5, 0, 0, 0, 4, 0, 0, 0, 0, 0, 0, 0, 0, 0, 0, 0]
    let s := on { store := { tenants := [(5, { state := .active, tbQuota := 4 })] } } 0x0201 p
    AcceptedChange s 0 0x0201 (askedReq 0x0201 p) ∧ imageRegisterFields s p = true ∧ tcidOk (leAt p 0 2) = true ∧
    tenantOpen s (leAt p 0 2) = true ∧ leAt p 4 4 ≤ ([1, 2, 3, 4] : List Byte).length ∧ smallImage.format = some 7 ∧
    refStatus s (leAt p 0 2) smallImage.refs = none ∧ checkImage s smallImage = none ∧
    s.store.images.countP (fun e => e.2.owner == leAt p 0 2) < 16 ∧ s.store.images.length < 16384 ∧
    tbUsed s (leAt p 0 2) + mib (max 0x10000 (roundUp (leAt p 4 4) 0x10000)) ≤ (tenant s (leAt p 0 2)).tbQuota ∧
    allocIn s false (max 0x10000 (roundUp (leAt p 4 4) 0x10000)) = some 0x10000000000 ∧ s.store.nextRegion ≤ 0xFFFFF ∧
    s.store.nextImage ≤ 0xFFFFF ∧ poisonedIn s 0x10000000000 (leAt p 4 4) = [] := by decide
theorem witness_image_bind_and_unregister :
    let g : Region := { owner := 5, writable := false, tierA := false, sealed := true, size := 0x10000, base := 0x10000000000,
                        image := true, copy := none, pinned := none, lastUse := 0 }
    let q : List Byte := [5, 0x10, 0, 0, 0, 0, 9, 0, 5, 0x20, 0, 0, 0, 0, 0, 0]
    let st : Store := { regions := [(0x3005, g)], images := [(0x1005, smallEntry)] }
    let s := on { store := st } 0x0204 q
    let u := on { store := st } 0x0202 [5, 0x10]
    AcceptedChange s 0 0x0204 (askedReq 0x0204 q) ∧ imageBindFields s q = true ∧ tget s.store.images (leAt q 0 4) = some smallEntry ∧
    leAt q 4 1 < smallEntry.desc.remoteStages ∧ jobsOfImage s (leAt q 0 4) = 0 ∧
    AcceptedChange u 0 0x0202 (askedReq 0x0202 [5, 0x10]) ∧ idFields u [5, 0x10] = true ∧
    tget u.store.images (leAt [5, 0x10] 0 4) = some smallEntry ∧ tget u.store.regions smallEntry.region = some g := by decide

-- RingsAreConfiguredDestroyedAndRestarted
theorem witness_rings :
    let p : List Byte := [4, 0, 4, 0, 5, 0]
    let s := on { rings := [(3, { configured := true, stopped := true })], dsp := { jobs := [(0, smallJob)] } } 0x0501 p
    AcceptedChange s 0 0x0501 (askedReq 0x0501 p) ∧ ringConfigureFields s p = true ∧ (ring s (leAt p 0 2)).configured = false ∧
    leAt p 24 4 = 0 ∧ AcceptedChange (on s 0x0504 [3]) 0 0x0504 (askedReq 0x0504 [3]) ∧ ringFields s [3] = true ∧
    (ring s (leAt [3] 0 2)).stopped = true ∧
    AcceptedChange (on s 0x0502 [3]) 0 0x0502 (askedReq 0x0502 [3]) ∧ (ring s (leAt [3] 0 2)).configured = true ∧
    (ring s (leAt [3] 0 2)).destroying = false ∧ (ring s (leAt [3] 0 2)).claim = none ∧ jobsOfRing s (leAt [3] 0 2) ≠ [] ∧
    (let r : Req := { askedReq 0x0502 [3] with force := true }
     AcceptedChange { s with mbx := { reqs := [(0, r)] } } 0 0x0502 r ∧ r.force = true) ∧
    (let u := on { rings := s.rings } 0x0502 [3]
     AcceptedChange u 0 0x0502 (askedReq 0x0502 [3]) ∧ jobsOfRing u (leAt [3] 0 2) = []) := by decide

-- UnitCommandsAndFencing
theorem witness_units :
    let n : HealthNote := { unit := 0x1003, old := .good, new := .fault, gen := 1 }
    let s : State := { boot := { fwReady := true }, errs := { notes := [n], units := [(0x1003, { admin := .offline, health := .fault, gen := 2 })] } }
    let l : List Byte := [0, 0, 0, 0]
    let p : List Byte := [3, 0x10, 2, 0]
    let q : List Byte := [3, 0x10, 0, 0]
    Accepted (on s 0x0602 l) 0 0x0602 (askedReq 0x0602 l) ∧ leAt l 0 8 % 64 = 0 ∧ s.host.d3hot = false ∧
    AcceptedChange (on s 0x0603 p) 0 0x0603 (askedReq 0x0603 p) ∧ leAt p 0 2 ∈ allUnits ∧ leAt p 2 1 ≤ 2 ∧ leAt p 3 1 = 0 ∧
    (let v : State := { s with repairs := [(3, { testing := false, blown := 0, wasAdmin := .online })] }
     AcceptedChange (on v 0x0603 p) 0 0x0603 (askedReq 0x0603 p) ∧ (tget v.repairs (leAt p 0 2 % 0x1000)).isSome = true ∧
     leAt p 0 2 / 0x1000 = 1) ∧ tget s.repairs (leAt p 0 2 % 0x1000) = none ∧
    AcceptedChange (on s 0x0604 q) 0 0x0604 (askedReq 0x0604 q) ∧ unitFields s q = true ∧ leAt q 0 2 ∈ allUnits ∧
    leAt q 0 2 / 0x1000 = 1 ∧ (unitRec s (leAt q 0 2)).admin = .offline ∧ unitUsed s (leAt q 0 2) = false ∧
    fwUp s = true ∧ s.errs.notes.find? (fun x => x.unit == n.unit) = some n ∧ 0x2001 ∈ allUnits ∧ (unitRec s 0x2001).health = .good ∧
    s.errs.notes.all (fun x => x.unit != 0x2001) = true := by decide

-- RecordsAndFieldRepair
theorem witness_records :
    let rep : ErrRep := { cls := 8, scope := 0, unit := 0x1003, time := 5 }
    let x : Repair := { testing := true, blown := 0, wasAdmin := .online }
    let s : State := { boot := { fwReady := true, runFrom := .slotA }, repairs := [(3, x)],
                       errs := { queues := [(0x1003, [rep])], units := [(0x1003, { admin := .offline })] } }
    recordsRun s = true ∧ nextReport s = some (0x1003, rep) ∧ fwUp s = true ∧ (unitRec s (coreUnit 3)).admin = .offline ∧
    repairable [.row 5] = some (false, 5) ∧ fuseField 0 false = some 1 ∧ physLine 0 false 5 < 130 ∧ repairable [.checksumLine] = none ∧ ledgerFull s = false ∧
    ledgerFull { s with ledger.next := 262144 } = true := by decide

-- FabricCommandsAndHotRows
theorem witness_fabric_commands :
    let rep : Replica := { base := 0x10000, size := 0x10000, log2 := 9, rp := 64, rows := [] }
    let s : State := { boot := { fwReady := true }, store := { tenants := [(5, { state := .active })], replicas := [(5 * 2 ^ 32 + 0x2005, rep)] } }
    let p : List Byte := [5, 0, 1, 0, 1]
    AcceptedChange (on s 0x0802 []) 0 0x0802 (askedReq 0x0802 []) ∧ routesLoadFields s [] = true ∧ leAt ([] : List Byte) 8 4 ≤ 0 ∧
    AcceptedChange (on s 0x0803 []) 0 0x0803 (askedReq 0x0803 []) ∧
    AcceptedChange (on s 0x0804 p) 0 0x0804 (askedReq 0x0804 p) ∧ hotrowPolicyFields s p = true ∧ tcidOk (leAt p 0 2) = true ∧
    tenantOpen s (leAt p 0 2) = true ∧
    (tenant s 5).hotMode = 0 ∧ tableRead s 5 0x2005 = false ∧ fwUp s = true ∧ domainsUp s = true ∧
    tget s.store.replicas (5 * 2 ^ 32 + 0x2005) = some rep := by decide
theorem witness_hot_table :
    let tab : TableDesc := { index := 0, w0 := 2 <<< 44, w1 := 0, w2 := 0, w3 := 0, source := .region 0x2005, sourceBytes := 0 }
    let sec : SectionDesc := { smallSection with tables := [tab] }
    let m : Image := { owner := 5, region := 0x1005, desc := { smallImage with sections := [sec], shardMaps := [(0, true, 0x2005)] }, size := 0,
                       digest := [], binds := [] }
    let s : State := { boot := { fwReady := true }, store := { tenants := [(5, { state := .active, hotMode := 1 })], images := [(0x1005, m)] } }
    fwUp s = true ∧ domainsUp s = true ∧ (tenant s 5).hotMode = 1 ∧ (hotTable s 5 0x2005).isSome = true := by decide

-- LedgerAndObservationCommands
theorem witness_ledger_and_observation :
    let s : State := { boot := { fwReady := true }, ledger := { next := 3 },
                       obs := { dest := 1, log2 := 8, pondMask := 1, ponds := [(0, { recs := [{ w0 := 1, w1 := 2 }] })] } }
    let p : List Byte := [1, 0, 0, 0, 0, 0, 0, 0, 0, 0, 0, 0, 0, 0, 0, 0, 8]
    Accepted (on s 0x0902 p) 0 0x0902 (askedReq 0x0902 p) ∧ domainsUp s = true ∧ ledgerReadFields s p = true ∧
    ledgerHas s (leAt p 0 8) = true ∧ (List.range 2).flatMap (fun q => poisonedIn s (ledgerAddr (1 + q)) 64) = [] ∧ s.host.d3hot = false ∧
    Accepted (on s 0x0903 p) 0 0x0903 (askedReq 0x0903 p) ∧ s.ledger.next ≤ leAt p 0 8 + 262144 ∧
    AcceptedChange (on s 0x0A01 [1, 1, 8]) 0 0x0A01 (askedReq 0x0A01 [1, 1, 8]) ∧ traceConfigFields s [1, 1, 8] = true ∧
    Accepted (on s 0x0A02 []) 0 0x0A02 (askedReq 0x0A02 []) ∧ leAt ([] : List Byte) 8 2 < 0xFFF ∧
    alive s = true ∧ ready s = true ∧ obsRuns s = true ∧ s.obs.dest = 1 ∧ s.obs.timebaseDue = false ∧
    (takeRecs (min 32 (min (2 ^ s.obs.log2 - 1 - trcHeld s) (2 ^ s.obs.log2 - s.obs.trcTail))) s).1 ≠ [] ∧
    (maskBits s.obs.pondMask 8).head? = some 0 ∧ (tgetD s.obs.ponds 0 {}).dropped = 0 ∧
    (tgetD s.obs.ponds 0 {}).recs.length < 16384 := by decide

-- FirmwareCommands
theorem witness_firmware :
    let st : FwStage := { length := 2, got := [(0, 1), (1, 2)] }
    let s : State := { boot := { fwReady := true, staging := some st, staged := some (true, [1]), trial := some true, runFrom := .slotB } }
    let d : List Byte := [0, 0, 0, 0, 2]
    Accepted (on s 0x0C01 [0, 4]) 0 0x0C01 (askedReq 0x0C01 [0, 4]) ∧ fwBeginFields s [0, 4] = true ∧
    Accepted (on s 0x0C02 d) 0 0x0C02 (askedReq 0x0C02 d) ∧ fwDataFields s d = true ∧ leAt d 0 4 + leAt d 4 4 ≤ st.length ∧
    leAt d 4 4 ≤ ([1, 2] : List Byte).length ∧
    (∀ op ∈ [0x0C03, 0x0C04, 0x0C05], AcceptedChange (on s op []) 0 op (askedReq op [])) ∧
    s.boot.staging = some st ∧ st.length ≤ st.got.length ∧ s.boot.staged = some (true, [1]) ∧ fabricQuiet s = true ∧
    s.swi.sb = [] ∧ s.swi.early = [] ∧ s.swi.cb = [] ∧ s.mbx.latched = [] ∧ trialRuns s = true ∧
    (on s 0x0C04 []).mbx.reqs.all (fun p => p.1 == (0 : SlotId).val) = true ∧ activationFree (on { s with swi.cb := [Line.new 0] } 0x0C04 []) 0 = false ∧
    AcceptedChange (on { s with swi.cb := [Line.new 0] } 0x0C04 []) 0 0x0C04 (askedReq 0x0C04 []) ∧
    AcceptedChange (on { s with boot.staged := none } 0x0C04 []) 0 0x0C04 (askedReq 0x0C04 []) := by decide

-- DescriptorsAreReadCheckedAndAdmitted
/-- A tray with one tenant, an image, two regions and a ring that holds a copy of a RUN descriptor. -/
def admitRegion (base : Nat) : Region :=
  { owner := 5, writable := true, tierA := true, sealed := false, size := 0x10000, base := base, image := false, copy := none, pinned := none,
    lastUse := 0 }
def admitCopy : List Word := [0x50001, 0x1005, 9, 0x200500003005, 0, 0, 0, 0]
def admitState : State :=
  { boot := { fwReady := true },
    store := { tenants := [(5, { state := .active, maxJobs := 4, spQuota := 64, taQuota := 64, tbQuota := 64 })],
               regions := [(0x2005, admitRegion 0x10000), (0x3005, admitRegion 0x20000), (0x4005, { admitRegion 0x30000 with image := true })],
               images := [(0x1005, { smallEntry with region := 0x4005, binds := [(0, (9, 0x1005))] })] },
    rings := [(3, { configured := true, sqTail := 1, copy := some admitCopy })] }
theorem witness_descriptor_read : let s : State := { rings := [(3, { configured := true, sqTail := 1 })] }
    domainsUp s = true ∧ (ring s 3).configured = true ∧ (ring s 3).destroying = false ∧ s.host.d3hot = false ∧
    (ring s 3).stopped = false ∧ (ring s 3).copy = none ∧ (ring s 3).sqHead ≠ (ring s 3).sqTail ∧ slotFree (ring s 3) = true := by decide
theorem witness_bad_copy : let s : State := { rings := [(3, { configured := true, copy := some [0, 0, 0, 0, 0, 0, 0, 0] })] }
    let d : Desc := { w := [0, 0, 0, 0, 0, 0, 0, 0] }
    domainsUp s = true ∧ nextTurn s = some 3 ∧ nextTurn { s with rings := [] } ≠ some 3 ∧ copyOf (ring s 3) = some d ∧ slotFree (ring s 3) = true ∧ chkFields (ring s 3) d ≠ .pass ∧
    (ring s 3).claim = none := by decide
/-- The admission checks of the copy. -/
def admitDesc : Desc := { w := admitCopy.map (·.toNat) }
/-- The tray when ring 3 has had its turn. -/
def admitTurn : State := { admitState with dsp.turn := 4 }
theorem witness_admission : nextTurn admitState = some 3 ∧ copyOf (ring admitState 3) = some admitDesc ∧ slotFree (ring admitState 3) = true ∧
    chkFields (ring admitState 3) admitDesc = .pass ∧ admitDesc.epoch = (ring admitState 3).epoch ∧
    tenantActive admitState admitDesc.tcid = true ∧ admitDesc.kind ≠ kStop ∧ chkImage admitTurn admitDesc = .pass ∧
    domainsUp admitState = true ∧ (ring admitState 3).claim = none := by decide
theorem witness_admission_units : chkAdmit admitTurn (ring admitState 3) admitDesc = .pass := by decide +kernel
def admitCand : Cand :=
  { ring := 3, d := admitDesc, exts := admitDesc.exts, image := { smallEntry with region := 0x4005, binds := [(0, (9, 0x1005))] },
    plan := 0, p := { stages := [{ cores := 1, remote := none }], rounds := [[0]], layerOwners := [[(0, 0)]], inSize := 64,
                      outSize := 64, scratch := [] } }
theorem witness_admission_cand : candOf admitTurn 3 admitDesc admitDesc.exts = some admitCand ∧ partsOf admitCand = [] := by decide
theorem witness_admission_chain : ∃ u chain tag joined,
    assign admitTurn [admitCand] admitState.dsp.nextOrder = .chain u chain tag joined := by
  have h : (match assign admitTurn [admitCand] admitState.dsp.nextOrder with | .chain .. => true | _ => false) = true := by
    decide +kernel
  revert h
  cases assign admitTurn [admitCand] admitState.dsp.nextOrder with
  | chain u chain tag joined => exact fun _ => ⟨u, chain, tag, joined, rfl⟩
  | hold u => exact fun h => by simp at h
  | refuse st => exact fun h => by simp at h

-- CoresAreFilledStagedAndLoaded
theorem witness_zero_fill : let s : State := { cores := [(7, { filling := true })] }
    domainsUp s = true ∧ (Machine.core s 7).filling = true := by decide
theorem witness_staging :
    let g : Region := { owner := 5, writable := false, tierA := false, sealed := true, size := 0x10000, base := 0x10000000000, image := false,
                        copy := some { base := 0x10000, done := false, poisoned := false, lastUse := 0 }, pinned := none, lastUse := 0 }
    let o : StgOrder := { obj := .region 0x2005, cores := [], jobs := [0] }
    let s : State := { store := { regions := [(0x2005, g)], orders := [o] } }
    domainsUp s = true ∧ s.store.orders[0]? = some o ∧ stageSource s o.obj = some (0x10000000000, 0x10000, some 0x10000) ∧ s.ecc.poison = [] ∧
    s.ecc.latent = [] ∧ noHold s = true ∧ s.store.spCopies = [] ∧ Memory.wf s.mem = true := by decide
theorem witness_config_load :
    let s : State := { store := { images := [(0x1005, smallEntry)] }, dsp := { jobs := [(4, smallJob)] },
                       cores := [(0, { work := some 4, bank31 := [(0x1005, 0, 1)] })] }
    domainsUp s = true ∧ (Machine.core s 0).work = some 4 ∧ sectionOf s 4 0 = some (0x1005, 0) ∧ secDesc s (0x1005, 0) = some smallSection ∧
    (Machine.core s 0).filling = false ∧ (Machine.core s 0).seq.run = .idle ∧ (Machine.core s 0).sec ≠ some (0x1005, 0) ∧ (members s 4).any (staging s) = false ∧
    (Machine.core s 0).bank31.any (fun b => b.1 == (0x1005, 0).1 && b.2.1 == (0x1005, 0).2) = true ∧ s.ecc.poison = [] ∧ s.ecc.latent = [] ∧
    (bank s (0 * 32 + 31)).retired = false := by decide
theorem witness_feed :
    let d : FeedDesc := { source := .commons 1, walk := { w0 := 0x1000100010001, w1 := 0xE4, w2 := 0, w3 := 0 }, rowBytes := 64, rowsPerTile := 1,
                          pitch := 64, dest := 2 }
    let f : Feed := { desc := d, walk := { w := d.walk }, credits := 1 }
    let o : Commons := { sealed := true, size := 0x10000, baseB := 0x10000000000, baseA := 0, lastUse := 0 }
    let s : State := { store := { commons := [(1, o)] }, cores := [(0, { work := some 4, feeds := [f], seq := { run := .run } })] }
    domainsUp s = true ∧ (Machine.core s 0).seq.run ≠ .idle ∧ (Machine.core s 0).feeds[(0 : Fin 4).val]? = some f ∧ (Machine.core s 0).work = some 4 ∧
    walkOk f.walk.w (Machine.core s 0).ext = true ∧ feedSource s 4 d.source = some (0, 0x10000, 0xFFF) ∧
    cdiv (d.rowBytes * d.rowsPerTile) 4096 ≤ f.credits ∧ s.ecc.poison = [] ∧ s.ecc.latent = [] ∧ f.walk.done = false ∧ endpoint s 0xFFF 0 64 false = .ok := by decide

-- JobsEndQuenchAndAdvance
theorem witness_deadline : let s : State := { dsp := { jobs := [(4, smallJob)] }, eft := { tick := 4000 } }
    domainsUp s = true ∧ tget s.dsp.jobs 4 = some smallJob ∧ smallJob.quench = none ∧ smallJob.stream = none ∧
    smallJob.stamp + smallJob.deadline ≤ s.eft.tick := by decide
theorem witness_quench :
    let q : Quench := { status := 0x0201, detail := 0, start := 0, units := [0x1000, 0x3001], remote := [], frameOnly := false }
    let x : Job := { smallJob with quench := some q }
    let s : State := { dsp := { jobs := [(4, x)] }, eft := { tick := 4000 } }
    domainsUp s = true ∧ tget s.dsp.jobs 4 = some x ∧ 0x1000 ∈ q.units ∧ q.units.filter (· != 0x1000) ≠ [] ∧ s.cores.all (fun p => p.2.gather.isNone) = true ∧ smallJob.quench = none ∧
    (2 : BitVec 16) ≠ smallJob.gen ∧ s.dsp.parts = [] ∧ x.stream = none ∧ x.superseded = false ∧
    s.eft.tick ≥ q.start + quenchBound x ∧ (ring s x.ring).destroying = false := by decide
theorem witness_completion :
    let x : Job := { smallJob with ended := [0] }
    let s : State := { store := { images := [(0x1005, smallEntry)] }, dsp := { jobs := [(4, x)] } }
    domainsUp s = true ∧ tget s.dsp.jobs 4 = some x ∧ jobEnded s 4 x = true ∧ x.stream = none := by decide
theorem witness_frame :
    let st : Stream := { queue1 := false, period := 10, frames := 0, nbuf := 1, admitted := 0 }
    let x : Job := { smallJob with stream := some st }
    let s : State := { dsp := { jobs := [(4, x)] }, rings := [(3, { configured := true })] }
    domainsUp s = true ∧ tget s.dsp.jobs 4 = some x ∧ st.ending = false ∧ x.quench = none ∧
    st.admitted + st.released * st.period ≤ s.eft.tick ∧ slotFree (ring s x.ring) = true ∧ x.frame = none := by decide
theorem witness_round :
    let x : Job := { smallJob with ended := [0] }
    let p : PlanDesc := { stages := [{ cores := 1, remote := none }], rounds := [[0], [0]], layerOwners := [], inSize := 64, outSize := 64,
                          scratch := [] }
    let s : State := { store := { images := [(0x1005, { smallEntry with desc := { smallImage with plans := [p] } })] },
                       dsp := { jobs := [(4, x)] } }
    domainsUp s = true ∧ tget s.dsp.jobs 4 = some x ∧ x.group = [] ∧ x.round + 1 < roundsOf s 4 ∧
    x.chain.all (fun p => x.ended.contains p.2) = true := by decide

-- RegisterRowsWriteTheirResult
/-- A Machine.core whose program is one word, with this sequencer. -/
def coreAt (i : Instr) (q : Seq) : State :=
  { cores := [(3, { imem := [(0, BitVec.ofNat 32 (seqEncode i))], codeLen := 4, seq := { q with run := .run } })] }
theorem witness_fetch_register :
    ∀ i ∈ ([.add 3 7 6 3, .sub 3 7 6 3, .and 3 7 6 3, .or 3 7 6 3, .xor 3 7 6 3, .sll 3 7 6 3, .srl 3 7 6 3, .sra 3 7 6 3,
      .slt 3 7 6 3, .sltu 3 7 6 3, .min 3 7 6 3, .max 3 7 6 3, .minu 3 7 6 3, .maxu 3 7 6 3, .mul 3 7 6 3, .mulh 3 7 6 3,
      .mulhu 3 7 6 3, .div 3 7 6 3, .divu 3 7 6 3, .rem 3 7 6 3, .remu 3 7 6 3] : List Instr), Fetches (coreAt i {}) 3 i := by decide

-- ImmediateRowsWriteTheirResult
theorem witness_fetch_immediate :
    ∀ i ∈ ([.addi 3 7 6 0x4000, .andi 3 7 6 1, .ori 3 7 6 1, .xori 3 7 6 1, .slli 3 7 6 63, .srli 3 7 6 1, .srai 3 7 6 1,
      .slti 3 7 6 0x7FFF, .sltiu 3 7 6 1, .lui 3 7 0x80000, .auipc 3 7 1] : List Instr), Fetches (coreAt i {}) 3 i := by decide

-- LoadsIssueAndReturn
/-- Addresses of tier B and of core 3's scratchpad window 0 in g6. -/
def tierBWord : Word := 0x4000010000000040
def loadAt (i : Instr) (sb : List StEnt) : State := coreAt i { g := [(6, tierBWord)], sb := sb }
theorem witness_load_issue :
    ∀ i ∈ ([(.ld1 3 7 6 0, 1), (.ld2 3 7 6 0, 2), (.ld4 3 7 6 0, 4), (.ld8 3 7 6 0, 8), (.ld1u 3 7 6 0, 1), (.ld2u 3 7 6 0, 2),
      (.ld4u 3 7 6 0, 4), (.ldres 3 7 6 0, 8)] : List (Instr × Nat)),
      Fetches (loadAt i.1 []) 3 i.1 ∧ tierBWord.toNat % i.2 = 0 ∧ target (loadAt i.1 []) 3 tierBWord i.2 false = .mem 0x10000000040 ∧
      endpoint (loadAt i.1 []) (agTcid (loadAt i.1 []) 3) 0x10000000040 i.2 false = .ok ∧ (seqOf (loadAt i.1 []) 3).cb = [] := by decide
theorem witness_load_forward :
    forward [{ ea := tierBWord, addr := 0x10000000040, data := [1, 2, 3, 4, 5, 6, 7, 0x88] }] 0x10000000047 1 = some [0x88] := by decide
theorem witness_load_control : target (coreAt (.ld8 3 7 6 0) {}) 3 0x40000F1000030920 8 false = .ctl 0xF1000030920 := by decide
theorem witness_load_return :
    let l : Load := { ea := tierBWord, addr := 0x10000000040, size := 8, signed := false, gd := 7, reserve := true }
    let s : State := { cores := [(3, { seq := { run := .load l } })] }
    (seqOf s 3).run = .load l ∧ agRuns s 3 = true ∧ loadMayGo s 3 l = true ∧
    (inTierA l.addr || inTierB l.addr || inSp l.addr) = true ∧ poisonedIn s l.addr l.size = [] ∧ s.ecc.latent = [] := by decide
theorem witness_walk_next :
    let l : Load := { ea := 0x40000F1000030920, addr := 0xF1000030920, size := 8, signed := false, gd := 7, reserve := false }
    let x : Walk := { w := { w0 := 0x1000100010002, w1 := 0xE4, w2 := 0, w3 := 0 } }
    let s : State := { cores := [(3, { seq := { run := .load l }, walks := [(0, x)] })] }
    (seqOf s 3).run = .load l ∧ agRuns s 3 = true ∧ loadMayGo s 3 l = true ∧ ctlBase 3 ≤ l.addr ∧ l.addr < ctlBase 3 + 0x10000 ∧
    l.addr % 0x10000 = 0x900 + 0x40 * 0 + 0x20 ∧ walkOk x.w (Machine.core s 3).ext = true := by decide

-- StoresAreBufferedAndPerformed
theorem witness_store_issue :
    ∀ i ∈ ([(.st1 3 7 6 0, 1), (.st2 3 7 6 0, 2), (.st4 3 7 6 0, 4), (.st8 3 7 6 0, 8), (.stnt 3 7 6 0, 8)] : List (Instr × Nat)),
      Fetches (loadAt i.1 []) 3 i.1 ∧ target (loadAt i.1 []) 3 tierBWord i.2 true = .mem 0x10000000040 ∧
      (seqOf (loadAt i.1 []) 3).sb.length < 16 ∧ (loadAt i.1 []).ecc.poison = [] ∧ Memory.wf (loadAt i.1 []).mem = true ∧
      inSp 0x10000000040 = false ∧ (seqOf (loadAt i.1 []) 3).cb = [] := by decide
theorem witness_store_control :
    let s : State := coreAt (.stnt 3 7 6 0) { g := [(6, 0x40000F1000030B00)] }
    Fetches s 3 (.stnt 3 7 6 0) ∧ target s 3 0x40000F1000030B00 8 true = .ctl 0xF1000030B00 ∧ s.ecc.poison = [] ∧
    (seqOf s 3).sb.length < 16 := by decide
theorem witness_store_performed :
    let e : StEnt := { ea := tierBWord, addr := 0x10000000040, data := [1, 2] }
    let s : State := { cores := [(3, { seq := { run := .run, sb := [e] } })] }
    agRuns s 3 = true ∧ (seqOf s 3).run = .run ∧ (seqOf s 3).sb = [e] ∧ heldOff s 3 e.addr 2 = false ∧
    endpoint s (agTcid s 3) e.addr 2 true = .ok ∧ s.ecc.poison = [] ∧ (inTierA e.addr || inTierB e.addr) = true := by decide
theorem witness_line_flush :
    let l : Line := { addr := 0x10000000040, mask := 1, data := List.replicate 64 9 }
    let g : Line := { addr := 0x80001800040, mask := 1, data := List.replicate 64 9 }
    let s : State := { cores := [(3, { gb := [g], seq := { run := .run, cb := [l] } })] }
    agRuns s 3 = true ∧ domainsUp s = true ∧ (seqOf s 3).run = .run ∧ (seqOf s 3).cb = [l] ∧ (Machine.core s 3).gb = [g] ∧ l.data.length = 64 ∧
    g.data.length = 64 ∧ l.addr % 64 = 0 ∧ g.addr % 64 = 0 ∧ endpoint s (agTcid s 3) l.addr 64 true = .ok ∧ heldOff s 3 l.addr 64 = false ∧
    s.ecc.poison = [] := by decide
theorem witness_stcond :
    let s : State := coreAt (.stcond 3 7 6 5) { g := [(6, tierBWord)], res := some (0x10000000040 / 64), hold := true }
    Fetches s 3 (.stcond 3 7 6 5) ∧ tierBWord.toNat % 8 = 0 ∧ target s 3 tierBWord 8 true = .mem 0x10000000040 ∧
    endpoint s (agTcid s 3) 0x10000000040 8 true = .ok ∧ (seqOf s 3).sb = [] ∧ (seqOf s 3).res = some (0x10000000040 / 64) ∧ heldOff s 3 0x10000000040 8 = false ∧
    (Machine.core s (spCore 0x80001800040)).gb = [] ∧ rowFree (Machine.core s 3) 0x80001800040 true = true ∧
    s.host.parked = [] ∧ s.fab.reorder = [] ∧ ∀ p ∈ s.cores, p.2.gather = none := by decide
theorem witness_walk_restart :
    let e : StEnt := { ea := 0, addr := ctlBase 3 + 0x900 + 0x28, data := [0, 0, 0, 0, 0, 0, 0, 0] }
    let s : State := { cores := [(3, { seq := { run := .run, sb := [e] } })] }
    agRuns s 3 = true ∧ (seqOf s 3).run = .run ∧ (seqOf s 3).sb = [e] ∧ isEarly (seqOf s 3) e.addr = false := by decide
theorem witness_release :
    let e : StEnt := { ea := 0, addr := ctlBase 3 + 0xB00, data := [2, 0, 0, 0, 0, 0, 0, 0] }
    let x : Circ := { base := 0, size := 4, tail := 4096, toks := [{ tag := 1, units := 1 }] }
    let s : State := { cores := [(3, { work := some 4, circ := [(2, x)], seq := { run := .run, sb := [e] } })] }
    agRuns s 3 = true ∧ (seqOf s 3).sb = [e] ∧ isEarly (seqOf s 3) e.addr = false ∧ ofLeBytes e.data % 16 = 2 ∧
    (circ s 3 2).toks = [{ tag := 1, units := 1 }] ∧ (Machine.core s 3).work = some 4 ∧ (circ s 3 2).source < 0x5000 := by decide

-- BranchesTrapsAndInterrupts
theorem witness_fetch_branch :
    ∀ i ∈ ([.br 3 0 6 7 0, .br 3 1 6 7 0, .br 3 2 6 7 0, .br 3 3 6 7 0, .br 3 4 6 7 0, .br 3 5 6 7 0xFFF, .jal 3 7 0, .jalr 3 7 6 0,
      .eret 3, .brk 3, .wait 3] : List Instr), Fetches (coreAt i {}) 3 i ∧ (seqOf (coreAt i {}) 3).pc.toNat < (Machine.core (coreAt i {}) 3).codeLen ∧
      (seqOf (coreAt i {}) 3).tvec.toNat < (Machine.core (coreAt i {}) 3).codeLen ∧ (Machine.core (coreAt i {}) 3).gb = [] ∧
      (seqOf (coreAt i {}) 3).intrap = false := by decide
theorem witness_eret : Fetches (coreAt (.eret 3) { intrap := true }) 3 (.eret 3) ∧ (seqOf (coreAt (.eret 3) { intrap := true }) 3).intrap = true := by
  decide
theorem witness_timer : let s : State := { cores := [(3, { seq := { run := .run, timer := 1 } }), (4, { seq := { run := .wait, timer := 1 } })] }
    agRuns s 3 = true ∧ (seqOf s 3).timer ≠ 0 ∧ (seqOf s 3).run = .run ∧ (seqOf s 4).run = .wait ∧ (seqOf s 4).timer ≠ 0 := by decide
theorem witness_interrupt :
    let s : State := { cores := [(3, { codeLen := 4, seq := { run := .run, ie := true, ip := 3, imask := 3 } }),
                                 (4, { codeLen := 4, seq := { run := .run, ie := true, ip := 2, imask := 3, res := some 1, since := 16 } })] }
    agRuns s 3 = true ∧ (seqOf s 3).ip.getLsbD 0 = true ∧ (seqOf s 3).imask.getLsbD 0 = true ∧ (seqOf s 3).res = none ∧ (seqOf s 3).begun = false ∧ (seqOf s 3).defer = 0 ∧
    (seqOf s 4).begun = false ∧ (seqOf s 4).defer = 0 ∧
    (seqOf s 4).ip.getLsbD 0 = false ∧ (seqOf s 4).ip.getLsbD 1 = true ∧ (seqOf s 4).imask.getLsbD 1 = true ∧ 16 ≤ (seqOf s 4).since := by
  decide

-- BarriersAndTileIssue
theorem witness_sync :
    let e : StEnt := { ea := 0, addr := 0x10000000040, data := [0] }
    Fetches (coreAt (.sync 3) {}) 3 (.sync 3) ∧ Fetches (coreAt (.sync 3) { sb := [e] }) 3 (.sync 3) ∧
    (seqOf (coreAt (.sync 3) {}) 3).cb = [] ∧ (Machine.core (coreAt (.sync 3) {}) 3).gb = [] ∧ (seqOf (coreAt (.sync 3) {}) 3).sb = [] ∧
    (seqOf (coreAt (.sync 3) {}) 3).early = [] ∧ anyBarrier (Machine.core (coreAt (.sync 3) {}) 3) = false ∧
    (seqOf (coreAt (.sync 3) { sb := [e] }) 3).sb ≠ [] := by decide
theorem witness_qsync : Fetches (coreAt (.qsync 3) {}) 3 (.qsync 3) ∧ (Machine.core (coreAt (.qsync 3) {}) 3).queues = [] := by decide
/-- The tile instruction of Table 11-12 in g5 and g6. -/
def tissState : State := coreAt (.tiss 3 5 6) { g := [(5, 0xC00806800200_8C11), (6, 0x0050000081A01C01)] }
theorem witness_tiss : Fetches tissState 3 (.tiss 3 5 6) ∧
    tileOk (Machine.core tissState 3) (0xC00806800200_8C11 + 0x0050000081A01C01 * 2 ^ 64) = true ∧ (Machine.core tissState 3).queues = [] := by decide
/-- A Machine.core at END with a job of one round. -/
def endState (sb : List StEnt) : State :=
  { store := { images := [(0x1005, smallEntry)] }, dsp := { jobs := [(4, smallJob)] },
    cores := [(3, { imem := [(0, 0x38)], codeLen := 4, work := some 4, seq := { run := .run, sb := sb } })] }
theorem witness_end :
    Fetches (endState []) 3 (.endSection 3) ∧ Fetches (endState [{ ea := 0, addr := 0x10000000040, data := [0] }]) 3 (.endSection 3) ∧
    (Machine.core (endState []) 3).work = some 4 ∧ tget (endState []).dsp.jobs 4 = some smallJob ∧ smallJob.group = [] ∧
    roundsOf (endState []) 4 ≤ smallJob.round + 1 ∧ (Machine.core (endState []) 3).circ = [] ∧ (Machine.core (endState []) 3).queues = [] ∧ noHold (endState []) = true := by decide
theorem witness_sync_watchdog :
    let s : State := { swi := { run := .sync }, boot := { runFrom := .slotA }, dsp := { jobs := [(4, smallJob)] },
                       cores := [(3, { work := some 4, seq := { run := .sync } })] }
    agRuns s 3 = true ∧ (seqOf s 3).run = .sync ∧ agRuns s 64 = true ∧ (seqOf s 64).run = .sync ∧ (Machine.core s 3).work = some 4 ∧
    tget s.dsp.jobs 4 = some smallJob ∧ smallJob.quench = none := by decide

-- ControlRegistersReadAndWrite
theorem witness_control_registers :
    ∀ n ∈ ([0x000, 0x001, 0x006, 0x007, 0x008, 0x009, 0x010, 0x020, 0x027, 0x030, 0x043, 0x080, 0x09F, 0x0C0, 0x0CF] : List (BitVec 12)),
      Fetches (coreAt (.crr 3 7 n) {}) 3 (.crr 3 7 n) ∧ Fetches (coreAt (.crw 3 7 n) {}) 3 (.crw 3 7 n) := by decide
theorem witness_swifort_registers :
    let s : State := { boot := { runFrom := .slotA }, swi := { run := .run } }
    Fetches s 64 (.crr 64 7 0x010) ∧ Fetches s 64 (.pcrr 64 7 0x0C0) ∧ Fetches s 64 (.pcrw 64 7 0x0C1) ∧ Fetches s 64 (.pcrr 64 7 0x0D0) ∧
    Fetches s 64 (.pcrw 64 7 0xFFF) := by decide

-- FatalTrapsEndTheWork
/-- A Machine.core that runs a job at this instruction. -/
def trapState (i : Instr) (q : Seq) : State :=
  { dsp := { jobs := [(4, { smallJob with chain := [(0, 3)] })] },
    cores := [(3, { imem := [(0, BitVec.ofNat 32 (seqEncode i))], codeLen := 4, work := some 4, seq := { q with run := .run } })] }
theorem witness_trap :
    ∀ p ∈ ([(.ld4 3 7 6 0, { g := [(6, 1)] }), (.st8 3 7 6 0, { g := [(6, 4)] }), (.ld8 3 7 6 0, { g := [(6, 0x8000000000000000)] }),
      (.tiss 3 5 6, {}), (.eret 3, {}), (.brk 3, { intrap := true }), (.crw 3 7 0x010, {})] : List (Instr × Seq)),
      Fetches (trapState p.1 p.2) 3 p.1 ∧ (Machine.core (trapState p.1 p.2) 3).work = some 4 ∧
      tget (trapState p.1 p.2).dsp.jobs 4 = some { smallJob with chain := [(0, 3)] } ∧ noHold (trapState p.1 p.2) = true := by decide
theorem witness_trap_fields : tileOk (Machine.core (trapState (.tiss 3 5 6) {}) 3) 0 = false ∧ (2 : Nat) ^ 63 ≤ (0x8000000000000000 : Word).toNat ∧
    (1 : Nat) % 4 ≠ 0 ∧ (4 : Nat) % 8 ≠ 0 ∧ ¬ (0x010 : BitVec 12).toNat ∈ [0, 1, 6, 7, 8, 9] := by decide
theorem witness_illegal_word :
    let s : State := { trapState (.sync 3) {} with cores := [(3, { work := some 4, seq := { run := .run } })] }
    agRuns s 3 = true ∧ seqDecode 3 (fetchWord (Machine.core s 3) (Machine.core s 3).seq.pc) = none ∧ intDue (Machine.core s 3).seq = false := by decide

-- PassesStreamCheckAndCommit
/-- Core 3 with work 4, its four banks owned by tenant 5, one window, and this head of an engine queue. -/
def engineState (e inst : Nat) : State :=
  { store := { banks := (List.range 8).map (fun b => (96 + b, { owner := 5, power := .on })) }, dsp := { jobs := [(4, smallJob)] },
    cores := [(3, { work := some 4, spwin := [(0, 0x20000 + 0x8000 * 2 ^ 32)], queues := [(e, [{ inst := inst, bar := false, ord := 9 }])],
                    seq := { run := .run } })] }
abbrev headOf (inst : Nat) : QEnt := { inst := inst, bar := false, ord := 9 }
/-- INT8 by INT8, one row, one column, one product, SQUARE. -/
def mmaInst : Nat := 0x11 + 1 * 2 ^ 36 + 1 * 2 ^ 44 + 1 * 2 ^ 55 + 1 * 2 ^ 83 + 0x40 * 2 ^ 96 + 1 * 2 ^ 113
theorem witness_mma : let s := engineState 1 mmaInst
    domainsUp s = true ∧ issues (Machine.core s 3) 1 [1] (mmaRanges (Machine.core s 3)) = some (headOf mmaInst) ∧ (Machine.core s 3).work = some 4 ∧
    (Machine.core s 3).seq.run ≠ .ending ∧ (∀ d ∈ [(3 : Nat)], (Machine.core s d).gb = []) ∧ s.ecc.poison = [] ∧ s.ecc.latent = [] ∧ noHold s = true ∧ Canonical s ∧
    mmaOk mmaInst = true ∧ (Machine.core s 3).passes.length < 8 ∧ mmaInvalid (Machine.core s 3) mmaInst = false := by decide
theorem witness_mma_operands : let s := engineState 1 mmaInst
    endpoint s (workTcid s 4) (spBase 3) 1 false = .ok ∧ endpoint s (workTcid s 4) (spBase 3 + 0x1000) 1 false = .ok ∧
    (winOff (Machine.core s 3) 0 0 1 false).isSome = true ∧ (winOff (Machine.core s 3) 0 0x1000 1 false).isSome = true := by decide
/-- An uncommitted pass. -/
def smallPass (cmp : List CmpFail) (retried : Bool) : Pass :=
  { inst := mmaInst, ord := 9, num := 0, prod := [(0, 7)], rows := [{ row := 0, sat := false, nan := false, owner := 5 }], cmp := cmp,
    skipped := 0, p := 1, pRetry := 1, retried := retried, works := [4] }
theorem witness_pass_check : ∀ p ∈ [smallPass [] false, smallPass [.row 0] false, smallPass [.row 0] true],
    let s : State := { cores := [(3, { work := some 4, passes := [p], seq := { run := .run } })] }
    domainsUp s = true ∧ (Machine.core s 3).seq.run ≠ .ending ∧ (Machine.core s 3).passes = [p] ∧ mmaOk p.inst = true ∧
    (unitRec s (coreUnit 3)).health = .good ∧ p.rows.any (fun r => r.row == 0) = true ∧ mMv p.inst = 1 := by decide
/-- PRELOAD of one INT32 element. -/
def preloadInst : Nat := 0x21 + 6 * 2 ^ 28 + 1 * 2 ^ 36 + 1 * 2 ^ 44 + 1 * 2 ^ 83
theorem witness_preload : let s := engineState 1 preloadInst
    issues (Machine.core s 3) 1 [2] (preloadRanges (Machine.core s 3)) = some (headOf preloadInst) ∧ preloadOk preloadInst = true ∧
    (Machine.core s 3).passes = [] ∧ endpoint s (workTcid s 4) (spBase 3) 4 false = .ok ∧ (winOff (Machine.core s 3) 0 0 4 false).isSome = true := by decide

-- DrainsWriteSendAndCount
/-- DRAIN of one INT32 element of set 0: OP 0x01 into window 0, OP 0x02 and OP 0x03 to position 1. -/
def drainInst (op : Nat) : Nat :=
  2 + op * 16 + 6 * 2 ^ 28 + 1 * 2 ^ 36 + 1 * 2 ^ 44 + (if op = 1 then 1 * 2 ^ 83 else 1 * 2 ^ 94 + 2 * 2 ^ 100)
def drainState (op : Nat) : State :=
  let s := engineState 2 (drainInst op)
  setCore s 3
    { Machine.core s 3 with
        acc := [(0, { tag := some (false, 0), rows := [(0, { clear := false, owner := 5 })], words := [(0, 7)] })],
        chnMap := [(1, 0x48)], chnNode := [(1, if op = 3 then 9 else 0)], creds := [{ core := 8, region := 2, n := 4 }] }
theorem witness_drain : ∀ op ∈ [1, 2], let s := drainState op
    issues (Machine.core s 3) 2 [op] (drainRanges (Machine.core s 3)) = some (headOf (drainInst op)) ∧ drainOk (drainInst op) = true ∧
    drainInvalid (Machine.core s 3) (drainInst op) = false ∧ drainReady s 3 (Machine.core s 3) (drainInst op) = true ∧
    drnOps (drainProg (Machine.core s 3) (drainInst op)) = [] ∧ dShadow (drainInst op) = false ∧
    (rowWork s 3 5).isSome = true ∧ EngineMay s 3 4 0 0 4 true := by decide
theorem witness_drain_loads (s : State) : loadOps 3 4 1 1 128 [] s = .ok [] s := rfl
theorem witness_drain_fabric : let s : State := { drainState 3 with fab := { totals := [(totKey 3 9 8 2, (4, 0))] } }
    issues (Machine.core s 3) 2 [3] (drainRanges (Machine.core s 3)) = some (headOf (drainInst 3)) ∧ drainInvalid (Machine.core s 3) (drainInst 3) = false ∧
    drainReady s 3 (Machine.core s 3) (drainInst 3) = true ∧ s.pwr.power = .active := by decide

-- ElementwiseVectorRows
/-- A VECTOR instruction of one INT32 row and column: X at 0, Y at 0x40, D at 0x80 of window 0. -/
def vecInst (op : Nat) : Nat :=
  3 + op * 16 + (if op = 9 then 0 else 6 * 2 ^ 18) + (if op = 8 ∨ op = 9 then 0 else 6 * 2 ^ 22) + (if op = 0x0A then 2 ^ 26 else 0) + 1 * 2 ^ 36
    + (if op = 7 ∨ op = 9 then 0 else 1 * 2 ^ 85) + (if op = 8 ∨ op = 9 then 0 else 2 * 2 ^ 104)
theorem witness_vector : ∀ op ∈ [1, 2, 3, 5, 6, 7, 8, 9, 0x0A], let s := engineState 3 (vecInst op)
    issues (Machine.core s 3) 3 [op] (vecRanges (Machine.core s 3)) = some (headOf (vecInst op)) ∧ vectorOk (vecInst op) = true ∧
    xaccInvalid (Machine.core s 3) (vecInst op) = false ∧ EngineMay s 3 4 0 0 4 false ∧ EngineMay s 3 4 0 0x40 4 false ∧
    EngineMay s 3 4 0 0 1 false ∧ vRows (vecInst op) = 1 ∧ vCols (vecInst op) = 1 := by decide
theorem witness_vector_destination : ∀ o ∈ [0, 1, 2, 3], ∀ n ∈ [1, 2, 3, 4], o + n ≤ 4 →
    EngineMay (engineState 3 (vecInst 1)) 3 4 0 (0x80 + o) n true := by decide

-- ReductionsTopKAndAdds
/-- A reduction (or TOPK of one, COMBINE of one, AADD of one) of one INT32 element. -/
def redInst (op : Nat) : Nat :=
  3 + op * 16 + 6 * 2 ^ 18 + (if op = 0x21 then 0 else 6 * 2 ^ 22) + 1 * 2 ^ 36 + (if op = 0x18 then 1 * 2 ^ 85 else 0)
    + (if op = 0x21 then 0 else 2 * 2 ^ 104)
theorem witness_reduction : ∀ op ∈ [0x10, 0x11, 0x12, 0x18, 0x20, 0x21], let s := engineState 3 (redInst op)
    issues (Machine.core s 3) 3 [op] (vecRanges (Machine.core s 3)) = some (headOf (redInst op)) ∧ vectorOk (redInst op) = true ∧
    xaccInvalid (Machine.core s 3) (redInst op) = false ∧ EngineMay s 3 4 0 0 4 false ∧ EngineMay s 3 4 0 0x40 4 true ∧
    EngineMay s 3 4 0 0x80 4 true ∧ vRows (redInst op) = 1 ∧ vCols (redInst op) = 1 ∧ topK (redInst op) = 1 := by decide
theorem witness_aadd : ∀ node ∈ [0, 9], let s := engineState 3 (redInst 0x21)
    let t := setCore s 3 { Machine.core s 3 with atgt := [(0, 0x10000000000 + node * 2 ^ 44 + 1 * 2 ^ 56)] }
    aaddInvalid (Machine.core t 3) (redInst 0x21) = false ∧ aaddReady t (Machine.core t 3) (redInst 0x21) = true ∧
    bits (atgtOf (Machine.core t 3) (redInst 0x21)) 44 12 = node := by decide
theorem witness_atomic_add :
    let a : Add := { core := 3, ord := 9, addr := 0x10000000040, typ := 1, val := 5, work := 4, gen := 1, tcid := 0 }
    let s : State := { dsp := { jobs := [(4, smallJob)] }, net := { adds := [a] } }
    domainsUp s = true ∧ s.net.adds[0]? = some a ∧ workLive s 4 = true ∧ workGen s 4 = a.gen ∧ endpoint s 0 a.addr 4 true = .ok ∧
    s.ecc.poison = [] ∧ s.ecc.latent = [] ∧ noHold s = true ∧ Canonical s ∧ (Machine.core s 3).seq.run ≠ .ending := by decide

-- MergesFormAndCommitQuanta
/-- SDMM, DSMM and SSMM of one row and column, INT8 by INT8. -/
def mergeInst (op : Nat) : Nat :=
  4 + op * 16 + (if op = 2 then 0 else 2 ^ 21) + (if op = 1 then 0 else 2 ^ 22) + 1 * 2 ^ 32 + 1 * 2 ^ 40 + 1 * 2 ^ 83 + 1 * 2 ^ 113
/-- An FB operand of one fibre with no nonzero: NFIB 1, QVALID, pointers at 0x40. -/
def emptyFibre (major : Nat) : Memory := [(spBase 3, 1), (spBase 3 + 6, BitVec.ofNat 8 (1 + 2 * major)), (spBase 3 + 16, 1)]
theorem witness_merge_issue : ∀ op ∈ [1, 2, 3], let s := engineState 4 (mergeInst op)
    domainsUp s = true ∧ issues (Machine.core s 3) 4 [op] (mergeRanges (Machine.core s 3)) = some (headOf (mergeInst op)) ∧ (Machine.core s 3).work = some 4 ∧
    (Machine.core s 3).merge = none ∧ mergeOk (mergeInst op) = true ∧ gAccum (mergeInst op) = false ∧ iOp (mergeInst op) = op := by decide
def formedQuanta : Formed → Option (Nat × List Nat)
  | .ok qs rows _ => some (qs.length, rows)
  | _ => none
theorem witness_merge_forms : let s := { engineState 4 (mergeInst 1) with mem := emptyFibre 0 }
    let s0 := setCore (Taken s 3 4) 3 (takeRanges (Machine.core (Taken s 3 4) 3) 4 9 (mergeRanges (Machine.core (Taken s 3 4) 3) (mergeInst 1)))
    formedQuanta (formMerge 3 4 (mergeInst 1) s0) = some (0, [0]) := by decide
/-- A quantum of one element. -/
def smallQuant (retried : Bool) : Quant :=
  { num := 0, prod := [(0, 7)], rows := [{ row := 0, sat := false, nan := false, owner := 5 }], nnzA := 1, nnzB := 0, beats := 1, steps := 0,
    matches_ := 0, cycles := 1, retried := retried, works := [4], bad := false, entry := 0 }
theorem witness_quantum : ∀ r ∈ [true, false],
    let m : MergeRun := { inst := mergeInst 1, ord := 9, quanta := [smallQuant r], seen := [], cycles := 5 }
    let s : State := { cores := [(3, { work := some 4, seq := { run := .run }, merge := some m })] }
    domainsUp s = true ∧ ((Machine.core s 3).merge.map (·.quanta)) = some [smallQuant r] ∧ (Machine.core s 3).seq.run ≠ .ending ∧
    (unitRec s (coreUnit 3)).health = .good := by decide
/-- QUANTA over an operand of one fibre of one nonzero, its table at 0x80. -/
def quantaInst : Nat := 6 + 1 * 16 + 1 * 2 ^ 83
theorem witness_quanta :
    let s := { engineState 6 quantaInst with mem := ([(spBase 3, 1), (spBase 3 + 8, 1), (spBase 3 + 16, 1), (spBase 3 + 22, 2), (spBase 3 + 68, 1)] : Memory) }
    let h := fbHdr (mread s.mem (spBase 3) 64)
    issues (Machine.core s 3) 6 [1] (quantaRanges (Machine.core s 3)) = some (headOf quantaInst) ∧ winWr (Machine.core s 3) (f1Win quantaInst) = true ∧
    h.inLimits = true ∧ h.ptrOff = 64 ∧ h.qtOff = 128 ∧ h.nnz = 1 ∧ ptrsOk h [0, 1] = true ∧
    EngineMay s 3 4 0 0 64 false ∧ EngineMay s 3 4 0 64 8 false ∧ EngineMay s 3 4 0 128 4 true ∧ EngineMay s 3 4 0 0 8 true := by decide

-- GathersLookUpPoolAndWrite
/-- Table 0 of 8 rows of one FP32 element in tier A, and a GATHER or FREQ over it: list at 0, result at 0x200. -/
def tableState (e inst : Nat) (cells : Memory) : State :=
  let s := engineState e inst
  setCore { s with mem := cells } 3 { Machine.core s 3 with tbl := [(0, [0x10000000000 + 5 * 2 ^ 46 + 2 ^ 57, 8, 0, 0, 0, 0])] }
def gatherInst : Nat := 5 + 1 * 16 + 5 * 2 ^ 25 + 1 * 2 ^ 83 + 8 * 2 ^ 96 + 1 * 2 ^ 113
/-- One bag of one entry, row 2. -/
def oneEntry : Memory := [(spBase 3, 1), (spBase 3 + 4, 1), (spBase 3 + 8, 2), (spBase 3 + 68, 1), (spBase 3 + 128, 2)]
def readEntries : BagRead → Option (List (Nat × Nat))
  | .ok _ _ es _ => some es
  | _ => none
theorem witness_gather : let s := tableState 5 gatherInst oneEntry
    issues (Machine.core s 3) 5 [1] (gatherRanges (Machine.core s 3)) = some (headOf gatherInst) ∧ gatherOk (Machine.core s 3) gatherInst = true ∧
    (Machine.core s 3).gather = none ∧ hPool gatherInst = 0 ∧ gthWen (Machine.core s 3) = false ∧ etPlace (Machine.core s 3) 0 = 0 ∧ etCompose (Machine.core s 3) 0 = 0 ∧
    etRows (Machine.core s 3) 0 = 8 ∧ etDim (Machine.core s 3) 0 = 1 := by decide
theorem witness_gather_list : let s := tableState 5 gatherInst oneEntry
    let s0 := setCore (Taken s 3 5) 3 (takeRanges (Machine.core (Taken s 3 5) 3) 5 9 (gatherRanges (Machine.core (Taken s 3 5) 3) gatherInst))
    readEntries (readBags 3 4 0 0 1 false false s0) = some [(2, 0)] := by decide
/-- The GATHER above with its row on the way, and one with another row on the way. -/
def arrivalState (more : List GSlot) : State :=
  let s := tableState 5 gatherInst []
  let sl : GSlot := { table := 0, row := 2, addr := 0x10000000080, len := 64, remote := false, txid := 0 }
  let g : GatherRun := { inst := gatherInst, ord := 9, nidx := 1, nbags := 1, ptrs := [0, 1], todo := [],
                         resolved := [(0, 0, .rows 2 none)], slots := sl :: more, got := [], subs := [], subTodo := some [] }
  setCore { s with store.regions := [(5, admitRegion 0x10000000000)] } 3 { Machine.core s 3 with gather := some g }
theorem witness_gather_row_arrival : ∀ more ∈ [[], [{ table := 0, row := 3, addr := 0x100000000C0, len := 64, remote := false, txid := 0 }]],
    let s := arrivalState more
    domainsUp s = true ∧ (Machine.core s 3).work = some 4 ∧ ((Machine.core s 3).gather.map (·.slots.length)) = some (1 + more.length) ∧
    (Machine.core s 3).seq.run ≠ .ending ∧ s.ecc.poison = [] ∧ s.ecc.latent = [] ∧ noHold s = true ∧ Canonical s ∧
    endpoint s (workTcid s 4) 0x10000000080 64 false = .ok ∧
    EngineMay s 3 4 0 0x200 4 true := by decide
def freqInst : Nat := 6 + 2 * 16 + 1 * 2 ^ 83 + 8 * 2 ^ 96
theorem witness_freq : let s := tableState 6 freqInst oneEntry
    issues (Machine.core s 3) 6 [2] (freqRanges (Machine.core s 3)) = some (headOf freqInst) ∧ censusOk (Machine.core s 3) freqInst = true ∧
    hJobsum freqInst = false ∧ EngineMay s 3 4 0 0x200 2048 true ∧
    readEntries (readBags 3 4 0 0 1 false false (Taken s 3 6)) = some [(2, 0)] := by decide

-- TokensMoveUnderCredits
/-- ROUTE of region 2's oldest token by word 0 against 7, side 0 to position 1 and side 1 to position 2. -/
def routeInst (release : Bool) : Nat := 7 + 1 * 16 + 2 * 2 ^ 18 + (if release then 2 ^ 22 else 0) + 7 * 2 ^ 64 + 1 * 2 ^ 96 + 2 * 2 ^ 106
theorem witness_route : ∀ r ∈ [true, false], ∀ yes ∈ [true, false],
    let s := engineState 7 (routeInst r)
    let y : Circ := { base := 32, size := 2, source := 0x1003, head := 0, tail := 4096, toks := [{ tag := 0, units := 1 }] }
    let s := setCore { s with mem := if yes then [(spBase 3 + 0x20000, 7)] else [] } 3
      { Machine.core s 3 with circ := [(2, y)], chnMap := [(1, 0x48), (2, 0x49)], creds := [{ core := 8, region := 0, n := 1 }, { core := 9, region := 0, n := 1 }] }
    issues (Machine.core s 3) 7 [1] (fun _ => []) = some (headOf (routeInst r)) ∧ steerReady s 3 (Machine.core s 3) (routeInst r) = true ∧
    (circ s 3 2).toks = [{ tag := 0, units := 1 }] ∧ steerInvalid (Machine.core s 3) (routeInst r) 1 = false ∧ tRelease (routeInst r) = r ∧
    circEndpoint s 3 (circ s 3 2) (workTcid s 4) 0 4096 false = .ok ∧ steerCond (routeInst r) (circRead s 3 (circ s 3 2) 0 4096) = yes := by decide
/-- A token on its way to region 2 of core 3. -/
def tokenOf (gen : BitVec 16) : TokMsg :=
  { writer := 0x1005, core := 5, ord := 1, dcore := 3, dreg := 2, tag := 0, units := 1, data := [7], work := 4, gen := gen, tcid := 5 }
def landState (gen : BitVec 16) : State :=
  let s := engineState 7 0
  let y : Circ := { base := 32, size := 2, source := 0x1005 }
  let j := { smallJob with chain := [(0, 3)] }
  { setCore s 3 { Machine.core s 3 with circ := [(2, y)] } with net := { toks := [tokenOf gen] }, dsp := { jobs := [(4, j)] } }
theorem witness_remote_write :
    domainsUp (landState 1) = true ∧ writerOk (circ (landState 1) 3 2) 0x1005 = true ∧ sameWork (landState 1) 3 4 1 = true ∧
    sameWork (landState 2) 3 4 2 = false ∧ circEndpoint (landState 1) 3 (circ (landState 1) 3 2) 5 0 4096 true = .ok ∧
    (landState 1).ecc.poison = [] ∧ noHold (landState 1) = true ∧ badOwner (landState 1) (tokenOf 1) = none ∧ Canonical (landState 1) ∧ (Machine.core (landState 1) 3).seq.run ≠ .ending ∧ (Machine.core (landState 1) 5).seq.run ≠ .ending := by decide
theorem witness_remote_write_token (gen : BitVec 16) : (landState gen).net.toks[0]? = some (tokenOf gen) := rfl
theorem witness_credit_return : ∀ p ∈ [5, feedProducer],
    let m : CredMsg := { pcore := p, core := 3, region := 2, n := 1, work := 4, gen := 1 }
    let s : State := { net := { creds := [m] } }
    let u : State := { s with dsp := { jobs := [(4, { smallJob with chain := [(0, 3)] })] } }
    domainsUp s = true ∧ s.net.creds[0]? = some m ∧ flightLive s 4 1 = false ∧ domainsUp u = true ∧ flightLive u 4 1 = true ∧
    (Machine.core u p).creds.length < 16 := by decide

-- ScrubRefreshDozeAndFill
theorem witness_core_doze : let s : State := { boot := { fwReady := true } }
    domainsUp s = true ∧ ready s = true ∧ (Machine.core s 3).doze = false ∧ (Machine.core s 3).seq.run = .idle ∧ (Machine.core s 3).seq.timer = 0 ∧ (Machine.core s 3).queues = [] := by decide
theorem witness_sp_scrub : let s := engineState 1 0
    domainsUp s = true ∧ scrubs s (spBank (spBase 3)) = true ∧ (Machine.core s 3).gb = [] ∧ s.ecc.poison = [] ∧ s.ecc.latent = [] ∧
    (∀ j, j < 64 → s.ecc.rewritten.contains (spBase 3 + 8 * j) = false) ∧
    ∀ y ∈ s.store.spCopies, y.core = 3 → spBank (spBase 3) ∈ y.banks → objInUse s y.obj (some 3) = true :=
  ⟨by decide, by decide, by decide, rfl, rfl, fun _ _ => rfl, fun _ h => nomatch h⟩
theorem witness_sp_scrub_doze : let s : State := { eft := { tick := 1500000000 }, cores := [(3, { doze := true })] }
    domainsUp s = true ∧ (Machine.core s 3).doze = true ∧ (Machine.core s 3).scrubbed + 1500000000 ≤ s.eft.tick ∧ s.ecc.poison = [] ∧ s.ecc.latent = [] ∧
    s.ecc.rewritten.contains (spBase 3 + 8) = false ∧
    scrubs { s with store := { banks := [(96, { owner := 5, power := .on })] } } (spBank (spBase 3 + 8)) = true := by decide
theorem witness_tier_scrub : ∀ fill ∈ [true, false], let s : State := { store := { fills := if fill then [{ base := 0, size := 0x10000 }] else [] } }
    domainsUp s = true ∧ inTierA 64 = true ∧ (gtag s 0).fill = fill ∧ s.ecc.rewritten.contains 64 = false ∧ s.store.commons = [] := by decide
theorem witness_tier_fill_done : let s : State := { store := { fills := [{ base := 0, size := 0x10000 }] } }
    domainsUp s = true ∧ Memory.wf s.mem = true ∧ s.store.fills[0]?.isSome = true := by decide

-- OneFreezeCauseIsLatched
/-- An accepted FREEZE with the right CONFIRM, on a tray whose FRZ_N is low. -/
def freezeState (frozen : Bool) (cause : FrzCause) (tick : Nat) : State :=
  on { eft := { frzLow := true, frzLowPrev := true, frozen := frozen, frzCause := cause, tick := tick } } 0x0B01 [0x21, 0x5A, 0x52, 0x46]
theorem witness_freeze :
    let p : List Byte := [0x21, 0x5A, 0x52, 0x46]
    AcceptedChange (freezeState false .none 0) 0 0x0B01 (askedReq 0x0B01 p) ∧ leAt p 0 4 = 0x46525A21 ∧ leAt p 4 4 = 0 ∧
    AcceptedChange { freezeState true .pin 0 with eft.frozen := false } 0 0x0B01 (askedReq 0x0B01 p) := by decide
theorem witness_frozen : ∀ c ∈ [FrzCause.pin, .command, .fatal], ∀ n ∈ [0, 1], let s := freezeState true c n
    s.eft.power = true ∧ s.eft.tripped = false ∧ s.eft.frzStep = 0 ∧ s.eft.frzTick = 0 ∧ s.eft.frzCause = c ∧ s.eft.tick = n := by decide

-- FreezeHoldsStepsAndReadsOut
theorem witness_freeze_step : ∀ n ∈ [0, 1, 7], let s : State := { eft := { frozen := true, frzRunning := 0b111111111, frzStep := n, tick := 46 } }
    s.eft.power = true ∧ s.eft.tripped = false ∧ (skipStopped 11 s).eft.frzStep = n ∧ ∃ a, frzTicks[s.eft.frzStep]? = some a ∧ s.eft.frzTick + a ≤ s.eft.tick :=
  fun n h => by
    simp only [List.mem_cons, List.not_mem_nil, or_false] at h
    rcases h with rfl | rfl | rfl
    · exact ⟨rfl, rfl, rfl, 7, rfl, by decide⟩
    · exact ⟨rfl, rfl, rfl, 40, rfl, by decide⟩
    · exact ⟨rfl, rfl, rfl, 46, rfl, by decide⟩
theorem witness_read_out : ∀ n ∈ [0, 1, 2 * frzTotal], let s : State := { eft := { frozen := true, frzStep := 11, sroPos := n } }
    freezeDone s = true ∧ s.eft.power = true ∧ freezeDone State.reset = false := by decide

-- PortsTrainAndCarryFrames
/-- Port 0 in a state of its own. -/
def portState (x : Port) : State := { boot := { fwReady := true, runFrom := .slotA, todo := [] }, fab := { ports := [(0, x)] } }
theorem witness_module : mayTrain (portState { present := true, fits := true }) 0 = true ∧
    mayTrain (portState { present := true, fits := false }) 0 = true ∧ (port (portState {}) 0).present = false := by decide
theorem witness_training : ∀ n ∈ [1, 2, 3, 4, 5], let s := portState { present := true, fits := true, st := .training n, twoWay := true }
    linkRuns s = true ∧ (port s 0).st = .training n ∧ fabRuns s = true := by decide
theorem witness_training_retry : let s := portState { present := true, fits := true, retry := true }
    linkRuns s = true ∧ (port s 0).st = .down ∧ mayTrain (setPort s 0 { port s 0 with held := false }) 0 = true ∧
    (port (portState { held := true }) 0).present = false := by decide
/-- A frame of one data flit in a codeword of IDLE flits. -/
def oneFrame : Codeword :=
  { flits := BitVec.ofNat 256 (1 + 1 * 64) :: List.replicate 19 0, sbits := 0xFFFFD }
theorem witness_codeword : ∃ f, takeFlits [] oneFrame = ([f], []) ∧ f.flits = 2 :=
  ⟨frameOf (BitVec.ofNat 256 (1 + 1 * 64)) [0], by decide +kernel, rfl⟩
theorem witness_codeword_flits : let h := BitVec.ofNat 256 (1 + 1 * 64)
    flitType h = 1 ∧ flitData h = 1 ∧ oneFrame.sbits.getLsbD 0 = true ∧ oneFrame.flits.getD 0 0 = h ∧ oneFrame.sbits.getLsbD 1 = false ∧
    ∀ j ∈ (List.range 20).drop 2, oneFrame.sbits.getLsbD j = true ∧ flitType (oneFrame.flits.getD j 0) = 0 := by decide
theorem witness_link : ∀ n ∈ [0, 15], ∀ heard ∈ [0, 5],
    let s := portState { present := true, st := .up, resends := n, heard := heard, replay := [{ vc := .mgt, flits := 2, lseq := 7 }, { vc := .mgt, flits := 2, lseq := 8 }] }
    linkOn s 0 = true ∧ fabRuns s = true ∧ linkRuns s = true ∧ (port s 0).st = .up ∧ (port s 0).replay ≠ [] ∧ (port s 0).outq = [] ∧
    s.eft.tick < (port s 0).episode.getD s.eft.tick + 125 := by decide
theorem witness_forward : ∀ e ∈ [0, 9], let s := { portState { present := true, st := .up } with fab.tables := [(0, [(3, e)])] }
    let s := setPort s 1 { present := true, st := .up, outq := [(.mgt, 1), (.req, 2)] }
    linkRuns s = true ∧ routeEntry s 0 3 = e ∧ (entryValid e = true ∧ entryDeliver e = false ∧ (port s (entryOut e)).st = .up ↔ e = 9) := by decide

-- RecordsFloodAndRoutesFollow
/-- Port 0 is UP and one record of another tray is held. -/
def discoveryState (seq : BitVec 32) : State :=
  let r : LsrRec := { uid := 7, seq := seq, node := 3, tentative := true, withdrawn := false, links := [] }
  { portState { present := true, st := .up } with
    eft := { time := 7000000000 }, fab := { ports := [(0, { present := true, st := .up })], lsdb := [(7, { lsr := r, time := 0 })], addr := .tentative,
                                            node := 5, dirty := true, computing := true } }
theorem witness_newer_record : newerSeq 3 2 = true ∧ newerSeq 2 2 = false ∧ newerSeq 1 2 = false := ⟨rfl, rfl, rfl⟩
theorem witness_lsr : let s := discoveryState 2
    fabRuns s = true ∧ linkOn s 0 = true ∧ (tget s.fab.lsdb 7).isSome = true ∧
    s.fab.lsdb.length < 4096 := by decide
theorem witness_lsr_age : let s := discoveryState 2
    (tget s.fab.lsdb 7).map (·.time) = some 0 ∧ 0 + 7000000000 ≤ s.eft.time ∧ s.fab.addr = .tentative ∧ s.fab.dirty = true ∧
    s.fab.hostSet = none ∧ s.fab.computing = true := ⟨rfl, Nat.le_refl _, rfl, rfl, rfl, rfl⟩
theorem witness_full_database (r : LsdbRec) : let s : State := { fab := { lsdb := List.replicate 4096 (7, r) } }
    4096 ≤ s.fab.lsdb.length := Nat.le_of_eq (List.length_replicate).symm

-- RequestsArePerformedInTurn
/-- The header of a request of node 7 in its turn, for job slot 4. -/
def reqHead (gen : BitVec 16) : TxnHdr :=
  { src := 7, attempt := 1, last := true, part := 0, txid := 1, eseq := 0, lowOpen := 0, tcid := 5, slot := 4, gen := gen }
/-- Tenant 5 with a region of tier B, job 4 on core 3, whose region 2 any Machine.core may write. -/
def performerState : State :=
  let j := { smallJob with chain := [(0, 3)], parts := [{ stage := 1, node := 7, q0 := 1, rimage := 9, n := 1, cores := [2], st := .claimed }] }
  { store := { regions := [(0x1005, admitRegion 0x10000000000)], banks := (List.range 8).map (fun b => (96 + b, { owner := 5, power := .on })) },
    dsp := { jobs := [(4, j)] }, cores := [(3, { work := some 4, circ := [(2, { base := 32, size := 2 })] })] }
theorem witness_in_turn : InTurn performerState (reqHead 1) ∧ noHold performerState = true ∧ performerState.ecc.latent = [] := by decide
theorem witness_read : let s := performerState
    (ownedRegion s 5 0x1005).isSome = true ∧ ownedRegion s 5 0x1006 = none ∧ endpoint s 5 0x10000000000 64 false = .ok ∧ s.ecc.poison = [] :=
  by decide
theorem witness_txn_write : ∀ tend ∈ [true, false], let s := performerState
    workOn s (reqHead 1) 3 = some 4 ∧ workOn s (reqHead 2) 3 = none ∧ fabricWriter s 4 3 2 7 2 = true ∧
    circEndpoint s 3 (circ s 3 2) (workTcid s 4) 0 (if tend then 1 * 4096 - 0 else 1) true = .ok ∧ (Machine.core s 3).seq.run ≠ .ending := by decide
theorem witness_txn_aadd : endpoint performerState 5 0x10000000000 4 true = .ok := by decide
theorem witness_txn_claim : chkClaim performerState (reqHead 1) 0x1005 0 1 = .refuse 0x0210 0 := by decide
theorem witness_txn_report : ((tget performerState.dsp.jobs 4).map (fun j => (j.gen, j.parts.map (fun p => (p.node, p.st))))) = some (1, [(7, .claimed)]) := by
  decide
/-- A remote part of job 4 of node 7. -/
def partState : State :=
  let p : RPart := { origin := 7, slot := 4, gen := 1, tcid := 5, image := 0x1005, plan := 0, q0 := 1, cores := [3], exts := [], buckets := [],
                     tag := 0, order := 1, uses := [] }
  { dsp := { parts := [p] } }
theorem witness_txn_release : InTurn partState (reqHead 1) ∧ ((partsFrom partState (reqHead 1)).find? (fun p => p.quench.isNone)).isSome = true ∧ (partsFrom partState (reqHead 1)).length = 1 ∧
    partsFrom State.reset (reqHead 1) = [] ∧
    (partsFrom State.reset (reqHead 1)).find? (fun p => p.quench.isNone) = none := by decide
theorem witness_txn_hotrow : let s : State := { boot := { fwReady := true } }
    InTurn s (reqHead 1) ∧ fwUp s = true ∧ hotTable s (0x1005 % 4096) 0x1005 = none := by decide

-- TransactionsRetryAndComplete
/-- A header of node 7 at this place in its order. -/
def orderedHead (e : BitVec 16) : TxnHdr := { reqHead 1 with eseq := e, lowOpen := 0 }
theorem witness_late_and_early : ∀ dups ∈ [[], [{ src := 7, txid := 1, status := 0, sat := false, nan := false : DupRec }]],
    let s : State := { fab := { expect := [(7, 2)], dups := dups } }
    domainsUp s = true ∧ seqAhead 0 (expected s 7) = false ∧ (1 : BitVec 16) ≠ expected s 7 ∧ seqAhead 1 (expected s 7) = false ∧
    seqAhead 3 (expected s 7) = true := by decide
/-- An open transaction of node 7. -/
def openTxn (op : TxnOp) (work : Option Nat) (n start : Nat) : Txn :=
  { dst := 7, op := op, attempt := n, start := start, eseq := 0, frames := 1, tcid := 5, slot := 4, gen := 1, work := work, core := if work.isSome then 3 else 64,
    ord := 9 }
theorem witness_response : ∀ op ∈ [TxnOp.report 0 false false, .write 0 0 0 true 1 0 [] 0, .claim 0x1005 0 1 1 []],
    let x := openTxn op (some 4) 1 0
    let j := { smallJob with parts := [{ stage := 1, node := 7, q0 := 1, rimage := 9, n := 1, cores := [], st := .claiming }] }
    let s : State := { fab := { txns := [(1, x)] }, dsp := { jobs := [(4, j)] }, cores := [(3, { work := some 4 })] }
    domainsUp s = true ∧ (tget s.fab.txns 1).map (fun x => (x.dst, x.got.length, x.lastPart)) = some (7, 0, none) ∧
    s.cores.all (fun p => p.2.gather.isNone) = true ∧ (Machine.core s 3).seq.run ≠ .ending ∧ flightLive s 4 x.gen = true ∧ txnLive s x = true ∧
    flightLive { s with dsp := {} } 4 x.gen = false := by decide
theorem witness_retry : ∀ n ∈ [1, 3], ∀ w ∈ [none, some 4], let s : State := { fab := { txns := [(1, openTxn (.report 0 false false) w n 0)] }, eft := { tick := 1563 } }
    domainsUp s = true ∧ (tget s.fab.txns 1).map (fun x => (x.start + 1563 ≤ s.eft.tick : Bool)) = some true ∧
    (w = none → (tget s.fab.txns 1).map (·.core) = some 64) ∧ ∀ p ∈ s.cores, p.2.gather = none := by decide
theorem witness_credit_total : let s := performerState
    domainsUp s = true ∧ workOn s (reqHead 1) 3 = some 4 ∧ workOn s (reqHead 2) 3 = none ∧ (Machine.core s 3).work = some 4 := by decide

-- CommandsCompleteAndKeepMemory
theorem witness_canonical : Canonical State.reset ∧ step State.reset = .next State.reset := ⟨rfl, rfl⟩

end Sys2Proof.Tests
end

section
/-! PROOFS. What taking a tenant's objects away changes and leaves alone: tables that only lose entries, zero-fills and retags,
and what the ledger and the event queue touch (02_tenants_and_commons.md R27, R48, R50; 24_change_ledger.md R574 to R577). -/

namespace Sys2Proof.Machine

/-! ## Tables that only lose entries -/

/-- `u` is `t` with the entries of some keys taken out. -/
def Thins {α : Type} (t u : Tab α) : Prop := ∃ keep : Nat → Bool, u = t.filter (fun p => keep p.1)

theorem Thins.refl {α : Type} (t : Tab α) : Thins t t := ⟨fun _ => true, by simp⟩

theorem Thins.of_eq {α : Type} {t u : Tab α} (h : u = t) : Thins t u := h ▸ Thins.refl t

theorem Thins.trans {α : Type} {t u v : Tab α} : Thins t u → Thins u v → Thins t v := by
  rintro ⟨p, rfl⟩ ⟨q, rfl⟩
  exact ⟨fun k => q k && p k, List.filter_filter⟩

theorem thins_tdel {α : Type} (t : Tab α) (k : Nat) : Thins t (tdel t k) := ⟨(· != k), rfl⟩

theorem Thins.mem {α : Type} {t u : Tab α} {p : Nat × α} (h : Thins t u) (hp : p ∈ u) : p ∈ t := by
  obtain ⟨keep, rfl⟩ := h
  exact (List.mem_filter.mp hp).1

theorem mem_of_tget {α : Type} {t : Tab α} {k : Nat} {v : α} (h : tget t k = some v) : (k, v) ∈ t := by
  induction t with
  | nil => cases h
  | cons p t ih =>
    simp only [tget] at h
    split at h
    · next e => cases h; cases e; exact List.mem_cons_self
    · exact List.mem_cons_of_mem _ (ih h)

theorem ne_of_mem_of_tget_none {α : Type} {t : Tab α} {k : Nat} {p : Nat × α} (h : tget t k = none) (hp : p ∈ t) : p.1 ≠ k := by
  induction t with
  | nil => cases hp
  | cons q t ih =>
    simp only [tget] at h
    split at h
    · cases h
    · next hq =>
      rcases List.mem_cons.mp hp with rfl | hp
      · exact hq
      · exact ih h hp

theorem tget_eq_none {α : Type} {t : Tab α} {k : Nat} (h : ∀ p ∈ t, p.1 ≠ k) : tget t k = none := by
  cases e : tget t k with
  | none => rfl
  | some v => exact absurd rfl (h _ (mem_of_tget e))

/-- An entry that is gone stays gone. -/
theorem Thins.tget_none {α : Type} {t u : Tab α} {k : Nat} (h : Thins t u) (hk : tget t k = none) : tget u k = none :=
  tget_eq_none fun _ hp => ne_of_mem_of_tget_none hk (h.mem hp)

@[simp] theorem tget_tdel_self {α : Type} (t : Tab α) (k : Nat) : tget (tdel t k) k = none := by rw [tget_tdel, if_pos rfl]

/-! ## Zero-fills and retags -/

/-- `t` is `s` but for memory and its words' checks, reservations, banks, and which copies, replicas and fills there are. -/
def Wiped (s t : State) : Prop :=
  t = { s with
    cores := t.cores, swi := t.swi, ecc := t.ecc, mem := t.mem
    store := { s.store with banks := t.store.banks, spCopies := t.store.spCopies, fills := t.store.fills, replicas := t.store.replicas } }

theorem Wiped.refl (s : State) : Wiped s s := rfl

theorem Wiped.trans {a b c : State} (h : Wiped a b) (g : Wiped b c) : Wiped a c := by
  unfold Wiped at h g ⊢
  rw [h] at g
  exact g

theorem Wiped.foldl {α : Type} {f : State → α → State} (l : List α) (s : State) (h : ∀ s x, Wiped s (f s x)) : Wiped s (l.foldl f s) :=
  List.foldlRecOn l f (Wiped.refl s) fun _ hb x _ => hb.trans (h _ x)

/-- A zero-fill touches memory, its words' checks and reservations alone. -/
theorem memZero_eq (s : State) (a n : Nat) :
    memZero s a n = { s with cores := (memZero s a n).cores, swi := (memZero s a n).swi, ecc := (memZero s a n).ecc,
                             mem := (memZero s a n).mem } := by
  unfold memZero
  dsimp only
  rw [cure_eq]
  rfl

@[simp] theorem memZero_store (s : State) (a n : Nat) : (memZero s a n).store = s.store := by rw [memZero_eq]

theorem memZero_wiped (s : State) (a n : Nat) : Wiped s (memZero s a n) := by
  unfold Wiped
  rw [memZero_eq]

theorem retag_wiped (s : State) (b owner : Nat) (res : Bool) : Wiped s (retag s b owner res) := by
  unfold retag
  dsimp only
  split
  · rfl
  · exact (memZero_wiped _ _ _).trans rfl

@[simp] theorem retag_fills (s : State) (b owner : Nat) (res : Bool) : (retag s b owner res).store.fills = s.store.fills := by
  unfold retag
  dsimp only
  split
  · rfl
  · rw [memZero_store]

theorem dropSpCopy_wiped (s : State) (y : SpCopy) : Wiped s (dropSpCopy s y) :=
  (Wiped.foldl (f := fun s b => retag s b 0 false) y.banks s fun s b => retag_wiped s b 0 false).trans rfl

theorem startFill_wiped (s : State) (base size : Nat) : Wiped s (startFill s base size) := rfl

theorem dropReplicas_wiped (s : State) (p : Nat → Bool) : Wiped s (dropReplicas s p) :=
  Wiped.foldl _ s fun _ _ => rfl

/-! ## The ledger and the event queue -/

/-- What an entry of the ledger, an event and a response leave alone, and that no sequence number of an event is given back. -/
structure Notes (s t : State) : Prop where
  store : t.store = s.store
  dsp : t.dsp = s.dsp
  rings : t.rings = s.rings
  eft : t.eft = s.eft
  pages : t.obs.pages = s.obs.pages
  evqSeq : s.mbx.evqSeq ≤ t.mbx.evqSeq

theorem Notes.trans {a b c : State} (h : Notes a b) (g : Notes b c) : Notes a c where
  store := g.store.trans h.store
  dsp := g.dsp.trans h.dsp
  rings := g.rings.trans h.rings
  eft := g.eft.trans h.eft
  pages := g.pages.trans h.pages
  evqSeq := h.evqSeq.trans g.evqSeq

theorem Notes.refl (s : State) : Notes s s := ⟨rfl, rfl, rfl, rfl, rfl, Nat.le_refl _⟩

theorem Told.notes {s t : State} (h : Told s t) (hq : s.mbx.evqSeq ≤ t.mbx.evqSeq) : Notes s t where
  store := by rw [h]
  dsp := by rw [h]
  rings := by rw [h]
  eft := by rw [h]
  pages := by rw [h]
  evqSeq := hq

@[simp] theorem hostWrite_mbx (s : State) (a : Nat) (d : List Byte) : (hostWrite s a d).mbx = s.mbx := by
  unfold hostWrite send
  split <;> rfl

/-- Every event takes the next sequence number (R153). -/
@[simp] theorem raiseEvent_evqSeq (s : State) (type p q : Nat) : (raiseEvent s type p q).mbx.evqSeq = s.mbx.evqSeq + 1 := by
  unfold raiseEvent
  dsimp only
  split
  · simp [evqWrite, raiseMsix_mbx]
  · split <;> rfl

theorem raiseEvent_notes (s : State) (type p q : Nat) : Notes s (raiseEvent s type p q) :=
  (raiseEvent_told s type p q).notes (by simp)

theorem ledgerEvents_notes (s : State) : Notes s (ledgerEvents s) := by
  have hwarn : Notes s (raiseEvent { s with ledger.warnArmed := false } 0x0040 (ledgerHeld s) 0) := by
    refine Notes.trans ?_ (raiseEvent_notes _ _ _ _)
    exact ⟨rfl, rfl, rfl, rfl, rfl, Nat.le_refl _⟩
  unfold ledgerEvents
  dsimp only
  split
  · split
    · exact hwarn.trans (raiseEvent_notes _ _ _ _)
    · exact hwarn
  · split
    · exact raiseEvent_notes _ _ _ _
    · exact Notes.refl s

theorem cure_notes (s : State) (f : Nat → Bool) : Notes s (cure s f) := by
  rw [cure_eq]
  exact ⟨rfl, rfl, rfl, rfl, rfl, Nat.le_refl _⟩

theorem ledgerAppend_notes (s : State) (e : LEntry) : Notes s (ledgerAppend s e) := by
  unfold ledgerAppend
  split
  · exact Notes.refl s
  · refine (cure_notes s (fun w => decide (ledgerAddr s.ledger.next ≤ w) && decide (w < ledgerAddr s.ledger.next + 64))).trans ?_
    dsimp only
    refine Notes.trans ?_ (ledgerEvents_notes _)
    exact ⟨rfl, rfl, rfl, rfl, rfl, Nat.le_refl _⟩

theorem ledgerSelf_notes (s : State) (kind tcid object value : Nat) : Notes s (ledgerSelf s kind tcid object value) := by
  unfold ledgerSelf ledgerOwn
  split
  · exact ⟨rfl, rfl, rfl, rfl, rfl, Nat.le_refl _⟩
  · exact ledgerAppend_notes s _

theorem raiseMsix_notes (s : State) (v : Nat) : Notes s (raiseMsix s v) := (raiseMsix_told s v).notes (by rw [raiseMsix_mbx])

theorem settleMgt_notes (s : State) : Notes s (settleMgt s) := by
  rw [settleMgt_eq]
  exact ⟨rfl, rfl, rfl, rfl, rfl, Nat.le_refl _⟩

theorem respond_notes (s : State) (k : Nat) (r : Req) (status : Nat) (payload : List Byte) :
    Notes s (respond s k r status payload) := by
  unfold respond
  refine Notes.trans ?_ (settleMgt_notes _)
  split
  · exact ⟨rfl, rfl, rfl, rfl, rfl, Nat.le_refl _⟩
  · refine Notes.trans ?_ (raiseMsix_notes _ 0)
    exact ⟨rfl, rfl, rfl, rfl, rfl, Nat.le_refl _⟩

theorem answerWaits_notes (s : State) : Notes s (answerWaits s) :=
  List.foldlRecOn _ _ (Notes.refl s) fun _ hb _ _ => hb.trans (respond_notes _ _ _ _ _)

end Sys2Proof.Machine
end

section
/-! PROOFS. TENANT_DESTROY and TENANT_FREED: what of a tenant is taken away, and that nothing else of the tray is
(02_tenants_and_commons.md R27, R54, R55; 07_management_commands.md R170). -/

namespace Sys2Proof.Machine

/-! ## Objects that go -/

/-- What taking objects away leaves alone. Regions and images only go, and an image does not go without its region. -/
structure Reclaims (s t : State) : Prop where
  dsp : t.dsp = s.dsp
  rings : t.rings = s.rings
  eft : t.eft = s.eft
  tenants : t.store.tenants = s.store.tenants
  commons : t.store.commons = s.store.commons
  regions : Thins s.store.regions t.store.regions
  images : Thins s.store.images t.store.images
  imageRegion : ∀ i m, tget s.store.images i = some m → tget t.store.images i = some m ∨ tget t.store.regions m.region = none
  evqSeq : s.mbx.evqSeq ≤ t.mbx.evqSeq

theorem Reclaims.refl (s : State) : Reclaims s s :=
  ⟨rfl, rfl, rfl, rfl, rfl, Thins.refl _, Thins.refl _, fun _ _ => .inl, Nat.le_refl _⟩

theorem Reclaims.trans {a b c : State} (h : Reclaims a b) (g : Reclaims b c) : Reclaims a c where
  dsp := g.dsp.trans h.dsp
  rings := g.rings.trans h.rings
  eft := g.eft.trans h.eft
  tenants := g.tenants.trans h.tenants
  commons := g.commons.trans h.commons
  regions := h.regions.trans g.regions
  images := h.images.trans g.images
  imageRegion i m hi := (h.imageRegion i m hi).elim (g.imageRegion i m) fun hr => .inr (g.regions.tget_none hr)
  evqSeq := h.evqSeq.trans g.evqSeq

theorem Reclaims.foldl {α : Type} {f : State → α → State} (h : ∀ s x, Reclaims s (f s x)) (l : List α) (s : State) :
    Reclaims s (l.foldl f s) := List.foldlRecOn l f (Reclaims.refl s) fun _ hb x _ => hb.trans (h _ x)

/-- What one step of a fold takes away is still gone at its end. -/
theorem Reclaims.foldl_step {α : Type} {f : State → α → State} (h : ∀ s x, Reclaims s (f s x)) {l : List α} {x : α} (hx : x ∈ l)
    (s : State) : ∃ u, Reclaims (f u x) (l.foldl f s) := by
  obtain ⟨l1, l2, rfl⟩ := List.append_of_mem hx
  exact ⟨l1.foldl f s, by rw [List.foldl_append]; exact Reclaims.foldl h l2 _⟩

theorem Wiped.reclaims {s t : State} (h : Wiped s t) : Reclaims s t := by
  rw [h]
  exact ⟨rfl, rfl, rfl, rfl, rfl, Thins.refl _, Thins.refl _, fun _ _ => .inl, Nat.le_refl _⟩

theorem Notes.reclaims {s t : State} (h : Notes s t) : Reclaims s t where
  dsp := h.dsp
  rings := h.rings
  eft := h.eft
  tenants := by rw [h.store]
  commons := by rw [h.store]
  regions := .of_eq (by rw [h.store])
  images := .of_eq (by rw [h.store])
  imageRegion i m hi := .inl (by rw [h.store]; exact hi)
  evqSeq := h.evqSeq

/-! ## A region (R50) -/

/-- A freed region's copies and home are wiped, and its entry is gone. -/
theorem freeRegion_wiped {s : State} {id : Nat} {g : Region} (hg : tget s.store.regions id = some g) :
    ∃ u, Wiped s u ∧ Wiped { u with store.regions := tdel u.store.regions id } (freeRegion s id) := by
  unfold freeRegion
  rw [hg]
  dsimp only
  have hdrop : Wiped s ((s.store.spCopies.filter (fun c => c.obj == .region id)).foldl dropSpCopy s) := Wiped.foldl _ s dropSpCopy_wiped
  cases g.copy with
  | none => exact ⟨_, hdrop, startFill_wiped _ _ _⟩
  | some c => exact ⟨_, hdrop.trans (startFill_wiped _ c.base g.size), startFill_wiped _ _ _⟩

theorem tdel_regions_reclaims (s : State) (id : Nat) : Reclaims s { s with store.regions := tdel s.store.regions id } :=
  ⟨rfl, rfl, rfl, rfl, rfl, thins_tdel _ _, Thins.refl _, fun _ _ => .inl, Nat.le_refl _⟩

theorem freeRegion_reclaims (s : State) (id : Nat) : Reclaims s (freeRegion s id) := by
  cases hg : tget s.store.regions id with
  | none =>
    unfold freeRegion
    rw [hg]
    exact Reclaims.refl s
  | some g =>
    obtain ⟨u, h1, h2⟩ := freeRegion_wiped hg
    exact (h1.reclaims.trans (tdel_regions_reclaims u id)).trans h2.reclaims

theorem freeRegion_gone (s : State) (id : Nat) : tget (freeRegion s id).store.regions id = none := by
  cases hg : tget s.store.regions id with
  | none => exact (freeRegion_reclaims s id).regions.tget_none hg
  | some g =>
    obtain ⟨u, -, h2⟩ := freeRegion_wiped hg
    exact h2.reclaims.regions.tget_none (tget_tdel_self _ _)

/-! ## An image (R178) -/

theorem dropImage_gone (s : State) (id : Nat) : tget (dropImage s id).store.images id = none := by
  unfold dropImage
  split
  · assumption
  · exact (freeRegion_reclaims _ _).images.tget_none (tget_tdel_self _ _)

theorem dropImage_reclaims (s : State) (id : Nat) : Reclaims s (dropImage s id) := by
  unfold dropImage
  split
  · exact Reclaims.refl s
  · next g hg =>
    have h := freeRegion_reclaims { s with store.images := tdel s.store.images id } g.region
    refine ⟨h.dsp, h.rings, h.eft, h.tenants, h.commons, h.regions, (thins_tdel _ _).trans h.images, fun i m hi => ?_, h.evqSeq⟩
    by_cases e : id = i
    · subst e
      cases hg.symm.trans hi
      exact .inr (freeRegion_gone _ _)
    · exact h.imageRegion i m (by rw [tget_tdel, if_neg e]; exact hi)

/-! ## A tenant's images and regions, each with its RECLAIMED entry (R27, R587) -/

/-- An image of a tenant is unregistered. -/
def reclaimImage (tcid : Nat) (s : State) (p : Nat × Image) : State :=
  ledgerSelf (ledgerSelf (dropImage s p.1) 0x800A tcid p.1 1) 0x800A tcid p.2.region 0

/-- A region of a tenant is freed. -/
def reclaimRegion (tcid : Nat) (s : State) (p : Nat × Region) : State := ledgerSelf (freeRegion s p.1) 0x800A tcid p.1 0

/-- Every zero-fill is performed (R27). -/
def allFilled (s : State) : State := { s.store.fills.foldl (fun s f => memZero s f.base f.size) s with store.fills := [] }

/-- The images of a tenant are unregistered. -/
def imagesReclaimed (s : State) (n : Nat) : State := (s.store.images.filter (fun p => p.2.owner == n)).foldl (reclaimImage n) s

/-- Its regions that are not images' are freed too. -/
def regionsReclaimed (s : State) (n : Nat) : State :=
  (s.store.regions.filter (fun p => p.2.owner == n && !p.2.image)).foldl (reclaimRegion n) (imagesReclaimed s n)

/-- Its replicas are dropped too, and every fill is done. -/
def reclaimed (s : State) (n : Nat) : State := allFilled (dropReplicas (regionsReclaimed s n) (fun k => k / 2 ^ 32 == n))

/-- The banks of a tenant lose their tags. -/
def untagged (s : State) (n : Nat) : State :=
  s.store.banks.foldl (fun s p => if p.2.owner == n then retag s p.1 0 false else s) s

/-- A TCID is FREE with its generation alone, and its observations are gone. -/
def freedTcid (s : State) (n tgen : Nat) : State :=
  { s with store.tenants := tset s.store.tenants n { tgen := tgen }, obs.pages := tdel s.obs.pages n, obs.kept := tdel s.obs.kept n,
           store.hotRows := s.store.hotRows.filter (fun x => x.1 != n) }

theorem reclaimImage_reclaims (n : Nat) (s : State) (p : Nat × Image) : Reclaims s (reclaimImage n s p) :=
  ((dropImage_reclaims s p.1).trans (ledgerSelf_notes _ _ _ _ _).reclaims).trans (ledgerSelf_notes _ _ _ _ _).reclaims

theorem reclaimImage_gone (n : Nat) (s : State) (p : Nat × Image) : tget (reclaimImage n s p).store.images p.1 = none := by
  unfold reclaimImage
  rw [(ledgerSelf_notes _ _ _ _ _).store, (ledgerSelf_notes _ _ _ _ _).store]
  exact dropImage_gone s p.1

theorem reclaimRegion_reclaims (n : Nat) (s : State) (p : Nat × Region) : Reclaims s (reclaimRegion n s p) :=
  (freeRegion_reclaims s p.1).trans (ledgerSelf_notes _ _ _ _ _).reclaims

theorem reclaimRegion_gone (n : Nat) (s : State) (p : Nat × Region) : tget (reclaimRegion n s p).store.regions p.1 = none := by
  unfold reclaimRegion
  rw [(ledgerSelf_notes _ _ _ _ _).store]
  exact freeRegion_gone s p.1

theorem allFilled_wiped (s : State) : Wiped s (allFilled s) := by
  have h : Wiped s (s.store.fills.foldl (fun s f => memZero s f.base f.size) s) := Wiped.foldl _ s fun _ _ => memZero_wiped _ _ _
  exact h.trans rfl

theorem reclaimed_after_regions (s : State) (n : Nat) : Reclaims (regionsReclaimed s n) (reclaimed s n) :=
  ((dropReplicas_wiped _ _).trans (allFilled_wiped _)).reclaims

theorem reclaimed_after_images (s : State) (n : Nat) : Reclaims (imagesReclaimed s n) (reclaimed s n) :=
  (Reclaims.foldl (reclaimRegion_reclaims n) _ _).trans (reclaimed_after_regions s n)

theorem reclaimed_reclaims (s : State) (n : Nat) : Reclaims s (reclaimed s n) :=
  (Reclaims.foldl (reclaimImage_reclaims n) _ s).trans (reclaimed_after_images s n)

/-- No image of the tenant is left. -/
theorem reclaimed_images (s : State) (n : Nat) : ∀ p ∈ (reclaimed s n).store.images, p.2.owner ≠ n := by
  intro p hp hn
  have hmine : p ∈ s.store.images.filter (fun p => p.2.owner == n) :=
    List.mem_filter.mpr ⟨(reclaimed_reclaims s n).images.mem hp, by simp [hn]⟩
  obtain ⟨u, hu⟩ := Reclaims.foldl_step (reclaimImage_reclaims n) hmine s
  have hend := hu.trans (reclaimed_after_images s n)
  exact ne_of_mem_of_tget_none (hend.images.tget_none (reclaimImage_gone n u p)) hp rfl

/-- No region of the tenant is left that is not an image's. -/
theorem reclaimed_regions (s : State) (n : Nat) : ∀ p ∈ (reclaimed s n).store.regions, p.2.owner = n → p.2.image = true := by
  intro p hp hn
  by_contra hi
  have hmine : p ∈ s.store.regions.filter (fun p => p.2.owner == n && !p.2.image) :=
    List.mem_filter.mpr ⟨(reclaimed_reclaims s n).regions.mem hp, by simp [hn, hi]⟩
  obtain ⟨u, hu⟩ := Reclaims.foldl_step (reclaimRegion_reclaims n) hmine (imagesReclaimed s n)
  have hend := hu.trans (reclaimed_after_regions s n)
  exact ne_of_mem_of_tget_none (hend.regions.tget_none (reclaimRegion_gone n u p)) hp rfl

/-- The region of each image of the tenant is gone. -/
theorem reclaimed_imageRegion {s : State} {n i : Nat} {m : Image} (hi : tget s.store.images i = some m) (hn : m.owner = n) :
    tget (reclaimed s n).store.regions m.region = none :=
  ((reclaimed_reclaims s n).imageRegion i m hi).resolve_left fun h => reclaimed_images s n _ (mem_of_tget h) hn

theorem untagged_wiped (s : State) (n : Nat) : Wiped s (untagged s n) := by
  refine Wiped.foldl _ s fun u p => ?_
  split
  · exact retag_wiped u p.1 0 false
  · exact Wiped.refl u

theorem untagged_fills (s : State) (n : Nat) : (untagged s n).store.fills = s.store.fills := by
  refine List.foldlRecOn (motive := fun (u : State) => u.store.fills = s.store.fills) _ _ rfl fun u hu p _ => ?_
  split
  · rw [retag_fills, hu]
  · exact hu

/-! ## TENANT_FREED -/

/-- TENANT_FREED of a DESTROYING tenant that has no job and no part. -/
theorem execTenantFreed_ends {s : State} {n : Nat} (hf : fwUp s = true) (hd : domainsUp s = true)
    (ht : (tenant s n).state = .destroying) (hj : s.dsp.jobs.all (fun e => e.2.tcid != n) = true)
    (hp : s.dsp.parts.all (fun p => p.tcid != n) = true) :
    execTenantFreed n s = .next (answerWaits (raiseEvent
      (ledgerSelf (freedTcid (untagged (reclaimed s n) n) n (tenant s n).tgen) 0x800B n n (tenant s n).tgen)
      0x0060 (n + (tenant s n).tgen * 2 ^ 32) 0)) := by
  have hj' : s.dsp.jobs.any (fun e => e.2.tcid == n) = false := by simpa using hj
  have hp' : s.dsp.parts.any (fun p => p.tcid == n) = false := by simpa using hp
  unfold execTenantFreed
  rw [if_neg (by simp [hf, hd, ht, hj', hp'])]
  rfl

/-- The entry of the freed TCID, the event and the answers that waited. -/
theorem freed_notes (u : State) (n g : Nat) : Notes u (answerWaits (raiseEvent (ledgerSelf u 0x800B n n g) 0x0060 (n + g * 2 ^ 32) 0)) ∧
    u.mbx.evqSeq < (answerWaits (raiseEvent (ledgerSelf u 0x800B n n g) 0x0060 (n + g * 2 ^ 32) 0)).mbx.evqSeq := by
  have hl := ledgerSelf_notes u 0x800B n n g
  have hr := raiseEvent_evqSeq (ledgerSelf u 0x800B n n g) 0x0060 (n + g * 2 ^ 32) 0
  have ha := answerWaits_notes (raiseEvent (ledgerSelf u 0x800B n n g) 0x0060 (n + g * 2 ^ 32) 0)
  refine ⟨(hl.trans (raiseEvent_notes _ _ _ _)).trans ha, ?_⟩
  have h1 := hl.evqSeq
  have h2 := ha.evqSeq
  omega

/-! ## TENANT_DESTROY -/

theorem endStreamsOf_none {s : State} {n : Nat} (hj : s.dsp.jobs.all (fun e => e.2.tcid != n) = true) : endStreamsOf s n = s := by
  have h : s.dsp.jobs.filter (fun e => e.2.tcid == n && e.2.stream.isSome) = [] := by
    rw [List.filter_eq_nil_iff]
    intro e he
    simp [show e.2.tcid ≠ n by simpa using List.all_eq_true.mp hj e he]
  unfold endStreamsOf
  rw [h]
  rfl

theorem quenchWhere_none {s : State} {p : Nat → Job → Bool} {status detail : Nat} (h : s.dsp.jobs.filter (fun e => p e.1 e.2) = []) :
    quenchWhere s p status detail = s := by
  unfold quenchWhere
  rw [h]
  rfl

/-- TENANT_DESTROY of a live tenant without jobs and parts ends at once, under FORCE too (R55, R170). -/
theorem execTenantDestroy_idle {s : State} {k : SlotId} {r : Req} {n : Nat} (hn : leAt r.payload 0 2 = n)
    (h : AcceptedChange s k 0x0106 r) (hf : tcidFields s r.payload = true) (hk : tcidOk n = true) (ho : tenantOpen s n = true)
    (hj : s.dsp.jobs.all (fun e => e.2.tcid != n) = true) (hp : s.dsp.parts.all (fun p => p.tcid != n) = true) :
    execTenantDestroy k s = .next (respond (ledgerCmd (setTState s n .destroying) k.val r n n 0) k.val r 0
      (leBytes 4 0 ++ leBytes 4 (s.store.regions.countP (fun p => p.2.owner == n)))) := by
  have hjobs : s.dsp.jobs.filter (fun e => e.2.tcid == n) = [] := by
    simpa [List.filter_eq_nil_iff] using hj
  have hparts : (setTState s n .destroying).dsp.parts.filter (fun p => p.tcid == n) = [] := by
    simpa [setTState, List.filter_eq_nil_iff] using hp
  have hstate : ¬ ((tenant s n).state ≠ .active && (tenant s n).state ≠ .suspended) = true := by
    unfold tenantOpen at ho
    cases hs : (tenant s n).state <;> simp_all
  have hquench : quenchWhere (setTState s n .destroying) (fun _ j => j.tcid == n) 0x0205 0 = setTState s n .destroying := quenchWhere_none hjobs
  have hends : endStreamsOf (setTState s n .destroying) n = setTState s n .destroying := endStreamsOf_none hj
  unfold execTenantDestroy
  rw [runCmd_change h true hf]
  dsimp only
  rw [hn, if_neg (by simp [hk]), if_neg hstate, hquench, hends, hjobs]
  split
  · rw [hparts]
    rfl
  · rfl

/-- Settles O22: an idle tenant's destruction is the change of its state, its entry and its answer; TENANT_FREED takes away what the
tenant owns step by step, and each step only takes away. The regions counted are those of images too (log entry 66). -/
theorem tenantsAreDestroyedAndFreed : Obligations.TenantsAreDestroyedAndFreed := by
  unfold Obligations.TenantsAreDestroyedAndFreed
  intro s
  constructor
  · intro k r h hf n hk ho hj hp
    have ⟨_, _, hl, _, hc⟩ := h
    exact ⟨_, execTenantDestroy_idle rfl h hf hk ho hj hp, logged_respond k r n n _ hc hl⟩
  · intro n hf hd ht hj hp
    obtain ⟨hend, hevent⟩ := freed_notes (freedTcid (untagged (reclaimed s n) n) n (tenant s n).tgen) n (tenant s n).tgen
    have hwipe := untagged_wiped (reclaimed s n) n
    have hrec := (reclaimed_reclaims s n).trans hwipe.reclaims
    refine ⟨_, execTenantFreed_ends hf hd ht hj hp, ?_⟩
    generalize answerWaits _ = t at hend hevent
    have hregions : t.store.regions = (reclaimed s n).store.regions := by rw [hend.store]; exact congrArg (·.store.regions) hwipe
    have himages : t.store.images = (reclaimed s n).store.images := by rw [hend.store]; exact congrArg (·.store.images) hwipe
    have htenants : t.store.tenants = tset s.store.tenants n { tgen := (tenant s n).tgen } := by
      rw [hend.store, ← hrec.tenants]
      rfl
    have hfills : t.store.fills = [] := by
      rw [hend.store]
      exact untagged_fills (reclaimed s n) n
    have hpages : t.obs.pages = tdel (untagged (reclaimed s n) n).obs.pages n := hend.pages
    refine ⟨?_, fun c hc => ?_, ?_, fun i m hi hm => ?_, ?_, hfills, ?_, ?_, ?_, ?_, ?_, ?_⟩
    · simp [tenant, htenants]
    · simp [tenant, htenants, tgetD_tset_ne _ (Ne.symm hc)]
    · rw [hregions, List.all_eq_true]
      intro p hp
      by_cases hn : p.2.owner = n
      · simp [reclaimed_regions s n p hp hn]
      · simp [hn]
    · rw [hregions]
      exact reclaimed_imageRegion hi hm
    · rw [himages, List.all_eq_true]
      intro p hp
      simpa using reclaimed_images s n p hp
    · rw [hpages, tget_tdel_self]
    · exact Nat.lt_of_le_of_lt hrec.evqSeq hevent
    · exact hend.dsp.trans hrec.dsp
    · exact hend.rings.trans hrec.rings
    · exact hend.eft.trans hrec.eft
    · rw [hend.store]
      exact hrec.commons

end Sys2Proof.Machine
end

section
/-! PROOFS. What counters, trace records, movers and the start of a work change of the tray, each said once: records and counters,
gathered lines and reservations, and nothing of a core's section or of its occupant's registers (09_cores_and_scratchpad.md R229, R232;
11_sequencer_and_tile_instructions.md R284; 25_observation.md R589 to R594). -/

namespace Sys2Proof.Machine

/-! ## Memory -/

theorem mget_filter (p : Nat → Bool) (m : Memory) (a : Nat) : mget (m.filter (fun c => p c.1)) a = if p a then mget m a else 0 := by
  induction m with
  | nil => simp [mget]
  | cons c m ih =>
    rw [List.filter_cons]
    by_cases hc : c.1 = a
    · subst hc
      split
      · simp [mget]
      · next h => simp [ih, h]
    · split
      · simp [mget, hc, ih]
      · simp [mget, hc, ih]

/-- Cells written one by one at a distance: a cell that the list has is found there, any other byte is the old one. -/
theorem mget_shiftCells {src : Nat} (dst : Nat) {l : Memory} (hl : Memory.wf l = true) (hs : ∀ c ∈ l, src ≤ c.1) {m : Memory}
    (hm : Memory.wf m = true) (i : Nat) :
    mget (l.foldl (fun m' c => mset m' (dst + (c.1 - src)) c.2) m) (dst + i)
      = if mget l (src + i) = 0 then mget m (dst + i) else mget l (src + i) := by
  induction l generalizing m with
  | nil => simp [mget]
  | cons c l ih =>
    obtain ⟨hc, habove, hwf⟩ := Memory.wf_cons.mp hl
    have hle := hs c List.mem_cons_self
    rw [List.foldl_cons, ih hwf (fun d hd => hs d (List.mem_cons_of_mem _ hd)) (mset_wf _ _ hm), mget_mset _ _ _ hm]
    by_cases hi : c.1 = src + i
    · have h0 : mget l (src + i) = 0 := mget_of_above (hi ▸ habove)
      have hat : dst + i = dst + (c.1 - src) := by omega
      simp only [mget, if_pos hi]
      rw [if_pos h0, if_pos hat, if_neg hc]
    · have hne : ¬ dst + i = dst + (c.1 - src) := by omega
      simp only [mget, if_neg hi]
      rw [if_neg hne]

/-- A copied byte is its source's. -/
theorem mget_mcopy {m : Memory} (src dst : Nat) {n i : Nat} (h : Memory.wf m = true) (hi : i < n) :
    mget (mcopy m src dst n) (dst + i) = mget m (src + i) := by
  have hcells : mget (m.filter (fun c => decide (src ≤ c.1) && decide (c.1 < src + n))) (src + i) = mget m (src + i) := by
    rw [mget_filter (fun a => decide (src ≤ a) && decide (a < src + n)), if_pos (by simp [hi])]
  have hzero : mget (mzero m dst n) (dst + i) = 0 := by rw [mget_mzero, if_pos (by omega)]
  unfold mcopy
  rw [mget_shiftCells dst (filter_wf _ h) (by simp +contextual) (mzero_wf _ _ h), hcells, hzero]
  split
  · next h0 => exact h0.symm
  · rfl

@[simp] theorem memZero_mem (s : State) (a n : Nat) : (memZero s a n).mem = mzero s.mem a n := by simp [memZero]

theorem memCopy_mem (s : State) (src dst n : Nat) : (memCopy s src dst n).mem = mcopy (mzero s.mem dst n) src dst n := by
  simp [memCopy]

/-- A copy over another range holds its source's bytes. -/
theorem mget_memCopy {s : State} {src dst n i : Nat} (h : Canonical s) (hd : src + n ≤ dst ∨ dst + n ≤ src) (hi : i < n) :
    mget (memCopy s src dst n).mem (dst + i) = mget s.mem (src + i) := by
  rw [memCopy_mem, mget_mcopy _ _ (mzero_wf _ _ h) hi, mget_mzero, if_neg (by omega)]

/-- Ranges zeroed one after the other. -/
theorem mget_foldl_memZero (f : Nat → Nat) (n : Nat) (l : List Nat) (s : State) (a : Nat) :
    mget (l.foldl (fun s b => memZero s (f b) n) s).mem a = if ∃ b ∈ l, f b ≤ a ∧ a < f b + n then 0 else mget s.mem a := by
  induction l generalizing s with
  | nil => simp
  | cons b l ih =>
    rw [List.foldl_cons, ih, memZero_mem, mget_mzero]
    by_cases hl : ∃ b ∈ l, f b ≤ a ∧ a < f b + n
    · obtain ⟨d, hd, ha⟩ := hl
      rw [if_pos ⟨d, hd, ha⟩, if_pos ⟨d, List.mem_cons_of_mem _ hd, ha⟩]
    · rw [if_neg hl]
      by_cases hb : f b ≤ a ∧ a < f b + n
      · rw [if_pos hb, if_pos ⟨b, List.mem_cons_self, hb⟩]
      · rw [if_neg hb, if_neg (by rintro ⟨d, hd, ha⟩; rcases List.mem_cons.mp hd with rfl | hd; exacts [hb ha, hl ⟨d, hd, ha⟩])]

/-! ## Counters and trace records -/

/-- `t` is `s` but for what Gecko holds. -/
def Observed (s t : State) : Prop := t = { s with obs := t.obs }

theorem Observed.refl (s : State) : Observed s s := rfl

theorem Observed.trans {a b c : State} (h : Observed a b) (g : Observed b c) : Observed a c := by
  unfold Observed at h g ⊢
  rw [h] at g
  exact g

theorem Observed.core {s t : State} (h : Observed s t) (d : Nat) : core t d = core s d := by rw [h]; rfl

theorem ctrAdd_observed (s : State) (off n : Nat) : Observed s (ctrAdd s off n) := rfl

theorem pondPut_observed (s : State) (p : Nat) (r : TrcRec) : Observed s (pondPut s p r) := by
  unfold pondPut
  dsimp only
  split
  · split <;> rfl
  · split
    · rfl
    · split <;> rfl

theorem trcTake_observed (s : State) (r : TrcRec) : Observed s (trcTake s r) := by
  unfold trcTake
  split
  · rfl
  · split
    · exact pondPut_observed _ _ _
    · split <;> rfl

/-- A core's trace record is left out, taken, or counted as one that a tenant's OBSERVE keeps back (R591, R593). The function is unfolded as a
constant, for the kernel would evaluate the record's word to compare it with its unfolded application. -/
theorem traceCore_cases (s : State) (c : Nat) (ts : List Nat) (tag type arg : Nat) :
    traceCore s c ts tag type arg = s ∨ (∃ r, traceCore s c ts tag type arg = trcTake s r) ∨
      traceCore s c ts tag type arg = ctrAdd s 0x818 1 := by
  generalize h : @traceCore = f
  delta traceCore at h
  subst h
  beta_reduce
  extract_lets w0
  clear_value w0
  split
  · exact .inl rfl
  · split
    · exact .inr (.inl ⟨_, rfl⟩)
    · exact .inr (.inr rfl)

theorem traceCore_observed (s : State) (c : Nat) (ts : List Nat) (tag type arg : Nat) : Observed s (traceCore s c ts tag type arg) := by
  obtain h | ⟨r, h⟩ | h := traceCore_cases s c ts tag type arg <;> rw [h]
  · exact Observed.refl s
  · exact trcTake_observed s r
  · exact ctrAdd_observed s _ _

/-- `t` is `s` but for the cores and what Gecko holds. -/
def CoresOnly (s t : State) : Prop := t = { s with cores := t.cores, obs := t.obs }

theorem CoresOnly.trans {a b c : State} (h : CoresOnly a b) (g : CoresOnly b c) : CoresOnly a c := by
  unfold CoresOnly at h g ⊢
  rw [h] at g
  exact g

/-- `t` is `s` but for what Gecko holds and the records that the cores keep open. -/
structure Booked (s t : State) : Prop where
  eq : CoresOnly s t
  core : ∀ d, core t d = { core s d with recs := (core t d).recs }

theorem Booked.trans {a b c : State} (h : Booked a b) (g : Booked b c) : Booked a c where
  eq := h.eq.trans g.eq
  core d := by rw [g.core d, h.core d]

theorem Observed.booked {s t : State} (h : Observed s t) : Booked s t := by
  rw [h]
  exact ⟨rfl, fun _ => rfl⟩

theorem count_booked (s : State) (c word n : Nat) : Booked s (count s c word n) := by
  have hrec (f : Core → Tab (Tab Nat)) : Booked s (setCore s c { core s c with recs := f (core s c) }) := by
    refine ⟨rfl, fun d => ?_⟩
    rw [core_setCore]
    split
    · next h => rw [h]
    · rfl
  unfold count
  dsimp only
  have h : Booked s (if (core s c).work.isSome then setCore s c { core s c with
      recs := tmod (core s c).recs (core s c).chnCur [] (fun r => tmod r word 0 (fun x => (x + n) % 2 ^ 64)) } else s) := by
    split
    · exact hrec fun k => tmod k.recs k.chnCur [] (fun r => tmod r word 0 (fun x => (x + n) % 2 ^ 64))
    · exact (Observed.refl s).booked
  split
  · exact h.trans (ctrAdd_observed _ _ _).booked
  · exact h

theorem stall_booked (s : State) (c code waiter n : Nat) : Booked s (stall s c code waiter n) := by
  have hcount : Booked s (countStall s c code waiter n) :=
    (count_booked s c (64 + code) n).trans ((ctrAdd_observed _ _ _).trans (ctrAdd_observed _ _ _)).booked
  unfold stall
  dsimp only
  split
  · exact (Observed.refl s).booked
  · split
    · exact hcount
    · exact hcount.trans ((traceCore_observed _ _ _ _ _ _).trans (traceCore_observed _ _ _ _ _ _)).booked

/-- `t` is `s` but for the waits of jobs (R458). -/
def Marked (s t : State) : Prop := t = { s with dsp := { s.dsp with jobs := t.dsp.jobs } }

theorem Marked.trans {a b c : State} (h : Marked a b) (g : Marked b c) : Marked a c := by
  unfold Marked at h g ⊢
  rw [h] at g
  exact g

theorem Marked.mem {s t : State} (h : Marked s t) : t.mem = s.mem := by rw [h]

theorem Marked.store {s t : State} (h : Marked s t) : t.store = s.store := by rw [h]

theorem Marked.parts {s t : State} (h : Marked s t) : t.dsp.parts = s.dsp.parts := by rw [h]

theorem Marked.core {s t : State} (h : Marked s t) (d : Nat) : core t d = core s d := by rw [h]; rfl

theorem markWait_marked (s : State) (j i : Nat) : Marked s (markWait s j i) := by
  unfold markWait
  split <;> rfl

theorem Marked.foldl {α : Type} {f : State → α → State} (h : ∀ s x, Marked s (f s x)) (l : List α) (s : State) :
    Marked s (l.foldl f s) := List.foldlRecOn l f (motive := Marked s) rfl fun _ hb x _ => hb.trans (h _ x)

/-! ## The start of a work -/

/-- What stays of a core when a work begins there: the registers that an occupant zero-fill clears. -/
structure SameOccupant (k k' : Core) : Prop where
  filling : k'.filling = k.filling
  acc : k'.acc = k.acc
  maskReg : k'.maskReg = k.maskReg
  atgt : k'.atgt = k.atgt
  g : k'.seq.g = k.seq.g

/-- The section that a core has loaded. -/
structure SameSection (k k' : Core) : Prop where
  sec : k'.sec = k.sec
  imem : k'.imem = k.imem
  codeLen : k'.codeLen = k.codeLen
  drn : k'.drn = k.drn
  entry : k'.seq.entry = k.seq.entry

theorem SameOccupant.refl (k : Core) : SameOccupant k k := ⟨rfl, rfl, rfl, rfl, rfl⟩

theorem SameOccupant.trans {a b c : Core} (h : SameOccupant a b) (g : SameOccupant b c) : SameOccupant a c :=
  ⟨g.filling.trans h.filling, g.acc.trans h.acc, g.maskReg.trans h.maskReg, g.atgt.trans h.atgt, g.g.trans h.g⟩

theorem SameSection.refl (k : Core) : SameSection k k := ⟨rfl, rfl, rfl, rfl, rfl⟩

theorem SameSection.trans {a b c : Core} (h : SameSection a b) (g : SameSection b c) : SameSection a c :=
  ⟨g.sec.trans h.sec, g.imem.trans h.imem, g.codeLen.trans h.codeLen, g.drn.trans h.drn, g.entry.trans h.entry⟩

/-- A work starts: its core runs from the section's entry, with the section and the occupant's registers as they were (R284). -/
theorem startWork_starts (s : State) (c w : Nat) : ∃ k, Observed (setCore s c k) (startWork s c w) ∧ k.work = some w ∧
    k.seq = (core s c).seq.start ∧ SameSection (core s c) k ∧ SameOccupant (core s c) k := by
  unfold startWork
  exact ⟨_, (ctrAdd_observed _ _ _).trans (traceCore_observed _ _ _ _ _ _), rfl, rfl, ⟨rfl, rfl, rfl, rfl, rfl⟩,
    ⟨rfl, rfl, rfl, rfl, rfl⟩⟩

/-- `t` is `s` but for cores and what Gecko holds, and the cores keep their occupants' registers. -/
structure Roused (s t : State) : Prop where
  eq : CoresOnly s t
  core : ∀ d, SameOccupant (core s d) (core t d)

theorem Roused.refl (s : State) : Roused s s := ⟨rfl, fun _ => .refl _⟩

theorem Roused.trans {a b c : State} (h : Roused a b) (g : Roused b c) : Roused a c where
  eq := h.eq.trans g.eq
  core d := (h.core d).trans (g.core d)

theorem Roused.mem {s t : State} (h : Roused s t) : t.mem = s.mem := by rw [h.eq]

theorem Roused.store {s t : State} (h : Roused s t) : t.store = s.store := by rw [h.eq]

theorem setCore_roused {s : State} {c : Nat} {k : Core} (h : SameOccupant (core s c) k) : Roused s (setCore s c k) := by
  refine ⟨rfl, fun d => ?_⟩
  rw [core_setCore]
  split
  · next e => exact e ▸ h
  · exact .refl _

theorem Booked.roused {s t : State} (h : Booked s t) : Roused s t :=
  ⟨h.eq, fun d => by rw [h.core d]; exact ⟨rfl, rfl, rfl, rfl, rfl⟩⟩

/-- A core that takes its next work (R435). -/
theorem kick_roused (s : State) (c : Nat) : Roused s (kick s c) := by
  unfold kick
  dsimp only
  split
  · exact Roused.refl s
  · split
    · exact Roused.refl s
    · split
      · exact Roused.refl s
      · split
        · obtain ⟨k, ht, -, -, -, hk⟩ := startWork_starts s c (by assumption)
          exact (setCore_roused hk).trans ht.booked.roused
        · exact setCore_roused ⟨rfl, rfl, rfl, rfl, rfl⟩

theorem Roused.foldl {α : Type} {f : State → α → State} (h : ∀ s x, Roused s (f s x)) (l : List α) (s : State) :
    Roused s (l.foldl f s) := List.foldlRecOn l f (Roused.refl s) fun _ hb x _ => hb.trans (h _ x)

/-! ## Movers' writes where no word is poisoned -/

/-- `t` is `s` but for memory and its words' checks, reservations, gathered lines, records and counters; the cores keep their sections, and
no word is poisoned that was not. -/
structure Moves (s t : State) : Prop where
  eq : t = { s with cores := t.cores, swi := t.swi, obs := t.obs, ecc := t.ecc, mem := t.mem }
  core : ∀ d, SameSection (core s d) (core t d)
  clean : s.ecc.poison = [] → t.ecc.poison = []

theorem Moves.refl (s : State) : Moves s s := ⟨rfl, fun _ => .refl _, id⟩

theorem Moves.trans {a b c : State} (h : Moves a b) (g : Moves b c) : Moves a c where
  eq := by
    have h1 := h.eq
    have h2 := g.eq
    rw [h1] at h2
    exact h2
  core d := (h.core d).trans (g.core d)
  clean p := g.clean (h.clean p)

theorem Moves.store {s t : State} (h : Moves s t) : t.store = s.store := by rw [h.eq]

theorem Moves.dsp {s t : State} (h : Moves s t) : t.dsp = s.dsp := by rw [h.eq]

/-- A run of movements that each need clean words. -/
theorem Moves.foldl {α : Type} {f : State → α → State} (h : ∀ s x, s.ecc.poison = [] → Moves s (f s x)) (l : List α) {s : State}
    (hp : s.ecc.poison = []) : Moves s (l.foldl f s) :=
  List.foldlRecOn l f (Moves.refl s) fun _ hb x _ => hb.trans (h _ x (hb.clean hp))

theorem Booked.moves {s t : State} (h : Booked s t) : Moves s t where
  eq := by rw [h.eq]
  core d := by rw [h.core d]; exact ⟨rfl, rfl, rfl, rfl, rfl⟩
  clean hp := by rw [h.eq]; exact hp

theorem tgetD_tmap {α : Type} (t : Tab α) (f : Nat → α → α) (k : Nat) (d : α) (hd : f k d = d) :
    tgetD (tmap t f) k d = f k (tgetD t k d) := by
  induction t with
  | nil => exact hd.symm
  | cons p t ih =>
    by_cases h : p.1 = k
    · subst h; simp [tmap, tgetD, tget]
    · simpa [tmap, tgetD, tget, h] using ih

theorem breakRes_moves (s : State) (a n : Nat) : Moves s (breakRes s none a n) := by
  refine ⟨rfl, fun d => ?_, id⟩
  have h : core (breakRes s none a n) d = { core s d with seq := dropRes (core s d).seq a n } :=
    tgetD_tmap s.cores (fun _ k => { k with seq := dropRes k.seq a n }) d {} rfl
  rw [h]
  refine ⟨rfl, rfl, rfl, rfl, ?_⟩
  unfold dropRes
  split <;> rfl

theorem cure_poison {s : State} (h : s.ecc.poison = []) (f : Nat → Bool) : (cure s f).ecc.poison = [] := by
  unfold cure
  dsimp only
  split <;> simp [h]

theorem cure_moves (s : State) (f : Nat → Bool) : Moves s (cure s f) where
  eq := by rw [cure_eq]
  core d := by
    have h : core (cure s f) d = core s d := by unfold core; rw [cure_cores]
    rw [h]
    exact .refl _
  clean h := cure_poison h f

theorem setMem_moves (s : State) (m : Memory) : Moves s { s with mem := m } := ⟨rfl, fun _ => .refl _, id⟩

theorem memZero_moves (s : State) (a n : Nat) : Moves s (memZero s a n) :=
  ((breakRes_moves s a n).trans (cure_moves _ _)).trans (setMem_moves _ _)

theorem memCopy_moves (s : State) (src dst n : Nat) : Moves s (memCopy s src dst n) :=
  (memZero_moves s dst n).trans (setMem_moves _ _)

/-- Where no word is poisoned, a write meets none. -/
theorem memPut_moves {s : State} (h : s.ecc.poison = []) (a : Nat) (ds : List Byte) :
    (memPut s a ds).2 = false ∧ Moves s (memPut s a ds).1 := by
  unfold memPut
  rw [poisonedIn_nil h]
  exact ⟨rfl, (cure_moves _ _).trans (setMem_moves _ _)⟩

theorem memWrite_moves {s : State} (h : s.ecc.poison = []) (a : Nat) (ds : List Byte) : Moves s (memWrite s a ds).1 :=
  (breakRes_moves s a ds.length).trans (memPut_moves ((breakRes_moves s a ds.length).clean h) a ds).2

theorem maskWrite_moves {s : State} (h : s.ecc.poison = []) (l : Line) : (maskWrite s l).2 = false ∧ Moves s (maskWrite s l).1 := by
  have hput {r : State × Bool} (hr : r.2 = false ∧ Moves s r.1) (a : Nat) (ds : List Byte) :
      (r.2 || (memPut r.1 a ds).2) = false ∧ Moves s (memPut r.1 a ds).1 := by
    have := memPut_moves (hr.2.clean h) a ds
    exact ⟨by rw [hr.1, this.1]; rfl, hr.2.trans this.2⟩
  unfold maskWrite
  refine List.foldlRecOn (motive := fun r : State × Bool => r.2 = false ∧ Moves s r.1) _ _ ⟨rfl, Moves.refl s⟩ fun r hr i _ => ?_
  split
  · exact hput hr _ _
  · refine List.foldlRecOn (motive := fun r : State × Bool => r.2 = false ∧ Moves s r.1) _ _ hr fun r hr j _ => ?_
    split
    · exact hput hr _ _
    · exact hr

/-- Where no word is poisoned, a flushed line is written (R232). -/
theorem flushLine_moves {s : State} (h : s.ecc.poison = []) (c : Nat) (l : Line) : Moves s (flushLine s c l) := by
  unfold flushLine
  split
  · exact Moves.refl s
  · have hgb : Moves s (modCore s c (fun k => { k with gb := k.gb.filter (fun x => x.addr != l.addr) })) := by
      refine ⟨rfl, fun d => ?_, id⟩
      rw [modCore, core_setCore]
      split
      · next e => exact e ▸ ⟨rfl, rfl, rfl, rfl, rfl⟩
      · exact .refl _
    have hstall := hgb.trans (stall_booked _ c 0x09 0 (b2n (!(partWords l).isEmpty))).moves
    obtain ⟨hbad, hmask⟩ := maskWrite_moves (hstall.clean h) l
    dsimp only
    rw [hbad]
    exact hstall.trans hmask

theorem flushGb_moves {s : State} (h : s.ecc.poison = []) (a n : Nat) : Moves s (flushGb s a n) := by
  unfold flushGb flushWhere
  split
  · exact Moves.foldl (fun _ l hp => flushLine_moves hp _ l) _ h
  · exact Moves.refl s

/-- A mover's read of clean words finds nothing. -/
theorem bulkRead_clean {s : State} (hp : s.ecc.poison = []) (hl : s.ecc.latent = []) (a n : Nat) (w : Option Nat) :
    bulkRead s a n .clean w = (s, true) := by
  simp [bulkRead, eccLay, eccSweep, eccMeet, hp, hl]

end Sys2Proof.Machine
end

section
/-! PROOFS. The occupant zero-fill and a staging order (02_tenants_and_commons.md R47, R49; 09_cores_and_scratchpad.md R251;
19_tier_memory.md R475). -/

namespace Sys2Proof.Machine

/-! ## The occupant zero-fill (R47, R49, R251) -/

/-- A byte of one of the banks that an occupant zero-fill clears. -/
def InFill (s : State) (c a : Nat) : Prop := ∃ b ∈ fillBanks s c, spBase c + b * 0x40000 ≤ a ∧ a < spBase c + (b + 1) * 0x40000

/-- A core's banks after an occupant zero-fill. -/
def zeroFilled (s : State) (c : Nat) : State :=
  (fillBanks s c).foldl (fun s b => memZero s (0x80000000000 + (c * 32 + b) * 0x40000) 0x40000) s

theorem inFill_iff (s : State) (c a : Nat) : InFill s c a ↔
    ∃ b ∈ fillBanks s c, 0x80000000000 + (c * 32 + b) * 0x40000 ≤ a ∧ a < 0x80000000000 + (c * 32 + b) * 0x40000 + 0x40000 := by
  unfold InFill
  refine exists_congr fun b => and_congr_right fun _ => ?_
  have hlo : spBase c + b * 0x40000 = 0x80000000000 + (c * 32 + b) * 0x40000 := by unfold spBase; omega
  have hhi : spBase c + (b + 1) * 0x40000 = 0x80000000000 + (c * 32 + b) * 0x40000 + 0x40000 := by unfold spBase; omega
  rw [hlo, hhi]

theorem mget_zeroFilled_in {s : State} {c a : Nat} (h : InFill s c a) : mget (zeroFilled s c).mem a = 0 := by
  unfold zeroFilled
  rw [mget_foldl_memZero (fun b => 0x80000000000 + (c * 32 + b) * 0x40000), if_pos ((inFill_iff s c a).mp h)]

theorem mget_zeroFilled_out {s : State} {c a : Nat} (h : ¬ InFill s c a) : mget (zeroFilled s c).mem a = mget s.mem a := by
  unfold zeroFilled
  rw [mget_foldl_memZero (fun b => 0x80000000000 + (c * 32 + b) * 0x40000), if_neg (mt (inFill_iff s c a).mpr h)]

/-- ZERO_FILL_DONE of a core that fills: its banks are cleared, then its registers, and the next work may begin. -/
theorem execZeroFillDone_fills {s : State} {c : CoreId} (hd : domainsUp s = true) (hf : (core s c.val).filling = true) :
    ∃ t, execZeroFillDone c s = .next t ∧ t.mem = (zeroFilled s c.val).mem ∧ ∃ k, SameOccupant (cleared k) (core t c.val) := by
  have hstep : execZeroFillDone c s = .next (((waitersOf (zeroFilled s c.val) c.val).filter (fun j => !staging (zeroFilled s c.val) j)).foldl
      (fun s j => markWait s j 1)
      (stall (kick (modCore (zeroFilled s c.val) c.val cleared) c.val) c.val 2 0 (fillCycles (fillBanks s c.val)))) := by
    unfold execZeroFillDone
    rw [if_neg (by simp [hd, hf])]
    rfl
  rw [hstep]
  generalize zeroFilled s c.val = u
  have hrouse := (kick_roused (modCore u c.val cleared) c.val).trans
    (stall_booked (kick (modCore u c.val cleared) c.val) c.val 2 0 (fillCycles (fillBanks s c.val))).roused
  have hmark := Marked.foldl (fun s j => markWait_marked s j 1) ((waitersOf u c.val).filter (fun j => !staging u j))
    (stall (kick (modCore u c.val cleared) c.val) c.val 2 0 (fillCycles (fillBanks s c.val)))
  refine ⟨_, rfl, ?_, core u c.val, ?_⟩
  · rw [hmark.mem, hrouse.mem, modCore_mem]
  · rw [hmark.core]
    simpa using hrouse.core c.val

/-! ## Staging (R475) -/

/-- An order that makes a tier A copy makes that of its region. -/
theorem stageSource_copy {s : State} {i src size a : Nat} (h : stageSource s (.region i) = some (src, size, some a)) :
    ∃ g x, tget s.store.regions i = some g ∧ g.copy = some x ∧ x.base = a := by
  unfold stageSource at h
  dsimp only at h
  split at h
  · cases h
  · next g hg =>
    split at h
    · next x hx =>
      simp only [Option.some.injEq] at h
      split at h
      · simp at h
      · simp only [Prod.mk.injEq, Option.some.injEq] at h
        exact ⟨g, x, hg, hx, h.2.2⟩
    · simp at h

/-- The tier A copy of an order that makes one. -/
def tierStaged (s : State) (o : StgOrder) (src size : Nat) (ta : Option Nat) : State :=
  match ta, o.obj with
  | some a, .region r =>
    let s := ctrAdd (memCopy s src a size) 0x0230 size
    { s with store.regions := tmap s.store.regions (fun i (g : Region) => if i = r then
        { g with copy := g.copy.map (fun (x : TaCopy) => { x with done := true }) } else g) }
  | _, _ => s

/-- A core's copy that an order performs. -/
def orderTakes (o : StgOrder) (y : SpCopy) : Bool := y.obj == o.obj && !y.done && o.cores.contains y.core

/-- The copies of an order on its cores. -/
def slicesStaged (s : State) (o : StgOrder) (base : Nat) : State :=
  let s := (s.store.spCopies.filter (orderTakes o)).foldl (fun s y => fillSlice s base y) s
  { s with store.spCopies := s.store.spCopies.map (fun y => if orderTakes o y then { y with done := true } else y) }

/-- The sections of an order on an image's region. -/
def sectionsStaged (s : State) (o : StgOrder) : State :=
  match o.obj with
  | .commons _ => s
  | .region r => match s.store.images.find? (fun p => p.2.region == r) with
    | some (img, _) => o.cores.foldl (fun s c => fill31 s img c) s
    | none => s

/-- The cores that an order's copies pin. -/
def orderPins (s : State) (o : StgOrder) : State :=
  pinCores s o.obj (((s.store.spCopies.filter (orderTakes o)).map (·.core)).eraseDups)

theorem performOrder_eq (s : State) (o : StgOrder) (src size : Nat) (ta : Option Nat) :
    performOrder s o src size ta = sectionsStaged (slicesStaged (orderPins (tierStaged s o src size ta) o) o (ta.getD src)) o := rfl

theorem tget_tmap {α : Type} (t : Tab α) (f : Nat → α → α) (k : Nat) : tget (tmap t f) k = (tget t k).map (f k) := by
  induction t with
  | nil => rfl
  | cons p t ih =>
    by_cases h : p.1 = k
    · subst h; simp [tmap, tget]
    · simpa [tmap, tget, h] using ih

/-- The tier A copy changes the regions' table, memory and counters. -/
theorem tierStaged_store (s : State) (o : StgOrder) (src size : Nat) (ta : Option Nat) :
    (tierStaged s o src size ta).store = { s.store with regions := (tierStaged s o src size ta).store.regions } := by
  unfold tierStaged
  split
  · simp only [ctrAdd_store, (memCopy_moves s src _ size).store]
  · rfl

theorem tierStaged_poison {s : State} (h : s.ecc.poison = []) (o : StgOrder) (src size : Nat) (ta : Option Nat) :
    (tierStaged s o src size ta).ecc.poison = [] := by
  unfold tierStaged
  split
  · simp only [ctrAdd_ecc, (memCopy_moves s src _ size).clean h]
  · exact h

theorem fillSlice_moves {s : State} (h : s.ecc.poison = []) (base : Nat) (y : SpCopy) : Moves s (fillSlice s base y) :=
  ((flushGb_moves h _ _).trans (memCopy_moves _ _ _ _)).trans (ctrAdd_observed _ _ _).booked.moves

/-- The copies on cores change the copies' table alone of the store. -/
theorem slicesStaged_store {s : State} (h : s.ecc.poison = []) (o : StgOrder) (base : Nat) : (slicesStaged s o base).store
    = { s.store with spCopies := s.store.spCopies.map (fun y => if orderTakes o y then { y with done := true } else y) } := by
  have hm : Moves s ((s.store.spCopies.filter (orderTakes o)).foldl (fun s y => fillSlice s base y) s) :=
    Moves.foldl (fun _ y hp => fillSlice_moves hp base y) _ h
  unfold slicesStaged
  dsimp only
  rw [hm.store]

theorem slicesStaged_mem {s : State} (h : s.store.spCopies = []) (o : StgOrder) (base : Nat) : (slicesStaged s o base).mem = s.mem := by
  unfold slicesStaged
  rw [h]
  rfl

/-- Sections go to bank 31, whose bytes are not of device memory. -/
theorem fill31_keeps (s : State) (img c : Nat) : (fill31 s img c).store = s.store ∧ (fill31 s img c).mem = s.mem := by
  unfold fill31
  simp only [ctrAdd_store, modCore_store, ctrAdd_mem, modCore_mem, cure_mem, (cure_moves s _).store, and_self]

theorem sectionsStaged_keeps (s : State) (o : StgOrder) : (sectionsStaged s o).store = s.store ∧ (sectionsStaged s o).mem = s.mem := by
  unfold sectionsStaged
  split
  · exact ⟨rfl, rfl⟩
  · split
    · refine List.foldlRecOn (motive := fun u : State => u.store = s.store ∧ u.mem = s.mem) _ _ ⟨rfl, rfl⟩ fun u hu c _ => ?_
      obtain ⟨h1, h2⟩ := fill31_keeps u _ c
      exact ⟨h1.trans hu.1, h2.trans hu.2⟩
    · exact ⟨rfl, rfl⟩

/-! ## A performed order -/

theorem orderPins_store (s : State) (o : StgOrder) : (orderPins s o).store = { s.store with regions := (orderPins s o).store.regions } := rfl

/-- A pinned region keeps its cores, and pinning changes nothing else of it (R635). -/
theorem orderPins_region {s : State} {i : Nat} {g : Region} (o : StgOrder) (h : tget s.store.regions i = some g) :
    ∃ p, tget (orderPins s o).store.regions i = some { g with pinned := p } ∧ (g.pinned ≠ none → p = g.pinned) := by
  unfold orderPins pinCores
  dsimp only
  rw [tget_tmap, h]
  simp only [Option.map_some, Option.some.injEq]
  split
  · next hc =>
    refine ⟨_, rfl, fun hp => ?_⟩
    simp only [Bool.and_eq_true, Option.isNone_iff_eq_none] at hc
    exact absurd hc.1.2 hp
  · exact ⟨g.pinned, rfl, fun _ => rfl⟩

/-- The tier A copy of the order's region is complete. -/
theorem tierStaged_region {s : State} {o : StgOrder} {i : Nat} {g : Region} {x : TaCopy} (src size a : Nat) (ho : o.obj = .region i)
    (hg : tget s.store.regions i = some g) (hx : g.copy = some x) :
    tget (tierStaged s o src size (some a)).store.regions i = some { g with copy := some { x with done := true } } := by
  unfold tierStaged
  rw [ho]
  dsimp only
  rw [ctrAdd_store, (memCopy_moves s src a size).store, tget_tmap, hg, Option.map_some, if_pos rfl, hx, Option.map_some]

theorem tierStaged_mem {s : State} {o : StgOrder} {i : Nat} (src size a : Nat) (ho : o.obj = .region i) :
    (tierStaged s o src size (some a)).mem = (memCopy s src a size).mem := by
  unfold tierStaged
  rw [ho]
  rfl

/-- What a performed order changes of the store: the regions' table, and its copies on cores are done. -/
theorem performOrder_store {s : State} (h : s.ecc.poison = []) (o : StgOrder) (src size : Nat) (ta : Option Nat) :
    (performOrder s o src size ta).store = { s.store with
      regions := (orderPins (tierStaged s o src size ta) o).store.regions
      spCopies := s.store.spCopies.map (fun y => if orderTakes o y then { y with done := true } else y) } := by
  have hp : (orderPins (tierStaged s o src size ta) o).ecc.poison = [] := tierStaged_poison h o src size ta
  rw [performOrder_eq, (sectionsStaged_keeps _ o).1, slicesStaged_store hp, orderPins_store, tierStaged_store]

/-- With no copy on a core, the tier A copy is all that an order writes. -/
theorem performOrder_mem {s : State} {o : StgOrder} {i : Nat} (src size a : Nat) (ho : o.obj = .region i) (hc : s.store.spCopies = []) :
    (performOrder s o src size (some a)).mem = (memCopy s src a size).mem := by
  have hnone : (orderPins (tierStaged s o src size (some a)) o).store.spCopies = [] := by
    rw [orderPins_store, tierStaged_store]
    exact hc
  rw [performOrder_eq, (sectionsStaged_keeps _ o).2, slicesStaged_mem hnone]
  exact tierStaged_mem src size a ho

/-- After an order, each of its object's copies on its cores is done. -/
theorem done_of_orderTakes {o : StgOrder} {y : SpCopy} (ho : (if orderTakes o y then { y with done := true } else y).obj = o.obj)
    (hc : (if orderTakes o y then { y with done := true } else y).core ∈ o.cores) :
    (if orderTakes o y then { y with done := true } else y).done = true := by
  by_cases h : orderTakes o y = true
  · rw [if_pos h]
  · rw [if_neg h] at ho hc ⊢
    by_contra hd
    exact h (by simp [orderTakes, ho, hc, hd])

/-- STAGING_DONE of an order under way whose read finds clean words, when no end point holds off stores. -/
theorem execStagingDone_clean {s : State} {n src size : Nat} {o : StgOrder} {ta : Option Nat} (hd : domainsUp s = true) (hn : n < 16)
    (ho : s.store.orders[n]? = some o) (hs : stageSource s o.obj = some (src, size, ta)) (hp : s.ecc.poison = []) (hl : s.ecc.latent = [])
    (hh : noHold s = true) : ∃ t, execStagingDone n .clean s = .next t ∧ t.mem = (performOrder s o src size ta).mem ∧
      t.store = { (performOrder s o src size ta).store with orders := s.store.orders.eraseIdx n } := by
  have horders : (performOrder s o src size ta).store.orders = s.store.orders := by rw [performOrder_store hp]
  unfold execStagingDone
  rw [if_neg (by simp [hd, hn])]
  dsimp only
  rw [ho]
  dsimp only
  rw [hs]
  dsimp only
  rw [bulkRead_clean hp hl]
  dsimp only
  rw [waitHold_of_noHold hh]
  generalize performOrder s o src size ta = v at horders ⊢
  have hmark := Marked.foldl (fun s j => markWait_marked s j 3)
    (o.jobs.filter (fun j => !isPart j && !staging { v with store.orders := v.store.orders.eraseIdx n } j))
    { v with store.orders := v.store.orders.eraseIdx n }
  refine ⟨_, rfl, ?_, ?_⟩
  · rw [(Roused.foldl kick_roused _ _).mem, hmark.mem]
  · rw [(Roused.foldl kick_roused _ _).store, hmark.store, horders]

end Sys2Proof.Machine
end

section
/-! PROOFS. The configuration loader and the feeds, and the statement of the four (17_tiling_buckets_and_chains.md R429, R434, R442, R443;
11_sequencer_and_tile_instructions.md R284). -/

namespace Sys2Proof.Machine

/-! ## The configuration loader (R434, R442, R443) -/

/-- What the loader leaves alone once a core has its section: the store, the jobs and every core's section. -/
structure Loads (s t : State) : Prop where
  store : t.store = s.store
  dsp : t.dsp = s.dsp
  core : ∀ d, SameSection (core s d) (core t d)

theorem Loads.refl (s : State) : Loads s s := ⟨rfl, rfl, fun _ => .refl _⟩

theorem Loads.trans {a b c : State} (h : Loads a b) (g : Loads b c) : Loads a c :=
  ⟨g.store.trans h.store, g.dsp.trans h.dsp, fun d => (h.core d).trans (g.core d)⟩

theorem Loads.foldl {α : Type} {f : State → α → State} (h : ∀ s x, Loads s (f s x)) (l : List α) (s : State) : Loads s (l.foldl f s) :=
  List.foldlRecOn l f (Loads.refl s) fun _ hb x _ => hb.trans (h _ x)

theorem Moves.loads {s t : State} (h : Moves s t) : Loads s t := ⟨h.store, h.dsp, h.core⟩

/-- A state with the cores, the store and the jobs of another. -/
theorem loads_of_cores {s t : State} (hs : t.store = s.store) (hd : t.dsp = s.dsp) (hc : t.cores = s.cores) : Loads s t :=
  ⟨hs, hd, fun d => by unfold Machine.core; rw [hc]; exact .refl _⟩

theorem issueFrame_loads (s : State) (node : Nat) (vc : Vc) (flits : Nat) : Loads s (issueFrame s node vc flits) := by
  unfold issueFrame
  dsimp only
  split
  · exact loads_of_cores rfl rfl rfl
  · exact loads_of_cores rfl rfl rfl

theorem sendTotal_loads (s : State) (c r : Nat) : Loads s (sendTotal s c r) := by
  unfold sendTotal
  split
  · exact Loads.refl s
  · split
    · exact Loads.refl s
    · unfold sendCredit
      dsimp only
      refine Loads.trans ?_ (issueFrame_loads _ _ _ _)
      exact loads_of_cores rfl rfl rfl

theorem setCirc_loads (s : State) (c r : Nat) (x : Circ) : Loads s (setCirc s c r x) := by
  refine ⟨rfl, rfl, fun d => ?_⟩
  rw [setCirc, modCore, core_setCore]
  split
  · next h => exact h ▸ ⟨rfl, rfl, rfl, rfl, rfl⟩
  · exact .refl _

theorem grantCredits_loads (s : State) (c r n : Nat) : Loads s (grantCredits s c r n) := by
  unfold grantCredits
  split
  · exact Loads.refl s
  · dsimp only
    split
    · exact (setCirc_loads _ _ _ _).trans (sendTotal_loads _ _ _)
    · exact loads_of_cores rfl rfl rfl

/-- A core has loaded a section. -/
structure SectionIn (id : Nat × Nat) (x : SectionDesc) (k : Core) : Prop where
  sec : k.sec = some id
  imem : k.imem = numbered x.code
  codeLen : k.codeLen = 4 * x.code.length
  drn : k.drn = numbered x.drn
  entry : k.seq.entry = BitVec.ofNat 64 x.entry

theorem SectionIn.of_same {id : Nat × Nat} {x : SectionDesc} {k k' : Core} (h : SectionIn id x k) (g : SameSection k k') : SectionIn id x k' :=
  ⟨g.sec.trans h.sec, g.imem.trans h.imem, g.codeLen.trans h.codeLen, g.drn.trans h.drn, g.entry.trans h.entry⟩

/-- The loader gives a core its section and the work starts from the section's entry; the store and the jobs stay. -/
theorem loadSection_starts {s : State} (hp : s.ecc.poison = []) (c w : Nat) (id : Nat × Nat) (x : SectionDesc) :
    (loadSection s c w id x).store = s.store ∧ (loadSection s c w id x).dsp = s.dsp ∧
      SectionIn id x (core (loadSection s c w id x) c) ∧ (core (loadSection s c w id x) c).work = some w ∧
      ∃ q : Seq, (core (loadSection s c w id x) c).seq = q.start ∧ q.entry = BitVec.ofNat 64 x.entry := by
  unfold loadSection
  extract_lets slices net dropped loaded written cycles stalled traced granted
  have hsec : SectionIn id x (core loaded c) := by
    rw [show core loaded c = _ from core_modCore_self dropped c _]
    exact ⟨rfl, rfl, rfl, rfl, rfl⟩
  have hflush := flushGb_moves (s := loaded) hp (spBase c + x.dataOff * 64) x.data.length
  have hmove : Loads loaded written := (hflush.trans (memWrite_moves (hflush.clean hp) _ _)).loads
  have hbook : Loads written traced :=
    ((stall_booked written c 3 0 cycles).trans (traceCore_observed stalled _ _ _ _ _).booked).moves.loads
  have hregion (u : State) (r : Nat) : Loads u (if (circ u c r).size = 0 then u else grantCredits u c r (circ u c r).size) := by
    split
    · exact Loads.refl u
    · exact grantCredits_loads u c r _
  have hgrant : Loads traced granted := Loads.foldl hregion _ _
  have hload := (hmove.trans hbook).trans hgrant
  have hgranted := hsec.of_same (hload.core c)
  obtain ⟨k, hstart, hwork, hseq, hsame, -⟩ := startWork_starts granted c w
  have hk : core (startWork granted c w) c = k := by rw [hstart.core, core_setCore_self]
  rw [hk, hwork, hseq]
  refine ⟨?_, ?_, hgranted.of_same hsame, rfl, _, rfl, hgranted.entry⟩
  · rw [hstart]
    exact hload.store
  · rw [hstart]
    exact hload.dsp

/-- CONFIG_LOAD of a core that waits for a section that its bank 31 holds. -/
theorem execConfigLoad_loads {s : State} {c : CoreId} {w : Nat} {id : Nat × Nat} {x : SectionDesc} (hd : domainsUp s = true)
    (hw : (core s c.val).work = some w) (hs : sectionOf s w c.val = some id) (hx : secDesc s id = some x)
    (hf : (core s c.val).filling = false) (hr : (core s c.val).seq.run = .idle) (hsec : (core s c.val).sec ≠ some id)
    (hstage : (members s w).any (staging s) = false) (h31 : has31 s c.val id.1 id.2 = true) (hp : s.ecc.poison = [])
    (hl : s.ecc.latent = []) (hb : (bank s (c.val * 32 + 31)).retired = false) :
    ∃ t, execConfigLoad c .clean s = .next t ∧ t.store = s.store ∧ t.dsp.parts = s.dsp.parts ∧ SectionIn id x (core t c.val) ∧
      (core t c.val).work = some w ∧ ∃ q : Seq, (core t c.val).seq = q.start ∧ q.entry = BitVec.ofNat 64 x.entry := by
  unfold execConfigLoad
  dsimp only
  rw [hw]
  dsimp only
  rw [hs]
  dsimp only
  rw [if_neg (by simp [hd, hf, hr, hsec, hstage, hb]), if_neg (by simp [h31]), bulkRead_clean hp hl]
  dsimp only
  rw [hx]
  dsimp only
  generalize hu : modCore s c.val _ = u
  have hup : u.ecc.poison = [] := by rw [← hu]; exact hp
  obtain ⟨hstore, hdsp, hcore⟩ := loadSection_starts hup c.val w id x
  have hmark := Marked.foldl (f := fun s j => if isPart j then s else markWait s j 2) (fun s j => by
    split
    · rfl
    · exact markWait_marked s j 2) (members (loadSection u c.val w id x) w) (loadSection u c.val w id x)
  refine ⟨_, rfl, ?_, ?_, ?_⟩
  · rw [hmark.store, hstore, ← hu]
    rfl
  · rw [hmark.parts, hdsp, ← hu]
    rfl
  · rw [hmark.core]
    exact hcore

/-! ## Feeds (R429) -/

/-- A read that finds neither a poisoned word nor an error to be found. -/
theorem eccRead_of_not_poisoned {s : State} {a n : Nat} (hp : poisonedIn s a n = []) (hl : s.ecc.latent = []) (w : Option Nat) :
    eccRead s a n .clean w = (s, true) := by
  have hdue : eccDue s a n = [] := by
    unfold eccDue
    rw [List.filterMap_eq_nil_iff]
    intro x hx
    have hgood : s.ecc.poison.contains x = false := by simpa using List.filter_eq_nil_iff.mp hp x hx
    rw [if_neg (by rw [hgood]; decide), hl]
    rfl
  unfold eccRead eccLay eccCheck
  rw [if_pos rfl, hdue]
  split <;> rfl

/-- The rows of a tile that may all be read, and in which no word is bad. -/
theorem feedRows_ok {s : State} {w t base pitch n : Nat} (hl : s.ecc.latent = []) (cnt i : Nat)
    (h : ∀ m, i ≤ m → m < i + cnt → endpoint s t (base + m * pitch) n false = .ok ∧ poisonedIn s (base + m * pitch) n = []) :
    feedRows w t base pitch n cnt i s = .ok ((List.range' i cnt).flatMap (fun m => mread s.mem (base + m * pitch) n)) s := by
  induction cnt generalizing i with
  | zero => rfl
  | succ k ih =>
    obtain ⟨hok, hgood⟩ := h i (Nat.le_refl _) (by omega)
    unfold feedRows
    dsimp only
    rw [hok]
    dsimp only
    rw [eccRead_of_not_poisoned hgood hl]
    dsimp only
    rw [ih (i + 1) (fun m h1 h2 => h m (by omega) (by omega))]
    rfl

/-- Where in its source the next tile of a feed begins (log entry 16). -/
def tileAt (f : Feed) (ext : List Nat) (base size : Nat) : Nat :=
  base + Config.feedTile (walkIdx f.walk ext 0) (walkIdx f.walk ext 1) (walkIdx f.walk ext 2) (walkIdx f.walk ext 3) f.desc.rowBytes
    f.desc.rowsPerTile f.desc.pitch % (size - ((f.desc.rowsPerTile - 1) * f.desc.pitch + f.desc.rowBytes) + 1)

/-- The bytes of a tile that begins at an address. -/
def tileBytes (s : State) (f : Feed) (a : Nat) : List Byte :=
  (List.range f.desc.rowsPerTile).flatMap (fun i => mread s.mem (a + i * f.desc.pitch) f.desc.rowBytes)

/-- The units of 4 KiB that a tile of a feed takes. -/
def tileUnits (f : Feed) : Nat := cdiv (f.desc.rowBytes * f.desc.rowsPerTile) 4096

/-- The token of a feed's next tile. -/
def feedTok (s : State) (c w : Nat) (f : Feed) (a : Nat) : TokMsg :=
  { writer := 0, core := 64, ord := 0, dcore := c, dreg := f.desc.dest, tag := workTag s w, units := tileUnits f,
    data := tileBytes s f a, work := w, gen := workGen s w, tcid := workTcid s w }

/-- A feed once its next tile is sent. -/
def fedFeed (f : Feed) (ext : List Nat) : Feed := { f with walk := (walkNext f.walk ext).2, credits := f.credits - tileUnits f }

/-- FEED_TOKEN of a feed within its credits whose next tile may be read. -/
theorem execFeedToken_sends {s : State} {c : CoreId} {n : Fin 4} {f : Feed} {w base size v : Nat} (hd : domainsUp s = true)
    (hr : (core s c.val).seq.run ≠ .idle) (hf : (core s c.val).feeds[n.val]? = some f) (hw : (core s c.val).work = some w)
    (hdone : f.walk.done = false) (hok : walkOk f.walk.w (core s c.val).ext = true)
    (hsrc : feedSource s w f.desc.source = some (base, size, v)) (hunits : tileUnits f ≤ f.credits) (hl : s.ecc.latent = [])
    (hrows : ∀ i, i < f.desc.rowsPerTile →
      endpoint s v (tileAt f (core s c.val).ext base size + i * f.desc.pitch) f.desc.rowBytes false = .ok ∧
        poisonedIn s (tileAt f (core s c.val).ext base size + i * f.desc.pitch) f.desc.rowBytes = []) :
    execFeedToken c n s = .next (modCore
      { s with net.toks := s.net.toks ++ [feedTok s c.val w f (tileAt f (core s c.val).ext base size)] }
      c.val (fun k => { k with feeds := k.feeds.set n.val (fedFeed f (core s c.val).ext) })) := by
  have hread := feedRows_ok (w := w) (pitch := f.desc.pitch) hl f.desc.rowsPerTile 0 fun i _ hi => hrows i (by omega)
  unfold tileUnits at hunits
  unfold execFeedToken
  dsimp only
  rw [if_neg (by simp [hd, hr]), hf, hw]
  dsimp only
  rw [if_neg (by simp [hdone, hok, hunits]), hsrc]
  dsimp only
  unfold tileAt at hread
  rw [hread, ← List.range_eq_range']
  rfl

/-- Settles O33: a fill clears its banks and the core's registers, an order that reads clean performs its copies, the loader starts the
section it moved, and a feed sends the rows it read. The banks filled are those of log entry 53, a tile's place is that of log entry 16. -/
theorem coresAreFilledStagedAndLoaded : Obligations.CoresAreFilledStagedAndLoaded := by
  unfold Obligations.CoresAreFilledStagedAndLoaded
  intro s hd
  refine ⟨fun c hf => ?_, fun n o src size ta hn ho hs hp hl hh => ?_,
    fun c w id x hw hsec hx hf hr hne hstage h31 hp hl hb => ?_, fun c n f w base size v hr hf hw hdone hok hsrc => ?_⟩
  · obtain ⟨t, ht, hmem, k, hk⟩ := execZeroFillDone_fills hd hf
    refine ⟨t, ht, fun a ha => ?_, fun a ha => ?_, hk.filling, hk.acc, hk.maskReg, hk.atgt, hk.g⟩
    · rw [hmem]
      exact mget_zeroFilled_in ha
    · rw [hmem]
      exact mget_zeroFilled_out ha
  · obtain ⟨t, ht, hmem, hstore⟩ := execStagingDone_clean hd hn ho hs hp hl hh
    rw [performOrder_store hp] at hstore
    refine ⟨t, ht, by rw [hstore], fun y hy hobj hcore => ?_, fun a i hta hoi g hg => ?_, fun a hta hoi hnone hwf hdis i hi => ?_⟩
    · rw [hstore] at hy
      obtain ⟨z, -, rfl⟩ := List.mem_map.mp hy
      exact done_of_orderTakes hobj hcore
    · subst hta
      obtain ⟨g', x, hg', hx, hbase⟩ := stageSource_copy (hoi ▸ hs)
      cases hg.symm.trans hg'
      obtain ⟨p, hregion, hpin⟩ := orderPins_region o (tierStaged_region src size a hoi hg hx)
      exact ⟨{ x with done := true }, p, by rw [hstore]; exact hregion, hpin, rfl, hbase⟩
    · obtain ⟨r, hr⟩ := hoi
      subst hta
      rw [hmem, performOrder_mem src size a hr hnone]
      exact mget_memCopy hwf hdis hi
  · obtain ⟨t, ht, hstore, hparts, hin, hwork, q, hq, hentry⟩ := execConfigLoad_loads hd hw hsec hx hf hr hne hstage h31 hp hl hb
    refine ⟨t, ht, hin.sec, hwork, ?_, ?_, hin.imem, hin.codeLen, hin.drn, hparts, hstore⟩
    · rw [hq]
      rfl
    · rw [hq, ← hentry]
      rfl
  · intro d units ix a hunits hl hrows data m f'
    refine ⟨_, execFeedToken_sends hd hr hf hw hdone hok hsrc hunits hl hrows, rfl, ?_, fun e he => ?_, rfl⟩
    · rw [core_modCore_self]
      rfl
    · rw [core_modCore_ne _ (Ne.symm he)]
      rfl

end Sys2Proof.Machine
end

section
/-! PROOFS. Tray time, the CORE frequency and the monitors that set it, the close of its windows, and the policy commands
(03_clocks_power_and_sleep.md R58 to R62, R78 to R85, R640; 07_management_commands.md R161, R193). -/

namespace Sys2Proof.Machine

/-! ## Tray time (R60, R61) -/

theorem tickAdd_eq (e : Eft) : tickAdd e = if e.stepAdd ≠ 0 then 320 + e.stepAdd else 320 - min 8 e.slew := by
  unfold tickAdd
  split
  · rfl
  · split
    · next h => simp [h]
    · rfl

/-- The errors that lie in memory words once a tick has brought its own (log entry 39). -/
def upsetLatent (edge : EftEdge) (s : State) : Tab EccFind :=
  edge.upsets.foldl (fun t x => if x.2 = .clean then t else tset t (x.1 / 8 * 8) x.2) s.ecc.latent

/-- The Eft island after a tick on which it runs. -/
def tickedEft (edge : EftEdge) (s : State) : Eft := { eftAdvance s.eft with frzLowPrev := s.eft.frzLow, frzLow := edge.frzLow }

/-- A tick on a frozen tray samples FRZ_N and leaves tray time (R604). -/
theorem execEftTick_frozen {edge : EftEdge} {s : State} (hp : s.eft.power = true) (hf : s.eft.frozen = true) :
    execEftTick edge s = .next { s with
      ecc.latent := upsetLatent edge s
      eft := { s.eft with frzLowPrev := s.eft.frzLow, frzLow := edge.frzLow,
                          tick := if s.eft.frzStep < 11 then s.eft.tick + 1 else s.eft.tick } } := by
  unfold execEftTick
  dsimp only
  rw [if_neg (by simp [hp]), if_pos hf]
  rfl

/-- After a trip only the Eft island goes on (R60, R82). -/
theorem execEftTick_tripped {edge : EftEdge} {s : State} (hp : s.eft.power = true) (hf : s.eft.frozen = false)
    (ht : s.eft.tripped = true) :
    execEftTick edge s = .next { s with ecc.latent := upsetLatent edge s, eft := tickedEft edge s } := by
  unfold execEftTick
  dsimp only
  rw [if_neg (by simp [hp]), if_neg (by simp [hf]), if_pos ht]
  rfl

/-- A tick of a running tray counts idle and SLEEP time too (R62). -/
theorem execEftTick_running {edge : EftEdge} {s : State} (hp : s.eft.power = true) (hf : s.eft.frozen = false)
    (ht : s.eft.tripped = false) : ∃ idle scrub, execEftTick edge s = .next { s with
      ecc.latent := upsetLatent edge s
      eft := tickedEft edge s
      pwr := { s.pwr with idleTicks := idle, scrubTicks := scrub,
                          sleepTicks := if s.pwr.power == .sleep then s.pwr.sleepTicks + 1 else 0 } } := by
  unfold execEftTick
  dsimp only
  rw [if_neg (by simp [hp]), if_neg (by simp [hf]), if_neg (by simp [ht])]
  exact ⟨_, _, rfl⟩

theorem upsetLatent_none {edge : EftEdge} (s : State) (h : edge.upsets = []) : upsetLatent edge s = s.ecc.latent := by
  unfold upsetLatent
  rw [h]
  rfl

/-- Settles O7: on a running tray, tripped or not, the tick is `eftAdvance`, and a frozen tray counts no time. Errors that come to
lie in words are log entry 39. -/
theorem eftTickAdvancesTrayTime : Obligations.EftTickAdvancesTrayTime := by
  unfold Obligations.EftTickAdvancesTrayTime
  intro s edge hp
  refine ⟨fun hf => ?_, fun hf => ⟨_, execEftTick_frozen hp hf, rfl, rfl, rfl⟩⟩
  have htime : (tickedEft edge s).time
      = (s.eft.time + (if s.eft.stepAdd ≠ 0 then 320 + s.eft.stepAdd else 320 - min 8 s.eft.slew)) % 2 ^ 64 := by
    rw [← tickAdd_eq]
    rfl
  have hslew : s.eft.stepAdd = 0 → (tickedEft edge s).slew = s.eft.slew - min 8 s.eft.slew := fun h => if_neg (not_not.mpr h)
  have hecc (h : edge.upsets = []) : { s.ecc with latent := upsetLatent edge s } = s.ecc := by rw [upsetLatent_none s h]
  cases ht : s.eft.tripped with
  | true => exact ⟨_, execEftTick_tripped hp hf ht, htime, hslew, rfl, rfl, rfl, rfl, nofun, hecc, rfl⟩
  | false =>
    obtain ⟨idle, scrub, hstep⟩ := execEftTick_running (edge := edge) hp hf ht
    exact ⟨_, hstep, htime, hslew, rfl, rfl, rfl, rfl, fun _ => if_congr beq_iff_eq rfl rfl, hecc, rfl⟩

/-! ## The CORE frequency and the monitors (R58, R78 to R80, R85) -/

theorem traceTray_observed (s : State) (type arg : Nat) : Observed s (traceTray s type arg) := trcTake_observed _ _

theorem closeWin_eq (s : State) :
    closeWin s = { s with pwr.win := (closeWin s).pwr.win, pwr.closedWins := (closeWin s).pwr.closedWins } := by
  unfold closeWin
  split
  · split <;> rfl
  · rfl

/-- `t` is `s` with the CORE frequency that its ceilings and CORE_FMAX give, NOC and the voltage after it, and the windows that
report it. -/
structure Follows (s t : State) : Prop where
  eq : t = { s with pwr := t.pwr, obs := t.obs }
  pwr : t.pwr = { s.pwr with coreMhz := t.pwr.coreMhz, nocMhz := t.pwr.nocMhz, coreMv := t.pwr.coreMv, win := t.pwr.win,
                             closedWins := t.pwr.closedWins }
  core : t.pwr.coreMhz = coreTarget s
  noc : t.pwr.coreMhz = s.pwr.coreMhz ∧ t.pwr.nocMhz = s.pwr.nocMhz ∨ t.pwr.nocMhz = nocOf t.pwr.coreMhz

theorem nocOf_eq (f : Nat) : nocOf f = max 400 ((4 * f + 74) / 75 * 25) := rfl

theorem Follows.mon {s t : State} (h : Follows s t) (k : Nat) : mon t k = mon s k := by
  unfold Machine.mon
  rw [h.pwr]

theorem Follows.coreTarget {s t : State} (h : Follows s t) : t.pwr.coreMhz = coreTarget t := by
  rw [h.core]
  unfold Machine.coreTarget Machine.mon
  rw [h.pwr]

/-- The tray at a CORE frequency, a NOC frequency and a voltage. -/
def atFreq (s : State) (mhz noc : Nat) (mv : Int) : State := { s with pwr.coreMhz := mhz, pwr.nocMhz := noc, pwr.coreMv := mv }

/-- A changed frequency is counted and traced, and a window reports it (R80). -/
theorem applyFreq_cases (s : State) (k : Nat) : coreTarget s = s.pwr.coreMhz ∧ applyFreq s k = s ∨
    ∃ mv u win, Observed (atFreq s (coreTarget s) (nocOf (coreTarget s)) mv) u ∧
      applyFreq s k = { closeWin u with pwr.win := some win } := by
  unfold applyFreq
  extract_lets old new p changed counted traced closed w
  have hobs : Observed changed traced := (ctrAdd_observed changed _ _).trans (traceTray_observed counted _ _)
  clear_value w traced
  split
  · next h => exact .inl ⟨h, rfl⟩
  · exact .inr ⟨_, traced, w, hobs, rfl⟩

/-- What a reported change leaves. -/
theorem reported_eq {s u : State} {mhz noc : Nat} {mv : Int} (h : Observed (atFreq s mhz noc mv) u) (win : ClkWin) :
    { closeWin u with pwr.win := some win } = { s with
      pwr := { s.pwr with coreMhz := mhz, nocMhz := noc, coreMv := mv, win := some win, closedWins := (closeWin u).pwr.closedWins }
      obs := u.obs } := by
  rw [closeWin_eq, h]
  rfl

theorem applyFreq_follows (s : State) (k : Nat) : Follows s (applyFreq s k) := by
  obtain ⟨h, hs⟩ | ⟨mv, u, win, hu, ht⟩ := applyFreq_cases s k
  · rw [hs]
    exact ⟨rfl, rfl, h.symm, .inl ⟨rfl, rfl⟩⟩
  · rw [ht, reported_eq hu]
    exact ⟨rfl, rfl, rfl, .inr rfl⟩

/-- What a monitor holds after its sample at grid point `n` (R640). -/
def sampledMon (s : State) (m : Monitor) (x : Int) (n : Nat) : Mon :=
  if m = .current then
    if s.pwr.overcurrent then { stepDown (mon s (monIdx m)) with idx := some n, below := none }
    else monRelease s.boot.gap.isSome m { mon s (monIdx m) with idx := some n } n
  else monSample s.boot.gap.isSome m (mon s (monIdx m)) x n s.eft.tick

/-- `u` is `s` with monitor `k` as given: the readings may be new, and no other ceiling is. -/
structure Monitored (s u : State) (k : Nat) (m : Mon) : Prop where
  eq : u = { s with pwr := { s.pwr with mons := u.pwr.mons, tj := u.pwr.tj, pkgMw := u.pwr.pkgMw, trayMw := u.pwr.trayMw } }
  self : mon u k = m
  other : ∀ j, j ≠ k → (mon u j).ceil = (mon s j).ceil

theorem setMon_monitored {s u : State} {k : Nat} (m : Mon) (h : ∀ j, j ≠ k → (mon u j).ceil = (mon s j).ceil)
    (hu : u = { s with pwr := { s.pwr with mons := u.pwr.mons, tj := u.pwr.tj, pkgMw := u.pwr.pkgMw, trayMw := u.pwr.trayMw } }) :
    Monitored s { u with pwr.mons := tset u.pwr.mons k m } k m where
  eq := by rw [hu]
  self := by simp [mon]
  other j hj := by
    rw [← h j hj]
    simp [mon, tgetD_tset_ne _ (Ne.symm hj)]

theorem noteReading_eq (s : State) (m : Monitor) (x : Int) : noteReading s m x = { s with
    pwr.tj := (noteReading s m x).pwr.tj, pwr.pkgMw := (noteReading s m x).pwr.pkgMw, pwr.trayMw := (noteReading s m x).pwr.trayMw } := by
  cases m <;> rfl

theorem noteReading_mon (s : State) (m : Monitor) (x : Int) (j : Nat) : mon (noteReading s m x) j = mon s j := by
  unfold mon
  rw [noteReading_eq]

/-- A release timer that starts anew leaves every ceiling. -/
theorem resetReleases_ceil (s : State) (j : Nat) : (mon (resetReleases s) j).ceil = (mon s j).ceil := by
  unfold mon resetReleases
  dsimp only
  rw [tgetD_tmap s.pwr.mons (fun _ (m : Mon) => { m with below := none }) j {} rfl]

/-- MONITOR_SAMPLE at a grid point (R640); a THERMAL_HARD trigger starts the release timers anew. -/
theorem execMonitorSample_samples {s : State} {m : Monitor} {n : Nat} (x : Int) (hg : gridPoint s m = some n) (hr : monitorsRun s = true) :
    ∃ u, execMonitorSample m x s = .next (applyFreq u (monIdx m)) ∧ Monitored s u (monIdx m) (sampledMon s m x n) := by
  have hset : Monitored s { noteReading s m x with pwr.mons := tset (noteReading s m x).pwr.mons (monIdx m) (sampledMon s m x n) }
      (monIdx m) (sampledMon s m x n) :=
    setMon_monitored _ (fun j _ => by rw [noteReading_mon]) (by rw [noteReading_eq])
  have hstep : execMonitorSample m x s = .next (applyFreq
      (if m = .thermalHard && (sampledMon s m x n).triggered && !(mon s (monIdx m)).triggered then
        let u := resetReleases
          { noteReading s m x with pwr.mons := tset (noteReading s m x).pwr.mons (monIdx m) (sampledMon s m x n) }
        { u with pwr.mons := tset u.pwr.mons (monIdx m) (sampledMon s m x n) }
      else { noteReading s m x with pwr.mons := tset (noteReading s m x).pwr.mons (monIdx m) (sampledMon s m x n) }) (monIdx m)) := by
    unfold execMonitorSample
    rw [hg]
    dsimp only
    rw [if_neg (by simp [hr])]
    rfl
  refine ⟨_, hstep, ?_⟩
  split
  · refine setMon_monitored _ (fun j hj => ?_) ?_
    · rw [resetReleases_ceil, hset.other j hj]
    · unfold resetReleases
      rw [hset.eq]
  · exact hset

/-! ### What a sample does to its monitor's ceiling (Table 3-8) -/

/-- Where the condition holds, the ceiling is that of the monitor's step. -/
theorem sampledMon_of_holds {s : State} {m : Monitor} {x : Int} (n : Nat) (hm : m ≠ .current) (hx : ∀ k, monHolds m k x = true) :
    ∃ k : Mon, k.ceil = (mon s (monIdx m)).ceil ∧ sampledMon s m x n = monStep m k (n - (mon s (monIdx m)).run.getD n) := by
  unfold sampledMon monSample
  rw [if_neg hm]
  dsimp only
  rw [if_pos (hx _)]
  refine ⟨_, ?_, rfl⟩
  rfl

theorem sampled_thermalHard (s : State) {x : Int} (n : Nat) (hx : 1050 ≤ x) : (sampledMon s .thermalHard x n).ceil = 100 := by
  obtain ⟨k, -, hs⟩ := sampledMon_of_holds (s := s) (m := .thermalHard) (x := x) n nofun fun k => by simpa [monHolds] using hx
  rw [hs]
  rfl

/-- The first sample at 95 °C is a step. -/
theorem sampled_thermal {s : State} {x : Int} (n : Nat) (hx : 950 ≤ x) (hrun : (mon s 0).run = none) :
    (sampledMon s .thermal x n).ceil = max 100 ((mon s 0).ceil - 25) := by
  obtain ⟨k, hk, hs⟩ := sampledMon_of_holds (s := s) (m := .thermal) (x := x) n nofun fun k => by simpa [monHolds] using hx
  have hk : k.ceil = (mon s 0).ceil := hk
  have hfirst : n - (mon s (monIdx .thermal)).run.getD n = 0 := by simp [monIdx, hrun]
  rw [hs, hfirst, ← hk]
  rfl

theorem sampled_pkgFast (s : State) {x : Int} (n : Nat) (hx : 175000 < x) :
    (sampledMon s .pkgFast x n).ceil = max 100 ((mon s 2).ceil - 25) := by
  obtain ⟨k, hk, hs⟩ := sampledMon_of_holds (s := s) (m := .pkgFast) (x := x) n nofun fun k => by simpa [monHolds] using hx
  have hk : k.ceil = (mon s 2).ceil := hk
  rw [hs, ← hk]
  rfl

theorem sampled_trayInput (s : State) {x : Int} (n : Nat) (hx : 185000 < x) :
    (sampledMon s .trayInput x n).ceil = max 100 ((mon s 5).ceil - 25) := by
  obtain ⟨k, hk, hs⟩ := sampledMon_of_holds (s := s) (m := .trayInput) (x := x) n nofun fun k => by simpa [monHolds] using hx
  have hk : k.ceil = (mon s 5).ceil := hk
  rw [hs, ← hk]
  rfl

/-- CURRENT after its warning (R640). -/
def warnedMon (s : State) : Mon :=
  { stepDown (mon s 6) with triggered := true, trigTick := if (mon s 6).triggered then (mon s 6).trigTick else s.eft.tick,
                            origin := s.eft.tick, idx := some 0, below := none }

/-- CURRENT once its warning is over. -/
def calmedMon (s : State) : Mon := { mon s 6 with triggered := false, origin := s.eft.tick, idx := some 0, below := some 0 }

theorem execCurrentWarning_steps {s : State} (hr : monitorsRun s = true) : execCurrentWarning s =
    .next (applyFreq { s with pwr.overcurrent := true, pwr.mons := tset s.pwr.mons 6 (warnedMon s) } 6) := by
  unfold execCurrentWarning
  rw [if_neg (by simp [hr])]
  rfl

/-- Settles O8: every sample, warning and CORE_FMAX step ends in `applyFreq`, and a sample touches one ceiling. -/
theorem monitorsSetTheClock : Obligations.MonitorsSetTheClock := by
  unfold Obligations.MonitorsSetTheClock
  intro s ha follows
  have hfollows {u t : State} (h : Follows u t) (hu : u = { s with pwr := u.pwr }) (hc : u.pwr.coreMhz = s.pwr.coreMhz)
      (hn : u.pwr.nocMhz = s.pwr.nocMhz) : follows t := by
    refine ⟨h.coreTarget, ?_, ?_⟩
    · rw [← hc, ← hn]
      exact h.noc.imp_right fun hn => hn.trans (nocOf_eq _)
    · have heq := h.eq
      rw [hu] at heq
      exact heq
  refine ⟨fun m x hg => ?_, fun hr => ⟨fun m x hg => ?_, ?_, fun ho => ?_⟩, fun hl ht => ?_⟩
  · show execMonitorSample m x s = .next s
    unfold execMonitorSample
    rw [hg]
  · obtain ⟨n, hn⟩ := Option.ne_none_iff_exists'.mp hg
    obtain ⟨u, hstep, hu⟩ := execMonitorSample_samples x hn hr
    have h := applyFreq_follows u (monIdx m)
    generalize applyFreq u (monIdx m) = t at hstep h
    have hself : (mon t (monIdx m)).ceil = (sampledMon s m x n).ceil := by rw [h.mon, hu.self]
    refine ⟨t, hstep, hfollows h (by rw [hu.eq]) (by rw [hu.eq]) (by rw [hu.eq]), fun k hk => by rw [h.mon, hu.other k hk],
      ?_, ?_, ?_, ?_⟩
    · rintro rfl hx
      exact hself.trans (sampled_thermalHard s n hx)
    · rintro rfl hx hrun
      exact hself.trans (sampled_thermal n hx hrun)
    · rintro rfl hx
      exact hself.trans (sampled_pkgFast s n hx)
    · rintro rfl hx
      exact hself.trans (sampled_trayInput s n hx)
  · have h := applyFreq_follows { s with pwr.overcurrent := true, pwr.mons := tset s.pwr.mons 6 (warnedMon s) } 6
    have hstep := execCurrentWarning_steps hr
    generalize applyFreq _ 6 = t at hstep h
    have hmon : mon t 6 = warnedMon s := by rw [h.mon, mon, tgetD_tset_self]
    exact ⟨t, hstep, hfollows h rfl rfl rfl, by rw [h.pwr], by rw [hmon]; rfl, by rw [hmon]; rfl⟩
  · have hstep : execOvercurrentWarningDeassert s = .next { s with pwr.overcurrent := false, pwr.mons := tset s.pwr.mons 6 (calmedMon s) } := by
      unfold execOvercurrentWarningDeassert
      rw [if_neg (by simp [hr, ho])]
      rfl
    refine ⟨_, hstep, rfl, ?_, ?_, ?_, rfl⟩
    all_goals
      rw [mon, tgetD_tset_self]
      rfl
  · have hstep : execFmaxStep s = .next (applyFreq
        { s with pwr.fmaxNow := max s.pwr.coreFmax (s.pwr.fmaxNow - 25), pwr.fmaxTick := s.eft.tick } 7) := by
      unfold execFmaxStep
      rw [if_neg (by simp [ha, hl, ht])]
    have h := applyFreq_follows { s with pwr.fmaxNow := max s.pwr.coreFmax (s.pwr.fmaxNow - 25), pwr.fmaxTick := s.eft.tick } 7
    generalize applyFreq _ 7 = t at hstep h
    exact ⟨t, hstep, hfollows h rfl rfl rfl, by rw [h.pwr]⟩

/-! ## CLOCK_STEP and POWER_FLOOR (R80, R81) -/

/-- A window whose 1 ms is not over stays open. -/
theorem closeWin_young {s : State} {w : ClkWin} (hw : s.pwr.win = some w) (h : s.eft.tick < w.opened + 3125) : closeWin s = s := by
  unfold closeWin
  rw [hw]
  exact if_neg (by omega)

/-- A window whose 1 ms is over closes. -/
theorem closeWin_old {s : State} {w : ClkWin} (hw : s.pwr.win = some w) (h : w.opened + 3125 ≤ s.eft.tick) :
    closeWin s = { s with pwr.win := none, pwr.closedWins := s.pwr.closedWins ++ [w] } := by
  unfold closeWin
  rw [hw]
  exact if_pos h

/-- Outside an activation gap CLOCK_STEP posts the windows that have closed. -/
theorem execClockStep_posts {s : State} (ha : alive s = true) (hg : s.boot.gap = none) :
    execClockStep s = .next (postWins (closeWin s)) := by
  have hgap : (closeWin s).boot = s.boot := by
    unfold closeWin
    split
    · split <;> rfl
    · rfl
  unfold execClockStep
  dsimp only
  rw [if_neg (by simp [ha]), hgap, hg]
  rfl

/-- `t` is `s` with another power state and one event posted. -/
theorem posted_raiseEvent (s : State) (p : Pwr) (type p0 p1 : Nat) :
    (raiseEvent { s with pwr := p } type p0 p1).pwr = p ∧ (raiseEvent { s with pwr := p } type p0 p1).mbx.evqSeq = s.mbx.evqSeq + 1 ∧
      raiseEvent { s with pwr := p } type p0 p1 = { s with
        pwr := (raiseEvent { s with pwr := p } type p0 p1).pwr
        mbx := (raiseEvent { s with pwr := p } type p0 p1).mbx
        host := (raiseEvent { s with pwr := p } type p0 p1).host
        hostOut := (raiseEvent { s with pwr := p } type p0 p1).hostOut } := by
  have htold := raiseEvent_told { s with pwr := p } type p0 p1
  have hseq := raiseEvent_evqSeq { s with pwr := p } type p0 p1
  generalize raiseEvent { s with pwr := p } type p0 p1 = t at htold hseq
  exact ⟨by rw [htold], hseq, by rw [htold]⟩

/-- Settles O9: a window's close, a hold of admission and its release each change the power state and post one event. -/
theorem clockStepAndPowerFloor : Obligations.ClockStepAndPowerFloor := by
  unfold Obligations.ClockStepAndPowerFloor
  intro s posted
  refine ⟨fun w ha hg hw hc => ⟨fun hold => ?_, fun hyoung => ?_⟩, fun hf hh hm hmask => ?_, fun hf hh hr => ?_⟩
  · have hstep : execClockStep s = .next (postWin { s with pwr.win := none, pwr.closedWins := [] } w) := by
      rw [execClockStep_posts ha hg, closeWin_old hw hold, hc]
      rfl
    obtain ⟨hpwr, hseq, heq⟩ := posted_raiseEvent s { s.pwr with win := none, closedWins := [] } 0x0010
      (min w.steps 255 + w.first * 2 ^ 8 + w.last * 2 ^ 20 + w.mask * 2 ^ 32) 0
    exact ⟨_, hstep, congrArg (·.win) hpwr, congrArg (·.coreMhz) hpwr, hseq, heq⟩
  · have hstep : execClockStep s = .next { s with pwr.closedWins := [] } := by
      rw [execClockStep_posts ha hg, closeWin_young hw hyoung]
      unfold postWins
      rw [hc]
      rfl
    rw [← hc] at hstep
    exact hstep
  · have hstep : execPowerFloor s = .next (raiseEvent { s with pwr.admitHold := true, pwr.holdMask := powerMask s } 0x0011
        (1 + powerMask s * 2 ^ 8) 0) := by
      unfold execPowerFloor
      rw [if_neg (by simp [hf]), if_neg (by simp [hh]), if_pos (by simp [hm, hmask])]
    obtain ⟨hpwr, hseq, heq⟩ := posted_raiseEvent s { s.pwr with admitHold := true, holdMask := powerMask s } 0x0011
      (1 + powerMask s * 2 ^ 8) 0
    exact ⟨_, hstep, congrArg (·.admitHold) hpwr, congrArg (·.holdMask) hpwr, hseq, heq⟩
  · have hstep : execPowerFloor s = .next (raiseEvent { s with pwr.admitHold := false, pwr.holdMask := 0 } 0x0011
        (s.pwr.holdMask * 2 ^ 8) 0) := by
      unfold execPowerFloor
      rw [if_neg (by simp [hf]), if_pos hh, if_pos hr]
    obtain ⟨hpwr, hseq, heq⟩ := posted_raiseEvent s { s.pwr with admitHold := false, holdMask := 0 } 0x0011 (s.pwr.holdMask * 2 ^ 8) 0
    exact ⟨_, hstep, congrArg (·.admitHold) hpwr, hseq, heq⟩

/-! ## TIME_SET and POWER_SET (R61, R65, R193) -/

/-- A logged command on an ACTIVE tray leaves the power state, and what Gecko holds. -/
theorem Logged.keeps {v t : State} {k : SlotId} {r : Req} {tcid object : Nat} {payload : List Byte} (h : Logged v t k r tcid object payload)
    (hp : v.pwr.power = .active) : t.pwr = v.pwr ∧ t.obs = v.obs := by
  obtain ⟨u, ⟨-, -, -, -, -, -, hu⟩, -, -, -, -, -, -, -, -, -, hmgt, ht⟩ := h
  have hpwr : u.pwr = v.pwr := by rw [hu]
  have hobs : u.obs = v.obs := by rw [hu]
  have hrate : t.pwr.mgtMhz = u.pwr.mgtMhz := by
    rw [hmgt]
    unfold settleMgt
    rw [if_neg (by simp [hpwr, hp])]
  rw [hrate] at ht
  exact ⟨by rw [ht, ← hpwr], by rw [ht, ← hobs]⟩

/-- The policy that a POWER_SET gives, with the first step of a lowered CORE_FMAX taken (R85). -/
def policySet (s : State) (p : List Byte) : State :=
  { s with pwr.idleSleep := leAt p 0 4, pwr.idleTorpor := leAt p 4 4, pwr.coreFmax := leAt p 8 2, pwr.torporEn := leAt p 10 1 == 1,
           pwr.fmaxNow := if s.pwr.fmaxNow ≤ leAt p 8 2 then leAt p 8 2 else s.pwr.fmaxNow - 25, pwr.fmaxTick := s.eft.tick }

theorem execPowerSet_sets {s : State} {k : SlotId} {r : Req} (h : AcceptedChange s k 0x0701 r) (hf : powerFields s r.payload = true) :
    execPowerSet k s = .next (respond (ledgerCmd (applyFreq (policySet s r.payload) 7) k.val r 0 0 0) k.val r 0 []) := by
  unfold execPowerSet
  rw [runCmd_change h true hf]
  rfl

theorem execTimeSet_sets {s : State} {k : SlotId} {r : Req} (h : AcceptedChange s k 0x0D01 r) : execTimeSet k s =
    .next (respond (ledgerCmd { s with eft := setTime s.eft (leAt r.payload 0 8) } k.val r 0 0 0) k.val r 0
      (leBytes 8 s.eft.time ++ leBytes 1 (if s.eft.time ≤ leAt r.payload 0 8 then 0 else 1) ++ zeros 7)) := by
  unfold execTimeSet
  rw [runCmd_change h true rfl]
  rfl

theorem domainsUp_active {s : State} (h : domainsUp s = true) : s.pwr.power = .active := by
  simpa using (Bool.and_eq_true_iff.mp h).2

/-- Settles O20: TIME_SET logs the changed Eft island and POWER_SET the policy with the frequency it gives. One entry for the whole
POWER_SET, and the first 25 MHz at once, are log entry 24. -/
theorem timeAndPowerSet : Obligations.TimeAndPowerSet := by
  unfold Obligations.TimeAndPowerSet
  intro s k r
  refine ⟨fun h => ⟨_, execTimeSet_sets h, ?_⟩, fun h hf => ?_⟩
  · obtain ⟨-, -, hl, -, hc⟩ := h
    have hset : { s with eft := setTime s.eft (leAt r.payload 0 8) } = (if s.eft.time ≤ leAt r.payload 0 8 then
        { s with eft.stepAdd := leAt r.payload 0 8 - s.eft.time, eft.slew := 0 }
        else { s with eft.slew := s.eft.time - leAt r.payload 0 8, eft.stepAdd := 0 }) := by
      unfold setTime
      split <;> rfl
    rw [← hset]
    exact logged_respond k r 0 0 _ hc hl
  · have ⟨_, hd, hl, _, hc⟩ := h
    have hv := applyFreq_follows (policySet s r.payload) 7
    have hstep := execPowerSet_sets h hf
    generalize applyFreq (policySet s r.payload) 7 = v at hv hstep
    have hlog : Logged v _ k r 0 0 [] := logged_respond k r 0 0 []
      (by rw [hv.eq]; exact hc) (by rw [hv.eq]; exact hl)
    obtain ⟨hpwr, hobs⟩ := hlog.keeps (by rw [hv.pwr]; exact domainsUp_active hd)
    refine ⟨_, hstep, ?_⟩
    generalize respond _ _ _ _ _ = t at hlog hpwr hobs
    have hcore : t.pwr.coreMhz = coreTarget t := by
      rw [hpwr, hv.coreTarget]
      unfold coreTarget mon
      rw [hpwr]
    refine ⟨?_, ?_, ?_, ?_, ?_, hcore, v, ?_, hlog⟩
    · rw [hpwr, hv.pwr]; rfl
    · rw [hpwr, hv.pwr]; rfl
    · rw [hpwr, hv.pwr]; rfl
    · rw [hpwr, hv.pwr]
      simp [policySet]
    · rw [hpwr, hv.pwr]; rfl
    · rw [hpwr, hobs]
      exact hv.eq

end Sys2Proof.Machine
end

section
/-! PROOFS. SLEEP and its wakes (03_clocks_power_and_sleep.md R63 to R68, R74 to R76, Table 3-6). -/

namespace Sys2Proof.Machine

/-! ## Banks, DOZE and the trace buffers in a change of power state -/

theorem tget_map_of_mem {α : Type} (f : Nat → α) {l : List Nat} {b : Nat} (h : b ∈ l) : tget (l.map (fun b => (b, f b))) b = some (f b) := by
  induction l with
  | nil => cases h
  | cons a l ih =>
    by_cases ha : a = b
    · subst ha
      simp [tget]
    · simpa [tget, ha] using ih ((List.mem_cons.mp h).resolve_left (Ne.symm ha))

theorem bank_congr {s t : State} (h : t.store.banks = s.store.banks) (b : Nat) : bank t b = bank s b := by
  unfold bank
  rw [h]

/-- A bank after its power state is set (R74). -/
theorem bank_setBankPower (s : State) (f : Nat → Bank → BankPower) {b : Nat} (h : b < 2048) :
    bank (setBankPower s f) b = { bank s b with power := f b (bank s b) } := by
  have hget := tget_map_of_mem (fun b => { bank s b with power := f b (bank s b) }) (List.mem_range.mpr h)
  unfold setBankPower
  rw [bank, tgetD, hget]
  rfl

/-- Setting bank power states changes the banks alone. -/
theorem setBankPower_banks (s : State) (f : Nat → Bank → BankPower) : ∃ bs, setBankPower s f = { s with store.banks := bs } := ⟨_, rfl⟩

theorem setBankPower_eq (s : State) (f : Nat → Bank → BankPower) :
    setBankPower s f = { s with store.banks := (setBankPower s f).store.banks } := by
  obtain ⟨bs, h⟩ := setBankPower_banks s f
  rw [h]

/-- Banks that go OFF lose their bytes, and no other byte changes (Table 3-6). -/
theorem mget_loseOff (s : State) (f : Nat → Bank → BankPower) (a : Nat) : mget (loseOff s f).mem a =
    if inSp a = true ∧ f (spBank a) (bank s (spBank a)) = .off then 0 else mget s.mem a := by
  unfold loseOff
  dsimp only
  rw [mget_filter (fun a => !(inSp a && f (spBank a) (bank s (spBank a)) == .off)), cure_mem]
  by_cases h : inSp a = true ∧ f (spBank a) (bank s (spBank a)) = .off
  · simp [h]
  · rw [if_neg h, if_pos (by simpa [imp_iff_not_or] using h)]

theorem loseOff_eq (s : State) (f : Nat → Bank → BankPower) : loseOff s f = { s with ecc := (loseOff s f).ecc, mem := (loseOff s f).mem } := by
  unfold loseOff
  dsimp only
  rw [cure_eq]

theorem core_endDoze (s : State) (c : Nat) : core (endDoze s) c = { core s c with doze := false } :=
  tgetD_tmap s.cores (fun _ (k : Core) => { k with doze := false }) c {} rfl

theorem Observed.foldl {α : Type} {f : State → α → State} (h : ∀ s x, Observed s (f s x)) (l : List α) (s : State) :
    Observed s (l.foldl f s) := List.foldlRecOn l f (Observed.refl s) fun _ hb x _ => hb.trans (h _ x)

theorem Observed.bank {s t : State} (h : Observed s t) (b : Nat) : bank t b = bank s b := bank_congr (by rw [h]) b

theorem flushTrcStaging_observed (s : State) : Observed s (flushTrcStaging s) := by
  have hput : Observed s (s.obs.staging.foldl trcTake { s with obs.staging := [], obs.stagingDropped := [], obs.timebaseDue := true }) :=
    Observed.trans (b := { s with obs.staging := [], obs.stagingDropped := [], obs.timebaseDue := true }) rfl (Observed.foldl trcTake_observed _ _)
  refine hput.trans (Observed.foldl ?_ _ _)
  intro _ _
  rfl

/-- With no access that waits there is nothing to answer. -/
theorem unpark_none {s : State} (h : s.host.parked = []) : unpark s = s := by
  unfold unpark
  rw [h, List.foldl_nil, ← h]

/-! ## The entry (R66, R75) -/

/-- The banks once they are in the states of a SLEEP entry. -/
def banksAsleep (s : State) : State := setBankPower (loseOff s sleepPower) sleepPower

theorem banksAsleep_eq (s : State) : banksAsleep s = { s with
    ecc := (banksAsleep s).ecc, mem := (banksAsleep s).mem, store.banks := (banksAsleep s).store.banks } := by
  unfold banksAsleep
  rw [setBankPower_eq, loseOff_eq]

theorem bank_banksAsleep (s : State) {b : Nat} (h : b < 2048) :
    bank (banksAsleep s) b = { bank s b with power := sleepPower b (bank s b) } := by
  have hlost : bank (loseOff s sleepPower) b = bank s b := bank_congr (by rw [loseOff_eq]) b
  rw [banksAsleep, bank_setBankPower _ _ h, hlost]

theorem mget_banksAsleep (s : State) (a : Nat) : mget (banksAsleep s).mem a =
    if inSp a = true ∧ (bank s (spBank a)).owner = 0 ∧ spBank a % 32 ≠ 31 then 0 else mget s.mem a := by
  have hoff : sleepPower (spBank a) (bank s (spBank a)) = .off ↔ (bank s (spBank a)).owner = 0 ∧ spBank a % 32 ≠ 31 := by
    simp [sleepPower]
  rw [banksAsleep, setBankPower_eq, mget_loseOff]
  exact if_congr (and_congr_right fun _ => hoff) rfl rfl

/-- The tray once the five steps of R66 are taken. -/
def asleep (s : State) : State :=
  settleMgt { endDoze (banksAsleep { s with dsp.closed := true, pwr.selfRefresh := true }) with
    pwr.power := .sleep, pwr.sleepTicks := 0, pwr.scrubWake := false }

theorem entryAfter_five (s : State) : Observed (asleep s) (entryAfter s 5) := by
  have h : entryAfter s 5 = if pstate s ≠ pstate (asleep s) then traceTray (asleep s) 0x11 (pstate s + pstate (asleep s) * 4) else asleep s :=
    rfl
  rw [h]
  split
  · exact traceTray_observed _ _ _
  · exact Observed.refl _

/-- A whole SLEEP entry. -/
theorem execSleepEntry_whole {s : State} (hf : fwUp s = true) (hp : s.pwr.power = .active) (hd : sleepDue s = true) :
    execSleepEntry 5 s = .next (entryAfter s 5) := by
  have hsteps : entrySteps s = 0 := by
    unfold entrySteps
    rw [hp]
  unfold execSleepEntry
  rw [if_pos (by simp [hf, hp, hd, hsteps])]
  rfl

/-- An entry changes the banks, the memory that goes with them, DOZE and the power state. -/
theorem asleep_eq (s : State) : ∃ u rate, u = banksAsleep { s with dsp.closed := true, pwr.selfRefresh := true } ∧ asleep s = { s with
    dsp.closed := true, ecc := u.ecc, mem := u.mem, cores := (endDoze s).cores, store.banks := u.store.banks
    pwr := { s.pwr with selfRefresh := true, power := .sleep, sleepTicks := 0, scrubWake := false, mgtMhz := rate } } := by
  unfold asleep
  have h := banksAsleep_eq { s with dsp.closed := true, pwr.selfRefresh := true }
  generalize banksAsleep _ = u at h ⊢
  refine ⟨u, (settleMgt { endDoze u with pwr.power := .sleep, pwr.sleepTicks := 0, pwr.scrubWake := false }).pwr.mgtMhz, rfl, ?_⟩
  rw [settleMgt_eq]
  generalize (settleMgt _).pwr.mgtMhz = rate
  rw [h]
  rfl

/-! ## The wakes (R67, R68, R76) -/

/-- An entry that a wake event undoes before its point of no return (R68). -/
theorem execWake_undoes {s : State} {cause : WakeCause} {k : Nat} (ha : alive s = true) (hw : wakeDue s cause = true)
    (hp : s.pwr.power = .entering k) (hk : k < 4) : ∃ bs t, execWake cause s = .next t ∧
      Observed { s with store.banks := bs, pwr.power := .active, pwr.selfRefresh := false, dsp.closed := false } t := by
  obtain ⟨bs, hbs⟩ := setBankPower_banks s wakePower
  unfold execWake
  rw [if_neg (by simp [ha, hw]), hp]
  dsimp only
  rw [if_pos hk, hbs]
  exact ⟨bs, _, rfl, traceTray_observed _ _ _⟩

/-- The tray at ACTIVE again, but for its trace records. -/
def awake (s : State) : State :=
  { s with store.banks := (setBankPower s wakePower).store.banks, cores := (endDoze s).cores, dsp.closed := false
           pwr := { s.pwr with power := .active, mgtMhz := 500, selfRefresh := false, wokeTick := s.eft.tick } }

theorem awake_eq (s : State) : ∃ bs, awake s = { s with
    store.banks := bs, cores := (endDoze s).cores, dsp.closed := false
    pwr := { s.pwr with power := .active, mgtMhz := 500, selfRefresh := false, wokeTick := s.eft.tick } } := ⟨_, rfl⟩

theorem toActive_awake (s : State) (old : Nat) : Observed (awake s) (toActive s old) := by
  have h := setBankPower_eq s wakePower
  unfold toActive awake
  generalize setBankPower s wakePower = u at h ⊢
  rw [h]
  exact (traceTray_observed _ _ _).trans (flushTrcStaging_observed _)

theorem bank_awake (s : State) {b : Nat} (h : b < 2048) : bank (awake s) b = { bank s b with power := wakePower b (bank s b) } := by
  rw [← bank_setBankPower s wakePower h]
  refine bank_congr ?_ b
  unfold awake
  generalize setBankPower s wakePower = u
  rfl

theorem core_awake (s : State) (c : Nat) : core (awake s) c = { core s c with doze := false } := core_endDoze s c

theorem wakePower_eq (b : Nat) (k : Bank) : wakePower b k = if k.power = .retain then .on else k.power := by
  unfold wakePower
  cases k.power <;> rfl

/-- Settles O10: an entry is `asleep`, the end of a wake is `awake`, each but for trace records. -/
theorem sleepEntryAndWake : Obligations.SleepEntryAndWake := by
  unfold Obligations.SleepEntryAndWake
  intro s
  refine ⟨fun hf hp hd => ?_, fun cause ha hw => ⟨fun hp => ?_, fun k hp hk => ?_⟩, fun ha hp hn => ?_, fun ha hp ht => ?_⟩
  · have h := entryAfter_five s
    refine ⟨_, execSleepEntry_whole hf hp hd, ?_⟩
    generalize entryAfter s 5 = t at h
    obtain ⟨u, rate, hu, hs⟩ := asleep_eq s
    rw [Observed, hs] at h
    refine ⟨by rw [h], by rw [h], by rw [h], fun b hb => ?_, fun a => ?_, fun c => ?_, by rw [h], by rw [h], by rw [h], by rw [h]⟩
    · have hbank : bank t b = { bank s b with power := sleepPower b (bank s b) } := by
        rw [bank_congr (s := u) (by rw [h]), hu]
        exact bank_banksAsleep _ hb
      rw [hbank]
      simp [sleepPower]
    · rw [h, hu]
      exact mget_banksAsleep _ a
    · rw [h]
      exact core_endDoze s c
  · show execWake cause s = _
    unfold execWake
    rw [if_neg (by simp [ha, hw]), hp]
  · obtain ⟨bs, t, hstep, h⟩ := execWake_undoes ha hw hp hk
    exact ⟨t, hstep, by rw [h], by rw [h], by rw [h], by rw [h], by rw [h], by rw [h]⟩
  · have h := toActive_awake s 2
    have hstep : execWakeDone s = .next (toActive s 2) := by
      unfold execWakeDone
      rw [if_pos (by simp [ha, hp]), unpark_none (by rw [h]; exact hn)]
    refine ⟨_, hstep, ?_⟩
    generalize toActive s 2 = t at h
    have heq := h
    obtain ⟨bs, hawake⟩ := awake_eq s
    rw [Observed, hawake] at heq
    refine ⟨by rw [heq], by rw [heq], by rw [heq], by rw [heq], fun b hb => ?_, fun c => ?_, by rw [heq], by rw [heq], by rw [heq]⟩
    · rw [h.bank, bank_awake s hb, wakePower_eq]
    · rw [h.core, core_awake]
  · have hstep : execScrubWake s = .next (ctrAdd { s with pwr.scrubWake := true, pwr.scrubDone := [], pwr.power := .waking } 0x0180 1) := by
      unfold execScrubWake
      rw [if_pos (by simp [ha, hp, ht])]
    exact ⟨_, hstep, rfl, rfl, ctr_ctrAdd _ _ _, rfl⟩

end Sys2Proof.Machine
end

section
/-! PROOFS. TORPOR and the resume from it (03_clocks_power_and_sleep.md R69 to R73, R75, Table 3-5), with what the fabric's own
messages leave alone (20_fabric_links_and_discovery.md R493 to R504). -/

namespace Sys2Proof.Machine

/-! ## What the fabric's own messages change -/

/-- `t` is `s` but for the fabric, what Gecko holds, the event queue and messages to the host. -/
def FabricOnly (s t : State) : Prop :=
  t = { s with
    fab := t.fab, fabOut := t.fabOut, obs := t.obs
    mbx := { s.mbx with evqTail := t.mbx.evqTail, evqPhase := t.mbx.evqPhase, evqDrop := t.mbx.evqDrop, evqSeq := t.mbx.evqSeq,
                        backlog := t.mbx.backlog, drops := t.mbx.drops, firstDrop := t.mbx.firstDrop }
    host.pba := t.host.pba, host.held := t.host.held, hostOut := t.hostOut }

theorem FabricOnly.refl (s : State) : FabricOnly s s := rfl

theorem FabricOnly.trans {a b c : State} (h : FabricOnly a b) (g : FabricOnly b c) : FabricOnly a c := by
  unfold FabricOnly at h g ⊢
  rw [h] at g
  exact g

theorem FabricOnly.foldl {α : Type} {f : State → α → State} (h : ∀ s x, FabricOnly s (f s x)) (l : List α) (s : State) :
    FabricOnly s (l.foldl f s) := List.foldlRecOn l f (FabricOnly.refl s) fun _ hb x _ => hb.trans (h _ x)

theorem Told.fabricOnly {s t : State} (h : Told s t) : FabricOnly s t := by
  rw [h]
  rfl

theorem Observed.fabricOnly {s t : State} (h : Observed s t) : FabricOnly s t := by
  rw [h]
  rfl

theorem setFab_fabricOnly (s : State) (f : Fab) : FabricOnly s { s with fab := f } := rfl

theorem setPort_fabricOnly (s : State) (p : Nat) (x : Port) : FabricOnly s (setPort s p x) := rfl

theorem sendLsr_fabricOnly (s : State) (r : LsrRec) (p : Nat) : FabricOnly s (sendLsr s r p) :=
  FabricOnly.trans (b := fabSend s (.lsr p r)) rfl (setPort_fabricOnly _ _ _)

theorem sendHello_fabricOnly (s : State) (p : Nat) : FabricOnly s (sendHello s p) :=
  FabricOnly.trans (b := fabSend s (.hello p (port s p).heard s.fab.node.toNat (s.fab.addr == .tentative))) rfl (setPort_fabricOnly _ _ _)

theorem floodLsr_fabricOnly (s : State) (r : LsrRec) (p : Option Nat) : FabricOnly s (floodLsr s r p) :=
  FabricOnly.foldl (fun s p => sendLsr_fabricOnly s r p) _ s

theorem checkReach_fabricOnly (s : State) : FabricOnly s (checkReach s) := by
  unfold checkReach
  dsimp only
  refine (setFab_fabricOnly s _).trans (FabricOnly.foldl (fun s u => ?_) _ _)
  split
  · split
    · exact FabricOnly.refl s
    · exact (raiseEvent_told s _ _ _).fabricOnly
  · exact FabricOnly.refl s

theorem originateNow_fabricOnly (s : State) : FabricOnly s (originateNow s) := by
  unfold originateNow
  extract_lets f u r hello changed g flooded greeted
  have hflood : FabricOnly s flooded :=
    ((setFab_fabricOnly s _).trans (setFab_fabricOnly u _)).trans (floodLsr_fabricOnly _ r none)
  have hgreet : FabricOnly flooded greeted := by
    unfold greeted
    split
    · exact FabricOnly.foldl sendHello_fabricOnly _ _
    · exact FabricOnly.refl _
  exact (hflood.trans hgreet).trans (checkReach_fabricOnly greeted)

theorem originate_fabricOnly (s : State) : FabricOnly s (originate s) := by
  unfold originate
  split
  · dsimp only
    split
    · exact FabricOnly.refl s
    · exact originateNow_fabricOnly s
  · exact originateNow_fabricOnly s

theorem withdraw_fabricOnly (s : State) : FabricOnly s (withdraw s) :=
  (setFab_fabricOnly s _).trans (originate_fabricOnly _)

theorem linkChange_fabricOnly (s : State) (p : Nat) (up : Bool) : FabricOnly s (linkChange s p up) := by
  unfold linkChange
  dsimp only
  exact (raiseEvent_told s _ _ _).fabricOnly.trans (traceTray_observed _ _ _).fabricOnly

theorem dropPorts_fabricOnly (s : State) : FabricOnly s (dropPorts s) :=
  (FabricOnly.foldl (fun s p => linkChange_fabricOnly s p false) _ s).trans rfl

theorem startTraining_fabricOnly (s : State) (p : Nat) : FabricOnly s (startTraining s p) := by
  unfold startTraining
  dsimp only
  split
  · exact FabricOnly.refl s
  · split <;> rfl

theorem trainAll_fabricOnly (s : State) : FabricOnly s (trainAll s) := FabricOnly.foldl startTraining_fabricOnly _ s

theorem rejoin_fabricOnly (s : State) : FabricOnly s (rejoin s) := rfl

theorem claimAlone_fabricOnly (s : State) : FabricOnly s (claimAlone s) := by
  have hclaim (n : Nat) : FabricOnly s (claimFrom s n) := by
    unfold claimFrom
    split
    · exact (setFab_fabricOnly s _).trans (originate_fabricOnly _)
    · exact (setFab_fabricOnly s _).trans (originate_fabricOnly _)
  unfold claimAlone claimAddr
  split
  · split
    · exact hclaim _
    · exact FabricOnly.refl s
  · exact FabricOnly.refl s

/-! ## The entry (R69 to R71) -/

/-- What the entry drops, and what it keeps. -/
theorem dropAllCopies_eq (s : State) : ∃ bs, dropAllCopies s = { s with
    cores := tmap s.cores (fun _ k => { k with bank31 := [], doze := false })
    store := { s.store with spCopies := [], replicas := [], banks := bs, regions := tmap s.store.regions (fun _ g => { g with copy := none })
                            fills := s.store.fills.filter (fun f => !inTierA f.base) }
    mem := s.mem.filter (fun c => outlivesTorpor c.1)
    ecc := { s.ecc with poison := s.ecc.poison.filter outlivesTorpor, latent := tkeep s.ecc.latent (fun a _ => outlivesTorpor a) } } :=
  ⟨_, rfl⟩

/-- Every bank loses its tag and its power. -/
theorem bank_dropAllCopies (s : State) {b : Nat} (h : b < 2048) :
    bank (dropAllCopies s) b = { bank s b with owner := 0, res := b % 32 == 31, power := .off } := by
  have hget := tget_map_of_mem (fun b => { bank s b with owner := 0, res := b % 32 == 31, power := .off }) (List.mem_range.mpr h)
  unfold dropAllCopies
  rw [bank, tgetD, hget]
  rfl

/-- TORPOR_ENTRY floods the withdrawal, drops the links, then the copies (R69 to R71). -/
theorem execTorporEntry_enters {s : State} (hf : fwUp s = true) (hd : torporDue s = true) : ∃ u, FabricOnly s u ∧
    execTorporEntry s = .next { dropAllCopies u with pwr.power := .torpor, pwr.mgtMhz := 0, host.l1 := true, boot.routed := false } := by
  refine ⟨dropPorts (withdraw (traceTray s 0x11 (2 + 3 * 4))),
    ((traceTray_observed s _ _).fabricOnly.trans (withdraw_fabricOnly _)).trans (dropPorts_fabricOnly _), ?_⟩
  unfold execTorporEntry
  rw [if_pos (by simp [hf, hd])]

/-! ## The resume (R71, R72, R75) -/

/-- In TORPOR the link's exit from L1 starts the resume. -/
theorem linkExit_torpor {s : State} (ha : alive s = true) (hp : s.pwr.power = .torpor) :
    linkExit s = { s with pwr.power := .resuming 0, host.l1 := false } := by
  unfold linkExit
  rw [if_pos (by simp [ha, hp])]

/-- Once the resume has started, a host access finds the link in L0. -/
theorem linkExit_of_ne {s : State} (hp : s.pwr.power ≠ .torpor) : linkExit s = s := by
  unfold linkExit
  rw [if_neg (by simp [hp])]

/-- What the rows of Table 3-5 leave alone. -/
structure Resumes (s t : State) : Prop where
  store : t.store = s.store
  dsp : t.dsp = s.dsp
  ledger : t.ledger = s.ledger
  boot : t.boot = s.boot
  parked : t.host.parked = s.host.parked
  latched : t.mbx.latched = s.mbx.latched

theorem Resumes.refl (s : State) : Resumes s s := ⟨rfl, rfl, rfl, rfl, rfl, rfl⟩

theorem Resumes.trans {a b c : State} (h : Resumes a b) (g : Resumes b c) : Resumes a c :=
  ⟨g.store.trans h.store, g.dsp.trans h.dsp, g.ledger.trans h.ledger, g.boot.trans h.boot, g.parked.trans h.parked,
    g.latched.trans h.latched⟩

theorem FabricOnly.resumes {s t : State} (h : FabricOnly s t) : Resumes s t := by
  rw [h]
  exact ⟨rfl, rfl, rfl, rfl, rfl, rfl⟩

theorem Moves.resumes {s t : State} (h : Moves s t) : Resumes s t := by
  rw [h.eq]
  exact ⟨rfl, rfl, rfl, rfl, rfl, rfl⟩

theorem restoreCommons_resumes (s : State) : Resumes s (restoreCommons s) := by
  refine List.foldlRecOn _ _ (Resumes.refl s) fun u hu p _ => hu.trans ?_
  split
  · exact (memCopy_moves u _ _ _).resumes
  · exact Resumes.refl u

theorem resumeRow_resumes (s : State) (k : Nat) : Resumes s (resumeRow s k) := by
  have hrow : Resumes s { s with pwr.power := .resuming k } := ⟨rfl, rfl, rfl, rfl, rfl, rfl⟩
  unfold resumeRow
  dsimp only
  split
  · exact ⟨rfl, rfl, rfl, rfl, rfl, rfl⟩
  · exact hrow.trans (((rejoin_fabricOnly _).trans (trainAll_fabricOnly _)).trans (claimAlone_fabricOnly _)).resumes
  · exact hrow.trans (restoreCommons_resumes _)
  · exact hrow

theorem resumeTo_resumes (s : State) (n : Nat) : Resumes s (resumeTo s n) := by
  refine List.foldlRecOn _ _ (Resumes.refl s) fun u hu k _ => hu.trans ?_
  split
  · split
    · exact resumeRow_resumes u k
    · exact Resumes.refl u
  · exact Resumes.refl u

theorem serveLatched_none {s : State} (h : s.mbx.latched = []) : serveLatched s = s := by
  unfold serveLatched
  rw [h, List.foldl_nil, ← h]

/-- The configuration regions that are not retired are ON again (R75). -/
theorem bank_onConfigBanks (s : State) {b : Nat} (hb : b < 2048) (h31 : b % 32 = 31) (hr : (bank s b).retired = false) :
    (bank (onConfigBanks s) b).power = .on := by
  unfold onConfigBanks
  rw [bank_setBankPower s _ hb]
  simp [h31, hr]

/-- The end of a resume with nothing that waits: the rows up to the last, the configuration regions, and ACTIVE. -/
theorem execTorporWakeDone_wakes {s : State} {k : Nat} (ha : alive s = true) (hp : s.pwr.power = .resuming k) (hi : resumeImage s = true)
    (hn : s.host.parked = []) (hl : s.mbx.latched = []) : ∃ u bs t, Resumes s u ∧ onConfigBanks u = { u with store.banks := bs } ∧
      Observed (awake { u with store.banks := bs }) t ∧ execTorporWakeDone s = .next t := by
  have hres := resumeTo_resumes s 7
  obtain ⟨bs, hbs⟩ := setBankPower_banks (resumeTo s 7) (fun b k => if b % 32 = 31 && !k.retired then .on else k.power)
  have hbanks : onConfigBanks (resumeTo s 7) = { resumeTo s 7 with store.banks := bs } := hbs
  have hobs := toActive_awake { resumeTo s 7 with store.banks := bs } 3
  refine ⟨resumeTo s 7, bs, _, hres, hbanks, hobs, ?_⟩
  have hlatched : (toActive { resumeTo s 7 with store.banks := bs } 3).mbx.latched = [] := by
    rw [hobs]
    exact hres.latched.trans hl
  have hparked : (toActive { resumeTo s 7 with store.banks := bs } 3).host.parked = [] := by
    rw [hobs]
    exact hres.parked.trans hn
  unfold execTorporWakeDone
  rw [hp]
  dsimp only
  rw [if_pos (by simp [ha, hi]), hbanks, serveLatched_none hlatched, unpark_none hparked]

/-- Settles O11: the entry is `dropAllCopies` after the fabric's last messages; the resume changes nothing of the store, the jobs and the
boot record but the banks' power. -/
theorem torporEntryAndResume : Obligations.TorporEntryAndResume := by
  unfold Obligations.TorporEntryAndResume
  intro s
  refine ⟨fun hf hd => ?_, fun ha hp => ⟨?_, fun r v => ?_⟩, fun k ha hp hi hn hl => ?_⟩
  · obtain ⟨u, hu, hstep⟩ := execTorporEntry_enters hf hd
    obtain ⟨bs, hdrop⟩ := dropAllCopies_eq u
    have hbank (b : Nat) (hb : b < 2048) := bank_dropAllCopies u hb
    rw [hdrop] at hstep hbank
    refine ⟨_, hstep, rfl, rfl, rfl, rfl, rfl, rfl, ?_, fun c => ?_, fun b hb => ?_, ?_, ?_, ?_⟩
    · simp [tmap]
    · exact congrArg Core.bank31 (tgetD_tmap u.cores (fun _ (k : Core) => { k with bank31 := [], doze := false }) c {} rfl)
    · exact congrArg Bank.power ((bank_congr rfl b).trans (hbank b hb))
    · rw [hu]
    · rw [hu]
    · rw [hu]
  · have hstep : execTorporWake s = .next (linkExit s) := by
      unfold execTorporWake
      rw [if_neg (by simp [ha]), hp]
    rw [linkExit_torpor ha hp] at hstep
    exact hstep
  · show execSqDoorbell r v s = execSqDoorbell r v _
    unfold execSqDoorbell
    rw [linkExit_torpor ha hp, linkExit_of_ne (by simp)]
  · obtain ⟨u, bs, t, hu, hbanks, ht, hstep⟩ := execTorporWakeDone_wakes ha hp hi hn hl
    have hbank (b : Nat) (hb : b < 2048) : (bank t b).power = wakePower b (bank { u with store.banks := bs } b) := by
      rw [ht.bank, bank_awake _ hb]
    obtain ⟨bs', hawake⟩ := awake_eq { u with store.banks := bs }
    rw [Observed, hawake] at ht
    refine ⟨t, hstep, by rw [ht], by rw [ht], by rw [ht], by rw [ht], fun b hb h31 hr => ?_, by rw [ht, ← hu.dsp], ?_⟩
    · have hon := bank_onConfigBanks u hb h31 (by rw [bank_congr (s := s) (by rw [hu.store])]; exact hr)
      rw [hbanks] at hon
      rw [hbank b hb, wakePower_eq, hon]
      rfl
    · rw [ht, ← hu.store, ← hu.ledger, ← hu.boot]
      exact ⟨rfl, rfl, rfl, rfl⟩

end Sys2Proof.Machine
end

section
/-! PROOFS. What error correction finds in a scratchpad word that no work reads: counts, records and poison, and neither memory nor
jobs (09_cores_and_scratchpad.md R246 to R249). -/

namespace Sys2Proof.Machine

/-! ## Words of a range -/

theorem wordsOf_word {x : Nat} (h : x % 8 = 0) : wordsOf x 8 = [x] := by
  have hn : (x + 8 + 7) / 8 - x / 8 = 1 := by omega
  have hx : x / 8 * 8 = x := by omega
  simp [wordsOf, hn, hx]

/-- The words of a 512 B beat. -/
theorem wordsOf_beat {a : Nat} (h : a % 512 = 0) : wordsOf a 512 = (List.range 64).map (fun i => a + 8 * i) := by
  have hn : (a + 512 + 7) / 8 - a / 8 = 64 := by omega
  unfold wordsOf
  rw [hn]
  exact List.map_congr_left fun i _ => by omega

theorem nodup_wordsOf (a n : Nat) : (wordsOf a n).Nodup :=
  List.nodup_range.map fun i j (h : (a / 8 + i) * 8 = (a / 8 + j) * 8) => by omega

/-! ## A word that stays uncorrectable at a scrub (R246, R247) -/

/-- Every copy on a core that has bytes in a bank is held by an admitted job. -/
def Kept (s : State) (c b : Nat) : Prop := ∀ y ∈ s.store.spCopies, y.core = c → b ∈ y.banks → objInUse s y.obj (some c) = true

/-- What a find at a word that no work reads leaves: memory, jobs, what is on its way, and where copies lie; poison only grows. -/
structure Found (s t : State) : Prop where
  mem : t.mem = s.mem
  dsp : t.dsp = s.dsp
  net : t.net = s.net
  rewritten : t.ecc.rewritten = s.ecc.rewritten
  poison : ∀ x ∈ s.ecc.poison, x ∈ t.ecc.poison
  copies : ∀ y ∈ t.store.spCopies, ∃ z ∈ s.store.spCopies, y.core = z.core ∧ y.banks = z.banks ∧ y.obj = z.obj
  doze : ∀ d, (core t d).doze = (core s d).doze

theorem found_of_store {s t : State} (hm : t.mem = s.mem) (hd : t.dsp = s.dsp) (hn : t.net = s.net)
    (hr : t.ecc.rewritten = s.ecc.rewritten) (hp : ∀ x ∈ s.ecc.poison, x ∈ t.ecc.poison) (hs : t.store.spCopies = s.store.spCopies)
    (hc : ∀ d, (core t d).doze = (core s d).doze) : Found s t :=
  ⟨hm, hd, hn, hr, hp, fun y hy => ⟨y, hs ▸ hy, rfl, rfl, rfl⟩, hc⟩

theorem Found.refl (s : State) : Found s s := found_of_store rfl rfl rfl rfl (fun _ h => h) rfl fun _ => rfl

theorem Found.trans {a b c : State} (h : Found a b) (g : Found b c) : Found a c where
  mem := g.mem.trans h.mem
  dsp := g.dsp.trans h.dsp
  net := g.net.trans h.net
  rewritten := g.rewritten.trans h.rewritten
  poison x hx := g.poison x (h.poison x hx)
  copies y hy := by
    obtain ⟨z, hz, h1, h2, h3⟩ := g.copies y hy
    obtain ⟨v, hv, g1, g2, g3⟩ := h.copies z hz
    exact ⟨v, hv, h1.trans g1, h2.trans g2, h3.trans g3⟩
  doze d := (g.doze d).trans (h.doze d)

theorem Found.kept {s t : State} {c b : Nat} (h : Found s t) (hk : Kept s c b) : Kept t c b := by
  intro y hy hc hb
  obtain ⟨z, hz, h1, h2, h3⟩ := h.copies y hy
  have huse : objInUse t y.obj (some c) = objInUse s y.obj (some c) := by
    unfold objInUse
    rw [h.dsp]
  rw [huse, h3]
  exact hk z hz (h1 ▸ hc) (h2 ▸ hb)

theorem latch_eq (s : State) (q : Nat) (r : ErrRep) : latch s q r = { s with errs := (latch s q r).errs } := by
  unfold latch
  dsimp only
  split <;> rfl

theorem poisonWord_eq (s : State) (a : Nat) : poisonWord s a = { s with ecc.poison := (poisonWord s a).ecc.poison } := by
  unfold poisonWord
  split <;> rfl

theorem mem_poisonWord (s : State) (a x : Nat) : x ∈ (poisonWord s a).ecc.poison ↔ x ∈ s.ecc.poison ∨ x = a := by
  unfold poisonWord
  split
  · next h =>
    have ha : a ∈ s.ecc.poison := by simpa using h
    exact ⟨.inl, fun hx => hx.elim id fun e => e ▸ ha⟩
  · simp

theorem latch_found (s : State) (q : Nat) (r : ErrRep) : Found s (latch s q r) := by
  rw [latch_eq]
  exact found_of_store rfl rfl rfl rfl (fun _ h => h) rfl fun _ => rfl

theorem poisonWord_found (s : State) (a : Nat) : Found s (poisonWord s a) := by
  have hp : ∀ x ∈ s.ecc.poison, x ∈ (poisonWord s a).ecc.poison := fun x hx => (mem_poisonWord s a x).mpr (.inl hx)
  rw [poisonWord_eq]
  exact found_of_store rfl rfl rfl rfl hp rfl fun _ => rfl

/-- What a word's poison is depends on the words alone that were poisoned. -/
theorem poisonWord_congr {s t : State} (h : t.ecc = s.ecc) (a : Nat) : (poisonWord t a).ecc = (poisonWord s a).ecc := by
  unfold poisonWord
  rw [h]
  split
  · exact h
  · dsimp only

/-- Copies that lie in a poisoned word's bank are marked (R247). -/
theorem markCopies_found (s : State) (p : SpCopy → Bool) :
    Found s { s with store.spCopies := s.store.spCopies.map (fun x => if p x then { x with poisoned := true } else x) } where
  mem := rfl
  dsp := rfl
  net := rfl
  rewritten := rfl
  poison _ h := h
  copies y hy := by
    obtain ⟨z, hz, rfl⟩ := List.mem_map.mp hy
    refine ⟨z, hz, ?_⟩
    split <;> exact ⟨rfl, rfl, rfl⟩
  doze _ := rfl

theorem modCore_found {s : State} {c : Nat} {f : Core → Core} (h : (f (core s c)).doze = (core s c).doze) : Found s (modCore s c f) := by
  refine found_of_store rfl rfl rfl rfl (fun _ h => h) rfl fun d => ?_
  rw [modCore, core_setCore]
  split
  · next e => rw [h, e]
  · rfl

/-- A scratchpad word that had not been rewritten, in a bank whose copies jobs hold: it is poisoned, and nothing is dropped. -/
theorem spFault_found {s : State} {a syn cls : Nat} (ha : a % 8 = 0) (hr : s.ecc.rewritten.contains a = false)
    (hk : Kept s (spCore a) (spBank a)) : Found s (spFault s a syn cls none) ∧
      (spFault s a syn cls none).ecc.poison = (poisonWord s a).ecc.poison := by
  have hword : a / 8 * 8 = a := by omega
  unfold spFault
  rw [hword]
  extract_lets x c again latched poisoned copies st marked idle lost unloaded
  have hlatch : latched = { s with errs := latched.errs } := latch_eq s _ _
  have hmark : Found s marked := ((latch_found s _ _).trans (poisonWord_found latched x)).trans (markCopies_found poisoned _)
  have hpoison : marked.ecc.poison = (poisonWord s a).ecc.poison :=
    congrArg Ecc.poison (poisonWord_congr (s := s) (t := latched) (by rw [hlatch]) a)
  have hnone : marked.store.spCopies.filter idle = [] := by
    rw [List.filter_eq_nil_iff]
    intro y hy hidle
    simp only [idle, Bool.and_eq_true, beq_iff_eq, List.contains_iff_mem, Bool.not_eq_true'] at hidle
    obtain ⟨⟨hc, hb⟩, hu⟩ := hidle
    rw [hmark.kept hk y hy hc hb] at hu
    cases hu
  have hlost : lost = marked := by
    unfold lost
    rw [hnone]
    rfl
  have hagain : again = false := hr
  have hun : Found lost unloaded ∧ unloaded.ecc = lost.ecc := by
    unfold unloaded
    split
    · exact ⟨modCore_found rfl, rfl⟩
    · exact ⟨Found.refl _, rfl⟩
  rw [if_neg (by simp [hagain]), hun.2, hlost]
  exact ⟨hmark.trans (hlost ▸ hun.1), hpoison⟩

/-! ## What a read of words meets -/

theorem corrected_eq (s : State) (key : Nat) : corrected s key = { s with errs := (corrected s key).errs, ecc.corr := (corrected s key).ecc.corr } := by
  unfold corrected
  obtain ⟨ts, last⟩ := tgetD s.ecc.corr key ([], none)
  dsimp only
  generalize (_ && _) = due
  cases due
  · rfl
  · rw [if_pos rfl, latch_eq]

/-- A find at a sound scratchpad word (R246). -/
theorem eccFound_found {s : State} {a : Nat} (f : EccFind) (ha : a % 8 = 0) (hsp : inSp a = true)
    (hr : s.ecc.rewritten.contains a = false) (hk : Kept s (spCore a) (spBank a)) : Found s (eccFound s a f none) ∧
      ∀ syn, f = .uncorrectable syn → (eccFound s a f none).ecc.poison = (poisonWord s a).ecc.poison := by
  unfold eccFound
  cases f with
  | clean => exact ⟨Found.refl s, nofun⟩
  | corrected =>
    dsimp only
    rw [if_pos hsp, corrected_eq]
    exact ⟨found_of_store rfl rfl rfl rfl (fun _ h => h) rfl fun _ => rfl, nofun⟩
  | recovered _ =>
    dsimp only
    rw [if_pos hsp]
    exact ⟨Found.refl s, nofun⟩
  | uncorrectable syn =>
    unfold wordFault
    dsimp only
    rw [if_pos hsp]
    have h := spFault_found (syn := syn.toNat) (cls := if (none : Option Nat).isSome then 0x01 else 0x02) ha hr hk
    exact ⟨h.1, fun _ _ => h.2⟩

/-- A scratchpad word of a core and a bank that has not been rewritten since it was last poisoned. -/
structure FirstFault (s : State) (c b x : Nat) : Prop where
  word : x % 8 = 0
  sp : inSp x = true
  core : spCore x = c
  bank : spBank x = b
  rewritten : s.ecc.rewritten.contains x = false

theorem Found.firstFault {s t : State} {c b x : Nat} (h : Found s t) (hx : FirstFault s c b x) : FirstFault t c b x :=
  ⟨hx.word, hx.sp, hx.core, hx.bank, by rw [h.rewritten]; exact hx.rewritten⟩

/-- What a read finds in a word that stays uncorrectable: it is poisoned, or its error is. -/
def Bad : Option EccFind → Prop
  | none => True
  | some (.uncorrectable _) => True
  | some _ => False

theorem eccFound_poisons {s : State} {c b x : Nat} (f : EccFind) (hx : FirstFault s c b x) (hk : Kept s c b) :
    Found s (eccFound s x f none) ∧ (Bad (some f) → x ∈ (eccFound s x f none).ecc.poison) := by
  have hk' : Kept s (spCore x) (spBank x) := by rw [hx.core, hx.bank]; exact hk
  obtain ⟨h, hp⟩ := eccFound_found f hx.word hx.sp hx.rewritten hk'
  refine ⟨h, fun hb => ?_⟩
  cases f with
  | clean | corrected | recovered _ => exact hb.elim
  | uncorrectable syn =>
    rw [hp syn rfl, mem_poisonWord]
    exact .inr rfl

/-- One word of a read. -/
def meetOne (w : Option Nat) (r : State × Bool) (x : Nat × Option EccFind) : State × Bool :=
  match x.2 with
  | none => let (syn, s) := draw r.1 8; (wordFault s x.1 syn.toNat w, false)
  | some f =>
    let s := { r.1 with ecc.latent := tdel r.1.ecc.latent x.1 }
    (eccFound s x.1 f w, r.2 && (match f with | .uncorrectable _ => false | _ => true))

theorem eccMeet_eq (s : State) (w : Option Nat) (due : List (Nat × Option EccFind)) : eccMeet s w due = due.foldl (meetOne w) (s, true) := rfl

theorem meetOne_found {c b : Nat} {r : State × Bool} {x : Nat × Option EccFind} (hx : FirstFault r.1 c b x.1) (hk : Kept r.1 c b) :
    Found r.1 (meetOne none r x).1 ∧ (Bad x.2 → x.1 ∈ (meetOne none r x).1.ecc.poison) := by
  obtain ⟨s, good⟩ := r
  obtain ⟨x, f⟩ := x
  cases f with
  | none =>
    have hdraw : Found s (draw s 8).2 := found_of_store rfl rfl rfl rfl (fun _ h => h) rfl fun _ => rfl
    obtain ⟨h, hp⟩ := eccFound_poisons (.uncorrectable (draw s 8).1) (hdraw.firstFault hx) (hdraw.kept hk)
    exact ⟨hdraw.trans h, fun _ => hp trivial⟩
  | some f =>
    have hdel : Found s { s with ecc.latent := tdel s.ecc.latent x } := found_of_store rfl rfl rfl rfl (fun _ h => h) rfl fun _ => rfl
    obtain ⟨h, hp⟩ := eccFound_poisons f (hdel.firstFault hx) (hdel.kept hk)
    exact ⟨hdel.trans h, hp⟩

/-- Words that no work reads: nothing of memory and jobs changes, and each bad one is poisoned. -/
theorem foldl_meetOne_found {c b : Nat} (due : List (Nat × Option EccFind)) {r : State × Bool} (hd : ∀ x ∈ due, FirstFault r.1 c b x.1)
    (hk : Kept r.1 c b) : Found r.1 (due.foldl (meetOne none) r).1 ∧
      ∀ x ∈ due, Bad x.2 → x.1 ∈ (due.foldl (meetOne none) r).1.ecc.poison := by
  induction due generalizing r with
  | nil => exact ⟨Found.refl _, nofun⟩
  | cons y due ih =>
    obtain ⟨hy, hp⟩ := meetOne_found (hd y List.mem_cons_self) hk
    obtain ⟨hrest, hbad⟩ := ih (fun x hx => hy.firstFault (hd x (List.mem_cons_of_mem _ hx))) (hy.kept hk)
    refine ⟨hy.trans hrest, fun x hx hb => ?_⟩
    rcases List.mem_cons.mp hx with rfl | hx
    · exact hrest.poison _ (hp hb)
    · exact hbad x hx hb

theorem mem_eccDue {s : State} {a n : Nat} {x : Nat × Option EccFind} (h : x ∈ eccDue s a n) : x.1 ∈ wordsOf a n := by
  obtain ⟨y, hy, he⟩ := List.mem_filterMap.mp h
  split at he
  · cases he
    exact hy
  · obtain ⟨f, -, rfl⟩ := Option.map_eq_some_iff.mp he
    exact hy

/-- A word of the range with an uncorrectable error is met as bad. -/
theorem bad_mem_eccDue {s : State} {a n x : Nat} (hx : x ∈ wordsOf a n)
    (h : x ∈ s.ecc.poison ∨ ∃ syn, tget s.ecc.latent x = some (.uncorrectable syn)) : ∃ f, (x, f) ∈ eccDue s a n ∧ Bad f := by
  unfold eccDue
  by_cases hp : x ∈ s.ecc.poison
  · exact ⟨none, List.mem_filterMap.mpr ⟨x, hx, by simp [hp]⟩, trivial⟩
  · obtain ⟨syn, hl⟩ := h.resolve_left hp
    exact ⟨some (.uncorrectable syn), List.mem_filterMap.mpr ⟨x, hx, by simp [hp, hl]⟩, trivial⟩

/-- A scrub's check of a range of one bank. -/
theorem eccCheck_found {s : State} {a n c b : Nat} (hw : ∀ x ∈ wordsOf a n, FirstFault s c b x) (hk : Kept s c b) :
    Found s (eccCheck s a n none).1 ∧ ∀ x ∈ wordsOf a n,
      (x ∈ s.ecc.poison ∨ ∃ syn, tget s.ecc.latent x = some (.uncorrectable syn)) → x ∈ (eccCheck s a n none).1.ecc.poison := by
  unfold eccCheck
  split
  · next h =>
    simp only [Bool.and_eq_true, List.isEmpty_iff] at h
    refine ⟨Found.refl s, fun x _ hb => ?_⟩
    rw [h.1, h.2] at hb
    simp [tget] at hb
  · obtain ⟨h, hbad⟩ := foldl_meetOne_found (r := (s, true)) (eccDue s a n) (fun x hx => hw x.1 (mem_eccDue hx)) hk
    rw [eccMeet_eq]
    refine ⟨h, fun x hx hb => ?_⟩
    obtain ⟨f, hf, hfb⟩ := bad_mem_eccDue hx hb
    exact hbad _ hf hfb

theorem filterMap_single {α β : Type} [DecidableEq α] {l : List α} {x : α} (v : β) (hx : x ∈ l) (hn : l.Nodup) :
    l.filterMap (fun y => if x = y then some v else none) = [v] := by
  induction l with
  | nil => cases hx
  | cons y l ih =>
    obtain ⟨hy, hn⟩ := List.nodup_cons.mp hn
    by_cases h : x = y
    · subst h
      have hnone : l.filterMap (fun y => if x = y then some v else none) = [] :=
        List.filterMap_eq_nil_iff.mpr fun z hz => if_neg fun e : x = z => hy (e ▸ hz)
      simp [hnone]
    · simp [h, ih ((List.mem_cons.mp hx).resolve_left h) hn]

/-- The one error that lies in a range is met alone. -/
theorem eccDue_single {s : State} {a n x : Nat} {f : EccFind} (hp : s.ecc.poison = []) (hl : s.ecc.latent = [(x, f)])
    (hx : x ∈ wordsOf a n) : eccDue s a n = [(x, some f)] := by
  rw [← filterMap_single (x, some f) hx (nodup_wordsOf a n)]
  unfold eccDue
  rw [hp, hl]
  refine List.filterMap_congr fun y _ => ?_
  by_cases h : x = y <;> simp [tget, h]

theorem eccCheck_single {s : State} {a n x : Nat} {f : EccFind} (hp : s.ecc.poison = []) (hl : s.ecc.latent = [(x, f)])
    (hx : x ∈ wordsOf a n) :
    (eccCheck s a n none).1 = eccFound { s with ecc.latent := [] } x f none := by
  unfold eccCheck
  rw [if_neg (by simp [hl]), eccDue_single hp hl hx]
  unfold eccMeet
  simp [tdel, hl]

theorem eccLay_found (s : State) (a : Nat) (f : EccFind) : Found s (eccLay s a f) := by
  unfold eccLay
  split
  · exact Found.refl s
  · exact found_of_store rfl rfl rfl rfl (fun _ h => h) rfl fun _ => rfl

theorem eccLay_latent (s : State) {a : Nat} {f : EccFind} (ha : a % 8 = 0) (hf : f ≠ .clean) :
    (eccLay s a f).ecc.latent = tset s.ecc.latent a f := by
  have hword : a / 8 * 8 = a := by omega
  unfold eccLay
  rw [if_neg hf, hword]

theorem eccLay_eq (s : State) (a : Nat) (f : EccFind) : eccLay s a f = { s with ecc.latent := (eccLay s a f).ecc.latent } := by
  unfold eccLay
  split <;> rfl

/-! ## The beat of a scrub (R249) -/

/-- The beat that holds a row of a group. -/
def beatAt (c group row : Nat) : Nat := (spBase c + group * 0x200000 + row * 64) / 512 * 512

theorem beatAt_aligned (c group row : Nat) : beatAt c group row % 512 = 0 := by
  unfold beatAt
  omega

/-- Where the words of a beat lie: in its core's scratchpad, in one bank. -/
theorem beat_word {c group row i : Nat} (hc : c < 64) (hg : group < 4) (hr : row < 32768) (hi : i < 64) :
    inSp (beatAt c group row + 8 * i) = true ∧ spCore (beatAt c group row + 8 * i) = c ∧
      spBank (beatAt c group row + 8 * i) = spBank (beatAt c group row) := by
  have hlow : spBase c ≤ beatAt c group row := by unfold beatAt spBase; omega
  have hhigh : beatAt c group row + 512 ≤ spBase c + 0x800000 := by unfold beatAt spBase; omega
  have hal := beatAt_aligned c group row
  generalize beatAt c group row = a at hlow hhigh hal
  unfold spBase at hlow hhigh
  unfold inSp spCore spBank
  refine ⟨?_, by omega, by omega⟩
  simp only [Bool.and_eq_true, decide_eq_true_eq]
  omega

theorem firstFault_beat {s : State} {c group row : Nat} (hc : c < 64) (hg : group < 4) (hr : row < 32768)
    (hw : ∀ j, j < 64 → s.ecc.rewritten.contains (beatAt c group row + 8 * j) = false) :
    ∀ x ∈ wordsOf (beatAt c group row) 512, FirstFault s c (spBank (beatAt c group row)) x := by
  rw [wordsOf_beat (beatAt_aligned c group row)]
  intro x hx
  obtain ⟨i, hi, rfl⟩ := List.mem_map.mp hx
  have hi := List.mem_range.mp hi
  have hal := beatAt_aligned c group row
  obtain ⟨hsp, hcore, hbank⟩ := beat_word hc hg hr hi
  exact ⟨by omega, hsp, hcore, hbank, hw i hi⟩

/-- `t` is `s` but for the times of scrub passes (R76, R250). -/
structure PassEnd (s t : State) : Prop where
  eq : t = { s with cores := t.cores, pwr := t.pwr }
  core : ∀ d, core t d = { core s d with scrubbed := (core t d).scrubbed }

theorem PassEnd.refl (s : State) : PassEnd s s := ⟨rfl, fun _ => rfl⟩

/-- The end of a pass notes its time on the core, and the tray's full scrub when it is the last (R76). -/
theorem endPass_eq (s : State) (c : Nat) : endPass s c =
    { modCore s c (fun k => { k with scrubbed := s.eft.tick }) with pwr := (endPass s c).pwr } := by
  unfold endPass
  extract_lets u done p
  clear_value done
  split <;> rfl

theorem endPass_core (s : State) (c d : Nat) : core (endPass s c) d = if c = d then { core s c with scrubbed := s.eft.tick } else core s d := by
  rw [endPass_eq]
  exact core_setCore s c d _

theorem endPass_passEnd (s : State) (c : Nat) : PassEnd s (endPass s c) where
  eq := by
    rw [endPass_eq]
    rfl
  core d := by
    rw [endPass_core]
    split
    · next h => rw [h]
    · rfl

theorem PassEnd.found {s t : State} (h : PassEnd s t) : Found s t := by
  have hc (d : Nat) : (Machine.core t d).doze = (Machine.core s d).doze := by rw [h.core]
  refine found_of_store ?_ ?_ ?_ ?_ ?_ ?_ hc
  all_goals rw [h.eq]
  exact fun _ h => h

theorem Booked.found {s t : State} (h : Booked s t) : Found s t := by
  have hc (d : Nat) : (Machine.core t d).doze = (Machine.core s d).doze := by rw [h.core]
  refine found_of_store ?_ ?_ ?_ ?_ ?_ ?_ hc
  all_goals rw [h.eq]
  exact fun _ h => h

/-- Whether a bank is scrubbed depends on the banks and on the cores that fill. -/
theorem scrubs_congr {s t : State} (hs : t.store = s.store) (hf : ∀ d, (core t d).filling = (core s d).filling) (b : Nat) :
    scrubs t b = scrubs s b := by
  unfold scrubs
  rw [hf, bank_congr (s := s) (by rw [hs])]

/-- With no gathered line of its core, an access flushes nothing. -/
theorem flushGb_empty {s : State} {a : Nat} (n : Nat) (h : (core s (spCore a)).gb = []) : flushGb s a n = s := by
  unfold flushGb flushWhere
  rw [h]
  simp

/-- The scrub of a beat whose bank is scrubbed: its words are checked with what the command finds in them, and a pass may end. -/
theorem scrubBeat_checks {s : State} {c group row : Nat} (finds : List (Nat × EccFind)) (hc : c < 64) (hg : group < 4) (hr : row < 32768)
    (hs : scrubs s (spBank (beatAt c group row)) = true) (hgb : (core s c).gb = []) :
    PassEnd (eccCheck (layFinds s (beatAt c group row) 64 finds) (beatAt c group row) 512 none).1 (scrubBeat s c group row finds) := by
  have hcore : spCore (beatAt c group row) = c := by
    obtain ⟨-, h, -⟩ := beat_word (i := 0) hc hg hr (by omega)
    simpa using h
  unfold scrubBeat
  extract_lets a u
  have hu : u = (eccCheck (layFinds s a 64 finds) a 512 none).1 := by
    have hflush : flushGb s a 512 = s := flushGb_empty 512 (hcore.symm ▸ hgb)
    have hscrubs : scrubs s (spBank a) = true := hs
    unfold u
    rw [if_pos hscrubs, hflush]
  rw [hu]
  split
  · exact endPass_passEnd _ c
  · exact PassEnd.refl _

/-- A beat of sound words is as it was. -/
theorem scrubBeat_sound {s : State} {c group row : Nat} (hc : c < 64) (hg : group < 4) (hr : row < 32768)
    (hs : scrubs s (spBank (beatAt c group row)) = true) (hgb : (core s c).gb = []) (hp : s.ecc.poison = []) (hl : s.ecc.latent = []) :
    PassEnd s (scrubBeat s c group row []) := by
  have h := scrubBeat_checks [] hc hg hr hs hgb
  rw [show layFinds s (beatAt c group row) 64 [] = s from rfl, eccCheck_clean hp hl] at h
  exact h

theorem layFinds_one (s : State) (a words n : Nat) (f : EccFind) (hn : n < words) : layFinds s a words [(n, f)] = eccLay s (a + 8 * n) f := by
  unfold layFinds
  rw [List.foldl_cons, List.foldl_nil, if_pos hn]

theorem mem_wordsOf_beat {c group row n : Nat} (hn : n < 64) : beatAt c group row + 8 * n ∈ wordsOf (beatAt c group row) 512 := by
  rw [wordsOf_beat (beatAt_aligned c group row)]
  exact List.mem_map.mpr ⟨n, List.mem_range.mpr hn, rfl⟩

theorem beat_word_aligned (c group row n : Nat) : (beatAt c group row + 8 * n) % 8 = 0 := by
  have := beatAt_aligned c group row
  omega

/-- A corrected error in one word of a sound beat is counted, and gone (R246). -/
theorem scrubBeat_corrected {s : State} {c group row n : Nat} (hc : c < 64) (hg : group < 4) (hr : row < 32768)
    (hs : scrubs s (spBank (beatAt c group row)) = true) (hgb : (core s c).gb = []) (hp : s.ecc.poison = []) (hl : s.ecc.latent = [])
    (hn : n < 64) : ∃ key, PassEnd (corrected (countCore s c 0x240 1) key) (scrubBeat s c group row [(n, .corrected)]) := by
  have h := scrubBeat_checks [(n, .corrected)] hc hg hr hs hgb
  obtain ⟨hsp, hcore, -⟩ := beat_word hc hg hr hn
  have hlat : (eccLay s (beatAt c group row + 8 * n) .corrected).ecc.latent = [(beatAt c group row + 8 * n, .corrected)] := by
    rw [eccLay_latent s (beat_word_aligned c group row n) (f := .corrected) nofun, hl]
    rfl
  have hpois : (eccLay s (beatAt c group row + 8 * n) .corrected).ecc.poison = [] := by
    rw [eccLay_eq]
    exact hp
  rw [layFinds_one _ _ _ _ _ hn, eccCheck_single hpois hlat (mem_wordsOf_beat hn)] at h
  have hback : { eccLay s (beatAt c group row + 8 * n) .corrected with ecc.latent := [] } = s := by
    rw [eccLay_eq, ← hl]
  rw [hback] at h
  unfold eccFound at h
  dsimp only at h
  rw [if_pos hsp, hcore] at h
  exact ⟨_, h⟩

/-- An uncorrectable word of a beat whose words have not been rewritten is poisoned, where jobs hold the copies there. -/
theorem scrubBeat_uncorrectable {s : State} {c group row n : Nat} (syn : Byte) (hc : c < 64) (hg : group < 4) (hr : row < 32768)
    (hs : scrubs s (spBank (beatAt c group row)) = true) (hgb : (core s c).gb = [])
    (hw : ∀ j, j < 64 → s.ecc.rewritten.contains (beatAt c group row + 8 * j) = false) (hk : Kept s c (spBank (beatAt c group row)))
    (hn : n < 64) : Found s (scrubBeat s c group row [(n, .uncorrectable syn)]) ∧
      beatAt c group row + 8 * n ∈ (scrubBeat s c group row [(n, .uncorrectable syn)]).ecc.poison := by
  have h := scrubBeat_checks [(n, .uncorrectable syn)] hc hg hr hs hgb
  have hlay := eccLay_found s (beatAt c group row + 8 * n) (.uncorrectable syn)
  have hlat := eccLay_latent s (beat_word_aligned c group row n) (f := .uncorrectable syn) nofun
  rw [layFinds_one _ _ _ _ _ hn] at h
  obtain ⟨hfound, hbad⟩ := eccCheck_found (fun x hx => hlay.firstFault (firstFault_beat hc hg hr hw x hx)) (hlay.kept hk)
  have hx := hbad _ (mem_wordsOf_beat hn) (.inr ⟨syn, by rw [hlat, tget_tset, if_pos rfl]⟩)
  exact ⟨(hlay.trans hfound).trans h.found, h.found.poison _ hx⟩

end Sys2Proof.Machine
end

section
/-! PROOFS. DOZE and what the scratchpad scrubbers' instructions do first (03_clocks_power_and_sleep.md R64; 09_cores_and_scratchpad.md
R249; 18_cost_model_and_saturation.md Table 18-3). -/

namespace Sys2Proof.Machine

/-- Memory, jobs and what is on its way. -/
def Rests (s t : State) : Prop := t.mem = s.mem ∧ t.dsp = s.dsp ∧ t.net = s.net

theorem Found.rests {s t : State} (h : Found s t) : Rests s t := ⟨h.mem, h.dsp, h.net⟩

/-- A core with nothing to do enters DOZE (R64). -/
theorem execCoreDoze_dozes {s : State} {c : CoreId} (hd : domainsUp s = true) (hr : ready s = true) (hk : (core s c.val).doze = false)
    (hw : seqWaits (core s c.val).seq = true) (hq : ∀ p ∈ (core s c.val).queues, p.2 = []) : ∃ t, execCoreDoze c s = .next t ∧
      Observed (setCore s c.val { core s c.val with doze := true }) t := by
  have hempty : (core s c.val).queues.all (fun p => p.2.isEmpty) = true := by
    rw [List.all_eq_true]
    intro p hp
    simp [hq p hp]
  unfold execCoreDoze
  dsimp only
  rw [if_pos (by simp [hd, hr, hk, hw, hempty])]
  refine ⟨_, rfl, ?_⟩
  split
  · exact traceTray_observed _ _ _
  · exact Observed.refl _

theorem execSpScrub_scrubs {s : State} (hd : domainsUp s = true) (c : CoreId) (group : Fin 4) (row : Fin 32768)
    (finds : List (Nat × EccFind)) : execSpScrub c group row finds s = .next (scrubBeat s c.val group.val row.val finds) := by
  unfold execSpScrub
  rw [if_pos hd]

/-- A cycle of the scrubber's before the core's queues (Table 18-3; log entry 45). -/
def scrubStalled (s : State) (c : Nat) : State :=
  ((core s c).queues.filter (fun p => !p.2.isEmpty)).foldl (fun s p => stall s c 0x06 p.1 1) s

theorem execScrubForce_scrubs {s : State} (hd : domainsUp s = true) (c : CoreId) (group : Fin 4) (row : Fin 32768)
    (finds : List (Nat × EccFind)) :
    execScrubForce c group row finds s = .next (scrubBeat (scrubStalled s c.val) c.val group.val row.val finds) := by
  unfold execScrubForce
  rw [if_neg (by simp [hd])]
  rfl

theorem Booked.refl (s : State) : Booked s s := ⟨rfl, fun _ => rfl⟩

theorem ctr_stall_scrub (s : State) (c waiter : Nat) :
    ctr (stall s c 0x06 waiter 1) (coreCtr c 0x430) = ctr s (coreCtr c 0x430) + 1 := by
  have hcount : ctr (count s c (64 + 0x06) 1) (coreCtr c 0x430) = ctr s (coreCtr c 0x430) := by
    have hnone : recOff (64 + 0x06) = none := rfl
    unfold count
    dsimp only
    rw [hnone]
    dsimp only
    split <;> rfl
  have hother : coreCtr c (0x600 + 0x100 * waiter + 8 * 0x06) ≠ coreCtr c 0x430 := by
    unfold coreCtr
    omega
  unfold stall countStall
  dsimp only
  rw [if_neg (by decide), if_pos (by decide), ctr_ctrAdd_ne _ hother, ctr_ctrAdd, hcount]
  rfl

theorem foldl_stall_scrub (c : Nat) (l : Tab (List QEnt)) (s : State) : Booked s (l.foldl (fun s p => stall s c 0x06 p.1 1) s) ∧
    ctr (l.foldl (fun s p => stall s c 0x06 p.1 1) s) (coreCtr c 0x430) = ctr s (coreCtr c 0x430) + BitVec.ofNat 64 l.length := by
  induction l generalizing s with
  | nil => exact ⟨Booked.refl s, by simp⟩
  | cons p l ih =>
    obtain ⟨h, hctr⟩ := ih (stall s c 0x06 p.1 1)
    refine ⟨(stall_booked s c 0x06 p.1 1).trans h, ?_⟩
    rw [List.foldl_cons, hctr, ctr_stall_scrub, List.length_cons, Nat.add_comm l.length 1, BitVec.ofNat_add, ← BitVec.add_assoc]
    rfl

theorem scrubStalled_booked (s : State) (c : Nat) : Booked s (scrubStalled s c) := (foldl_stall_scrub c _ s).1

/-- Each queue whose head waits counts the cycle under SCRUB. -/
theorem ctr_scrubStalled (s : State) (c : Nat) : ctr (scrubStalled s c) (coreCtr c 0x430)
    = ctr s (coreCtr c 0x430) + BitVec.ofNat 64 ((core s c).queues.countP (fun p => !p.2.isEmpty)) := by
  rw [List.countP_eq_length_filter]
  exact (foldl_stall_scrub c _ s).2

end Sys2Proof.Machine
end

section
/-! PROOFS. What the scrub of a tier word meets, what the answers of waiting commands leave, and the statement on scrubs, DOZE and
fills (19_tier_memory.md R473, R474). -/

namespace Sys2Proof.Machine

/-! ## A tier word that stays uncorrectable (R473) -/

/-- `t` is `s` but for regions' copies and fills. -/
def CopiesLost (s t : State) : Prop := t = { s with store.regions := t.store.regions, store.fills := t.store.fills }

theorem CopiesLost.refl (s : State) : CopiesLost s s := rfl

theorem CopiesLost.trans {a b c : State} (h : CopiesLost a b) (g : CopiesLost b c) : CopiesLost a c := by
  unfold CopiesLost at h g ⊢
  rw [h] at g
  exact g

theorem dropTaCopy_copiesLost (s : State) (r : Nat) : CopiesLost s (dropTaCopy s r) := by
  unfold dropTaCopy
  split
  · split <;> rfl
  · rfl

/-- No sealed object of the commons has its tier A copy at an address. -/
def OffCommons (s : State) (a : Nat) : Prop := ∀ p ∈ s.store.commons, p.2.sealed = true → a < p.2.baseA ∨ p.2.baseA + p.2.size ≤ a

theorem recopyCommons_off {s : State} {a : Nat} (h : OffCommons s a) : recopyCommons s a = s := by
  have hnone : s.store.commons.find? (fun p => p.2.sealed && decide (p.2.baseA ≤ a) && decide (a < p.2.baseA + p.2.size)) = none := by
    rw [List.find?_eq_none]
    intro p hp hin
    simp only [Bool.and_eq_true, decide_eq_true_eq] at hin
    obtain ⟨⟨hsealed, hlow⟩, hhigh⟩ := hin
    have := h p hp hsealed
    omega
  unfold recopyCommons
  rw [hnone]

/-- What the scrub of a bad tier word leaves: memory, jobs and what is on its way, and the word is poisoned. -/
structure TierPoisoned (s t : State) (a : Nat) : Prop where
  mem : t.mem = s.mem
  dsp : t.dsp = s.dsp
  net : t.net = s.net
  poison : a ∈ t.ecc.poison

theorem tierFault_poisoned {s : State} {a : Nat} (syn rereads cls : Nat) (ha : a % 8 = 0) (hr : s.ecc.rewritten.contains a = false)
    (ho : OffCommons s a) : TierPoisoned s (tierFault s a syn rereads cls none) a := by
  have hword : a / 8 * 8 = a := by omega
  unfold tierFault
  rw [hword]
  extract_lets x u again latched poisoned rg store marked idle lost retired
  have hlatch : latched = { s with errs := latched.errs } := latch_eq s _ _
  have hpoisoned : poisoned = { latched with ecc.poison := poisoned.ecc.poison } := poisonWord_eq latched x
  have hmarked : CopiesLost poisoned marked := rfl
  have hlost : CopiesLost marked lost := List.foldlRecOn _ _ (CopiesLost.refl _) fun _ h _ _ => h.trans (dropTaCopy_copiesLost _ _)
  have hall : CopiesLost poisoned lost := hmarked.trans hlost
  have hagain : again = false := hr
  have hretired : retired = lost := if_neg (by simp [hagain])
  have hpoison : x ∈ poisoned.ecc.poison := (mem_poisonWord latched x x).mpr (.inr rfl)
  have hoff : OffCommons lost x := by
    unfold OffCommons
    rw [hall, hpoisoned, hlatch]
    exact ho
  rw [hretired, recopyCommons_off hoff]
  constructor
  · rw [hall, hpoisoned, hlatch]
  · rw [hall, hpoisoned, hlatch]
  · rw [hall, hpoisoned, hlatch]
  · rw [hall]
    exact hpoison

theorem wordFault_tier {s : State} {a : Nat} (syn : Nat) (ha : a % 8 = 0) (ht : inSp a = false) (hr : s.ecc.rewritten.contains a = false)
    (ho : OffCommons s a) : TierPoisoned s (wordFault s a syn none) a := by
  unfold wordFault
  dsimp only
  rw [if_neg (by simp [ht])]
  exact tierFault_poisoned _ _ _ ha hr ho

/-- A bad word is met as its poison or as the error that lies there. -/
theorem eccDue_word {s : State} {a : Nat} {f : EccFind} (ha : a % 8 = 0) (hl : tget s.ecc.latent a = some f) :
    eccDue s a 8 = [(a, none)] ∨ eccDue s a 8 = [(a, some f)] := by
  unfold eccDue
  rw [wordsOf_word ha]
  by_cases hp : a ∈ s.ecc.poison
  · left
    simp [hp]
  · right
    simp [hp, hl]

/-- A tier word with an uncorrectable error, read for no work, is poisoned. -/
theorem eccRead_tier {s : State} {a : Nat} (syn : Byte) (ha : a % 8 = 0) (ht : inSp a = false) (hr : s.ecc.rewritten.contains a = false)
    (ho : OffCommons s a) : TierPoisoned s (eccRead s a 8 (.uncorrectable syn) none).1 a := by
  have hlat := eccLay_latent s ha (f := .uncorrectable syn) nofun
  have hlay := eccLay_eq s a (.uncorrectable syn)
  unfold eccRead
  generalize eccLay s a (.uncorrectable syn) = u at hlat hlay
  have hget : tget u.ecc.latent a = some (.uncorrectable syn) := by
    rw [hlat, tget_tset, if_pos rfl]
  have hne : u.ecc.latent.isEmpty = false := by
    cases h : u.ecc.latent with
    | nil =>
      rw [h] at hget
      cases hget
    | cons _ _ => rfl
  rw [hlay] at hget hne ⊢
  unfold eccCheck
  rw [if_neg (by simp [hne]), eccMeet_eq]
  rcases eccDue_word ha hget with hdue | hdue
  all_goals rw [hdue, List.foldl_cons, List.foldl_nil]
  · obtain ⟨hm, hd, hn, hp⟩ := wordFault_tier (s := (draw { s with ecc.latent := u.ecc.latent } 8).2)
      (draw { s with ecc.latent := u.ecc.latent } 8).1.toNat ha ht hr ho
    exact ⟨hm, hd, hn, hp⟩
  · obtain ⟨hm, hd, hn, hp⟩ := wordFault_tier (s := { s with ecc.latent := tdel u.ecc.latent a }) syn.toNat ha ht hr ho
    exact ⟨hm, hd, hn, hp⟩

theorem inSp_tier {a : Nat} (h : inTierA a = true ∨ inTierB a = true) : inSp (a / 8 * 8) = false := by
  unfold inTierA inTierB at h
  unfold inSp
  simp only [Bool.and_eq_true, decide_eq_true_eq, Bool.and_eq_false_iff, decide_eq_false_iff_not] at h ⊢
  omega

/-! ## Answers of commands that waited -/

/-- Memory and what is on its way, as a response leaves them. -/
def Quiet (s t : State) : Prop := t.mem = s.mem ∧ t.net = s.net

theorem respond_quiet (s : State) (k : Nat) (r : Req) (status : Nat) (payload : List Byte) : Quiet s (respond s k r status payload) := by
  unfold respond
  dsimp only
  rw [settleMgt_eq]
  split
  · exact ⟨rfl, rfl⟩
  · rw [raiseMsix_told _ 0]
    exact ⟨rfl, rfl⟩

theorem answerWaits_quiet (s : State) : Quiet s (answerWaits s) :=
  List.foldlRecOn (motive := Quiet s) _ _ ⟨rfl, rfl⟩ fun u hu p _ => by
    obtain ⟨hm, hn⟩ := respond_quiet u p.1 p.2.req 0 p.2.payload
    exact ⟨hm.trans hu.1, hn.trans hu.2⟩

end Sys2Proof.Machine
end

section
/-! PROOFS. The statement on scrubs, DOZE and fills, clause by clause (03_clocks_power_and_sleep.md R64; 09_cores_and_scratchpad.md R246,
R247, R249, R250; 19_tier_memory.md R470, R473, R474). -/

namespace Sys2Proof.Machine

theorem PassEnd.store {s t : State} (h : PassEnd s t) : t.store = s.store := by rw [h.eq]

theorem PassEnd.ecc {s t : State} (h : PassEnd s t) : t.ecc = s.ecc := by rw [h.eq]

theorem PassEnd.obs {s t : State} (h : PassEnd s t) : t.obs = s.obs := by rw [h.eq]

theorem seqWaits_iff (q : Seq) : seqWaits q = true ↔ (q.run = .idle ∨ q.run = .done ∨ q.run = .wait) ∧ q.timer = 0 := by
  unfold seqWaits
  simp [or_assoc]

theorem coreDoze_completes {s : State} {c : CoreId} (hd : domainsUp s = true) (hr : ready s = true) (hk : (core s c.val).doze = false)
    (hw : seqWaits (core s c.val).seq = true) (hq : ∀ p ∈ (core s c.val).queues, p.2 = []) :
    Completes (.coreDoze c) s (fun t => core t c.val = { core s c.val with doze := true } ∧ (∀ d, d ≠ c.val → core t d = core s d) ∧
      Rests s t ∧ t.store = s.store) := by
  obtain ⟨t, hstep, ht⟩ := execCoreDoze_dozes hd hr hk hw hq
  refine ⟨t, hstep, ?_, fun d hne => ?_, ?_, ?_⟩
  · rw [ht.core, core_setCore_self]
  · rw [ht.core, core_setCore_ne _ hne.symm]
  · rw [Rests, ht]
    exact ⟨rfl, rfl, rfl⟩
  · rw [ht]
    rfl

/-! ## The scrub of a beat -/

theorem spScrub_sound {s : State} {c : CoreId} {group : Fin 4} {row : Fin 32768} (hd : domainsUp s = true)
    (hs : scrubs s (spBank (beatAt c.val group.val row.val)) = true) (hgb : (core s c.val).gb = []) (hp : s.ecc.poison = [])
    (hl : s.ecc.latent = []) :
    Completes (.spScrub c group row []) s (fun t => Rests s t ∧ t.store = s.store ∧ t.ecc = s.ecc ∧ t.obs = s.obs) := by
  have h := scrubBeat_sound c.isLt group.isLt row.isLt hs hgb hp hl
  exact ⟨_, execSpScrub_scrubs hd c group row [], h.found.rests, h.store, h.ecc, h.obs⟩

theorem spScrub_corrected {s : State} {c : CoreId} {group : Fin 4} {row : Fin 32768} {n : Nat} (hd : domainsUp s = true)
    (hs : scrubs s (spBank (beatAt c.val group.val row.val)) = true) (hgb : (core s c.val).gb = []) (hp : s.ecc.poison = [])
    (hl : s.ecc.latent = []) (hn : n < 64) :
    Completes (.spScrub c group row [(n, .corrected)]) s (fun t => Rests s t ∧ t.store = s.store ∧ t.ecc.poison = [] ∧
      t.ecc.latent = [] ∧ ctr t (coreCtr c.val 0x240) = ctr s (coreCtr c.val 0x240) + 1) := by
  obtain ⟨key, h⟩ := scrubBeat_corrected c.isLt group.isLt row.isLt hs hgb hp hl hn
  have hc := corrected_eq (countCore s c.val 0x240 1) key
  have hobs : (corrected (countCore s c.val 0x240 1) key).obs = (countCore s c.val 0x240 1).obs := by rw [hc]
  have hfound := h.found.rests
  rw [hc] at hfound
  refine ⟨_, execSpScrub_scrubs hd c group row _, hfound, ?_, ?_, ?_, ?_⟩
  · rw [h.store, hc]
    rfl
  · rw [h.ecc, hc]
    exact hp
  · rw [h.ecc, hc]
    exact hl
  · unfold ctr
    rw [h.obs, hobs]
    exact ctr_ctrAdd s (coreCtr c.val 0x240) 1

/-- The stalls of a forced scrub change nothing that the scrub of the beat depends on. -/
theorem scrubs_scrubStalled (s : State) (c b : Nat) : scrubs (scrubStalled s c) b = scrubs s b :=
  scrubs_congr (by rw [(scrubStalled_booked s c).eq]) (fun d => by rw [(scrubStalled_booked s c).core]) b

theorem gb_scrubStalled (s : State) (c : Nat) : (core (scrubStalled s c) c).gb = (core s c).gb := by rw [(scrubStalled_booked s c).core]

theorem ecc_scrubStalled (s : State) (c : Nat) : (scrubStalled s c).ecc = s.ecc := by rw [(scrubStalled_booked s c).eq]

theorem store_scrubStalled (s : State) (c : Nat) : (scrubStalled s c).store = s.store := by rw [(scrubStalled_booked s c).eq]

theorem scrubForce_sound {s : State} {c : CoreId} {group : Fin 4} {row : Fin 32768} (hd : domainsUp s = true)
    (hs : scrubs s (spBank (beatAt c.val group.val row.val)) = true) (hgb : (core s c.val).gb = []) (hp : s.ecc.poison = [])
    (hl : s.ecc.latent = []) :
    Completes (.scrubForce c group row []) s (fun t => Rests s t ∧ t.store = s.store ∧ t.ecc = s.ecc ∧
      ctr t (coreCtr c.val 0x430) = ctr s (coreCtr c.val 0x430) + BitVec.ofNat 64 ((core s c.val).queues.countP (fun p => !p.2.isEmpty))) := by
  have hecc := ecc_scrubStalled s c.val
  have h := scrubBeat_sound (s := scrubStalled s c.val) c.isLt group.isLt row.isLt ((scrubs_scrubStalled s c.val _).trans hs)
    ((gb_scrubStalled s c.val).trans hgb) (hecc ▸ hp) (hecc ▸ hl)
  refine ⟨_, execScrubForce_scrubs hd c group row [], ((scrubStalled_booked s c.val).found.trans h.found).rests,
    h.store.trans (store_scrubStalled s c.val), h.ecc.trans hecc, ?_⟩
  rw [← ctr_scrubStalled]
  unfold ctr
  rw [h.obs]

theorem beat_uncorrectable {s : State} {c : CoreId} {group : Fin 4} {row : Fin 32768} {n : Nat} {syn : Byte} (hd : domainsUp s = true)
    (hs : scrubs s (spBank (beatAt c.val group.val row.val)) = true) (hgb : (core s c.val).gb = [])
    (hw : ∀ j, j < 64 → s.ecc.rewritten.contains (beatAt c.val group.val row.val + 8 * j) = false)
    (hk : Kept s c.val (spBank (beatAt c.val group.val row.val))) (hn : n < 64) :
    ∀ i ∈ ([.spScrub c group row [(n, .uncorrectable syn)], .scrubForce c group row [(n, .uncorrectable syn)]] : List Instr),
      Completes i s (fun t => Rests s t ∧ t.ecc.poison.contains (beatAt c.val group.val row.val + 8 * n) = true ∧
        ∀ x ∈ s.ecc.poison, x ∈ t.ecc.poison) := by
  intro i hi
  rcases List.mem_pair.mp hi with rfl | rfl
  · obtain ⟨h, hx⟩ := scrubBeat_uncorrectable syn c.isLt group.isLt row.isLt hs hgb hw hk hn
    exact ⟨_, execSpScrub_scrubs hd c group row _, h.rests, List.contains_iff_mem.mpr hx, h.poison⟩
  · have hbook := (scrubStalled_booked s c.val).found
    obtain ⟨h, hx⟩ := scrubBeat_uncorrectable (s := scrubStalled s c.val) syn c.isLt group.isLt row.isLt
      ((scrubs_scrubStalled s c.val _).trans hs) ((gb_scrubStalled s c.val).trans hgb) (by rw [ecc_scrubStalled]; exact hw) (hbook.kept hk) hn
    have hall := hbook.trans h
    exact ⟨_, execScrubForce_scrubs hd c group row _, hall.rests, List.contains_iff_mem.mpr hx, hall.poison⟩

/-! ## The scrub of a dozing core (R250) -/

/-- The start of the scrub of a dozing core: a run is counted, and its pass noted. -/
def dozePass (s : State) (c : Nat) : State := endPass (countCore s c 0x250 1) c

theorem dozePass_passEnd (s : State) (c : Nat) : PassEnd (countCore s c 0x250 1) (dozePass s c) := endPass_passEnd _ c

theorem dozePass_found (s : State) (c : Nat) : Found s (dozePass s c) :=
  have hcount : Found s (countCore s c 0x250 1) := found_of_store rfl rfl rfl rfl (fun _ h => h) rfl fun _ => rfl
  hcount.trans (dozePass_passEnd s c).found

theorem dozePass_ecc (s : State) (c : Nat) : (dozePass s c).ecc = s.ecc := (dozePass_passEnd s c).ecc

theorem dozePass_store (s : State) (c : Nat) : (dozePass s c).store = s.store := (dozePass_passEnd s c).store

theorem scrubs_dozePass (s : State) (c b : Nat) : scrubs (dozePass s c) b = scrubs s b :=
  scrubs_congr (dozePass_store s c) (fun d => by rw [(dozePass_passEnd s c).core]; rfl) b

theorem execSpScrubDoze_sound {s : State} {c : CoreId} (hd : domainsUp s = true) (hk : (core s c.val).doze = true)
    (ht : (core s c.val).scrubbed + 1500000000 ≤ s.eft.tick) (hp : s.ecc.poison = []) (hl : s.ecc.latent = []) :
    execSpScrubDoze { core := c, finds := [] } s = .next (dozePass s c.val) := by
  have hecc := dozePass_ecc s c.val
  unfold execSpScrubDoze
  dsimp only
  rw [if_neg (by simp [hd, hk, ht]), ← dozePass, List.filter_nil, layFinds, List.foldl_nil, hecc, hp, hl]
  rfl

theorem spScrubDoze_completes {s : State} {c : CoreId} (hd : domainsUp s = true) (hk : (core s c.val).doze = true)
    (ht : (core s c.val).scrubbed + 1500000000 ≤ s.eft.tick) (hp : s.ecc.poison = []) (hl : s.ecc.latent = []) :
    Completes (.spScrubDoze { core := c, finds := [] }) s (fun t => core t c.val = { core s c.val with scrubbed := s.eft.tick } ∧
      ctr t (coreCtr c.val 0x250) = ctr s (coreCtr c.val 0x250) + 1 ∧ Rests s t ∧ t.store = s.store ∧ t.ecc = s.ecc) := by
  refine ⟨_, execSpScrubDoze_sound hd hk ht hp hl, ?_, ?_, (dozePass_found s c.val).rests, dozePass_store s c.val, dozePass_ecc s c.val⟩
  · exact (endPass_core _ c.val c.val).trans (if_pos rfl)
  · unfold ctr
    rw [(dozePass_passEnd s c.val).obs]
    exact ctr_ctrAdd s (coreCtr c.val 0x250) 1

/-- Where a word of a core's scratchpad lies. -/
theorem sp_word {c n : Nat} (hc : c < 64) (hn : n < 0x100000) :
    (spBase c + 8 * n) % 8 = 0 ∧ inSp (spBase c + 8 * n) = true ∧ spCore (spBase c + 8 * n) = c := by
  unfold spBase inSp spCore
  refine ⟨by omega, ?_, by omega⟩
  simp only [Bool.and_eq_true, decide_eq_true_eq]
  omega

/-- The scrub of a dozing core that finds one bad word in a scrubbed bank meets that word alone. -/
theorem execSpScrubDoze_one {s : State} {c : CoreId} {n : Nat} (syn : Byte) (hd : domainsUp s = true) (hk : (core s c.val).doze = true)
    (ht : (core s c.val).scrubbed + 1500000000 ≤ s.eft.tick) (hp : s.ecc.poison = []) (hl : s.ecc.latent = []) (hn : n < 0x100000)
    (hs : scrubs s (spBank (spBase c.val + 8 * n)) = true) :
    execSpScrubDoze { core := c, finds := [(n, .uncorrectable syn)] } s =
      .next (eccFound (dozePass s c.val) (spBase c.val + 8 * n) (.uncorrectable syn) none) := by
  obtain ⟨hword, hsp, hcore⟩ := sp_word c.isLt hn
  have hecc := dozePass_ecc s c.val
  have hscr (b : Nat) := scrubs_dozePass s c.val b
  have hfinds : [(n, EccFind.uncorrectable syn)].filter (fun f => scrubs (dozePass s c.val) (spBank (spBase c.val + 8 * f.1)))
      = [(n, .uncorrectable syn)] := by simp [scrubs_dozePass, hs]
  have hlat : (eccLay (dozePass s c.val) (spBase c.val + 8 * n) (.uncorrectable syn)).ecc.latent =
      [(spBase c.val + 8 * n, .uncorrectable syn)] := by
    rw [eccLay_latent _ hword (f := .uncorrectable syn) nofun, hecc, hl]
    rfl
  have hlay := eccLay_eq (dozePass s c.val) (spBase c.val + 8 * n) (.uncorrectable syn)
  have hpois : (eccLay (dozePass s c.val) (spBase c.val + 8 * n) (.uncorrectable syn)).ecc.poison = [] := by rw [hlay, hecc, hp]
  have hscr : scrubs (eccLay (dozePass s c.val) (spBase c.val + 8 * n) (.uncorrectable syn)) (spBank (spBase c.val + 8 * n)) = true := by
    rw [← hs, ← scrubs_dozePass s c.val, hlay]
    rfl
  have hback : { eccLay (dozePass s c.val) (spBase c.val + 8 * n) (.uncorrectable syn) with ecc.latent := [] } = dozePass s c.val := by
    rw [hlay, ← hl, ← hecc]
  unfold execSpScrubDoze
  dsimp only
  rw [if_neg (by simp [hd, hk, ht]), ← dozePass, hfinds, layFinds_one _ _ _ _ _ hn, hpois, hlat]
  simp only [List.map_cons, List.map_nil, List.nil_append, List.filter_cons, List.filter_nil, hsp, hcore, hscr, beq_self_eq_true,
    Bool.and_self, if_true, List.foldl_cons, List.foldl_nil]
  rw [eccCheck_single hpois hlat (by simp [wordsOf_word hword]), hback]

theorem spScrubDoze_poisons {s : State} {c : CoreId} {n : Nat} {syn : Byte} (hd : domainsUp s = true) (hk : (core s c.val).doze = true)
    (ht : (core s c.val).scrubbed + 1500000000 ≤ s.eft.tick) (hp : s.ecc.poison = []) (hl : s.ecc.latent = []) (hn : n < 0x100000)
    (hs : scrubs s (spBank (spBase c.val + 8 * n)) = true) (hr : s.ecc.rewritten.contains (spBase c.val + 8 * n) = false)
    (hkept : Kept s c.val (spBank (spBase c.val + 8 * n))) :
    Completes (.spScrubDoze { core := c, finds := [(n, .uncorrectable syn)] }) s (fun t => t.ecc.poison = [spBase c.val + 8 * n] ∧
      Rests s t ∧ (core t c.val).doze = true) := by
  obtain ⟨hword, hsp, hcore⟩ := sp_word c.isLt hn
  have hpass := dozePass_found s c.val
  obtain ⟨hfound, hpoison⟩ := eccFound_found (s := dozePass s c.val) (.uncorrectable syn) hword hsp (by rw [hpass.rewritten]; exact hr)
    (by rw [hcore]; exact hpass.kept hkept)
  have hall := hpass.trans hfound
  refine ⟨_, execSpScrubDoze_one syn hd hk ht hp hl hn hs, ?_, hall.rests, (hall.doze c.val).trans hk⟩
  have hnone : (dozePass s c.val).ecc.poison = [] := by rw [dozePass_ecc, hp]
  rw [hpoison syn rfl, poisonWord, hnone]
  rfl

/-! ## The scrub of a tier word (R473) -/

/-- The check of a tier word: a word that a zero-fill has not reached is not read. -/
def tierChecked (s : State) (a : Nat) (find : EccFind) : State :=
  if (gtag s (a / 0x10000)).fill then s else (eccRead s a 8 find none).1

theorem execTierScrub_scrubs {s : State} {addr : Nat} (find : EccFind) (ends : Bool) (hd : domainsUp s = true)
    (ha : inTierA addr = true ∨ inTierB addr = true) : execTierScrub addr find ends s =
      .next (if ends then ctrAdd (tierChecked s (addr / 8 * 8) find) 0x220 1 else tierChecked s (addr / 8 * 8) find) := by
  have ha' : (inTierA addr || inTierB addr) = true := Bool.or_eq_true_iff.mpr ha
  unfold execTierScrub
  rw [if_neg (by simp [hd, ha'])]
  rfl

theorem tierScrub_sound {s : State} {addr : Nat} {ends : Bool} (hd : domainsUp s = true) (ha : inTierA addr = true ∨ inTierB addr = true)
    (hp : s.ecc.poison = []) (hl : s.ecc.latent = []) :
    Completes (.tierScrub addr .clean ends) s (fun t => Rests s t ∧ t.store = s.store ∧ t.ecc = s.ecc ∧
      ctr t 0x220 = ctr s 0x220 + (if ends then 1 else 0)) := by
  have hstep := execTierScrub_scrubs .clean ends hd ha
  rw [tierChecked, eccRead_clean hp hl, ite_self] at hstep
  refine ⟨_, hstep, ?_⟩
  cases ends with
  | true => exact ⟨⟨rfl, rfl, rfl⟩, rfl, rfl, ctr_ctrAdd s 0x220 1⟩
  | false => exact ⟨⟨rfl, rfl, rfl⟩, rfl, rfl, (BitVec.add_zero _).symm⟩

theorem tierScrub_filling {s : State} {addr : Nat} {find : EccFind} {ends : Bool} (hd : domainsUp s = true)
    (ha : inTierA addr = true ∨ inTierB addr = true) (hf : (gtag s (addr / 8 * 8 / 0x10000)).fill = true) :
    Completes (.tierScrub addr find ends) s (fun t => Rests s t ∧ t.ecc = s.ecc) := by
  have hstep := execTierScrub_scrubs find ends hd ha
  rw [tierChecked, if_pos hf] at hstep
  refine ⟨_, hstep, ?_⟩
  cases ends <;> exact ⟨⟨rfl, rfl, rfl⟩, rfl⟩

theorem tierScrub_poisons {s : State} {addr : Nat} {syn : Byte} {ends : Bool} (hd : domainsUp s = true)
    (ha : inTierA addr = true ∨ inTierB addr = true) (hf : (gtag s (addr / 8 * 8 / 0x10000)).fill = false)
    (hr : s.ecc.rewritten.contains (addr / 8 * 8) = false) (ho : OffCommons s (addr / 8 * 8)) :
    Completes (.tierScrub addr (.uncorrectable syn) ends) s (fun t => Rests s t ∧ t.ecc.poison.contains (addr / 8 * 8) = true) := by
  have hstep := execTierScrub_scrubs (.uncorrectable syn) ends hd ha
  have hread : tierChecked s (addr / 8 * 8) (.uncorrectable syn) = (eccRead s (addr / 8 * 8) 8 (.uncorrectable syn) none).1 :=
    if_neg (by simp [hf])
  rw [hread] at hstep
  obtain ⟨hm, hdsp, hn, hx⟩ := eccRead_tier syn (by omega) (inSp_tier ha) hr ho
  have hx := List.contains_iff_mem.mpr hx
  refine ⟨_, hstep, ?_⟩
  cases ends <;> exact ⟨⟨hm, hdsp, hn⟩, hx⟩

/-! ## The end of a tier zero-fill (R474) -/

theorem memZero_quiet (s : State) (a n : Nat) : (memZero s a n).dsp = s.dsp ∧ (memZero s a n).net = s.net := by
  rw [memZero_eq]
  exact ⟨rfl, rfl⟩

theorem tierFillDone_completes {s : State} {ix : Nat} {f : Fill} (hd : domainsUp s = true) (hf : s.store.fills[ix]? = some f) :
    Completes (.tierFillDone ix) s (fun t => t.store = { s.store with fills := s.store.fills.eraseIdx ix } ∧ t.dsp = s.dsp ∧
      t.net = s.net ∧ ∀ x, mget t.mem x = if f.base ≤ x ∧ x < f.base + f.size then 0 else mget s.mem x) := by
  obtain ⟨hdsp, hnet⟩ := memZero_quiet s f.base f.size
  have hstore := memZero_store s f.base f.size
  have hmem := memZero_mem s f.base f.size
  have hstep : execTierFillDone ix s = .next (answerWaits { memZero s f.base f.size with
      store.fills := (memZero s f.base f.size).store.fills.eraseIdx ix }) := by
    unfold execTierFillDone
    rw [hf]
    dsimp only
    rw [if_neg (by simp [hd])]
  generalize memZero s f.base f.size = z at *
  have hnotes := answerWaits_notes { z with store.fills := z.store.fills.eraseIdx ix }
  obtain ⟨hm, hn⟩ := answerWaits_quiet { z with store.fills := z.store.fills.eraseIdx ix }
  refine ⟨_, hstep, ?_, hnotes.dsp.trans hdsp, hn.trans hnet, fun x => ?_⟩
  · rw [hnotes.store, hstore]
  · rw [hm, hmem]
    exact mget_mzero _ _ _

/-- Settles O50: a scrub's find at a word that no work reads changes memory and jobs nowhere (`Found`), and the other clauses are one
step each. A SCRUB stall for every queue that holds an entry is log entry 45. -/
theorem scrubRefreshDozeAndFill : Obligations.ScrubRefreshDozeAndFill := by
  unfold Obligations.ScrubRefreshDozeAndFill
  intro s c group row
  refine ⟨fun hd hr hk hrun ht hq => coreDoze_completes hd hr hk ((seqWaits_iff _).mpr ⟨hrun, ht⟩) hq, fun hd hs hgb => ⟨?_, ?_⟩,
    fun hd hk ht hp => ⟨?_, ?_⟩, fun addr syn ends hd ha => ⟨?_, ?_, ?_⟩, fun ctl => ⟨s, rfl, rfl⟩,
    fun ix f hd _ hf => tierFillDone_completes hd hf⟩
  · exact fun hp => ⟨spScrub_sound hd hs hgb hp.1 hp.2, fun n hn => spScrub_corrected hd hs hgb hp.1 hp.2 hn,
      scrubForce_sound hd hs hgb hp.1 hp.2⟩
  · exact fun n syn hn _ hw hk => beat_uncorrectable hd hs hgb hw hk hn
  · exact spScrubDoze_completes hd hk ht hp.1 hp.2
  · exact fun n syn hn hs hr hkept => spScrubDoze_poisons hd hk ht hp.1 hp.2 hn hs hr hkept
  · exact fun hp => tierScrub_sound hd ha hp.1 hp.2
  · exact fun hf => tierScrub_filling hd ha hf
  · exact fun hf hr ho => tierScrub_poisons hd ha hf hr ho

end Sys2Proof.Machine
end

section
/-! PROOFS. What the resets leave (04_startup_and_reset.md R86 to R92, R105, Tables 4-2 and 4-6). -/

namespace Sys2Proof.Machine

/-- Settles O58: the reset state is the state of default values, which the claims read off. -/
theorem resetLeavesTheTrayCleared : Obligations.ResetLeavesTheTrayCleared := by
  unfold Obligations.ResetLeavesTheTrayCleared
  have hacc (c set f m n : Nat) : accGet (accSet (core State.reset c) set) f m n = 0 := by
    unfold accGet
    split <;> rfl
  exact ⟨rfl, rfl, rfl, rfl, rfl, fun _ => rfl, hacc, rfl, rfl, rfl, rfl, rfl, rfl, fun _ => rfl, rfl, rfl, rfl, rfl⟩

/-- Settles O1: each of the three commands is `coldReset` with an Eft island of its own, at tray time 0. -/
theorem coldResetsClearTheTray : Obligations.ColdResetsClearTheTray := by
  unfold Obligations.ColdResetsClearTheTray
  intro s cleared
  have hcold (code : Nat) (eft : Eft) (ht : eft.time = 0) (hf : eft.frozen = false) : cleared code (coldReset s code eft) :=
    ⟨rfl, rfl, rfl, ht, hf, rfl, rfl, rfl, rfl, rfl, rfl, rfl, rfl, rfl, rfl, rfl, rfl, rfl, rfl⟩
  refine ⟨⟨_, rfl, hcold _ _ rfl rfl⟩, fun hp hf => ⟨_, ?_, hcold _ (eftAfterCold s.eft true) rfl rfl⟩, fun hp hf hl => ?_,
    fun hl hd => ⟨{ coldReset s causeHostCold (eftAfterCold s.eft s.eft.perst) with host.up := s.host.up }, ?_, hcold _ _ rfl rfl⟩⟩
  · show execPerst s = _
    unfold execPerst
    rw [if_neg (by simp [hp]), if_neg (by simp [hf])]
    rfl
  · show execPerst s = _
    unfold execPerst
    rw [if_neg (by simp [hp]), if_pos (by simp [hf, hl])]
  · show execHostCold s = _
    unfold execHostCold
    rw [linkExit_of_serves s hl]
    dsimp only
    rw [if_neg (by simp [hl]), if_neg (by simp [hd])]

/-- Settles O2: each of the four triggers is `warmReset` with its cause. That TRIAL is cleared is log entry 70. -/
theorem warmResetsKeepTheLedger : Obligations.WarmResetsKeepTheLedger := by
  unfold Obligations.WarmResetsKeepTheLedger
  intro s warm
  have hwarm (code : Nat) (link : LinkReset) : warm code (warmReset s code link) := by
    have htodo : (warmReset s code link).boot.todo.head? = some .verify := by
      unfold warmReset
      dsimp only
      split <;> rfl
    exact ⟨rfl, rfl, rfl, rfl, htodo, rfl, rfl, rfl, rfl, rfl, rfl, rfl, rfl, rfl, rfl, rfl, rfl, rfl, rfl, rfl, rfl⟩
  refine ⟨fun hl hd => ⟨_, ?_, hwarm causeHostWarm .kept⟩,
    fun ha => ⟨⟨_, if_pos ha, hwarm causeFlr .flr⟩, ⟨_, if_pos ha, hwarm causeHotReset .hot⟩⟩,
    fun ha hp hg => ⟨_, if_pos (by simp [ha, hp, hg]), hwarm causeWatchdog .kept⟩⟩
  show execHostWarm s = _
  unfold execHostWarm
  rw [linkExit_of_serves s hl]
  dsimp only
  rw [if_neg (by simp [hl]), if_neg (by simp [hd])]

end Sys2Proof.Machine
end

section
/-! PROOFS. The steps of start-up and the boot ROM's choice of an image (04_startup_and_reset.md R98 to R103, R110). -/

namespace Sys2Proof.Machine

/-! ## Self-test -/

/-- The tray when no unit has failed self-test, before its ports train. -/
def selftestPassed (s : State) (rest : List BootStep) : State :=
  { s with errs.units := [], errs.notes := [], boot.todo := rest, store.banks := s.store.banks.filter (fun p => !p.2.retired) }

theorem execSelftestDone_passes {s : State} {rest : List BootStep} (ha : alive s = true) (ht : s.boot.todo = .selftest :: rest)
    (hs : s.boot.status = 0) : execSelftestDone { units := [], banks := [] } [] s = .next (trainAll (selftestPassed s rest)) := by
  have hkept : (fun p : Nat × Bank => !p.2.retired || ([] : List Nat).contains p.1) = fun p => !p.2.retired := by simp
  unfold execSelftestDone selftestPassed
  rw [if_neg (by simp [ha, ht, hs]), hkept, ht]
  rfl

/-- Without the retired records no bank is retired (R248). -/
theorem bank_not_retired {s : State} (h : ∀ p ∈ s.store.banks, p.2.retired = false) (b : Nat) : (bank s b).retired = false := by
  unfold bank tgetD
  cases hb : tget s.store.banks b with
  | none => rfl
  | some k => exact h _ (mem_of_tget hb)

/-! ## The end of a trial (R110) -/

/-- The tray once a trial is abandoned, before the COMMITTED slot is verified. -/
def trialStopped (s : State) (g : Gap) : State :=
  { s with boot.trial := none, boot.gap := some { g with reverted := true }, boot.runFrom := .none, swi.run := .idle }

/-! ## The boot ROM's choice (R99, R100) -/

theorem tget_foldl_tset {α : Type} (skip : Nat → Prop) [DecidablePred skip] (f : Nat → α) (l : List Nat) (t : Tab α) (k : Nat) :
    tget (l.foldl (fun t b => if skip b then t else tset t b (f b)) t) k = if k ∈ l ∧ ¬ skip k then some (f k) else tget t k := by
  induction l generalizing t with
  | nil => simp
  | cons b l ih =>
    rw [List.foldl_cons, ih]
    by_cases hk : k = b
    · subst hk
      by_cases hs : skip k <;> simp [hs, tget_tset]
    · by_cases hs : skip b <;> simp [hs, hk, tget_tset, Ne.symm hk]

/-- The recovery buffer's banks take the power state, and nothing but banks changes (R75, R100). -/
theorem recoveryBanks_powers (s : State) (p : BankPower) : ∃ bs, recoveryBanks s p = { s with store.banks := bs } ∧
    ∀ b, b < 128 → b % 32 ≠ 31 → (bank { s with store.banks := bs } b).power = p := by
  refine ⟨_, rfl, fun b hb h31 => ?_⟩
  have hget := tget_foldl_tset (fun b => b % 32 = 31) (fun b => { bank s b with power := p }) (List.range 128) s.store.banks b
  rw [if_pos ⟨List.mem_range.mpr hb, h31⟩] at hget
  rw [bank, tgetD]
  dsimp only
  rw [hget]
  rfl

theorem verify_not_mem_bootImage (s : State) (b : List Byte) (src : ImgSource) : BootStep.verify ∉ (bootImage s b src).boot.todo := by
  simp [bootImage]

/-- The tray once the boot ROM has read both slots. -/
def slotsRead (s : State) (flash : FlashSlots) : State :=
  { s with boot.slotA := some (slotOf s false flash.slotA), boot.slotB := some (slotOf s true flash.slotB) }

theorem execImageVerifyDone_chooses {s : State} {flash : FlashSlots} (ha : alive s = true) (ht : s.boot.todo.head? = some .verify)
    (hs : s.boot.status = 0) (hk : s.boot.kind ≠ .fwActivate) : execImageVerifyDone flash s =
      .next (chooseImage (slotsRead s flash)
        (slotOf s s.boot.committed (if s.boot.committed then flash.slotB else flash.slotA))
        (slotOf s (!s.boot.committed) (if s.boot.committed then flash.slotA else flash.slotB))) := by
  unfold execImageVerifyDone
  rw [if_neg (by simp [ha, ht, hs])]
  split
  · next h _ => exact absurd h hk
  · cases hc : s.boot.committed <;> simp [hc, keepSlot, slotsRead]

theorem srcOf_not (slot : Bool) : srcOf (!slot) = if slot then .slotA else .slotB := by cases slot <;> rfl

theorem chooseImage_first {s : State} {b1 b2 : List Byte} (h1 : verifyImage b1 s.boot.rollback = .ok) :
    chooseImage s b1 b2 = bootImage s b1 (srcOf s.boot.committed) := if_pos h1

theorem chooseImage_other {s : State} {b1 b2 : List Byte} (h1 : verifyImage b1 s.boot.rollback ≠ .ok)
    (h2 : verifyImage b2 s.boot.rollback = .ok) :
    chooseImage s b1 b2 = { bootImage s b2 (srcOf (!s.boot.committed)) with boot.revertOf := some (imgVersion b1) } :=
  (if_neg h1).trans (if_pos h2)

theorem chooseImage_neither {s : State} {b1 b2 : List Byte} (h1 : verifyImage b1 s.boot.rollback ≠ .ok)
    (h2 : verifyImage b2 s.boot.rollback ≠ .ok) : chooseImage s b1 b2 = enterRecovery s := (if_neg h1).trans (if_neg h2)

theorem recover_verifies {s : State} (hl : linkServes s = true) (hd : s.host.d3hot = false) (hr : s.boot.status = 2) {b : List Byte}
    (hb : b = memRead s 0x80000000000 (min (512 + imgLength (memRead s 0x80000000000 512)) 0x2000000)) : exec (.recover 0x100) s =
      .next (if verifyImage b s.boot.rollback = .ok then
        recoveryBanks { bootImage s b .recovery with boot.status := 0, host.wins := tset s.host.wins 0 {} } .off else s) := by
  show execRecover 0x100 s = _
  unfold execRecover
  rw [linkExit_of_serves s hl]
  dsimp only
  rw [if_neg (by simp [hl]), if_neg (by simp [hd]), if_neg (by decide), if_neg (by simp [hr]), ← hb]
  split <;> rfl

/-- Settles O4: at the verification step `chooseImage` acts on the state with both slots read; RECOVER boots the buffer's image or does
nothing. -/
theorem bootRomChoosesTheImage : Obligations.BootRomChoosesTheImage := by
  unfold Obligations.BootRomChoosesTheImage
  intro s flash first b1 b2
  refine ⟨fun ha ht hs hk => ?_, fun hl hd hr => ?_⟩
  · have hstep := execImageVerifyDone_chooses (flash := flash) ha ht hs hk
    by_cases h1 : verifyImage b1 s.boot.rollback = .ok
    · rw [chooseImage_first (s := slotsRead s flash) h1] at hstep
      exact ⟨_, hstep, (if_pos h1).mpr ⟨rfl, rfl, hs, rfl, rfl, verify_not_mem_bootImage (slotsRead s flash) b1 (srcOf first)⟩, rfl⟩
    · by_cases h2 : verifyImage b2 s.boot.rollback = .ok
      · rw [chooseImage_other (s := slotsRead s flash) h1 h2] at hstep
        exact ⟨_, hstep, ((if_neg h1).trans (if_pos h2)).mpr
          ⟨rfl, srcOf_not first, rfl, rfl, hs, rfl, verify_not_mem_bootImage (slotsRead s flash) b2 (srcOf (!first))⟩, rfl⟩
      · rw [chooseImage_neither (s := slotsRead s flash) h1 h2] at hstep
        obtain ⟨bs, heq, hon⟩ := recoveryBanks_powers { slotsRead s flash with
          boot.status := 2, host.wins := tset s.host.wins 0 { base := 0x80000000000, enable := true, tcid := 0 } } .on
        rw [show enterRecovery (slotsRead s flash) = _ from heq] at hstep
        exact ⟨_, hstep, ((if_neg h1).trans (if_neg h2)).mpr ⟨rfl, rfl, tgetD_tset_self _ _ _ _, hon⟩, rfl⟩
  · intro b
    have hstep := recover_verifies hl hd hr (b := b) rfl
    clear_value b -- the buffer's bytes stay folded
    by_cases h : verifyImage b s.boot.rollback = .ok
    · obtain ⟨bs, heq, -⟩ := recoveryBanks_powers
        { bootImage s b .recovery with boot.status := 0, host.wins := tset s.host.wins 0 {} } .off
      rw [if_pos h, heq] at hstep
      exact ⟨_, hstep, (if_pos h).mpr ⟨rfl, rfl, rfl, rfl, rfl⟩⟩
    · rw [if_neg h] at hstep
      exact ⟨_, hstep, (if_neg h).mpr rfl⟩

/-! ## The statement on start-up -/

/-- Settles O5: self-test, training and the zero-fill change what they name; an abandoned trial runs the COMMITTED slot when it passes
verification, and nothing else (log entry 77). -/
theorem startUpSteps : Obligations.StartUpSteps := by
  unfold Obligations.StartUpSteps
  intro s ha
  refine ⟨fun rest ht hs => ⟨_, execSelftestDone_passes ha ht hs, ?_⟩, fun rest failed ht hs => ?_, fun rest ht hs hk => ?_,
    fun g hg hr hv => ?_⟩
  · have h := trainAll_fabricOnly (selftestPassed s rest)
    generalize trainAll (selftestPassed s rest) = t at h
    rw [FabricOnly] at h
    refine ⟨fun u => ?_, bank_not_retired fun p hp => ?_, by rw [h]; rfl, by rw [h]; exact hs, by rw [h]; rfl, by rw [h]; rfl,
      by rw [h]; rfl⟩
    · rw [h]
      rfl
    · rw [h] at hp
      simpa using (List.mem_filter.mp hp).2
  · have hstep : execTrainingDone failed s = .next (if failed = [] then { s with boot.todo := rest, boot.trainedSaved := true }
        else { s with boot.todo := rest, boot.status := 4 }) := by
      unfold execTrainingDone
      rw [if_neg (by simp [ha, ht, hs]), ht]
      cases failed <;> rfl
    by_cases hf : failed = []
    · rw [if_pos hf] at hstep
      exact ⟨_, hstep, rfl, (if_pos hf).mpr ⟨rfl, hs⟩, rfl⟩
    · rw [if_neg hf] at hstep
      exact ⟨_, hstep, rfl, (if_neg hf).mpr rfl, rfl⟩
  · have hstep : execTierInitFillDone s = .next { s with boot.todo := rest, mem := [], ecc.poison := [], ecc.latent := [] } := by
      unfold execTierInitFillDone
      rw [if_neg (by simp [ha, ht, hs]), ht]
      simp [hk]
    exact ⟨_, hstep, rfl, rfl, rfl, rfl⟩
  · have hstep : execTrialAbandon s = .next (if verifyImage (slotOf s s.boot.committed []) s.boot.rollback = .ok then
        bootImage { trialStopped s g with boot.todo := [] } (slotOf s s.boot.committed []) (srcOf s.boot.committed)
        else trialStopped s g) := by
      unfold execTrialAbandon
      rw [hg]
      dsimp only
      rw [if_neg (by simp [ha, hr, hv])]
      rfl
    by_cases hb : verifyImage (slotOf s s.boot.committed []) s.boot.rollback = .ok
    · rw [if_pos hb] at hstep
      exact ⟨_, hstep, rfl, rfl, (if_pos hb).mpr ⟨rfl, rfl, rfl, rfl, rfl⟩, rfl⟩
    · rw [if_neg hb] at hstep
      exact ⟨_, hstep, rfl, rfl, (if_neg hb).mpr ⟨rfl, rfl⟩, rfl⟩

end Sys2Proof.Machine
end

section
/-! PROOFS. The ready event (04_startup_and_reset.md R94, R95; 24_change_ledger.md R573 to R577), and what the fabric's messages leave of
the tray's own claim (20_fabric_links_and_discovery.md R501, R503). -/

namespace Sys2Proof.Machine

/-! ## The tray's own claim -/

/-- `t` claims as `s` does: its address is of the same kind, and it is withdrawn or not alike. -/
def SameClaim (s t : State) : Prop := t.fab.addr = s.fab.addr ∧ t.fab.withdrawn = s.fab.withdrawn

theorem SameClaim.refl (s : State) : SameClaim s s := ⟨rfl, rfl⟩

theorem SameClaim.trans {a b c : State} (h : SameClaim a b) (g : SameClaim b c) : SameClaim a c := ⟨g.1.trans h.1, g.2.trans h.2⟩

theorem SameClaim.foldl {α : Type} {f : State → α → State} (h : ∀ s x, SameClaim s (f s x)) (l : List α) (s : State) :
    SameClaim s (l.foldl f s) := List.foldlRecOn l f (SameClaim.refl s) fun _ hb x _ => hb.trans (h _ x)

theorem sendLsr_sameClaim (s : State) (r : LsrRec) (p : Nat) : SameClaim s (sendLsr s r p) := ⟨rfl, rfl⟩

theorem sendHello_sameClaim (s : State) (p : Nat) : SameClaim s (sendHello s p) := ⟨rfl, rfl⟩

theorem Told.sameClaim {s t : State} (h : Told s t) : SameClaim s t := by
  rw [h]
  exact ⟨rfl, rfl⟩

theorem checkReach_sameClaim (s : State) : SameClaim s (checkReach s) := by
  unfold checkReach
  dsimp only
  refine SameClaim.trans (b := { s with fab.reach := reachable (allRecs s) Config.uid.toNat }) ⟨rfl, rfl⟩ (SameClaim.foldl (fun s u => ?_) _ _)
  split
  · split
    · exact SameClaim.refl s
    · exact (raiseEvent_told s _ _ _).sameClaim
  · exact SameClaim.refl s

theorem originateNow_sameClaim (s : State) : SameClaim s (originateNow s) := by
  unfold originateNow
  extract_lets f u r hello changed g flooded greeted
  have hflood : SameClaim s flooded :=
    SameClaim.trans (b := { u with fab := g }) ⟨rfl, rfl⟩ (SameClaim.foldl (fun s p => sendLsr_sameClaim s r p) _ _)
  have hgreet : SameClaim flooded greeted := by
    unfold greeted
    split
    · exact SameClaim.foldl sendHello_sameClaim _ _
    · exact SameClaim.refl _
  exact (hflood.trans hgreet).trans (checkReach_sameClaim greeted)

/-- A record of the tray's own does not change the claim that it tells. -/
theorem originate_sameClaim (s : State) : SameClaim s (originate s) := by
  unfold originate
  split
  · dsimp only
    split
    · exact SameClaim.refl s
    · exact originateNow_sameClaim s
  · exact originateNow_sameClaim s

/-- With no record of another tray the first candidate is free, and the tray claims it as tentative (R503). -/
theorem claimAlone_tentative {s : State} (hu : uncabled s = true) (ha : s.fab.addr = .none) (hl : s.fab.lsdb = []) :
    (claimAlone s).fab.addr = .tentative := by
  have hfree (n : Nat) : freeNode s 4094 n = some n := by simp [freeNode, nodeHeld, hl]
  unfold claimAlone claimAddr claimFrom
  rw [if_pos hu, if_pos (by simp [ha]), hfree]
  exact (originate_sameClaim _).1

/-! ## Vector 1 -/

/-- Vector `v` is enabled and unmasked, and the tray is in D0, so that raising it sends its message (R136). -/
def Sends (s : State) (v : Nat) : Prop :=
  s.host.msixEnable = true ∧ s.host.msixFuncMask = false ∧ (msixEntry s v).getLsbD 96 = false ∧ s.host.d3hot = false

/-- `t` differs from `s` in what an entry of the ledger, an event and a message to the host touch. -/
def Inked (s t : State) : Prop :=
  t = { s with ledger := t.ledger, mem := t.mem, ecc := t.ecc, mbx := t.mbx, host.pba := t.host.pba, host.held := t.host.held,
               hostOut := t.hostOut, obs := t.obs }

theorem Inked.refl (s : State) : Inked s s := rfl

theorem Inked.trans {a b c : State} (h : Inked a b) (g : Inked b c) : Inked a c := by
  unfold Inked at h g ⊢
  rw [h] at g
  exact g

theorem Told.inked {s t : State} (h : Told s t) : Inked s t := by
  rw [h]
  rfl

/-- What differs once the boot record has changed too. -/
theorem Inked.booted {s t : State} {b : Boot} (h : Inked { s with boot := b } t) : t.boot = b ∧
    t = { s with boot := t.boot, ledger := t.ledger, mem := t.mem, ecc := t.ecc, mbx := t.mbx, host := t.host, hostOut := t.hostOut
                 obs := t.obs } := by
  constructor
  · rw [h]
  · rw [h]

theorem Inked.sends {s t : State} (h : Inked s t) {v : Nat} (hs : Sends s v) : Sends t v ∧ vectorMsg t v = vectorMsg s v := by
  rw [h]
  exact ⟨hs, rfl⟩

theorem raiseMsix_sends {s : State} {v : Nat} (h : Sends s v) : vectorMsg s v ∈ (raiseMsix s v).hostOut := by
  obtain ⟨he, hf, hm, hd⟩ := h
  rw [raiseMsix_sent he hf hm hd]
  exact List.mem_append_right _ List.mem_cons_self

/-- A message that has been sent stays sent. -/
theorem send_hostOut {s : State} {m : OutMsg} (x : OutMsg) (h : m ∈ s.hostOut) : m ∈ (send s x).hostOut := by
  unfold send
  split
  · exact h
  · exact List.mem_append_left _ h

theorem raiseMsix_hostOut {s : State} {m : OutMsg} (v : Nat) (h : m ∈ s.hostOut) : m ∈ (raiseMsix s v).hostOut := by
  unfold raiseMsix
  split
  · exact h
  · split
    · split <;> exact h
    · exact send_hostOut _ h

theorem raiseEvent_hostOut {s : State} {m : OutMsg} (type p q : Nat) (h : m ∈ s.hostOut) : m ∈ (raiseEvent s type p q).hostOut := by
  unfold raiseEvent
  dsimp only
  split
  · exact raiseMsix_hostOut 1 (send_hostOut _ h)
  · split <;> exact h

theorem evqWrite_sends {s : State} (hs : Sends s 1) (e : EvRec) : vectorMsg s 1 ∈ (evqWrite s e).hostOut := by
  unfold evqWrite
  extract_lets u w m t
  have hi : Inked s t := (send_told s _).inked.trans rfl
  obtain ⟨ht, hv⟩ := hi.sends hs
  rw [← hv]
  exact raiseMsix_sends ht

/-- A record that finds room in the queue is written, and raises vector 1 (R154). -/
theorem raiseEvent_sends {s : State} (hs : Sends s 1) (hw : (s.mbx.backlog.isEmpty && evqSpace s) = true) (type p q : Nat) :
    vectorMsg s 1 ∈ (raiseEvent s type p q).hostOut := by
  have hwrite : raiseEvent s type p q = evqWrite { s with mbx.evqSeq := s.mbx.evqSeq + 1 }
      { type := type, seq := s.mbx.evqSeq, time := s.eft.time, p0 := p, p1 := q } := if_pos hw
  rw [hwrite]
  exact evqWrite_sends (s := { s with mbx.evqSeq := s.mbx.evqSeq + 1 }) hs _

/-! ## Entries of the ledger -/

theorem ledgerEvents_young {s : State} (h : ledgerHeld s < 235930) : ledgerEvents s = s := by
  have hfull : ledgerFull s = false := decide_eq_false (by omega)
  have hheld : ledgerHeld s ≠ 235930 := by omega
  simp [ledgerEvents, hfull, hheld]

/-- What an append to a ledger with room changes, for any memory. -/
theorem ledgerAppend_told {s : State} (e : LEntry) (hf : ledgerFull s = false) : ∃ ecc mem head arm, Told { s with
    ecc := ecc, mem := mem, ledger := { s.ledger with next := s.ledger.next + 1, head := head, warnArmed := arm } } (ledgerAppend s e) := by
  unfold ledgerAppend
  rw [if_neg (by simp [hf])]
  dsimp only
  rw [cure_eq]
  obtain ⟨arm, h⟩ := ledgerEvents_told _
  exact ⟨_, _, _, arm, h⟩

theorem ledgerAppend_inked (s : State) (e : LEntry) : Inked s (ledgerAppend s e) := by
  by_cases hf : ledgerFull s = true
  · unfold ledgerAppend
    rw [if_pos hf]
    exact Inked.refl s
  · obtain ⟨ecc, mem, head, arm, h⟩ := ledgerAppend_told e (Bool.not_eq_true _ ▸ hf)
    exact Inked.trans (b := { s with
      ecc := ecc, mem := mem, ledger := { s.ledger with next := s.ledger.next + 1, head := head, warnArmed := arm } }) rfl h.inked

theorem ledgerSelf_inked (s : State) (kind tcid object value : Nat) : Inked s (ledgerSelf s kind tcid object value) := by
  unfold ledgerSelf ledgerOwn
  split
  · rfl
  · exact ledgerAppend_inked s _

theorem ledgerSelf_room {s : State} (kind tcid object value : Nat) (hf : ledgerFull s = false) :
    (ledgerSelf s kind tcid object value).ledger.next = s.ledger.next + 1 ∧
      (ledgerSelf s kind tcid object value).ledger.chain = s.ledger.chain := by
  unfold ledgerSelf ledgerOwn
  rw [if_neg (by simp [hf])]
  obtain ⟨ecc, mem, head, arm, h⟩ := ledgerAppend_told _ hf
  rw [h.ledger]
  exact ⟨rfl, rfl⟩

/-- The tray with the empty ledger of its next chain (R95, R573). -/
def newChain (s : State) : State :=
  { s with boot.chain := s.boot.chain + 1, ledger := { chain := s.boot.chain + 1, openDigest := s.boot.runDigest } }

/-- A new chain has one entry, and no event tells of it (R95, R573, R575). -/
theorem openChain_opens (s : State) : ∃ ecc mem head, openChain s = { s with
    boot.chain := s.boot.chain + 1, ecc := ecc, mem := mem
    ledger := { chain := s.boot.chain + 1, openDigest := s.boot.runDigest, next := 1, head := head } } := by
  have hroom : ledgerFull (newChain s) = false := rfl
  show ∃ ecc mem head, ledgerSelf (newChain s) 0x8001 0 ((s.boot.chain + 1) % 2 ^ 32) (s.boot.fwver + s.boot.cause * 2 ^ 32) = _
  unfold ledgerSelf ledgerOwn ledgerAppend
  rw [hroom, if_neg Bool.false_ne_true, if_neg Bool.false_ne_true]
  dsimp only
  rw [cure_eq, ledgerEvents_young (Nat.lt_of_le_of_lt (Nat.le_refl 1) (by omega))]
  exact ⟨_, _, _, rfl⟩

/-! ## The ready event -/

/-- The tray with FW_READY and STATUS OK. -/
def readyNow (s : State) : State := { s with boot.fwReady := true, boot.status := 1 }

/-- The tray after READY and its vector, before FW_REVERTED is told. -/
def readyTold (s : State) : State :=
  let t := raiseEvent (readyNow s) 0x0001 (s.boot.fwver + s.boot.cause * 2 ^ 32) 0
  if s.mbx.backlog.isEmpty && evqSpace (readyNow s) then t else raiseMsix t 1

theorem readyTold_told (s : State) : Told (readyNow s) (readyTold s) := by
  have h := raiseEvent_told (readyNow s) 0x0001 (s.boot.fwver + s.boot.cause * 2 ^ 32) 0
  unfold readyTold
  dsimp only
  split
  · exact h
  · exact h.trans (raiseMsix_told _ 1)

theorem readyTold_boot (s : State) : (readyTold s).boot = (readyNow s).boot := by rw [readyTold_told]

theorem readyTold_evqSeq (s : State) : (readyTold s).mbx.evqSeq = s.mbx.evqSeq + 1 := by
  unfold readyTold
  dsimp only
  split
  · exact raiseEvent_evqSeq (readyNow s) _ _ _
  · rw [raiseMsix_mbx]
    exact raiseEvent_evqSeq (readyNow s) _ _ _

/-- READY raises vector 1, with a record or without one (R94). -/
theorem readyTold_sends {s : State} (hs : Sends s 1) : vectorMsg s 1 ∈ (readyTold s).hostOut := by
  unfold readyTold
  dsimp only
  split
  · next hw => exact raiseEvent_sends (s := readyNow s) hs hw _ _ _
  · obtain ⟨hr, hv⟩ := (raiseEvent_told (readyNow s) 0x0001 (s.boot.fwver + s.boot.cause * 2 ^ 32) 0).inked.sends (v := 1) hs
    exact (show _ = vectorMsg s 1 from hv) ▸ raiseMsix_sends hr

/-- After READY an image that failed is told by FW_REVERTED (R94). -/
theorem postReady_eq (s : State) : postReady s = s.boot.revertOf.elim (readyTold s)
    (fun v => raiseEvent { readyTold s with boot.revertOf := none } 0x0002 (readyTold s).boot.fwver v) := by
  have h : (readyTold s).boot.revertOf = s.boot.revertOf := by rw [readyTold_boot]; rfl
  rw [← h]
  show (match (readyTold s).boot.revertOf with
    | some v => raiseEvent { readyTold s with boot.revertOf := none } 0x0002 (readyTold s).boot.fwver v
    | none => readyTold s) = _
  cases (readyTold s).boot.revertOf <;> rfl

theorem postReady_reverted {s : State} {v : Nat} (h : s.boot.revertOf = some v) :
    postReady s = raiseEvent { readyTold s with boot.revertOf := none } 0x0002 (readyTold s).boot.fwver v := by
  rw [postReady_eq, h]
  rfl

theorem postReady_plain {s : State} (h : s.boot.revertOf = none) : postReady s = readyTold s := by
  rw [postReady_eq, h]
  rfl

/-- The ready event changes the boot record as R94 says, and else what an event touches. -/
theorem postReady_told (s : State) : Told { readyNow s with boot.revertOf := none } (postReady s) := by
  have h := readyTold_told s
  cases hv : s.boot.revertOf with
  | none =>
    have hsame : { readyNow s with boot.revertOf := none } = readyNow s := by
      rw [← hv]
      rfl
    rw [postReady_plain hv, hsame]
    exact h
  | some v =>
    rw [postReady_reverted hv]
    refine Told.trans ?_ (raiseEvent_told _ _ _ _)
    rw [Told, h]

theorem postReady_evqSeq (s : State) : (postReady s).mbx.evqSeq = s.mbx.evqSeq + (if s.boot.revertOf = none then 1 else 2) := by
  cases hv : s.boot.revertOf with
  | none => rw [postReady_plain hv, readyTold_evqSeq, if_pos rfl]
  | some v =>
    rw [postReady_reverted hv, raiseEvent_evqSeq, if_neg (Option.some_ne_none v)]
    show (readyTold s).mbx.evqSeq + 1 = _
    rw [readyTold_evqSeq]

theorem postReady_sends {s : State} (hs : Sends s 1) : vectorMsg s 1 ∈ (postReady s).hostOut := by
  cases hv : s.boot.revertOf with
  | none => exact postReady_plain hv ▸ readyTold_sends hs
  | some v =>
    rw [postReady_reverted hv]
    exact raiseEvent_hostOut _ _ _ (readyTold_sends hs)

/-- The tray with the entry of its start in the ledger: a new chain's first, or one more of the old chain (R95). -/
def readyLogged (s : State) : State :=
  if s.boot.kind = .cold || s.ledger.next = 0 then openChain s else ledgerSelf s 0x8002 0 0 s.boot.cause

theorem readyLogged_inked (s : State) : ∃ chain, Inked { s with boot.chain := chain } (readyLogged s) := by
  unfold readyLogged
  split
  · obtain ⟨ecc, mem, head, h⟩ := openChain_opens s
    rw [h]
    exact ⟨s.boot.chain + 1, rfl⟩
  · exact ⟨s.boot.chain, ledgerSelf_inked s _ _ _ _⟩

theorem readyLogged_cold {s : State} (h : s.boot.kind = .cold) : readyLogged s = openChain s := if_pos (by simp [h])

theorem readyLogged_warm {s : State} (h : s.boot.kind ≠ .cold) (hn : s.ledger.next ≠ 0) :
    readyLogged s = ledgerSelf s 0x8002 0 0 s.boot.cause := if_neg (by simp [h, hn])

/-- The ready event of a tray that has made its claim. -/
def readyPosted (s : State) : State := postReady (readyLogged s)

theorem readyPosted_inked (s : State) : ∃ chain, Inked
    { s with boot := { s.boot with chain := chain, fwReady := true, status := 1, revertOf := none } } (readyPosted s) := by
  obtain ⟨chain, hlog⟩ := readyLogged_inked s
  refine ⟨chain, Inked.trans ?_ (postReady_told (readyLogged s)).inked⟩
  unfold Inked at hlog ⊢
  rw [hlog]
  rfl

theorem readyPosted_cold {s : State} (h : s.boot.kind = .cold) :
    (readyPosted s).mbx.evqSeq = s.mbx.evqSeq + (if s.boot.revertOf = none then 1 else 2) ∧ (readyPosted s).ledger.next = 1 ∧
      (readyPosted s).ledger.oldest = 0 ∧ (readyPosted s).ledger.chain = s.boot.chain + 1 ∧
      (readyPosted s).boot.chain = s.boot.chain + 1 := by
  obtain ⟨ecc, mem, head, hopen⟩ := openChain_opens s
  have htold := postReady_told (openChain s)
  have hseq := postReady_evqSeq (openChain s)
  rw [readyPosted, readyLogged_cold h, htold.ledger, htold, hseq, hopen]
  exact ⟨rfl, rfl, rfl, rfl, rfl⟩

theorem readyPosted_warm {s : State} (h : s.boot.kind ≠ .cold) (hn : s.ledger.next ≠ 0) (hf : ledgerFull s = false) :
    (readyPosted s).ledger.next = s.ledger.next + 1 ∧ (readyPosted s).ledger.chain = s.ledger.chain := by
  rw [readyPosted, readyLogged_warm h hn, (postReady_told _).ledger]
  exact ledgerSelf_room _ _ _ _ hf

theorem readyPosted_sends {s : State} (h : Sends s 1) : vectorMsg s 1 ∈ (readyPosted s).hostOut := by
  obtain ⟨chain, hlog⟩ := readyLogged_inked s
  obtain ⟨hs, hv⟩ := hlog.sends (v := 1) h
  exact (show _ = vectorMsg s 1 from hv) ▸ postReady_sends hs

theorem execReady_posts {s : State} (ha : alive s = true) (ht : s.boot.todo = []) (hr : s.boot.runFrom ≠ .none) (hg : s.boot.gap = none)
    (hf : s.boot.fwReady = false) (hs : s.boot.status = 0) :
    execReady s = .next (readyPosted (claimAlone { s with boot.routed := s.boot.routed || uncabled s })) := by
  unfold execReady
  rw [if_neg (by simp [ha, ht, hr]), hg]
  dsimp only
  rw [if_neg (by simp [hf, hs])]
  rfl

/-- Settles O6: the ready event is `readyPosted` after the claim of a tray without a cable (log entry 46). -/
theorem readyOpensTheChain : Obligations.ReadyOpensTheChain := by
  unfold Obligations.ReadyOpensTheChain
  intro s ha ht hr hg hf hs
  have hclaim := claimAlone_fabricOnly { s with boot.routed := s.boot.routed || uncabled s }
  have haddr := claimAlone_tentative (s := { s with boot.routed := s.boot.routed || uncabled s })
  refine ⟨_, execReady_posts ha ht hr hg hf hs, ?_⟩
  generalize claimAlone { s with boot.routed := s.boot.routed || uncabled s } = u at hclaim haddr ⊢
  have hboot : u.boot = { s.boot with routed := s.boot.routed || uncabled s } := by rw [hclaim]
  have hledger : u.ledger = s.ledger := by rw [hclaim]
  have hsends : Sends s 1 → Sends u 1 ∧ vectorMsg u 1 = vectorMsg s 1 := by
    rw [hclaim]
    exact fun h => ⟨h, rfl⟩
  obtain ⟨chain, hpost⟩ := readyPosted_inked u
  obtain ⟨hboot', heq⟩ := hpost.booted
  have hfab : (readyPosted u).fab = u.fab := by rw [heq]
  refine ⟨?_, ?_, ?_, ?_, ?_, ?_, ?_, heq⟩
  · rw [hboot']
  · rw [hboot']
  · rw [hboot', hboot]
  · intro hk
    obtain ⟨hseq, hnext, hold, hchain, hnumber⟩ := readyPosted_cold (s := u) (by rw [hboot]; exact hk)
    rw [hboot] at hseq hchain hnumber
    exact ⟨hseq, hnext, hold, hchain, hnumber⟩
  · intro hk hn hfull
    rw [← hledger]
    refine readyPosted_warm (by rw [hboot]; exact hk) (by rw [hledger]; exact hn) ?_
    rw [ledgerFull, ledgerHeld, hledger]
    exact hfull
  · intro he hfm hm hd
    obtain ⟨hs1, hv⟩ := hsends ⟨he, hfm, hm, hd⟩
    exact hv ▸ readyPosted_sends hs1
  · rw [hfab]
    exact haddr

end Sys2Proof.Machine
end

section
/-! PROOFS. The firmware commands (07_management_commands.md R161, R190, R191; 04_startup_and_reset.md R98, R108, R109, R111). -/

namespace Sys2Proof.Machine

/-! ## Bytes of a response -/

theorem ofLeBytes_leBytes (n x : Nat) : ofLeBytes (leBytes n x) = x % 256 ^ n := by
  induction n generalizing x with
  | zero => simp [leBytes, ofLeBytes, Nat.mod_one]
  | succ n ih =>
    simp only [leBytes, ofLeBytes, ih, BitVec.toNat_ofNat]
    rw [show 256 ^ (n + 1) = 256 * 256 ^ n from Nat.pow_succ', Nat.mod_mul (a := 256)]

theorem leAt_append_leBytes (pre suf : List Byte) (n x : Nat) : leAt (pre ++ (leBytes n x ++ suf)) pre.length n = x % 256 ^ n := by
  have hslice : slice (pre ++ (leBytes n x ++ suf)) pre.length n = leBytes n x := by
    have hlen := length_leBytes n x
    unfold slice
    rw [List.drop_left, List.take_append_of_le_length (by omega), List.take_of_length_le (by omega)]
  rw [leAt, hslice, ofLeBytes_leBytes]

/-- A field of a response stands in its slot (Table 6-3). -/
theorem leAt_padTo_patch {bs ds : List Byte} {m off n : Nat} (h : off + n ≤ ds.length) (hm : ds.length ≤ m) :
    leAt (padTo m (patch bs 0 ds)) off n = leAt ds off n := by
  have hslice : slice (padTo m (patch bs 0 ds)) off n = slice ds off n := by
    refine List.ext_getElem? fun i => ?_
    simp only [slice, padTo, patch, List.getElem?_take, List.getElem?_drop, List.take_zero, List.nil_append]
    split
    · rw [if_pos (by omega)]
      simp [zeros, List.getElem?_append, show off + i < ds.length by omega]
    · rfl
  rw [leAt, hslice, ← leAt]

theorem length_responseHeader (s : State) (r : Req) (status len : Nat) : (responseHeader s r status len).length = 16 := by
  simp [responseHeader, length_leBytes]

theorem leAt_status (s : State) (r : Req) (status len : Nat) (payload : List Byte) :
    leAt (responseHeader s r status len ++ payload) 8 2 = status % 2 ^ 16 := by
  have h := leAt_append_leBytes (leBytes 2 r.opcode ++ leBytes 2 (b2n r.force + 2 * b2n r.noirq) ++ leBytes 2 r.tag ++ leBytes 2 len)
    (leBytes 6 (s.eft.time % 2 ^ 48) ++ payload) 2 status
  simpa [responseHeader, length_leBytes] using h

/-- What a field of the response reads in its slot. -/
theorem Answered.leAt_slot {u t : State} {k : SlotId} {r : Req} {status : Nat} {payload : List Byte} (h : Answered u t k r status payload)
    {off n : Nat} (hn : off + n ≤ 16 + payload.length) (hp : payload.length ≤ 240) :
    leAt (slotBytes t k.val) off n = leAt (responseHeader u r status payload.length ++ payload) off n := by
  have hlen : (responseHeader u r status payload.length ++ payload).length = 16 + payload.length := by
    rw [List.length_append, length_responseHeader]
  have hslot : slotBytes t k.val = padTo 256 (patch (slotBytes u k.val) 0 (responseHeader u r status payload.length ++ payload)) := by
    rw [slotBytes, tgetD, h.1, Option.getD_some]
  rw [hslot, leAt_padTo_patch (by omega) (by omega)]

/-- A response of status 0 whose payload begins with a 16-bit number. -/
theorem Answered.number {u t : State} {k : SlotId} {r : Req} {n : Nat} {suf : List Byte} (h : Answered u t k r 0 (leBytes 2 n ++ suf))
    (hs : suf.length ≤ 238) : leAt (slotBytes t k.val) 8 2 = 0 ∧ leAt (slotBytes t k.val) 16 2 = n % 2 ^ 16 := by
  have hlen : (leBytes 2 n ++ suf).length = 2 + suf.length := by rw [List.length_append, length_leBytes]
  have hnum := leAt_append_leBytes (responseHeader u r 0 (leBytes 2 n ++ suf).length) suf 2 n
  rw [length_responseHeader] at hnum
  constructor
  · rw [h.leAt_slot (by omega) (by omega), leAt_status, Nat.zero_mod]
  · rw [h.leAt_slot (by omega) (by omega), hnum, show 256 ^ 2 = 2 ^ 16 from rfl]

/-! ## Commands that need no ledger entry and no other domain -/

/-- A response leaves every sequencer. -/
theorem Answered.seqs {u t : State} {k : SlotId} {r : Req} {status : Nat} {payload : List Byte} (h : Answered u t k r status payload) :
    t.cores = u.cores ∧ t.swi = u.swi := by
  obtain ⟨-, -, -, -, -, -, -, -, -, -, heq⟩ := h
  rw [heq]
  exact ⟨rfl, rfl⟩

/-- A command of the mailbox alone, whose effect leaves every sequencer: it waits for no hold. -/
theorem runCmd_mailbox {s u : State} {k : SlotId} {op : Nat} {r : Req} (h : Accepted s k op r) (hn : needsDomains op = false)
    {fields : State → List Byte → Bool} (hf : fields s r.payload = true) {body : Req → State → CmdOut} {payload : List Byte}
    (hb : body r s = .ok u payload) (hc : u.cores = s.cores) (hw : u.swi = s.swi) :
    runCmd k.val op false fields body s = respond u k.val r 0 payload := by
  obtain ⟨hr, ho, hrun, hup, hmay⟩ := h
  obtain ⟨hcores, hswi⟩ := (answered_respond u k r 0 payload).seqs
  unfold runCmd
  rw [hr]
  dsimp only
  rw [if_neg (by simp [ho, hrun, hup, hmay, hn]), if_neg (by simp [hf]), if_neg (by simp), hb, finishCmd]
  refine waitHold_of_seqs (fun c _ => ?_) (fun _ => ?_)
  · rw [core, core, hcores, hc]
  · rw [hswi, hw]

/-! ## Staged bytes -/

theorem tget_stageBytes (got : Tab Byte) (off : Nat) (bs : List Byte) (j : Nat) :
    tget (stageBytes got off bs) j = if off ≤ j ∧ j < off + bs.length then bs[j - off]? else tget got j := by
  induction bs generalizing got off with
  | nil => simp [stageBytes]
  | cons b bs ih =>
    rw [stageBytes, ih, tget_tset, List.length_cons]
    by_cases hj : j = off
    · subst hj
      simp
    · by_cases hin : off + 1 ≤ j ∧ j < off + 1 + bs.length
      · obtain ⟨k, rfl⟩ : ∃ k, j = off + 1 + k := ⟨j - (off + 1), by omega⟩
        rw [if_pos hin, if_pos (by omega), show off + 1 + k - off = k + 1 by omega]
        simp
      · rw [if_neg hin, if_neg (Ne.symm hj), if_neg (by omega)]

/-! ## An activation's start (R109) -/

theorem activationFree_quiet {s : State} {k : Nat} (hq : fabricQuiet s = true) (hsb : s.swi.sb = []) (he : s.swi.early = [])
    (hcb : s.swi.cb = []) (hl : s.mbx.latched = []) (hr : s.mbx.reqs.all (fun p => p.1 == k) = true) : activationFree s k = true := by
  simp only [activationFree, hq, hsb, he, hcb, hl, hr]
  rfl

/-- The tray in the activation gap, with the withdrawal sent. -/
def activating (u : State) (k : Nat) (slot : Bool) (b : List Byte) : State :=
  { withdraw u with
    boot.trial := some slot, boot.kind := .fwActivate, boot.todo := [.verify], swi.run := .idle
    boot.gap := some { slot := k, restarted := true, reverted := false, trialVersion := imgVersion b } }

theorem execFwActivate_waits {s : State} {k : SlotId} {r : Req} {slot : Bool} {b : List Byte} (h : AcceptedChange s k 0x0C04 r)
    (hs : s.boot.staged = some (slot, b)) (hf : activationFree s k.val = false) : execFwActivate k s = .next s := by
  unfold execFwActivate
  rw [runCmd_change h true rfl]
  dsimp only
  rw [hs]
  simp [hf, finishCmd]

theorem execFwActivate_starts {s : State} {k : SlotId} {r : Req} {slot : Bool} {b : List Byte} (h : AcceptedChange s k 0x0C04 r)
    (hs : s.boot.staged = some (slot, b)) (hf : activationFree s k.val = true) :
    execFwActivate k s = .next (activating (ledgerCmd s k.val r 0 0 0) k.val slot b) := by
  unfold execFwActivate
  rw [runCmd_change h true rfl]
  dsimp only
  rw [hs]
  simp [hf, finishCmd, activating]

/-! ## A commit (R111) -/

/-- The tray once the running trial image is COMMITTED. -/
def committedState (s : State) : State :=
  { s with boot.committed := s.boot.trial.getD s.boot.committed, boot.trial := none, boot.rollback := max s.boot.rollback s.boot.svn }

/-- The entries of a commit: the command's own, and that of the rollback fuses when they are blown. -/
def commitLogged (s : State) (k : Nat) (r : Req) : State :=
  let u := ledgerCmd (committedState s) k r 0 0 0
  if s.boot.rollback < max s.boot.rollback s.boot.svn then
    ledgerAppend u { origin := 5, kind := 0x9001, value := leBytes 8 (max s.boot.rollback s.boot.svn + s.boot.rollback * 2 ^ 16) } else u

theorem execFwCommit_commits {s : State} {k : SlotId} {r : Req} (h : AcceptedChange s k 0x0C05 r) (ht : trialRuns s = true) :
    execFwCommit k s = .next (respond (commitLogged s k.val r) k.val r 0 (leBytes 2 (max s.boot.rollback s.boot.svn) ++ zeros 6)) := by
  unfold execFwCommit
  rw [runCmd_change h true rfl]
  dsimp only
  rw [if_neg (by simp [ht])]
  rfl

theorem ledgerAppend_next_le (s : State) (e : LEntry) : s.ledger.next ≤ (ledgerAppend s e).ledger.next := by
  by_cases hf : ledgerFull s = true
  · unfold ledgerAppend
    rw [if_pos hf]
  · obtain ⟨ecc, mem, head, arm, h⟩ := ledgerAppend_told e (Bool.not_eq_true _ ▸ hf)
    rw [h.ledger]
    exact Nat.le_succ _

theorem commitLogged_inked (s : State) (k : Nat) (r : Req) : Inked (committedState s) (commitLogged s k r) := by
  have hcmd : Inked (committedState s) (ledgerCmd (committedState s) k r 0 0 0) := ledgerAppend_inked _ _
  unfold commitLogged
  dsimp only
  split
  · exact hcmd.trans (ledgerAppend_inked _ _)
  · exact hcmd

theorem commitLogged_next {s : State} {k : SlotId} {r : Req} (hc : Canonical s) (hf : ledgerFull s = false) :
    s.ledger.next < (commitLogged s k.val r).ledger.next ∧
      (s.boot.svn ≤ s.boot.rollback → (commitLogged s k.val r).ledger.next = s.ledger.next + 1) := by
  have hcmd : (ledgerCmd (committedState s) k.val r 0 0 0).ledger.next = s.ledger.next + 1 :=
    (appended_ledgerCmd (s := committedState s) k r 0 0 hc hf).1
  unfold commitLogged
  dsimp only
  split
  · next hlt => exact ⟨Nat.lt_of_lt_of_le (by omega) (ledgerAppend_next_le _ _), fun h => by omega⟩
  · exact ⟨by omega, fun _ => hcmd⟩

/-! ## The statement -/

/-- The tray with this staging under way. -/
def stagingOf (s : State) (x : FwStage) : State := { s with boot.staging := some x }

theorem fwStageBegin_stages {s : State} {k : SlotId} {r : Req} (h : Accepted s k 0x0C01 r) (hf : fwBeginFields s r.payload = true) :
    execFwStageBegin k s = .next (respond (stagingOf s { length := leAt r.payload 0 4, got := [] }) k.val r 0 []) :=
  congrArg _ (runCmd_mailbox (u := stagingOf s _) h rfl hf rfl rfl rfl)

theorem fwStageData_keeps {s : State} {k : SlotId} {r : Req} {st : FwStage} {data : List Byte} (h : Accepted s k 0x0C02 r)
    (hf : fwDataFields s r.payload = true) (hs : s.boot.staging = some st) (hl : leAt r.payload 0 4 + leAt r.payload 4 4 ≤ st.length)
    (hd : leAt r.payload 4 4 ≤ data.length) : execFwStageData k (.ok data) s = .next (respond
      (stagingOf s { st with got := stageBytes st.got (leAt r.payload 0 4) (data.take (leAt r.payload 4 4)) }) k.val r 0 []) := by
  refine congrArg _ (runCmd_mailbox (u := stagingOf s _) h rfl hf ?_ rfl rfl)
  dsimp only
  rw [hs]
  dsimp only
  rw [if_neg (by omega), if_neg (by omega)]
  rfl

/-- The tray with a verified image in the slot that is not COMMITTED, before the entry (R108). -/
def imageStaged (s : State) (b : List Byte) : State :=
  { s with boot.slotA := if s.boot.committed then some b else s.boot.slotA
           boot.slotB := if s.boot.committed then s.boot.slotB else some b
           boot.staging := none, boot.staged := some (!s.boot.committed, b), eft.digest := sha384 b }

theorem imageStaged_keepSlot (s : State) (b : List Byte) : { keepSlot s (!s.boot.committed) b with
    boot.staging := none, boot.staged := some (!s.boot.committed, b), eft.digest := sha384 b } = imageStaged s b := by
  unfold imageStaged keepSlot
  cases s.boot.committed <;> rfl

theorem fwStageEnd_verifies {s : State} {k : SlotId} {r : Req} {st : FwStage} {b : List Byte} (h : AcceptedChange s k 0x0C03 r)
    (hs : s.boot.staging = some st) (hl : st.length ≤ st.got.length) (hb : b = st.got.map (·.2)) :
    execFwStageEnd k s = .next (match verifyImage b s.boot.rollback with
      | .bad => respond s k.val r 0x0140 []
      | .rollback => respond s k.val r 0x0141 []
      | .ok => respond (ledgerCmd (imageStaged s b) k.val r 0 0 0) k.val r 0
          (leBytes 4 (imgVersion b) ++ leBytes 2 (imgSvn b) ++ leBytes 1 (if s.boot.committed then 0 else 1) ++ zeros 1)) := by
  have hslot : b2n (!s.boot.committed) = if s.boot.committed then 0 else 1 := by cases s.boot.committed <;> rfl
  unfold execFwStageEnd
  rw [runCmd_change h true rfl]
  dsimp only
  rw [hs]
  dsimp only
  rw [if_neg (by omega), ← hb, hslot, ← imageStaged_keepSlot]
  cases verifyImage b s.boot.rollback <;> rfl

theorem execFwActivate_unstaged {s : State} {k : SlotId} {r : Req} (h : AcceptedChange s k 0x0C04 r) (hs : s.boot.staged = none) :
    execFwActivate k s = .next (respond s k.val r 0x0142 []) := by
  unfold execFwActivate
  rw [runCmd_change h true rfl]
  dsimp only
  rw [hs]
  rfl

theorem activating_starts {s : State} {k : SlotId} (r : Req) (slot : Bool) (b : List Byte) (hc : Canonical s) (hf : ledgerFull s = false) :
    let t := activating (ledgerCmd s k.val r 0 0 0) k.val slot b
    t.swi = { s.swi with run := .idle } ∧ t.fab.withdrawn = true ∧ t.ledger.next = s.ledger.next + 1 ∧ t.mbx.reqs = s.mbx.reqs ∧
      t.mbx.own = s.mbx.own ∧ t.mbx.done = s.mbx.done ∧ t.cores = s.cores ∧ t.dsp = s.dsp ∧ t.store = s.store ∧ t.rings = s.rings := by
  obtain ⟨hnext, -, -, -, -, -, heq⟩ := appended_ledgerCmd (s := s) k r 0 0 hc hf
  unfold activating
  generalize ledgerCmd s k.val r 0 0 0 = u at hnext heq
  have hout : (withdraw u).fab.withdrawn = true := (originate_sameClaim { u with fab.withdrawn := true }).2
  have hfab := withdraw_fabricOnly u
  generalize withdraw u = w at hout hfab
  rw [heq] at hfab
  rw [FabricOnly] at hfab
  refine ⟨?_, hout, ?_, ?_, ?_, ?_, ?_, ?_, ?_, ?_⟩
  · rw [hfab]
  · rw [hfab]
    exact hnext
  all_goals rw [hfab]

/-- Settles O31: each command is its effect and its response; an activation is `activating`, a commit `commitLogged`. -/
theorem firmwareCommands : Obligations.FirmwareCommands := by
  unfold Obligations.FirmwareCommands
  intro s k r
  refine ⟨fun h hf => ⟨_, fwStageBegin_stages h hf, answered_respond _ _ _ _ _⟩, fun st data h hf hs hl hd => ?_, fun st h hs hl => ?_,
    fun h hs => ?_, fun slot b h hs => ⟨execFwActivate_waits h hs, fun hq hsb he hcb hl hr => ?_⟩, fun h ht => ?_⟩
  · refine ⟨_, fwStageData_keeps h hf hs hl hd, _, fun i hi => ?_, fun i hi => ?_, answered_respond _ _ _ _ _⟩
    · rw [tget_stageBytes, List.length_take, if_pos (by omega), Nat.add_sub_cancel_left, List.getElem?_take, if_pos hi]
    · rw [tget_stageBytes, List.length_take, if_neg (by omega)]
  · intro b
    have hstep := fwStageEnd_verifies h hs hl (b := b) rfl
    clear_value b
    obtain ⟨-, -, hroom, -, hc⟩ := h
    cases hv : verifyImage b s.boot.rollback with
    | bad =>
      rw [hv] at hstep
      exact ⟨_, hstep, answered_respond _ _ _ _ _⟩
    | rollback =>
      rw [hv] at hstep
      exact ⟨_, hstep, answered_respond _ _ _ _ _⟩
    | ok =>
      rw [hv] at hstep
      exact ⟨_, hstep, logged_respond (v := imageStaged s b) k r 0 0 _ hc hroom⟩
  · exact ⟨_, execFwActivate_unstaged h hs, answered_respond _ _ _ _ _⟩
  · have ⟨_, _, hroom, _, hc⟩ := h
    obtain ⟨hswi, hout, hnext, hreqs, hown, hdone, hcores, hdsp, hstore, hrings⟩ := activating_starts (k := k) r slot b hc hroom
    exact ⟨_, execFwActivate_starts h hs (activationFree_quiet hq hsb he hcb hl hr), rfl, rfl, rfl, hswi, hout, rfl, hnext, hreqs, hown,
      hdone, hcores, hdsp, hstore, hrings⟩
  · have ⟨_, _, hroom, _, hc⟩ := h
    have hlog := commitLogged_inked s k.val r
    obtain ⟨hlt, hone⟩ := commitLogged_next (k := k) (r := r) hc hroom
    have hstep := execFwCommit_commits h ht
    generalize commitLogged s k.val r = u at hstep hlog hlt hone
    have hans := answered_respond u k r 0 (leBytes 2 (max s.boot.rollback s.boot.svn) ++ zeros 6)
    refine ⟨_, hstep, ?_⟩
    generalize respond u k.val r 0 (leBytes 2 (max s.boot.rollback s.boot.svn) ++ zeros 6) = t at hans
    obtain ⟨hstatus, hvalue⟩ := hans.number (by decide)
    obtain ⟨-, -, -, -, -, -, -, -, -, -, heq⟩ := hans
    have hboot : t.boot = (committedState s).boot := by rw [heq, hlog]
    have hledger : t.ledger = u.ledger := by rw [heq]
    have htrial : some (committedState s).boot.committed = s.boot.trial := by
      unfold trialRuns at ht
      unfold committedState
      cases hx : s.boot.trial with
      | none => rw [hx] at ht; cases ht
      | some x => rfl
    refine ⟨?_, ?_, ?_, ?_, ?_, hstatus, hvalue, ?_, ?_⟩
    · rw [hboot]
      exact htrial
    · rw [hboot]
      rfl
    · rw [hboot]
      rfl
    · rw [hledger]
      exact hlt
    · rw [hledger]
      exact hone
    · rw [heq, hlog]
      rfl
    · rw [heq, hlog]
      rfl

end Sys2Proof.Machine
end

section
/-! PROOFS. The host link's states and the accesses to configuration space (05_host_link_and_registers.md R113 to R116, R136;
04_startup_and_reset.md R93; 06_mailboxes.md R151). -/

namespace Sys2Proof.Machine

/-! ## The link's exit from L1 -/

/-- A host access that meets the link in TORPOR starts the resume and brings the link to L0; nothing else changes (R72). -/
theorem linkExit_eq (s : State) : ∃ p l, linkExit s = { s with pwr.power := p, host.l1 := l } := by
  unfold linkExit
  split
  · exact ⟨_, _, rfl⟩
  · exact ⟨s.pwr.power, s.host.l1, rfl⟩

theorem alive_linkExit (s : State) : alive (linkExit s) = alive s := by
  obtain ⟨p, l, h⟩ := linkExit_eq s
  rw [h]
  rfl

/-! ## Configuration accesses -/

/-- A configuration access of a running tray is `cfgAccess` once the link has left L1 (R116). -/
theorem execPowerMgmtState_accesses {s : State} (ha : alive s = true) (acc : CfgAccess) :
    execPowerMgmtState acc s = .next (cfgAccess (linkExit s) acc) := by
  unfold execPowerMgmtState
  dsimp only
  rw [if_neg (by simp [alive_linkExit, ha])]

/-- The message of each vector of a list goes out in order, and its pending bit is cleared. -/
def vectorsSent (s : State) (vs : List Nat) : State :=
  { s with host.pba := s.host.pba.filter (fun v => !vs.contains v), hostOut := s.hostOut ++ vs.map (vectorMsg s) }

theorem foldl_sendMsix (vs : List Nat) {s : State} (hd : s.host.d3hot = false) :
    vs.foldl (fun s v => sendMsix { s with host.pba := s.host.pba.filter (· != v) } v) s = vectorsSent s vs := by
  induction vs generalizing s with
  | nil => simp [vectorsSent]
  | cons v vs ih =>
    have hone : sendMsix { s with host.pba := s.host.pba.filter (· != v) } v = vectorsSent s [v] := by
      have hpba : s.host.pba.filter (· != v) = s.host.pba.filter (fun x => !List.contains [v] x) :=
        List.filter_congr fun x _ => by simp [bne, beq_eq_decide]
      unfold sendMsix send vectorsSent
      rw [if_neg (by simp [hd]), hpba]
      rfl
    rw [List.foldl_cons, hone, ih (s := vectorsSent s [v]) hd]
    have hpba : (s.host.pba.filter (fun x => !List.contains [v] x)).filter (fun x => !vs.contains x)
        = s.host.pba.filter (fun x => !(v :: vs).contains x) := by
      rw [List.filter_filter]
      exact List.filter_congr fun x _ => by simp [Bool.and_comm]
    unfold vectorsSent
    dsimp only
    rw [hpba, List.append_assoc]
    rfl

/-- With MSI-X enabled and no function mask every pending vector whose entry is not masked is sent (R136). -/
theorem msixFlush_unmasked {s : State} (he : s.host.msixEnable = true) (hm : s.host.msixFuncMask = false)
    (hd : s.host.d3hot = false) : msixFlush s = { s with
      host.pba := s.host.pba.filter (fun v => (msixEntry s v).getLsbD 96)
      hostOut := s.hostOut ++ (s.host.pba.filter (fun v => !(msixEntry s v).getLsbD 96)).map (vectorMsg s) } := by
  have hgo : (s.host.pba.filter fun v => s.host.msixEnable && !s.host.msixFuncMask && !(msixEntry s v).getLsbD 96)
      = s.host.pba.filter (fun v => !(msixEntry s v).getLsbD 96) := by simp [he, hm]
  have hkept : (s.host.pba.filter fun v => !(s.host.pba.filter (fun v => !(msixEntry s v).getLsbD 96)).contains v)
      = s.host.pba.filter (fun v => (msixEntry s v).getLsbD 96) :=
    List.filter_congr fun v hv => by simp [hv]
  unfold msixFlush
  dsimp only
  rw [hgo, foldl_sendMsix _ hd, vectorsSent, hkept]

/-- The release of PERST# on a tray that runs (R93). -/
theorem execPerstDeassertion_alive {s : State} (ha : alive s = true) :
    execPerstDeassertion s = .next { s with eft.perst := false, host.up := true, host.l1 := false } := by
  simp only [alive, Bool.and_eq_true, Bool.not_eq_true'] at ha
  obtain ⟨⟨hp, hf⟩, ht⟩ := ha
  unfold execPerstDeassertion
  rw [if_neg (by simp [hp]), if_neg (by simp [hf, ht])]

/-- Settles O12: a configuration access is `cfgAccess` after the link's exit. That it shares its row is log entry 72. -/
theorem hostLinkStates : Obligations.HostLinkStates := by
  unfold Obligations.HostLinkStates
  intro s ha
  have hacc := execPowerMgmtState_accesses ha
  obtain ⟨p, l, hl⟩ := linkExit_eq s
  rw [hl] at hacc ⊢
  refine ⟨fun hp hl => if_pos (by simp [ha, hp, hl]), fun hp => if_pos (by simp [ha, hp]), hacc _, hacc _, fun on => hacc _,
    fun hd => ?_, ⟨hacc _, hacc _⟩, execPerstDeassertion_alive ha, fun hr => if_pos hr⟩
  have hflush := msixFlush_unmasked (s := { s with
    pwr.power := p, host.l1 := l, host.msixEnable := true, host.msixFuncMask := false }) rfl rfl hd
  refine ⟨_, hacc _, ?_⟩
  rw [cfgAccess, hflush]
  exact ⟨rfl, rfl, rfl, rfl, rfl⟩

end Sys2Proof.Machine
end

section
/-! PROOFS. What the host's accesses to BAR0 meet: the tray that serves them, the error report of a poisoned write, and each register's
own rule (05_host_link_and_registers.md R118 to R123, R130, R131; 06_mailboxes.md R138, R139, R143, R155; 25_observation.md R585,
R599). -/

namespace Sys2Proof.Machine

/-! ## The tray that serves the BARs -/

theorem barServes_iff {s : State} : barServes s = true ↔ linkServes s = true ∧ s.host.d3hot = false := by
  simp [barServes]

theorem linkServes_of_barServes {s : State} (h : barServes s = true) : linkServes s = true := (barServes_iff.mp h).1

theorem d0_of_barServes {s : State} (h : barServes s = true) : s.host.d3hot = false := (barServes_iff.mp h).2

theorem linkExit_of_barServes {s : State} (h : barServes s = true) : linkExit s = s :=
  linkExit_of_serves s (linkServes_of_barServes h)

theorem barReady_of_barServes {s : State} (h : barServes s = true) (hr : ready s = true) : barReady s = true := by
  have hl := linkServes_of_barServes h
  simp only [linkServes, Bool.and_eq_true] at hl
  simp [barReady, hl.1, hr]

/-- A command that goes one way or the other, with what each way leaves. -/
theorem completes_ite {i : Instr} {s a b : State} {c : Prop} [Decidable c] {p q : State → Prop}
    (h : exec i s = .next (if c then a else b)) (ha : c → p a) (hb : ¬c → q b) : Completes i s (fun t => if c then p t else q t) := by
  refine ⟨_, h, ?_⟩
  by_cases hc : c
  · simpa only [if_pos hc] using ha hc
  · simpa only [if_neg hc] using hb hc

/-! ## Error reports (R118) -/

/-- `t` is `s` but for the status bits of AER and the messages sent up the link, and the bit of `e` stands. -/
structure Reported (s t : State) (e : AerErr) : Prop where
  eq : t = { s with host.cfg.aerStatus := t.host.cfg.aerStatus, hostOut := t.hostOut }
  mem : e ∈ t.host.cfg.aerStatus

theorem aerMark_reported (s : State) (e : AerErr) : Reported s (aerMark s e) e := by
  unfold aerMark
  split
  · next h => exact ⟨rfl, List.contains_iff_mem.mp h⟩
  · exact ⟨rfl, List.mem_append_right _ (List.mem_singleton_self e)⟩

/-- A further error leaves the bits that stand. -/
theorem Reported.mark {s t : State} {e : AerErr} (h : Reported s t e) (f : AerErr) : Reported s (aerMark t f) e := by
  unfold aerMark
  split
  · exact h
  · exact ⟨by rw [h.eq], List.mem_append_left _ h.mem⟩

/-- A message in D0 goes out at once. -/
theorem send_d0 {s : State} (h : s.host.d3hot = false) (m : OutMsg) : send s m = { s with hostOut := s.hostOut ++ [m] } :=
  if_neg (by simp [h])

theorem Reported.send {s t : State} {e : AerErr} (h : Reported s t e) (hd : s.host.d3hot = false) (m : OutMsg) :
    Reported s (send t m) e := by
  have ht : t.host.d3hot = false := by rw [h.eq]; exact hd
  rw [send_d0 ht]
  exact ⟨by rw [h.eq], h.mem⟩

theorem aerReport_reported {s : State} (hd : s.host.d3hot = false) (e : AerErr) : Reported s (aerReport s e) e := by
  unfold aerReport
  dsimp only
  split
  · exact aerMark_reported s e
  · exact (aerMark_reported s e).send hd _

theorem aerAdvisory_reported {s : State} (hd : s.host.d3hot = false) (e : AerErr) : Reported s (aerAdvisory s e) e := by
  unfold aerAdvisory
  split
  · exact aerReport_reported hd e
  · dsimp only
    split
    · exact (aerMark_reported s e).mark _
    · exact ((aerMark_reported s e).mark _).send hd _

/-! ## BAR0 writes by block (R119 to R122) -/

/-- What an aligned write does in its block. -/
def blockWrite (s : State) (off size v : Nat) : Block → State
  | .sys => sysWrite s off size v
  | .mbx => mbxWrite s (off - 0x10000) size v
  | .db => dbWrite s (off - 0x100000)
  | .obs => obsWrite s (off - 0x400000)
  | .reserved => sysErr s invwrSys

theorem execBar0Write_poisoned {s : State} (hs : barServes s = true) (off size : Nat) (v : Word) :
    execBar0Write off size v true s = .next (aerReport s .poisoned) := by
  simp [execBar0Write, linkServes_of_barServes hs, d0_of_barServes hs]

theorem execBar0Write_misaligned {s : State} (hs : barServes s = true) (hr : ready s = true) {off size : Nat} (v : Word)
    (h : sizeAligned off size = false) : execBar0Write off size v false s = .next (sysErr s (blockFlag (blockOf off))) := by
  simp [execBar0Write, linkServes_of_barServes hs, d0_of_barServes hs, hr, h]

theorem execBar0Write_aligned {s : State} (hs : barServes s = true) (hr : ready s = true) {off size : Nat} (v : Word)
    (h : sizeAligned off size = true) : execBar0Write off size v false s = .next (blockWrite s off size v.toNat (blockOf off)) := by
  unfold execBar0Write
  rw [linkExit_of_barServes hs]
  simp only [linkServes_of_barServes hs, d0_of_barServes hs, hr, h]
  cases blockOf off <;> rfl

theorem blockOf_reserved {off : Nat} (h : 0x20000 ≤ off ∧ off < 0x100000 ∨ 0x200000 ≤ off ∧ off < 0x400000 ∨ 0x800000 ≤ off) :
    blockOf off = .reserved := by
  unfold blockOf
  rw [if_neg (by omega), if_neg (by omega), if_neg (by simp; omega), if_neg (by simp; omega)]

/-- A doorbell page lies in the doorbell block. -/
theorem blockOf_page (r : RingId) {o : Nat} (ho : o < 0x1000) : blockOf (0x100000 + 0x1000 * r.val + o) = .db := by
  have hr := r.isLt
  unfold blockOf
  rw [if_neg (by omega), if_neg (by omega), if_pos (by simp; omega)]

/-- A slot lies in the mailbox block. -/
theorem blockOf_slot {k o : Nat} (hk : k < 32) (ho : o < 0x100) : blockOf (0x10000 + 0x100 * k + o) = .mbx := by
  unfold blockOf
  rw [if_neg (by omega), if_pos (by omega)]

/-- A write to a byte of a slot (R138, R143). -/
theorem mbxWrite_slot (s : State) {k o : Nat} (size v : Nat) (hk : k < 32) (ho : o < 0x100) : mbxWrite s (0x100 * k + o) size v =
    if slotIsHost s k then { s with mbx.slots := tset s.mbx.slots k (patch (slotBytes s k) o (leBytes size v)) }
    else sysErr s invwrMbx := by
  unfold mbxWrite
  rw [if_pos (by omega)]
  dsimp only
  rw [show (0x100 * k + o) / 0x100 = k by omega, show (0x100 * k + o) % 0x100 = o by omega]

/-- Settles O13: a write takes effect in its block (`blockWrite`), or sets the block's flag. -/
theorem bar0WritesByBlock : Obligations.Bar0WritesByBlock := by
  unfold Obligations.Bar0WritesByBlock
  intro s v hs hr
  refine ⟨fun off size => ?_, fun off size h => execBar0Write_misaligned hs hr v h, fun off size h hoff => ?_, ?_, fun k hk o ho h8 => ?_⟩
  · have hrep := aerReport_reported (d0_of_barServes hs) .poisoned
    exact ⟨_, execBar0Write_poisoned hs off size v, hrep.mem, hrep.eq⟩
  · refine (execBar0Write_aligned hs hr v h).trans ?_
    rw [blockOf_reserved hoff]
    rfl
  · exact execBar0Write_aligned hs hr v rfl
  · have halign : sizeAligned (0x10000 + 0x100 * k + o) 8 = true := by simp [sizeAligned]; omega
    have htakes := execBar0Write_aligned hs hr v halign
    rw [blockOf_slot hk ho, blockWrite, show 0x10000 + 0x100 * k + o - 0x10000 = 0x100 * k + o by omega,
      mbxWrite_slot s _ _ hk ho] at htakes
    exact completes_ite htakes (fun _ => ⟨by rw [tget_tset, if_pos rfl], rfl⟩) fun _ => rfl

/-! ## Registers of the SYS, mailbox and observation blocks -/

/-- The value of a 64-bit register after a write of it or of one half is a word already (R121). -/
theorem halfWrite_eq (old : Nat) (v : PartWrite) : halfWrite old v.half v.value.toNat = match v.half with
    | none => v.value.toNat
    | some false => old / 2 ^ 32 * 2 ^ 32 + v.value.toNat % 2 ^ 32
    | some true => v.value.toNat % 2 ^ 32 * 2 ^ 32 + old % 2 ^ 32 := by
  unfold halfWrite
  cases v.half with
  | none => exact Nat.mod_eq_of_lt v.value.isLt
  | some high => cases high <;> rfl

theorem execSysTimeRead_answers {s : State} (hs : barServes s = true) {read : Bar0Read} (h : read.offset / 8 ≠ 1) :
    execSysTimeRead read s = .next (bar0Answer s read.offset read.size read.attr) := by
  unfold execSysTimeRead
  dsimp only
  rw [linkExit_of_barServes hs, if_neg (by simp [linkServes_of_barServes hs]), if_neg (by simp [d0_of_barServes hs]),
    if_neg (by simp [h])]

theorem execMbxEvqBaseWrite_takes {s : State} (hs : barServes s = true) (hr : ready s = true) (v : PartWrite) :
    execMbxEvqBaseWrite v s = .next (
      if halfWrite s.mbx.evqBase v.half v.value.toNat % 4096 = 0 ∧ s.mbx.evqEnable = false then
        { s with mbx.evqBase := halfWrite s.mbx.evqBase v.half v.value.toNat }
      else sysErr s invwrMbx) := by
  unfold execMbxEvqBaseWrite
  dsimp only
  rw [linkExit_of_barServes hs, if_neg (by simp [linkServes_of_barServes hs, barReady_of_barServes hs hr]),
    if_neg (by simp [d0_of_barServes hs])]
  split
  · next h => rw [if_neg (by simpa [imp_iff_not_or] using h)]
  · next h => rw [if_pos (by simpa using h)]

/-- With no backlog and no drops there is nothing to write when space returns (R155). -/
theorem evqSpaceReturned_none {s : State} (hb : s.mbx.backlog = []) (hd : s.mbx.drops = 0) : evqSpaceReturned s = s := by
  unfold evqSpaceReturned
  split
  · dsimp only
    rw [evqDrain, hb]
  · rfl

theorem execMbxEvqCtlWrite_takes {s : State} (hs : barServes s = true) (hr : ready s = true) (v : W32) :
    execMbxEvqCtlWrite v s = .next (
      if v.getLsbD 0 then
        if s.mbx.evqEnable then s else evqSpaceReturned { s with mbx.evqEnable := true, mbx.evqTail := 0, mbx.evqPhase := true }
      else { s with mbx.evqEnable := false }) := by
  unfold execMbxEvqCtlWrite
  dsimp only
  rw [linkExit_of_barServes hs, if_neg (by simp [linkServes_of_barServes hs, barReady_of_barServes hs hr]),
    if_neg (by simp [d0_of_barServes hs])]
  split
  · split <;> rfl
  · rfl

theorem execMbxEvqHeadWrite_takes {s : State} (hs : barServes s = true) (hr : ready s = true) (v : W32) :
    execMbxEvqHeadWrite v s = .next (evqSpaceReturned { s with mbx.evqHead := v.toNat % 4096 }) := by
  unfold execMbxEvqHeadWrite
  dsimp only
  rw [linkExit_of_barServes hs, if_neg (by simp [linkServes_of_barServes hs, barReady_of_barServes hs hr]),
    if_neg (by simp [d0_of_barServes hs])]

theorem execObsTselWrite_takes {s : State} (hs : barServes s = true) (hr : ready s = true) (v : Word) :
    execObsTselWrite v s = .next { s with obs.tsel := v.toNat % 4096 } := by
  unfold execObsTselWrite
  dsimp only
  rw [linkExit_of_barServes hs, if_neg (by simp [linkServes_of_barServes hs, hr]), if_neg (by simp [d0_of_barServes hs])]

theorem execObsTrcHeadWrite_takes {s : State} (hs : barServes s = true) (hr : ready s = true) (v : Word) :
    execObsTrcHeadWrite v s = .next (
      if v.toNat % 2 ^ 20 < 2 ^ s.obs.log2 then { s with obs.trcHead := v.toNat % 2 ^ 20 } else sysErr s invwrObs) := by
  unfold execObsTrcHeadWrite
  dsimp only
  rw [linkExit_of_barServes hs, if_neg (by simp [linkServes_of_barServes hs, hr]), if_neg (by simp [d0_of_barServes hs])]
  split
  · next h => rw [if_neg (Nat.not_lt.mpr h)]
  · next h => rw [if_pos (Nat.not_le.mp h)]

/-- Settles O15: every write is its register's rule, and every read `bar0Answer`. That all reads share one row is log entry 76. -/
theorem hostRegisterWrites : Obligations.HostRegisterWrites := by
  unfold Obligations.HostRegisterWrites
  intro s hs hr
  refine ⟨fun attr => ?_, fun attr => ?_, fun off size attr hsize hoff => ?_,
    fun v => ?_, execMbxEvqCtlWrite_takes hs hr 0, fun he hb hd => ?_, fun v hb hd => ?_, execObsTselWrite_takes hs hr, fun v => ?_⟩
  · refine (execSysTimeRead_answers hs (read := ⟨0x30, 4, attr⟩) (show 0x30 / 8 ≠ 1 by decide)).trans ?_
    have hbytes : bar0Bytes s 0x30 4 = leBytes 4 s.eft.time := congrArg (leBytes 4) (Nat.div_one _)
    rw [bar0Answer, hbytes]
    rfl
  · refine (execSysTimeRead_answers hs (read := ⟨0x34, 4, attr⟩) (show 0x34 / 8 ≠ 1 by decide)).trans ?_
    simp [bar0Answer, bar0Bytes, sizeAligned]
  · refine (execSysTimeRead_answers hs hoff).trans ?_
    have hne : ¬(off = 0x30 ∧ size = 4) := by
      rintro ⟨rfl, rfl⟩
      cases hsize
    simp [bar0Answer, bar0Bytes, hsize, hne]
  · have htakes := execMbxEvqBaseWrite_takes hs hr v
    rw [halfWrite_eq] at htakes
    exact completes_ite htakes (fun _ => rfl) fun _ => rfl
  · refine (execMbxEvqCtlWrite_takes hs hr 1).trans ?_
    rw [if_pos (by decide), if_neg (by simp [he])]
    exact congrArg _ (evqSpaceReturned_none hb hd)
  · exact (execMbxEvqHeadWrite_takes hs hr v).trans (congrArg _ (evqSpaceReturned_none hb hd))
  · exact completes_ite (execObsTrcHeadWrite_takes hs hr v) (fun _ => rfl) fun _ => rfl

end Sys2Proof.Machine
end

section
/-! PROOFS. The doorbells of the rings (05_host_link_and_registers.md R121, R130, R131; 08_jobs_and_dispatch.md R181, R196, R198). -/

namespace Sys2Proof.Machine

/-! ## Rings -/

theorem ring_setRing (s : State) (r q : Nat) (g : Ring) : ring (setRing s r g) q = if r = q then g else ring s q := by
  unfold ring setRing tgetD
  rw [tget_tset]
  split <;> rfl

@[simp] theorem ring_setRing_self (s : State) (r : Nat) (g : Ring) : ring (setRing s r g) r = g := by rw [ring_setRing, if_pos rfl]

theorem ring_setRing_ne {r q : Nat} (h : q ≠ r) (s : State) (g : Ring) : ring (setRing s r g) q = ring s q := by
  rw [ring_setRing, if_neg (Ne.symm h)]

theorem ringUp_iff {g : Ring} : ringUp g = true ↔ g.configured = true ∧ g.destroying = false := by simp [ringUp]

theorem ringUp_eq_false {g : Ring} : ringUp g = false ↔ g.configured = false ∨ g.destroying = true := by
  cases hc : g.configured <;> cases hd : g.destroying <;> simp [ringUp, hc, hd]

/-- No RING_READ_FAULT waits for a completion slot. -/
theorem postReadFault_none {s : State} {r : Nat} (h : (ring s r).faultDue = false) : postReadFault s r = s :=
  if_neg (by rw [← ring, h]; simp)

/-! ## The doorbell writes -/

/-- A ring's doorbell registers take this index: the ring is CONFIGURED and has an entry of that number (R131). -/
def takesIndex (g : Ring) (x : Nat) : Bool := ringUp g && decide (x < 2 ^ g.log2)

theorem takesIndex_eq_false {g : Ring} {x : Nat} :
    takesIndex g x = false ↔ g.configured = false ∨ g.destroying = true ∨ 2 ^ g.log2 ≤ x := by
  rw [takesIndex, Bool.and_eq_false_iff, ringUp_eq_false, decide_eq_false_iff_not, Nat.not_lt, or_assoc]

/-- The two refusals of an index, said as one. -/
theorem next_takesIndex (g : Ring) (x : Nat) (same : Prop) [Decidable same] (s t flagged : State) :
    (if !ringUp g then Host.Outcome.next flagged else if 2 ^ g.log2 ≤ x then .next flagged else if same then .next s else .next t)
      = (.next (if takesIndex g x then (if same then s else t) else flagged) : Res) := by
  unfold takesIndex
  cases ringUp g
  · rfl
  · by_cases hx : x < 2 ^ g.log2
    · simp only [hx, Nat.not_le.mpr hx, Bool.not_true, Bool.false_eq_true, if_false, Bool.true_and, decide_true, if_true]
      split <;> rfl
    · simp [hx, Nat.not_lt.mp hx]

/-- A tail that its ring takes (R131, R196). -/
def sqTaken (s : State) (r x : Nat) : State :=
  if x = (ring s r).sqTail then s
  else noteBusy (setRing s r { ring s r with sqTail := x, stamps := stampTail (ring s r) x s.eft.tick })

/-- A completion head that its ring takes (R131, R198). -/
def cqTaken (s : State) (r x : Nat) : State :=
  if x = (ring s r).cqHead then s
  else postReadFault (setRing s r { ring s r with
    cqHead := x, unread := (ring s r).unread - (x + 2 ^ (ring s r).log2 - (ring s r).cqHead) % 2 ^ (ring s r).log2 }) r

theorem ring_sqTaken {s : State} {r x : Nat} (h : x ≠ (ring s r).sqTail) :
    ring (sqTaken s r x) r = { ring s r with sqTail := x, stamps := stampTail (ring s r) x s.eft.tick } := by
  rw [sqTaken, if_neg h]
  exact ring_setRing_self _ _ _

theorem cqTaken_other {s : State} {r x : Nat} (h : x ≠ (ring s r).cqHead) (hf : (ring s r).faultDue = false) :
    cqTaken s r x = setRing s r { ring s r with
      cqHead := x, unread := (ring s r).unread - (x + 2 ^ (ring s r).log2 - (ring s r).cqHead) % 2 ^ (ring s r).log2 } := by
  rw [cqTaken, if_neg h, postReadFault_none (by rw [ring_setRing_self]; exact hf)]

section
variable {s : State} (hs : barServes s = true) (hr : ready s = true) (r : RingId) (v : W32)
include hs hr

theorem execSqDoorbell_serves : execSqDoorbell r v s = .next (
    if takesIndex (ring s r.val) (v.toNat % 2 ^ 16) then sqTaken s r.val (v.toNat % 2 ^ 16) else sysErr s invwrDb) := by
  unfold execSqDoorbell sqTaken
  dsimp only
  rw [linkExit_of_barServes hs, if_neg (by simp [linkServes_of_barServes hs, hr]), if_neg (by simp [d0_of_barServes hs])]
  exact next_takesIndex _ _ _ _ _ _

theorem execCqHeadWrite_serves : execCqHeadWrite r v s = .next (
    if takesIndex (ring s r.val) (v.toNat % 2 ^ 16) then cqTaken s r.val (v.toNat % 2 ^ 16) else sysErr s invwrDb) := by
  unfold execCqHeadWrite cqTaken
  dsimp only
  rw [linkExit_of_barServes hs, if_neg (by simp [linkServes_of_barServes hs, hr]), if_neg (by simp [d0_of_barServes hs])]
  exact next_takesIndex _ _ _ _ _ _

/-- Every write to the page of a ring that is not CONFIGURED sets the flag, whatever its offset and size (R131; log entry 73). -/
theorem execBar0Write_closedPage (h : ringUp (ring s r.val) = false) {o : Nat} (ho : o < 0x1000) (size : Nat) (w : Word) :
    execBar0Write (0x100000 + 0x1000 * r.val + o) size w false s = .next (sysErr s invwrDb) := by
  have hblock := blockOf_page r ho
  by_cases ha : sizeAligned (0x100000 + 0x1000 * r.val + o) size = true
  · rw [execBar0Write_aligned hs hr w ha, hblock, blockWrite, dbWrite, if_pos]
    rw [show (0x100000 + 0x1000 * r.val + o - 0x100000) / 0x1000 = r.val by omega, h]
    rfl
  · rw [execBar0Write_misaligned hs hr w (by simpa using ha), hblock]
    rfl

end

theorem stampTail_room {g : Ring} (h : g.stamps.length < 64) (x tick : Nat) : stampTail g x tick = g.stamps ++ [(x, tick)] := if_pos h

/-- Settles O17: an index that the ring takes is `sqTaken` or `cqTaken`, and any other sets the flag. That every write of a closed ring's
page sets it is log entry 73. -/
theorem ringDoorbells : Obligations.RingDoorbells := by
  unfold Obligations.RingDoorbells
  intro s r v hs hr g x flagged
  have hsq : exec (.sqDoorbell r v) s = .next (if takesIndex g x then sqTaken s r.val x else flagged) :=
    execSqDoorbell_serves hs hr r v
  have hcq : exec (.cqHeadWrite r v) s = .next (if takesIndex g x then cqTaken s r.val x else flagged) :=
    execCqHeadWrite_serves hs hr r v
  refine ⟨fun h => ?_, fun h o size w ho => execBar0Write_closedPage hs hr r (ringUp_eq_false.mpr h) ho size w, fun hc hd hx => ?_⟩
  · have hno : ¬takesIndex g x = true := by rw [takesIndex_eq_false.mpr h]; decide
    exact ⟨hsq.trans (congrArg _ (if_neg hno)), hcq.trans (congrArg _ (if_neg hno))⟩
  rw [if_pos (by simp [takesIndex, ringUp_iff.mpr ⟨hc, hd⟩, hx])] at hsq hcq
  refine ⟨fun he => hsq.trans (congrArg _ (if_pos he)), fun he => hcq.trans (congrArg _ (if_pos he)), fun hne => ⟨_, hsq, ?_⟩,
    fun hne hf => ⟨_, hcq, ?_⟩⟩
  · refine ⟨by rw [ring_sqTaken hne], by rw [ring_sqTaken hne], fun hroom => ?_, fun q hq => ?_, ?_⟩
    · rw [ring_sqTaken hne]
      exact stampTail_room hroom _ _
    · rw [sqTaken, if_neg hne]
      exact ring_setRing_ne hq s _
    · rw [sqTaken, if_neg hne]
      rfl
  · rw [cqTaken_other hne hf]
    exact ⟨by rw [ring_setRing_self], by rw [ring_setRing_self], fun q hq => ring_setRing_ne hq s _, rfl⟩

end Sys2Proof.Machine
end

section
/-! PROOFS. The windows of BAR2, its resize, and the accesses through it (05_host_link_and_registers.md R121, R125 to R128;
02_tenants_and_commons.md R45, R46; 09_cores_and_scratchpad.md R232). -/

namespace Sys2Proof.Machine

/-! ## Window registers and the resize (R125, R127) -/

/-- The tray with other registers of a window. -/
def setWin (s : State) (n : Nat) (w : Bar2Win) : State := { s with host.wins := tset s.host.wins n w }

theorem win_setWin (s : State) (n : Nat) (w : Bar2Win) : win (setWin s n w) n = w := tgetD_tset_self _ _ _ _

theorem execSysWinBaseWrite_takes {s : State} (hs : barServes s = true) (n : Fin 4) (v : PartWrite) :
    execSysWinBaseWrite n v s = .next (
      let x := halfWrite (win s n.val).base v.half v.value.toNat
      if x % bar2WinSize s = 0 ∧ x + bar2WinSize s ≤ 0xF0000000000 ∧ (win s n.val).enable = false then
        setWin s n.val { win s n.val with base := x }
      else sysErr s invwrSys) := by
  unfold execSysWinBaseWrite
  dsimp only
  rw [linkExit_of_barServes hs, if_neg (by simp [linkServes_of_barServes hs]), if_neg (by simp [d0_of_barServes hs])]
  generalize halfWrite _ _ _ = x
  by_cases h : x % bar2WinSize s = 0 ∧ x + bar2WinSize s ≤ 0xF0000000000 ∧ (win s n.val).enable = false
  · obtain ⟨hx, hend, he⟩ := h
    rw [if_neg (by simp [hx, he]; omega), if_pos ⟨hx, hend, he⟩]
    rfl
  · rw [if_neg h, if_pos]
    simpa only [not_and_or, Nat.not_le, Bool.not_eq_false, Bool.or_eq_true, decide_eq_true_eq, or_assoc] using h

theorem execSysWinCtlWrite_takes {s : State} (hs : barServes s = true) (n : Fin 4) {v : W32} (h0 : bits v.toNat 16 12 ≠ 0)
    (hF : bits v.toNat 16 12 ≠ 0xFFF) : execSysWinCtlWrite n v s = .next
      (setWin s n.val { win s n.val with enable := v.getLsbD 0, tcid := bits v.toNat 16 12 }) := by
  unfold execSysWinCtlWrite
  dsimp only
  rw [linkExit_of_barServes hs, if_neg (by simp [linkServes_of_barServes hs]), if_neg (by simp [d0_of_barServes hs]),
    if_neg (by simp [h0, hF])]
  rfl

/-- The tray with a BAR2 of another size: no window is enabled. -/
def resized (s : State) (gib : Nat) : State :=
  { s with host.bar2GiB := gib, host.wins := tmap s.host.wins (fun _ w => { w with enable := false, base := 0 }) }

theorem win_resized (s : State) (gib n : Nat) : win (resized s gib) n = { win s n with enable := false, base := 0 } :=
  tgetD_tmap s.host.wins (fun _ (w : Bar2Win) => { w with enable := false, base := 0 }) n {} rfl

theorem execBar2Resize_takes {s : State} (hs : barServes s = true) {g : Nat} (h2 : 2 ≤ g) (h8 : g ≤ 8) :
    execBar2Resize g s = .next (resized s (2 ^ g)) := by
  unfold execBar2Resize
  dsimp only
  rw [linkExit_of_barServes hs, if_neg (by simp [linkServes_of_barServes hs]; omega)]
  rfl

/-! ## Accesses through a window (R126, R128) -/

/-- The window that an offset falls into, and the device address behind it. -/
def bar2Win (s : State) (off : Nat) : Bar2Win := win s (off / bar2WinSize s)

def bar2At (s : State) (off : Nat) : Nat := (bar2Win s off).base + (off - off / bar2WinSize s * bar2WinSize s)

/-- A read gets its completion, a write none. -/
def bar2Answer (s : State) (write : Bool) (ds : List Byte) (attr : TlpAttr) : State :=
  if write then s else { s with hostOut := s.hostOut ++ [.read ds attr] }

/-- In an ACTIVE tray with no access waiting and no hold an access is performed at once (R270; log entry 25). -/
theorem execBar2Access_performs {s : State} (hs : barServes s = true) (hp : s.pwr.power = .active) (hw : s.host.parked = [])
    (hh : noHold s = true) (write : Bool) (off len : Nat) (data : List Byte) {req : TlpReq} (hq : (write && req.poisoned) = false) :
    execBar2Access write off len data req s = .next (bar2Perform s write off len data req.attr) := by
  unfold execBar2Access
  dsimp only
  rw [linkExit_of_barServes hs, if_neg (by simp [linkServes_of_barServes hs]), if_neg (by simp [d0_of_barServes hs]),
    if_neg (by simp [hq]), if_neg (by simp [hp, hw, hh])]

section
variable {s : State} (write : Bool) {off len : Nat} (data : List Byte) (attr : TlpAttr)

/-- The proofs rewrite the definition with its bindings in place: reduced, they make the kernel evaluate `endpoint`. -/
theorem bar2Perform_disabled (h : (bar2Win s off).enable = false) :
    bar2Perform s write off len data attr = bar2Answer s write (zeros len) attr := by
  unfold bar2Win at h
  rw [bar2Perform, if_pos (by rw [h]; rfl)]
  rfl

variable (hr : ready s = true) (hl : 0 < len) (he : (bar2Win s off).enable = true)
include hr hl he

theorem bar2Perform_hole (h : endpoint s (bar2Win s off).tcid (bar2At s off) len write = .hole) :
    bar2Perform s write off len data attr = bar2Answer (sysErr s 4) write (zeros len) attr := by
  unfold bar2At bar2Win at h
  unfold bar2Win at he
  rw [bar2Perform, if_neg (by simp [he, hr]; omega), h]
  rfl

theorem bar2Perform_refused {o : Nat} (h : endpoint s (bar2Win s off).tcid (bar2At s off) len write = .refused o) :
    bar2Perform s write off len data attr = bar2Answer (sysErr s 5) write (zeros len) attr := by
  unfold bar2At bar2Win at h
  unfold bar2Win at he
  rw [bar2Perform, if_neg (by simp [he, hr]; omega), h]
  rfl

end

/-- Words of a range in which error correction has nothing to find. -/
def CleanAt (s : State) (a n : Nat) : Prop := poisonedIn s a n = [] ∧ s.ecc.latent = []

theorem eccDue_clean {s : State} {a n : Nat} (h : CleanAt s a n) : eccDue s a n = [] := by
  obtain ⟨hp, hl⟩ := h
  unfold eccDue
  rw [List.filterMap_eq_nil_iff]
  intro x hx
  rw [if_neg (List.filter_eq_nil_iff.mp hp x hx), hl]
  rfl

theorem eccSettle_clean {s : State} {a n : Nat} (h : CleanAt s a n) : eccSettle s a n = s := by
  rw [eccSettle, eccDue_clean h]
  rfl

theorem hostFaults_nil (s : State) (tcid : Nat) : hostFaults s [] tcid = s := rfl

/-- A permitted read answers memory's bytes after the gathering buffers have been flushed (R232). -/
theorem bar2Perform_reads {s : State} {off len : Nat} (data : List Byte) (attr : TlpAttr) (hr : ready s = true) (hl : 0 < len)
    (he : (bar2Win s off).enable = true) (h : endpoint s (bar2Win s off).tcid (bar2At s off) len false = .ok)
    (hc : CleanAt (flushGb s (bar2At s off) len) (bar2At s off) len) : bar2Perform s false off len data attr =
      bar2Answer (flushGb s (bar2At s off) len) false (memRead (flushGb s (bar2At s off) len) (bar2At s off) len) attr := by
  have hecc := eccSettle_clean hc
  obtain ⟨hp, -⟩ := hc
  unfold bar2At bar2Win at h hecc hp
  unfold bar2At bar2Win
  unfold bar2Win at he
  rw [bar2Perform, if_neg (by simp [he, hr]; omega), h]
  dsimp only
  rw [if_neg Bool.false_ne_true, if_neg Bool.false_ne_true, hecc, hp, hostFaults_nil, bar2Answer, if_neg Bool.false_ne_true]

theorem hostFaults_mem (s : State) (ws : List Nat) (tcid : Nat) : (hostFaults s ws tcid).mem = s.mem := by
  refine List.foldlRecOn (motive := fun t : State => t.mem = s.mem) ws _ rfl fun t ht a _ => ?_
  dsimp only
  split <;> (rw [latch_eq]; exact ht)

/-- Where no word is poisoned a write stores its bytes. -/
theorem memWrite_mem {s : State} {a : Nat} {ds : List Byte} (h : poisonedIn s a ds.length = []) :
    (memWrite s a ds).1.mem = mwrite s.mem a ds := by
  have hbad : poisonedIn (breakRes s none a ds.length) a ds.length = [] := h
  unfold memWrite memWriteBy memPut
  rw [hbad]
  exact congrArg (mwrite · a ds) (cure_mem (breakRes s none a ds.length) _)

/-- A permitted write stores its bytes, after the same flush. -/
theorem bar2Perform_writes {s : State} {off len : Nat} {data : List Byte} (attr : TlpAttr) (hr : ready s = true) (hl : 0 < len)
    (he : (bar2Win s off).enable = true) (h : endpoint s (bar2Win s off).tcid (bar2At s off) len true = .ok) (hn : data.length = len)
    (hc : CleanAt (flushGb s (bar2At s off) len) (bar2At s off) len) :
    (bar2Perform s true off len data attr).mem = mwrite (flushGb s (bar2At s off) len).mem (bar2At s off) data := by
  have hmem := memWrite_mem (s := flushGb s (bar2At s off) len) (a := bar2At s off) (ds := data) (by rw [hn]; exact hc.1)
  have htake : data.take len = data := List.take_of_length_le (Nat.le_of_eq hn)
  unfold bar2At bar2Win at h hmem
  unfold bar2At bar2Win
  unfold bar2Win at he
  rw [bar2Perform, if_neg (by simp [he, hr]; omega), h]
  dsimp only
  rw [if_pos rfl, hostFaults_mem, htake, hmem]

/-! ## The statement -/

/-- Settles O14: the window registers take what `halfWrite` gives, and an access is `bar2Perform`, case by case of the endpoint check. That a
resize to the present size clears the windows too is log entry 74. -/
theorem bar2WindowsAndResize : Obligations.Bar2WindowsAndResize := by
  unfold Obligations.Bar2WindowsAndResize
  intro s hs
  refine ⟨fun n v => ?_, fun n v h0 hF => ?_, fun g h2 h8 => ?_, fun off len p attr hl hr hp hw hh => ⟨?_, fun data hn => ?_⟩⟩
  · have htakes := execSysWinBaseWrite_takes hs n v
    rw [halfWrite_eq] at htakes
    refine completes_ite htakes (fun _ => ?_) fun _ => rfl
    rw [win_setWin]
    exact ⟨rfl, rfl, rfl⟩
  · refine ⟨_, execSysWinCtlWrite_takes hs n h0 hF, ?_⟩
    beta_reduce
    rw [win_setWin]
    exact ⟨rfl, rfl, rfl, rfl⟩
  · exact ⟨_, execBar2Resize_takes hs h2 h8, rfl, fun n => by rw [win_resized]; exact ⟨rfl, rfl⟩, rfl⟩
  · refine ⟨_, execBar2Access_performs hs hp hw hh false off len [] rfl, fun he => ?_, fun he h => ?_, fun o he h => ?_, fun he h hc => ?_⟩
    · exact bar2Perform_disabled false [] attr he
    · exact bar2Perform_hole false [] attr hr hl he h
    · exact bar2Perform_refused false [] attr hr hl he h
    · exact bar2Perform_reads [] attr hr hl he h hc
  · refine ⟨_, execBar2Access_performs hs hp hw hh true off len data rfl, fun he => ?_, fun o he h => ?_, fun he h hc => ?_⟩
    · exact bar2Perform_disabled true data attr he
    · exact bar2Perform_refused true data attr hr hl he h
    · exact bar2Perform_writes attr hr hl he h hn hc

end Sys2Proof.Machine
end

section
/-! PROOFS. A ring's descriptor reads and the completions that the dispatcher posts (05_host_link_and_registers.md R118, R131;
08_jobs_and_dispatch.md R195 to R199, R204). -/

namespace Sys2Proof.Machine

/-! ## Completions (R198) -/

/-- `t` is `s` but for the pages of tenants (R588). -/
def Paged (s t : State) : Prop := t = { s with obs.pages := t.obs.pages }

theorem Paged.refl (s : State) : Paged s s := rfl

theorem Paged.trans {a b c : State} (h : Paged a b) (g : Paged b c) : Paged a c := by
  unfold Paged at h g ⊢
  rw [h] at g
  exact g

theorem pageAdd_paged (s : State) (t word n : Nat) : Paged s (pageAdd s t word n) := by
  unfold pageAdd
  split <;> rfl

/-- The ring after a completion has been written at its index. -/
def ringPosted (g : Ring) : Ring :=
  { g with cqIdx := (g.cqIdx + 1) % 2 ^ g.log2, phase := if g.cqIdx + 1 = 2 ^ g.log2 then !g.phase else g.phase,
           reserved := g.reserved - 1, unread := g.unread + 1 }

/-- The counts of a completion on its tenant's page (R639). -/
def complCounted (s : State) (c : Compl) (counted : Bool) : State :=
  let s := if counted then pageAdd s c.tcid 1 1 else s
  if counted && c.status = 0x0201 then pageAdd s c.tcid 3 1 else s

theorem complCounted_paged (s : State) (c : Compl) (counted : Bool) : Paged s (complCounted s c counted) := by
  have hone : Paged s (if counted then pageAdd s c.tcid 1 1 else s) := by
    split
    · exact pageAdd_paged _ _ _ _
    · exact Paged.refl s
  unfold complCounted
  dsimp only
  split
  · exact hone.trans (pageAdd_paged _ _ _ _)
  · exact hone

/-- The tray once a completion is written, before its vector is raised. -/
def complWritten (s : State) (r : Nat) (c : Compl) (counted : Bool) : State :=
  let u := hostWrite s ((ring s r).cqAddr + 32 * (ring s r).cqIdx) (complBytes s (ring s r) c)
  complCounted (ctrAdd (setRing u r (ringPosted (ring s r))) 0x8 1) c counted

theorem postCompl_eq (s : State) (r : Nat) (c : Compl) (counted : Bool) : postCompl s r c counted =
    if c.irq then raiseMsix (complWritten s r c counted) (2 + r) else complWritten s r c counted := rfl

/-- What posting a completion on ring `r` changes: the ring's index and slots, DSP_COMPLETED, tenants' pages, and messages to the host. -/
structure Posted (s t : State) (r : Nat) : Prop where
  eq : t = { s with rings := t.rings, obs := t.obs, host.pba := t.host.pba, host.held := t.host.held, hostOut := t.hostOut }
  rings : t.rings = tset s.rings r (ringPosted (ring s r))
  counters : t.obs.ctr = (ctrAdd s 0x8 1).obs.ctr

theorem hostWrite_signals (s : State) (a : Nat) (bs : List Byte) :
    hostWrite s a bs = { s with host.held := (hostWrite s a bs).host.held, hostOut := (hostWrite s a bs).hostOut } := by
  unfold hostWrite send
  split <;> rfl

theorem complWritten_posted (s : State) (r : Nat) (c : Compl) (counted : Bool) : Posted s (complWritten s r c counted) r := by
  unfold complWritten
  dsimp only
  have hw := hostWrite_signals s ((ring s r).cqAddr + 32 * (ring s r).cqIdx) (complBytes s (ring s r) c)
  generalize hostWrite s _ _ = u at hw
  have hp := complCounted_paged (ctrAdd (setRing u r (ringPosted (ring s r))) 0x8 1) c counted
  generalize complCounted _ _ _ = t at hp
  rw [hw] at hp
  rw [hp]
  exact ⟨rfl, rfl, rfl⟩

theorem raiseMsix_signals (s : State) (v : Nat) : raiseMsix s v =
    { s with host.pba := (raiseMsix s v).host.pba, host.held := (raiseMsix s v).host.held, hostOut := (raiseMsix s v).hostOut } := by
  unfold raiseMsix sendMsix send
  split
  · rfl
  · split
    · split <;> rfl
    · split <;> rfl

theorem postCompl_posted (s : State) (r : Nat) (c : Compl) (counted : Bool) : Posted s (postCompl s r c counted) r := by
  have hw := complWritten_posted s r c counted
  rw [postCompl_eq]
  split
  · have hr := raiseMsix_signals (complWritten s r c counted) (2 + r)
    generalize raiseMsix _ _ = t at hr
    obtain ⟨heq, hrings, hctr⟩ := hw
    generalize complWritten s r c counted = w at heq hrings hctr hr
    rw [hr]
    exact ⟨by rw [heq], hrings, hctr⟩
  · exact hw

theorem Posted.ring_self {s t : State} {r : Nat} (h : Posted s t r) : ring t r = ringPosted (ring s r) := by
  rw [ring, h.rings, tgetD_tset_self]

theorem Posted.ring_ne {s t : State} {r q : Nat} (h : Posted s t r) (hq : q ≠ r) : ring t q = ring s q := by
  rw [ring, h.rings, tgetD_tset_ne _ (Ne.symm hq), ← ring]

theorem Posted.ctr_eq {s t : State} {r : Nat} (h : Posted s t r) (off : Nat) :
    ctr t off = ctr s off + (if 0x8 = off then BitVec.ofNat 64 1 else 0) := by
  rw [← ctr_ctrAdd_at, ctr, h.counters, ← ctr]

/-- In D0 a completion's bytes go out (R198). -/
theorem postCompl_writes {s : State} (hd : s.host.d3hot = false) (r : Nat) (c : Compl) (counted : Bool) :
    OutMsg.write ((ring s r).cqAddr + 32 * (ring s r).cqIdx) (complBytes s (ring s r) c) ∈ (postCompl s r c counted).hostOut := by
  have hw : OutMsg.write ((ring s r).cqAddr + 32 * (ring s r).cqIdx) (complBytes s (ring s r) c)
      ∈ (complWritten s r c counted).hostOut := by
    unfold complWritten
    dsimp only
    rw [hostWrite, send_d0 hd, complCounted_paged]
    exact List.mem_append_right _ (List.mem_singleton_self _)
  rw [postCompl_eq]
  split
  · exact raiseMsix_hostOut _ hw
  · exact hw

/-! ## Descriptor reads (R195, R199) -/

/-- The tray may read a descriptor on ring `r`: it is CONFIGURED and not stopped, holds no copy, and its span is not empty. -/
structure ReadDue (s : State) (r : Nat) : Prop where
  up : domainsUp s = true
  d0 : s.host.d3hot = false
  configured : (ring s r).configured = true
  destroying : (ring s r).destroying = false
  stopped : (ring s r).stopped = false
  copy : (ring s r).copy = none
  span : (ring s r).sqHead ≠ (ring s r).sqTail

/-- The AER error of a read that fails (R118). -/
def readErr (bad : DescRead) : AerErr := if bad = .poisoned then .poisoned else .timeout

/-- The ring after its second failed read. -/
def ringStopped (g : Ring) : Ring := { g with reads := 0, stopped := true, stopCause := 0x0212, faultDue := true }

section
variable {s : State} {r : RingId} (h : ReadDue s r.val)
include h

theorem execDescriptorRead_ok (w0 w1 w2 w3 w4 w5 w6 w7 : Word) : execDescriptorRead r (.ok w0 w1 w2 w3 w4 w5 w6 w7) s = .next
    (setRing s r.val { ring s r.val with copy := some [w0, w1, w2, w3, w4, w5, w6, w7], reads := 0, held := false }) := by
  obtain ⟨hu, hd, hc, hx, hs, hcopy, hn⟩ := h
  unfold execDescriptorRead
  dsimp only
  rw [if_neg (by simp [hu, hd, hc, hx, hs, hcopy, hn])]

/-- The first failure is an advisory error, and the read is sent again. -/
theorem execDescriptorRead_retries {bad : DescRead} (hb : bad = .timeout ∨ bad = .poisoned) (hr : (ring s r.val).reads = 0) :
    execDescriptorRead r bad s = .next (setRing (aerAdvisory s (readErr bad)) r.val { ring s r.val with reads := 1 }) := by
  obtain ⟨hu, hd, hc, hx, hs, hcopy, hn⟩ := h
  unfold execDescriptorRead readErr
  dsimp only
  rw [if_neg (by simp [hu, hd, hc, hx, hs, hcopy, hn])]
  rcases hb with rfl | rfl <;> simp only [hr, if_true]

/-- The second failure stops the ring (log entry 50). -/
theorem execDescriptorRead_stops {bad : DescRead} (hb : bad = .timeout ∨ bad = .poisoned) (hr : (ring s r.val).reads ≠ 0) :
    execDescriptorRead r bad s = .next (postReadFault (setRing (aerReport s (readErr bad)) r.val (ringStopped (ring s r.val))) r.val) := by
  obtain ⟨hu, hd, hc, hx, hs, hcopy, hn⟩ := h
  unfold execDescriptorRead readErr ringStopped
  dsimp only
  rw [if_neg (by simp [hu, hd, hc, hx, hs, hcopy, hn])]
  rcases hb with rfl | rfl <;> simp only [hr, if_false]

end

end Sys2Proof.Machine
end

section
/-! PROOFS. What check 15 and the set-up of a chain leave alone: jobs, rings and the count of admissions (02_tenants_and_commons.md R32, R54;
08_jobs_and_dispatch.md R205, R209). -/

namespace Sys2Proof.Machine

/-- `t` has the jobs, the rings and the count DSP_ADMITTED of `s`. -/
structure Aside (s t : State) : Prop where
  dsp : t.dsp = s.dsp
  rings : t.rings = s.rings
  admitted : ctr t 0x0 = ctr s 0x0

theorem Aside.refl (s : State) : Aside s s := ⟨rfl, rfl, rfl⟩

theorem Aside.trans {a b c : State} (h : Aside a b) (g : Aside b c) : Aside a c :=
  ⟨g.dsp.trans h.dsp, g.rings.trans h.rings, g.admitted.trans h.admitted⟩

theorem Aside.foldl {α : Type} {f : State → α → State} (h : ∀ s x, Aside s (f s x)) (l : List α) (s : State) : Aside s (l.foldl f s) :=
  List.foldlRecOn l f (Aside.refl s) fun _ hb x _ => hb.trans (h _ x)

theorem Aside.ring_eq {s t : State} (h : Aside s t) (q : Nat) : ring t q = ring s q := by rw [ring, h.rings, ← ring]

/-! ## Copies, banks and answers -/

theorem Wiped.aside {s t : State} (h : Wiped s t) : Aside s t := by
  rw [h]
  exact ⟨rfl, rfl, rfl⟩

theorem Told.aside {s t : State} (h : Told s t) : Aside s t := by
  rw [h]
  exact ⟨rfl, rfl, rfl⟩

theorem dropTaCopy_aside (s : State) (r : Nat) : Aside s (dropTaCopy s r) := by
  unfold dropTaCopy
  split
  · split
    · exact ⟨rfl, rfl, rfl⟩
    · exact Aside.refl s
  · exact Aside.refl s

theorem evict_aside (s : State) (v : CopyRef) : Aside s (evict s v) := by
  cases v with
  | ta r => exact dropTaCopy_aside s r
  | sp c => exact (dropSpCopy_wiped s c).aside

theorem respond_aside (s : State) (k : Nat) (r : Req) (status : Nat) (payload : List Byte) : Aside s (respond s k r status payload) := by
  unfold respond
  dsimp only
  rw [settleMgt_eq]
  split
  · exact ⟨rfl, rfl, rfl⟩
  · rw [raiseMsix_told _ 0]
    exact ⟨rfl, rfl, rfl⟩

theorem answerWaits_aside (s : State) : Aside s (answerWaits s) := Aside.foldl (fun _ _ => respond_aside _ _ _ _ _) _ s

/-! ## Trace records and counters -/

/-- Only DSP_ADMITTED stands at offset 0. -/
theorem Aside.counted {s t : State} (h : Aside s t) {off : Nat} (hoff : off ≠ 0) (n : Nat) : Aside s (ctrAdd t off n) :=
  h.trans ⟨rfl, rfl, ctr_ctrAdd_ne _ hoff n⟩

theorem pondPut_aside (s : State) (p : Nat) (r : TrcRec) : Aside s (pondPut s p r) := by
  have hput (b : PondBuf) : Aside s { s with obs.ponds := tset s.obs.ponds p b } := ⟨rfl, rfl, rfl⟩
  unfold pondPut
  dsimp only
  split
  · split
    · exact (hput _).counted (by decide) _
    · exact (hput _).counted (by decide) _
  · split
    · exact (hput _).counted (by decide) _
    · split
      · exact ((hput _).counted (by decide) _).counted (by decide) _
      · exact (hput _).counted (by decide) _

theorem trcTake_aside (s : State) (r : TrcRec) : Aside s (trcTake s r) := by
  have hdropped (d : Tab Nat) : Aside s { s with obs.stagingDropped := d } := ⟨rfl, rfl, rfl⟩
  unfold trcTake
  split
  · exact Aside.refl s
  · split
    · exact pondPut_aside _ _ _
    · split
      · exact ⟨rfl, rfl, rfl⟩
      · exact (hdropped _).counted (by decide) _

theorem traceCore_aside (s : State) (c : Nat) (ts : List Nat) (tag type arg : Nat) : Aside s (traceCore s c ts tag type arg) := by
  obtain h | ⟨r, h⟩ | h := traceCore_cases s c ts tag type arg <;> rw [h]
  · exact Aside.refl s
  · exact trcTake_aside s r
  · exact (Aside.refl s).counted (by decide) _

theorem leaveDoze_aside (s : State) : Aside s (leaveDoze s) := by
  unfold leaveDoze traceTray
  split
  · exact trcTake_aside _ _
  · exact Aside.refl s

/-! ## Quotas and places -/

theorem shedOwn_aside (used : State → Nat) (limit : Nat) (all : State → List (Nat × CopyRef)) (n : Nat) (s : State) :
    Aside s (shedOwn used limit all n s).1 := by
  induction n generalizing s with
  | zero => exact Aside.refl s
  | succ n ih =>
    unfold shedOwn
    split
    · exact Aside.refl s
    · split
      · exact (evict_aside s _).trans (ih _)
      · exact Aside.refl s

theorem quotaCheck_aside {s t : State} {tcid banks given : Nat} {os : List ObjRef} {keep : SpCopy → Bool}
    (h : quotaCheck s tcid banks given os keep = .fits t) : Aside s t := by
  unfold quotaCheck at h
  dsimp only at h
  split at h
  · cases h
  · split at h
    · cases h
    · next u hu =>
      have hsp := shedOwn_aside (fun s => spUsed s tcid - given + banks) (tenant s tcid).spQuota (ownSp tcid keep) s.store.spCopies.length s
      rw [hu] at hsp
      split at h
      · cases h
      · next v hv =>
        have hta := shedOwn_aside (fun x => taUsed x tcid + tierNeed s tcid os) (tenant s tcid).taQuota (ownTa tcid os)
          u.store.regions.length u
        rw [hv] at hta
        cases h
        exact hsp.trans hta

theorem groupQuota_aside {chain : Tab Nat} {workOf : Nat → List Nat} {lead : Bool} {ms : List Cand} {s t : State}
    (h : groupQuota chain workOf lead ms s = .fits t) : Aside s t := by
  induction ms generalizing lead s with
  | nil =>
    cases h
    exact Aside.refl _
  | cons m ms ih =>
    unfold groupQuota at h
    split at h
    · next u hu => exact (quotaCheck_aside hu).trans (ih h)
    · next hno => exact absurd h (hno t)

theorem makeRoom_aside {c : Nat} {work : List Nat} {xs : List ScratchDesc} {n : Nat} {s t : State} {ps : List (List Nat)}
    (h : makeRoom c work xs n s = some (t, ps)) : Aside s t := by
  induction n generalizing s with
  | zero => cases h
  | succ n ih =>
    unfold makeRoom at h
    split at h
    · cases h
      exact Aside.refl _
    · dsimp only at h
      split at h
      · exact (evict_aside s _).trans (ih h)
      · cases h

theorem tagWork_wiped (s : State) (c t : Nat) (work : List Nat) : Wiped s (tagWork s c t work) := by
  unfold tagWork
  refine Wiped.foldl _ s fun u b => ?_
  dsimp only
  split
  · exact Wiped.refl u
  · split
    · exact retag_wiped _ _ _ _
    · split
      · exact Wiped.refl u
      · exact retag_wiped _ _ _ _

theorem addCopies_wiped (s : State) (w : Option Nat) (c : Nat) (need : List ScratchDesc) (ps : List (List Nat)) (order : Nat) :
    Wiped s (addCopies s w c need ps order) := by
  unfold addCopies
  refine Wiped.foldl _ s fun u i => ?_
  split
  · exact ((Wiped.foldl _ u dropSpCopy_wiped).trans (Wiped.foldl _ _ fun _ _ => retag_wiped _ _ _ _)).trans rfl
  · exact Wiped.refl u

theorem takeBanks_aside {t order : Nat} {ms : List Cand} {workOf : Nat → List Nat} {chain : Tab Nat} {s u : State}
    (h : takeBanks t order ms workOf chain s = some u) : Aside s u := by
  induction chain generalizing s with
  | nil =>
    cases h
    exact Aside.refl _
  | cons x rest ih =>
    unfold takeBanks at h
    dsimp only at h
    split at h
    · cases h
    · next hroom =>
      exact (makeRoom_aside hroom).trans (((tagWork_wiped _ _ _ _).trans (addCopies_wiped _ _ _ _ _ _)).aside.trans (ih h))

theorem allocTierA_aside {size n a : Nat} {s t : State} (h : allocTierA size n s = some (a, t)) : Aside s t := by
  induction n generalizing s with
  | zero =>
    obtain ⟨b, -, hb⟩ := Option.map_eq_some_iff.mp h
    cases hb
    exact Aside.refl _
  | succ n ih =>
    unfold allocTierA at h
    split at h
    · cases h
      exact Aside.refl _
    · split at h
      · next v _ =>
        have hfill : Aside (evict s v)
            ((evict s v).store.fills.foldl (fun s f => if inTierA f.base then memZero s f.base f.size else s) (evict s v)) := by
          refine Aside.foldl (fun u f => ?_) _ _
          split
          · exact (memZero_wiped _ _ _).aside
          · exact Aside.refl u
        have hkept (u : State) (fs : List Fill) : Aside u { u with store.fills := fs } := ⟨rfl, rfl, rfl⟩
        exact (evict_aside s v).trans (hfill.trans ((hkept _ _).trans ((answerWaits_aside _).trans (ih h))))
      · cases h

theorem addTaCopies_aside {order : Nat} {os : List ObjRef} {s t : State} (h : addTaCopies order os s = some t) : Aside s t := by
  induction os generalizing s with
  | nil =>
    cases h
    exact Aside.refl _
  | cons o os ih =>
    cases o with
    | commons c => exact ih h
    | region r =>
      unfold addTaCopies at h
      split at h
      · exact ih h
      · split at h
        · exact ih h
        · split at h
          · cases h
          · next ha =>
            rw [alloc, if_pos rfl] at ha
            dsimp only at h
            refine (allocTierA_aside ha).trans (Aside.trans ?_ (ih h))
            exact ⟨rfl, rfl, rfl⟩

/-! ## Check 15 (R209) -/

theorem assignFree_aside {s t : State} {ms : List Cand} {order tag : Nat} {chain : Tab Nat} {joined : Bool}
    (h : assignFree s ms order = some (.chain t chain tag joined)) : Aside s t := by
  unfold assignFree at h
  split at h
  · cases h
  · dsimp only at h
    split at h
    · have h := Option.some.inj h
      split at h
      · cases h
      · cases h
      · next hquota =>
        split at h
        · cases h
        · next hbanks =>
          split at h
          · cases h
          · next hta =>
            split at h
            · cases h
              exact (groupQuota_aside hquota).trans ((takeBanks_aside hbanks).trans (addTaCopies_aside hta))
            · cases h
    · cases h

/-- Finding a chain, or a running one to join, admits nothing. -/
theorem assign_aside {s t : State} {ms : List Cand} {order tag : Nat} {chain : Tab Nat} {joined : Bool}
    (h : assign s ms order = .chain t chain tag joined) : Aside s t := by
  unfold assign at h
  split at h
  · next hfree =>
    subst h
    exact assignFree_aside hfree
  · split at h
    · split at h
      · cases h
        exact Aside.refl s
      · cases h
    · cases h

/-! ## The set-up of a chain -/

theorem orderStaging_aside (s : State) (w : Nat) (os : List ObjRef) : Aside s (orderStaging s w os) := by
  unfold orderStaging
  refine Aside.foldl (fun u o => ?_) os s
  dsimp only
  split
  · exact Aside.refl u
  · split
    · exact ⟨rfl, rfl, rfl⟩
    · exact ⟨rfl, rfl, rfl⟩

/-- What one core still lacks of a work's plan is placed there. -/
theorem ensureCopies_aside (s : State) (w order : Nat) (uses : List ObjRef) : Aside s (ensureCopies s w order uses) := by
  have hplaced (u : State) (os : List ObjRef) : Aside u ((addTaCopies order os u).getD u) := by
    cases h : addTaCopies order os u with
    | none => exact Aside.refl u
    | some v => exact addTaCopies_aside h
  unfold ensureCopies
  refine Aside.trans ?_ (orderStaging_aside _ _ _)
  split
  · exact Aside.refl s
  · split
    · exact Aside.refl s
    · refine Aside.trans (Aside.foldl (fun u q => ?_) _ s) (hplaced _ _)
      dsimp only
      split
      · exact Aside.refl u
      · split
        · next hroom => exact (makeRoom_aside hroom).trans (addCopies_wiped _ _ _ _ _ _).aside
        · exact Aside.refl u

theorem modCore_aside (s : State) (c : Nat) (f : Core → Core) : Aside s (modCore s c f) := ⟨rfl, rfl, rfl⟩

theorem writeTablesOf_aside (s : State) (w c : Nat) : Aside s (writeTablesOf s w c) := by
  unfold writeTablesOf writeTables
  split
  · split
    · exact Aside.foldl (fun _ _ => modCore_aside _ _ _) _ s
    · exact Aside.refl s
  · exact Aside.refl s

theorem writeCore_aside (s : State) (c : Nat) (tcids : List Nat) (maps : Tab Nat × Tab Nat) (cb smap : Tab Nat) (w : Nat) :
    Aside s (writeCore s c tcids maps cb smap w) :=
  ((modCore_aside s c _).trans (modCore_aside _ c _)).trans (writeTablesOf_aside _ w c)

theorem startWork_aside (s : State) (c w : Nat) : Aside s (startWork s c w) := by
  have hset (k : Core) : Aside s (setCore s c k) := ⟨rfl, rfl, rfl⟩
  unfold startWork countCore
  exact ((hset _).counted (by unfold coreCtr; omega) _).trans (traceCore_aside _ _ _ _ _ _)

theorem kick_aside (s : State) (c : Nat) : Aside s (kick s c) := by
  unfold kick
  dsimp only
  split
  · exact Aside.refl s
  · split
    · exact Aside.refl s
    · split
      · exact Aside.refl s
      · split
        · exact startWork_aside _ _ _
        · exact ⟨rfl, rfl, rfl⟩

/-- Setting up a chain for jobs already admitted changes no job and no ring. -/
theorem setUp_aside (s : State) (ms : List Cand) (slots : List Nat) (chain : Tab Nat) (parts : List OPart) :
    Aside s (setUp s ms slots chain parts) := by
  unfold setUp
  split
  · refine (Aside.foldl (fun u i => ?_) _ s).trans
      ((Aside.foldl (fun _ _ => writeCore_aside _ _ _ _ _ _ _) _ _).trans (Aside.foldl (fun _ _ => kick_aside _ _) _ _))
    split
    · exact ensureCopies_aside _ _ _ _
    · exact Aside.refl u
  · exact Aside.refl s

end Sys2Proof.Machine
end

section
/-! PROOFS. The statement on descriptors: their reads, the refusal of a bad copy, and the admission of a good one
(05_host_link_and_registers.md R118; 08_jobs_and_dispatch.md R195 to R205, R210, Table 8-4). -/

namespace Sys2Proof.Machine

/-! ## Slots reserved, and HEAD -/

theorem reserve_eq (s : State) (r : Nat) : reserve s r = setRing s r { ring s r with reserved := (ring s r).reserved + 1 } := rfl

/-- A ring after HEAD has moved past its copy (R195, R196). -/
def headPast (g : Ring) : Ring :=
  { g with sqHead := (g.sqHead + 1) % 2 ^ g.log2, copy := none, held := false, reads := 0,
           stamps := match g.stamps with
             | x :: t => if x.1 = (g.sqHead + 1) % 2 ^ g.log2 then t else x :: t
             | [] => [] }

theorem advanceHead_eq (s : State) (r : Nat) : advanceHead s r = setRing s r (headPast (ring s r)) := rfl

/-! ## A second failed read (R199; log entry 67) -/

/-- With a slot free, the completion of a failed read reserves it and is posted. -/
theorem postReadFault_posts {s : State} {r : Nat} (hd : (ring s r).faultDue = true) (hf : slotFree (ring s r) = true) :
    Posted (reserve (setRing s r { ring s r with faultDue := false }) r) (postReadFault s r) r := by
  have h : ((ring s r).faultDue && slotFree (ring s r)) = true := by rw [hd, hf, Bool.and_self]
  unfold postReadFault
  dsimp only
  rw [← ring, if_pos h]
  exact postCompl_posted _ _ _ _

/-- Without a slot the completion stays due. -/
theorem postReadFault_waits {s : State} {r : Nat} (hf : slotFree (ring s r) = false) : postReadFault s r = s :=
  if_neg (by rw [← ring, hf]; simp)

/-! ## A refusal (R204) -/

theorem abortClaim_none {s : State} {r : Nat} (h : (ring s r).claim = none) : abortClaim s r = s := by
  unfold abortClaim
  dsimp only
  rw [← ring, h]

/-- The completion of a refused copy. -/
def refusal (s : State) (g : Ring) (d : Desc) (status detail : Nat) : Compl :=
  { status := status, sqIndex := g.sqHead, cookie := d.cookie, stamp := headStamp s g, detail := detail, irq := d.irq, tcid := d.tcid }

theorem refuseCopy_eq {s : State} {r : Nat} (h : (ring s r).claim = none) (d : Desc) (status detail : Nat) :
    refuseCopy s r d status detail = advanceHead (pageAdd (ctrAdd
      (postCompl (reserve s r) r (refusal s (ring s r) d status detail) true) 0x0010 1) d.tcid 2 1) r := by
  unfold refuseCopy
  rw [abortClaim_none h]
  rfl

/-- What a refusal of ring `r`'s copy leaves and makes. -/
structure Refused (s t : State) (r : Nat) : Prop where
  dsp : t.dsp = s.dsp
  store : t.store = s.store
  mem : t.mem = s.mem
  self : ring t r = headPast (ringPosted { ring s r with reserved := (ring s r).reserved + 1 })
  others : ∀ q, q ≠ r → ring t q = ring s q
  refusals : ctr t 0x10 = ctr s 0x10 + 1

theorem refuseCopy_refused {s : State} {r : Nat} (h : (ring s r).claim = none) (d : Desc) (status detail : Nat) :
    Refused s (refuseCopy s r d status detail) r := by
  rw [refuseCopy_eq h, reserve_eq, advanceHead_eq]
  have hpost := postCompl_posted (setRing s r { ring s r with reserved := (ring s r).reserved + 1 }) r
    (refusal s (ring s r) d status detail) true
  generalize postCompl _ _ _ _ = v at hpost
  have hpage := pageAdd_paged (ctrAdd v 0x0010 1) d.tcid 2 1
  generalize pageAdd _ _ _ _ = u at hpage
  have hself : ring u r = ringPosted { ring s r with reserved := (ring s r).reserved + 1 } := by
    have hv := hpost.ring_self
    rw [ring_setRing_self] at hv
    rw [hpage]
    exact hv
  have heq := hpost.eq
  constructor
  · rw [hpage, heq]; rfl
  · rw [hpage, heq]; rfl
  · rw [hpage, heq]; rfl
  · rw [ring_setRing_self, hself]
  · intro q hq
    have hv := hpost.ring_ne hq
    rw [ring_setRing_ne hq] at hv ⊢
    rw [hpage]
    exact hv
  · have hv := hpost.ctr_eq 0x10
    rw [if_neg (by decide)] at hv
    rw [hpage]
    exact (ctr_ctrAdd v 0x10 1).trans (congrArg (· + 1#64) (hv.trans (BitVec.add_zero _)))

/-- In D0 the refusal's bytes go out. -/
theorem refuseCopy_writes {s : State} {r : Nat} (h : (ring s r).claim = none) (hd : s.host.d3hot = false) (d : Desc) (status detail : Nat) :
    OutMsg.write ((ring s r).cqAddr + 32 * (ring s r).cqIdx) (complBytes s (ring s r) (refusal s (ring s r) d status detail))
      ∈ (refuseCopy s r d status detail).hostOut := by
  rw [refuseCopy_eq h]
  have hw := postCompl_writes (s := reserve s r) hd r (refusal s (ring s r) d status detail) true
  rw [reserve_eq] at hw ⊢
  rw [ring_setRing_self] at hw
  generalize postCompl _ _ _ _ = v at hw
  have hpage := pageAdd_paged (ctrAdd v 0x0010 1) d.tcid 2 1
  generalize pageAdd _ _ _ _ = u at hpage
  rw [hpage]
  exact hw

/-! ## The admission of one job (R205) -/

/-- `t` is `s` once candidate `m` is the job of a slot, with its ring's HEAD moved on and a completion slot reserved. -/
structure Admitted (s t : State) (m : Cand) (slot : Nat) (j : Job) : Prop where
  dsp : t.dsp = { s.dsp with jobs := tset s.dsp.jobs slot j, nextOrder := s.dsp.nextOrder + 1 }
  self : ring t m.ring = headPast { ring s m.ring with reserved := (ring s m.ring).reserved + 1 }
  admitted : ctr t 0x0 = ctr s 0x0 + 1

theorem admitOne_admits (s : State) (m : Cand) (slot : Nat) (chain : Tab Nat) (tag : Nat) (hc : (ring s m.ring).claim = none) :
    Admitted s (admitOne s m slot chain tag [] [] []) m slot (placeFrame s (jobOf s m slot chain tag [] [] []) 0) := by
  have hg : { ring s m.ring with claim := none } = ring s m.ring := by rw [← hc]
  unfold admitOne
  dsimp only
  generalize jobOf s m slot chain tag [] [] [] = j
  refine ⟨rfl, ?_, ctr_ctrAdd _ _ _⟩
  have hreserve (u : State) (hu : ring u m.ring = ring s m.ring) :
      ring (ctrAdd (reserve u m.ring) 0x0000 1) m.ring = { ring s m.ring with reserved := (ring s m.ring).reserved + 1 } := by
    rw [reserve_eq, hu]
    exact ring_setRing_self _ _ _
  rw [advanceHead_eq, ring_setRing_self]
  exact congrArg headPast (hreserve _ ((ring_setRing_self _ _ _).trans hg))

/-- What the set-up before and after an admission leaves alone keeps the admission. -/
theorem Admitted.between {s u v t : State} {m : Cand} {slot : Nat} {j : Job} (hu : Aside s u) (h : Admitted u v m slot j) (ht : Aside v t) :
    Admitted s t m slot j where
  dsp := by rw [ht.dsp, h.dsp, hu.dsp]
  self := by rw [ht.ring_eq, h.self, hu.ring_eq]
  admitted := by rw [ht.admitted, h.admitted, hu.admitted]

/-- A candidate alone takes one free slot, and its chain is set up. -/
theorem admitAll_solo (s : State) (m : Cand) (chain : Tab Nat) (tag : Nat) : ∃ slot, admitAll s [m] chain tag none [] =
    setUp (admitOne (leaveDoze s) m slot chain tag [] [] []) [m] [slot] chain [] := by
  unfold admitAll
  simp only [List.foldl_cons, List.foldl_nil, List.nil_append, List.length_singleton]
  generalize Option.getD _ 0 = slot
  exact ⟨slot, rfl⟩

/-- What the placing of a job's frame keeps of it. -/
structure SameJob (j j' : Job) : Prop where
  order : j'.order = j.order
  tcid : j'.tcid = j.tcid
  image : j'.image = j.image
  cookie : j'.cookie = j.cookie
  ring : j'.ring = j.ring
  sqIndex : j'.sqIndex = j.sqIndex
  chain : j'.chain = j.chain
  tag : j'.tag = j.tag
  quench : j'.quench = j.quench
  epoch : j'.epoch = j.epoch

theorem placeFrame_same (s : State) (j : Job) (k : Nat) : SameJob j (placeFrame s j k) := by
  unfold placeFrame
  split <;> constructor <;> rfl

/-- The admission of a candidate on a chain that check 15 has found: one job, named by the descriptor and the ring's HEAD. -/
theorem admitAll_admits {s u : State} (m : Cand) (chain : Tab Nat) (tag : Nat) (hu : Aside s u) (hc : (ring s m.ring).claim = none) :
    ∃ slot v, Aside s v ∧
      Admitted s (admitAll u [m] chain tag none []) m slot (placeFrame v (jobOf v m slot chain tag [] [] []) 0) := by
  obtain ⟨slot, heq⟩ := admitAll_solo u m chain tag
  have hv : Aside s (leaveDoze u) := hu.trans (leaveDoze_aside u)
  have hc' : (ring (leaveDoze u) m.ring).claim = none := by rw [hv.ring_eq, hc]
  rw [heq]
  exact ⟨slot, _, hv, (admitOne_admits _ m slot chain tag hc').between hv (setUp_aside _ _ _ _ _)⟩

/-! ## The checks (Table 8-4) -/

theorem groupOf_alone (s : State) (m : Cand) : groupOf s m [] = [m] := by
  unfold groupOf
  rw [List.foldl_nil, ite_self]
  rfl

/-- Check 15 of a candidate without partners or remote parts, for which a chain is found. -/
theorem check15_alone {s u : State} {m : Cand} {chain : Tab Nat} {tag : Nat} {joined : Bool} (hc : (ring s m.ring).claim = none)
    (hp : partsOf m = []) (ha : assign s [m] s.dsp.nextOrder = .chain u chain tag joined) :
    check15 s m [] = admitAll u [m] chain tag none [] := by
  unfold check15
  rw [hc, groupOf_alone]
  dsimp only
  rw [if_pos List.length_singleton, ha, hp]
  rfl

/-- The checks before 15 pass for the copy `d` of ring `r`, whose candidate is `m`. -/
structure PassesChecks (s : State) (r : Nat) (d : Desc) (m : Cand) : Prop where
  epoch : d.epoch = (ring s r).epoch
  tenant : tenantActive s d.tcid = true
  kind : d.kind ≠ kStop
  image : chkImage s d = .pass
  checks : chkAdmit s (ring s r) d = .pass
  cand : candOf s r d d.exts = some m

theorem afterFields_passes {s : State} {r : Nat} {d : Desc} {m : Cand} (h : PassesChecks s r d m) (ps : List Nat) :
    afterFields s r d ps = check15 s m ps := by
  obtain ⟨he, ht, hk, hi, ha, hcand⟩ := h
  unfold afterFields
  dsimp only
  rw [if_neg (by simp [he]), if_pos he, if_neg (by simp [ht]), if_neg hk, hi, Chk.andThen, ha, hcand]

/-- A candidate is of the ring and the descriptor that it was made from. -/
theorem candOf_some {s : State} {r : Nat} {d : Desc} {exts : List Nat} {m : Cand} (h : candOf s r d exts = some m) :
    m.ring = r ∧ m.d = d := by
  unfold candOf at h
  split at h
  · cases h
  · obtain ⟨p, -, rfl⟩ := Option.map_eq_some_iff.mp h
    exact ⟨rfl, rfl⟩

/-- The tray once a turn has passed on from ring `r` (R197). -/
def turnPassed (s : State) (r : Nat) : State := { s with dsp.turn := (r + 1) % 256 }

theorem execAdmissionCheck_notTurn {s : State} {r : RingId} (ps : List RingId) (h : nextTurn s ≠ some r.val) :
    execAdmissionCheck r ps s = .next s := by
  unfold execAdmissionCheck
  dsimp only
  rw [if_pos (by simp [h])]

/-- Ring `r` has the turn, with copy `d` and a completion slot free. -/
structure Turn (s : State) (r : RingId) (d : Desc) : Prop where
  up : domainsUp s = true
  turn : nextTurn s = some r.val
  copy : copyOf (ring s r.val) = some d
  slot : slotFree (ring s r.val) = true

theorem execAdmissionCheck_turn {s : State} {r : RingId} {d : Desc} (h : Turn s r d) (ps : List RingId) : execAdmissionCheck r ps s =
    match chkFields (ring s r.val) d with
    | .pass => .next (afterFields (turnPassed s r.val) r.val d (ps.map (·.val)))
    | _ => .next (refuseCopy (turnPassed s r.val) r.val d 0x0102 0) := by
  obtain ⟨hu, ht, hcopy, hs⟩ := h
  unfold execAdmissionCheck
  dsimp only
  rw [if_neg (by simp [hu, ht]), hcopy]
  dsimp only
  rw [if_neg (by simp [hs])]
  rfl

theorem execAdmissionCheck_badFields {s : State} {r : RingId} {d : Desc} (h : Turn s r d) (ps : List RingId)
    (hf : chkFields (ring s r.val) d ≠ .pass) :
    execAdmissionCheck r ps s = .next (refuseCopy (turnPassed s r.val) r.val d 0x0102 0) := by
  rw [execAdmissionCheck_turn h]
  split
  · next hpass => exact absurd hpass hf
  · rfl

/-! ## The statement, clause by clause -/

section
variable {s : State} {r : RingId}

/-- A read that is answered keeps the descriptor's words, and changes its ring alone (R195). -/
theorem descriptorRead_keeps (h : ReadDue s r.val) (w0 w1 w2 w3 w4 w5 w6 w7 : Word) :
    Completes (.descriptorRead r (.ok w0 w1 w2 w3 w4 w5 w6 w7)) s (fun t =>
      (ring t r.val).copy = some [w0, w1, w2, w3, w4, w5, w6, w7] ∧ (ring t r.val).sqHead = (ring s r.val).sqHead ∧
      (∀ q, q ≠ r.val → ring t q = ring s q) ∧ t = { s with rings := t.rings }) := by
  refine ⟨_, execDescriptorRead_ok h w0 w1 w2 w3 w4 w5 w6 w7, ?_⟩
  simp only [ring_setRing_self, true_and]
  exact ⟨fun q hq => ring_setRing_ne hq _ _, rfl⟩

/-- A first failure is reported, and the read is due again (R118, R199). -/
theorem descriptorRead_retries (h : ReadDue s r.val) {bad : DescRead} (hb : bad = .timeout ∨ bad = .poisoned)
    (hr : (ring s r.val).reads = 0) : Completes (.descriptorRead r bad) s (fun t => readErr bad ∈ t.host.cfg.aerStatus ∧
      (ring t r.val).reads = 1 ∧ (ring t r.val).stopped = false ∧
      t = { s with rings := t.rings, host.cfg := t.host.cfg, hostOut := t.hostOut }) := by
  refine ⟨_, execDescriptorRead_retries h hb hr, ?_⟩
  obtain ⟨heq, hmem⟩ := aerAdvisory_reported h.d0 (readErr bad)
  generalize aerAdvisory s (readErr bad) = u at heq hmem
  rw [ring_setRing_self]
  refine ⟨hmem, rfl, h.stopped, ?_⟩
  rw [heq]
  rfl

/-- A second failure is reported and stops the ring, with a completion once a slot is free (R118, R199). -/
theorem descriptorRead_stops (h : ReadDue s r.val) {bad : DescRead} (hb : bad = .timeout ∨ bad = .poisoned)
    (hr : (ring s r.val).reads ≠ 0) : Completes (.descriptorRead r bad) s (fun t => readErr bad ∈ t.host.cfg.aerStatus ∧
      (ring t r.val).stopped = true ∧ (ring t r.val).stopCause = 0x0212 ∧
      (slotFree (ring s r.val) = true → (ring t r.val).faultDue = false ∧ ctr t 0x8 = ctr s 0x8 + 1) ∧
      (slotFree (ring s r.val) = false → (ring t r.val).faultDue = true)) := by
  refine ⟨_, execDescriptorRead_stops h hb hr, ?_⟩
  obtain ⟨heq, hmem⟩ := aerReport_reported h.d0 (readErr bad)
  have hctr : ctr (aerReport s (readErr bad)) 0x8 = ctr s 0x8 := by rw [heq]; rfl
  generalize aerReport s (readErr bad) = u at hmem hctr
  have hring := ring_setRing_self u r.val (ringStopped (ring s r.val))
  cases hf : slotFree (ring s r.val) with
  | false =>
    rw [postReadFault_waits (by rw [hring]; exact hf), hring]
    exact ⟨hmem, rfl, rfl, nofun, fun _ => rfl⟩
  | true =>
    have hpost := postReadFault_posts (s := setRing u r.val (ringStopped (ring s r.val))) (by rw [hring]; rfl) (by rw [hring]; exact hf)
    have hself := hpost.ring_self
    have hcount := hpost.ctr_eq 0x8
    rw [reserve_eq, ring_setRing_self, ring_setRing_self, hring] at hself
    rw [hself]
    refine ⟨?_, rfl, rfl, fun _ => ⟨rfl, ?_⟩, nofun⟩
    · rw [hpost.eq]
      exact hmem
    · rw [hcount, if_pos rfl, ← hctr]
      rfl

/-- A bad copy ends in one completion with INVALID_FIELD, and HEAD moves on (R204). -/
theorem admissionCheck_refuses {d : Desc} (h : Turn s r d) (ps : List RingId) (hf : chkFields (ring s r.val) d ≠ .pass)
    (hc : (ring s r.val).claim = none) : Completes (.admissionCheck r ps) s (fun t =>
      (ring t r.val).sqHead = ((ring s r.val).sqHead + 1) % 2 ^ (ring s r.val).log2 ∧ (ring t r.val).copy = none ∧
      (ring t r.val).cqIdx = ((ring s r.val).cqIdx + 1) % 2 ^ (ring s r.val).log2 ∧ ctr t 0x10 = ctr s 0x10 + 1 ∧
      t.dsp = (turnPassed s r.val).dsp ∧ (∀ q, q ≠ r.val → ring t q = ring s q) ∧ t.store = s.store ∧ t.mem = s.mem ∧
      (s.host.d3hot = false →
        OutMsg.write ((ring s r.val).cqAddr + 32 * (ring s r.val).cqIdx)
          (complBytes s (ring s r.val) (refusal s (ring s r.val) d 0x0102 0)) ∈ t.hostOut)) := by
  have href := refuseCopy_refused (s := turnPassed s r.val) hc d 0x0102 0
  have hself := href.self
  refine ⟨_, execAdmissionCheck_badFields h ps hf, ?_, ?_, ?_, href.refusals, href.dsp, href.others, href.store, href.mem,
    fun hd => refuseCopy_writes (s := turnPassed s r.val) hc hd d 0x0102 0⟩
  · rw [hself]; rfl
  · rw [hself]; rfl
  · rw [hself]; rfl

/-- A good copy becomes one job on the chain that check 15 finds (R203, R205). -/
theorem admissionCheck_admits {d : Desc} {m : Cand} {u : State} {chain : Tab Nat} {tag : Nat} {joined : Bool} (h : Turn s r d)
    (hf : chkFields (ring s r.val) d = .pass) (hm : PassesChecks (turnPassed s r.val) r.val d m) (hc : (ring s r.val).claim = none)
    (hp : partsOf m = []) (ha : assign (turnPassed s r.val) [m] s.dsp.nextOrder = .chain u chain tag joined) :
    Completes (.admissionCheck r []) s (fun t => ∃ slot j, tget t.dsp.jobs slot = some j ∧ j.order = s.dsp.nextOrder ∧
      j.tcid = d.tcid ∧ j.image = d.image ∧ j.cookie = d.cookie ∧ j.ring = r.val ∧ j.sqIndex = (ring s r.val).sqHead ∧ j.chain = chain ∧
      j.tag = tag ∧ j.quench = none ∧ j.epoch = (ring s r.val).epoch ∧ (∀ i, i ≠ slot → tget t.dsp.jobs i = tget s.dsp.jobs i) ∧
      t.dsp.nextOrder = s.dsp.nextOrder + 1 ∧ (ring t r.val).sqHead = ((ring s r.val).sqHead + 1) % 2 ^ (ring s r.val).log2 ∧
      (ring t r.val).copy = none ∧ (ring t r.val).reserved = (ring s r.val).reserved + 1 ∧ ctr t 0x0 = ctr s 0x0 + 1) := by
  obtain ⟨hmr, hmd⟩ := candOf_some hm.cand
  have hc' : (ring (turnPassed s r.val) m.ring).claim = none := by rw [hmr]; exact hc
  have hexec : execAdmissionCheck r [] s = .next (admitAll u [m] chain tag none []) := by
    rw [execAdmissionCheck_turn h, hf, List.map_nil]
    dsimp only
    rw [afterFields_passes hm, check15_alone hc' hp ha]
  obtain ⟨slot, v, hv, hdsp, hself, hadmitted⟩ := admitAll_admits m chain tag (assign_aside ha) hc'
  obtain ⟨horder, htcid, himage, hcookie, hring, hsq, hchain, htag, hquench, hepoch⟩ :=
    placeFrame_same v (jobOf v m slot chain tag [] [] []) 0
  generalize placeFrame v _ 0 = j at *
  have hvring : ring v m.ring = ring s r.val := by rw [hv.ring_eq, hmr]; rfl
  rw [hmr] at hself
  have hjobs (i : Nat) : tget (admitAll u [m] chain tag none []).dsp.jobs i = if slot = i then some j else tget s.dsp.jobs i := by
    rw [hdsp]
    exact tget_tset _ _ _ _
  refine ⟨_, hexec, slot, j, by rw [hjobs, if_pos rfl], horder.trans (by rw [jobOf, hv.dsp]; rfl), htcid.trans (congrArg Desc.tcid hmd),
    himage.trans (congrArg Desc.image hmd), hcookie.trans (congrArg Desc.cookie hmd), hring.trans hmr,
    hsq.trans (congrArg Ring.sqHead hvring), hchain, htag, hquench, hepoch.trans (congrArg Ring.epoch hvring),
    fun i hi => by rw [hjobs, if_neg (Ne.symm hi)], by rw [hdsp]; rfl, ?_, ?_, ?_, hadmitted⟩
  · rw [hself]; rfl
  · rw [hself]; rfl
  · rw [hself]; rfl

end

/-- Settles O32. A timeout and a poisoned completion count as the first and the second failure of one read (log entry 50). -/
theorem descriptorsAreReadCheckedAndAdmitted : Obligations.DescriptorsAreReadCheckedAndAdmitted := by
  intro s r hu hcfg hdes
  refine ⟨fun hd hs hcopy hspan => ⟨fun w0 w1 w2 w3 w4 w5 w6 w7 => ?_, fun bad hb => ?_⟩, fun ps ht => execAdmissionCheck_notTurn ps ht,
    fun d ps ht hcopy hslot hf hc => admissionCheck_refuses ⟨hu, ht, hcopy, hslot⟩ ps hf hc,
    fun d m u chain tag joined ht hcopy hslot hf he hten hk hi hadm hcand hc hp ha =>
      admissionCheck_admits ⟨hu, ht, hcopy, hslot⟩ hf ⟨he, hten, hk, hi, hadm, hcand⟩ hc hp ha⟩
  · exact descriptorRead_keeps ⟨hu, hd, hcfg, hdes, hs, hcopy, hspan⟩ w0 w1 w2 w3 w4 w5 w6 w7
  · have due : ReadDue s r.val := ⟨hu, hd, hcfg, hdes, hs, hcopy, hspan⟩
    by_cases hr : (ring s r.val).reads = 0
    · obtain ⟨t, ht, herr, hreads⟩ := descriptorRead_retries due hb hr
      exact ⟨t, ht, herr, fun _ => hreads, fun hne => absurd hr hne⟩
    · obtain ⟨t, ht, herr, hstop⟩ := descriptorRead_stops due hb hr
      exact ⟨t, ht, herr, fun h0 => absurd h0 hr, fun _ => hstop⟩

end Sys2Proof.Machine
end

section
/-! PROOFS. What space returned to the event queue does with its backlog, and the statement on it (06_mailboxes.md R152, R154, R155). -/

namespace Sys2Proof.Machine

/-! ## One record of the event queue (R154) -/

/-- `t` is `s` with these messages sent up the link, but for the pending bits of masked vectors. -/
def SentMore (s t : State) (ms : List OutMsg) : Prop := t = { s with host.pba := t.host.pba, hostOut := s.hostOut ++ ms }

/-- A vector raised in D0 sends its message, or none while it is off or masked (R136). -/
theorem raiseMsix_sentMore {s : State} (hd : s.host.d3hot = false) (v : Nat) :
    ∃ more, SentMore s (raiseMsix s v) more ∧ (more = [] ∨ more = [vectorMsg s v]) := by
  have hnone (pba : List Nat) : SentMore s { s with host.pba := pba } [] := by
    rw [SentMore, List.append_nil]
  unfold raiseMsix
  split
  · exact ⟨[], hnone s.host.pba, .inl rfl⟩
  · split
    · refine ⟨[], ?_, .inl rfl⟩
      split
      · exact hnone s.host.pba
      · exact hnone _
    · refine ⟨[vectorMsg s v], ?_, .inr rfl⟩
      rw [sendMsix, send_d0 hd]
      rfl

/-- The state in which a record has been written at TAIL, before vector 1 is raised. -/
def recordWritten (s : State) (e : EvRec) : State :=
  { s with
    mbx := { s.mbx with evqTail := (s.mbx.evqTail + 1) % 4096,
                        evqPhase := if s.mbx.evqTail = 4095 then !s.mbx.evqPhase else s.mbx.evqPhase }
    hostOut := s.hostOut ++ [OutMsg.write (s.mbx.evqBase + 32 * s.mbx.evqTail) (evBytes e s.mbx.evqPhase)] }

theorem evqWrite_d0 {s : State} (hd : s.host.d3hot = false) (e : EvRec) : evqWrite s e = raiseMsix (recordWritten s e) 1 := by
  unfold evqWrite hostWrite
  rw [send_d0 hd]
  rfl

/-! ## Space that returns (R155) -/

/-- The queue is full at 4,095 unconsumed records: when the index after TAIL is HEAD. -/
theorem evqSpace_of_ne {s : State} (he : s.mbx.evqEnable = true) (hh : s.mbx.evqHead < 4096)
    (hne : (s.mbx.evqTail + 1) % 4096 ≠ s.mbx.evqHead) : evqSpace s = true := by
  simp only [evqSpace, he, Bool.true_and, decide_eq_true_eq]
  omega

theorem evqDrain_empty (n : Nat) {s : State} (hb : s.mbx.backlog = []) : evqDrain n s = s := by
  cases n with
  | zero => rfl
  | succ n => rw [evqDrain, hb]

/-- A backlog of one record is written whole. -/
theorem evqSpaceReturned_one {s : State} {e : EvRec} (hs : evqSpace s = true) (hb : s.mbx.backlog = [e]) (hd : s.mbx.drops = 0) :
    evqSpaceReturned s = evqWrite { s with mbx.backlog := [] } e := by
  have hempty : (evqWrite { s with mbx.backlog := [] } e).mbx.backlog = [] := by
    unfold evqWrite
    rw [raiseMsix_mbx, hostWrite, send]
    split <;> rfl
  rw [evqSpaceReturned, if_pos hs, if_pos hd, evqDrain, hb]
  dsimp only
  rw [if_pos hs, evqDrain_empty _ hempty]

/-- Settles O16: the write of HEAD returns space, and the one record of the backlog is written at TAIL. -/
theorem eventQueueDrainsInOrder : Obligations.EventQueueDrainsInOrder := by
  unfold Obligations.EventQueueDrainsInOrder
  intro s v e hs hr hb hdrop he _ hne
  have hd := d0_of_barServes hs
  have hspace : evqSpace { s with mbx.evqHead := v.toNat % 4096 } = true := evqSpace_of_ne he (Nat.mod_lt _ (by decide)) hne
  have hdrain : evqSpaceReturned { s with mbx.evqHead := v.toNat % 4096 } =
      raiseMsix (recordWritten { s with mbx := { s.mbx with evqHead := v.toNat % 4096, backlog := [] } } e) 1 :=
    (evqSpaceReturned_one hspace hb hdrop).trans (evqWrite_d0 (by exact hd) e)
  refine ⟨_, execMbxEvqHeadWrite_takes hs hr v, ?_⟩
  obtain ⟨more, hsent, hmore⟩ := raiseMsix_sentMore
    (s := recordWritten { s with mbx := { s.mbx with evqHead := v.toNat % 4096, backlog := [] } } e) hd 1
  rw [hdrain, hsent]
  exact ⟨rfl, rfl, rfl, rfl, ⟨more, rfl, hmore⟩, rfl⟩

end Sys2Proof.Machine
end

section
/-! PROOFS. What MBX_DOORBELL and MBX_DONE_CLEAR do to each slot that their mask names, CMD_TIMEOUT's answer, and the statement on the
three (06_mailboxes.md R141 to R146, R150). -/

namespace Sys2Proof.Machine

/-! ## The slots of a mask -/

/-- The slots whose bits a mask has set, in rising order (R145). -/
def namedSlots (mask : W32) : List SlotId := (List.finRange 32).filter (fun k => mask.getLsbD k.val)

theorem mem_namedSlots {mask : W32} {k : SlotId} : k ∈ namedSlots mask ↔ mask.getLsbD k.val = true := by
  simp [namedSlots]

theorem nodup_namedSlots (mask : W32) : (namedSlots mask).Nodup := (List.nodup_finRange 32).filter _

theorem maskBits_eq (mask : W32) : maskBits mask.toNat 32 = (namedSlots mask).map Fin.val := by
  have hbit : bitAt mask.toNat = mask.getLsbD := by
    funext i
    rw [BitVec.getLsbD, Nat.testBit_eq_decide_div_mod_eq, bitAt, Nat.shiftRight_eq_div_pow]
  rw [maskBits, namedSlots, hbit, ← List.map_coe_finRange_eq_range, List.filter_map]
  rfl

theorem foldl_maskBits (mask : W32) (f : State → Nat → State) (s : State) :
    (maskBits mask.toNat 32).foldl f s = (namedSlots mask).foldl (fun s k => f s k.val) s := by
  rw [maskBits_eq, List.foldl_map]

theorem getLsbD_slotBit (k j : SlotId) : (1#32 <<< k.val).getLsbD j.val = decide (j = k) := by
  have h := BitVec.getLsbD_twoPow (w := 32) k.val j.val
  rw [BitVec.twoPow] at h
  rw [h]
  simp [Fin.ext_iff, eq_comm]

theorem getLsbD_setSlot (x : W32) (k j : SlotId) : (x ||| 1#32 <<< k.val).getLsbD j.val = (x.getLsbD j.val || decide (j = k)) := by
  rw [BitVec.getLsbD_or, getLsbD_slotBit]

theorem getLsbD_clearSlot (x : W32) (k j : SlotId) :
    (x &&& ~~~(1#32 <<< k.val)).getLsbD j.val = (x.getLsbD j.val && !decide (j = k)) := by
  rw [BitVec.getLsbD_and, BitVec.getLsbD_not, getLsbD_slotBit, decide_eq_true j.isLt, Bool.true_and]

/-! ## What a step leaves of a slot -/

/-- Slot `j` stands in `t` as it does in `s`: its bits, its bytes and its request. -/
structure SlotKept (s t : State) (j : SlotId) : Prop where
  own : t.mbx.own.getLsbD j.val = s.mbx.own.getLsbD j.val
  done : t.mbx.done.getLsbD j.val = s.mbx.done.getLsbD j.val
  slot : tget t.mbx.slots j.val = tget s.mbx.slots j.val
  req : tget t.mbx.reqs j.val = tget s.mbx.reqs j.val

theorem SlotKept.refl (s : State) (j : SlotId) : SlotKept s s j := ⟨rfl, rfl, rfl, rfl⟩

theorem SlotKept.trans {a b c : State} {j : SlotId} (h : SlotKept a b j) (g : SlotKept b c j) : SlotKept a c j :=
  ⟨g.own.trans h.own, g.done.trans h.done, g.slot.trans h.slot, g.req.trans h.req⟩

theorem SlotKept.bytes {s t : State} {j : SlotId} (h : SlotKept s t j) : slotBytes t j.val = slotBytes s j.val := by
  rw [slotBytes, slotBytes, tgetD, tgetD, h.slot]

theorem SlotKept.isHost {s t : State} {j : SlotId} (h : SlotKept s t j) : slotIsHost t j.val = slotIsHost s j.val := by
  rw [slotIsHost, slotIsHost, h.own, h.done]

/-- Slot `k` holds a response of this status (R142). -/
structure InDone (t : State) (k : SlotId) (status : Nat) : Prop where
  own : t.mbx.own.getLsbD k.val = false
  done : t.mbx.done.getLsbD k.val = true
  status : leAt (slotBytes t k.val) 8 2 = status

theorem InDone.kept {s t : State} {k : SlotId} {status : Nat} (h : InDone s k status) (g : SlotKept s t k) : InDone t k status :=
  ⟨g.own.trans h.own, g.done.trans h.done, by rw [g.bytes, h.status]⟩

/-- Swifort holds the request `r` of slot `k` (R142). -/
structure InFw (t : State) (k : SlotId) (r : Req) : Prop where
  own : t.mbx.own.getLsbD k.val = true
  done : t.mbx.done.getLsbD k.val = false
  req : tget t.mbx.reqs k.val = some r

theorem InFw.kept {s t : State} {k : SlotId} {r : Req} (h : InFw s k r) (g : SlotKept s t k) : InFw t k r :=
  ⟨g.own.trans h.own, g.done.trans h.done, g.req.trans h.req⟩

/-- `t` is `s` but for what the submission of slots changes; flags of SYS_ERR stay set, and later requests take later places in the
order of acceptance. -/
structure Submitted (s t : State) : Prop where
  eq : t = { s with mbx := t.mbx, host := t.host, hostOut := t.hostOut, pwr.idleTicks := t.pwr.idleTicks,
                    pwr.mgtMhz := t.pwr.mgtMhz, obs.ctr := t.obs.ctr }
  flags : ∀ i, s.host.sysErr.getLsbD i = true → t.host.sysErr.getLsbD i = true
  order : s.mbx.nextOrder ≤ t.mbx.nextOrder

theorem Submitted.refl (s : State) : Submitted s s := ⟨rfl, fun _ h => h, Nat.le_refl _⟩

theorem Submitted.trans {a b c : State} (h : Submitted a b) (g : Submitted b c) : Submitted a c :=
  ⟨by rw [g.eq, h.eq], fun i hi => g.flags i (h.flags i hi), Nat.le_trans h.order g.order⟩

theorem Submitted.fwUp {s t : State} (h : Submitted s t) : fwUp t = fwUp s := by
  rw [h.eq]
  rfl

/-! ## A request that is answered at once, and one that is held (R144 to R146) -/

/-- The slot whose doorbell bit has been written is Swifort's (R141). -/
def owned (s : State) (k : SlotId) : State := { s with mbx.own := s.mbx.own ||| (1#32 <<< k.val) }

/-- `t` is `s` with the submission of slot `k` answered with this status; a counter may have counted the refusal (R576). -/
def TurnedAway (s t : State) (k : SlotId) (status : Nat) : Prop :=
  ∃ counters r, Answered { (owned s k) with obs.ctr := counters } t k r status []

/-- `t` is `s` with the request in slot `k` held; the command's start waits for its turn (R145). -/
def Holds (s t : State) (k : SlotId) : Prop :=
  t = { (owned s k) with
    mbx := { (owned s k).mbx with reqs := tset s.mbx.reqs k.val (reqOf (slotBytes s k.val) s.mbx.nextOrder),
                                  nextOrder := s.mbx.nextOrder + 1, placeWait := t.mbx.placeWait }
    pwr.idleTicks := t.pwr.idleTicks, pwr.mgtMhz := t.pwr.mgtMhz }

theorem slotIsHost_iff {s : State} {k : Nat} :
    slotIsHost s k = true ↔ s.mbx.own.getLsbD k = false ∧ s.mbx.done.getLsbD k = false := by
  simp [slotIsHost]

theorem TurnedAway.inDone {s t : State} {k : SlotId} {status : Nat} (h : TurnedAway s t k status) (hs : status < 2 ^ 16) :
    InDone t k status := by
  obtain ⟨counters, r, ha⟩ := h
  have hstatus : leAt (slotBytes t k.val) 8 2 = status := by
    rw [ha.leAt_slot (by decide) (by decide), leAt_status, Nat.mod_eq_of_lt hs]
  obtain ⟨-, -, hdone, hown, -⟩ := ha
  refine ⟨?_, ?_, hstatus⟩
  · rw [hown, getLsbD_clearSlot, decide_eq_true rfl, Bool.not_true, Bool.and_false]
  · rw [hdone, getLsbD_setSlot, decide_eq_true rfl, Bool.or_true]

theorem TurnedAway.slotKept {s t : State} {k j : SlotId} {status : Nat} (h : TurnedAway s t k status) (hj : j ≠ k) :
    SlotKept s t j := by
  obtain ⟨counters, r, -, hslots, hdone, hown, hreqs, -⟩ := h
  have hval : k.val ≠ j.val := fun e => hj (Fin.ext e.symm)
  refine ⟨?_, ?_, hslots j.val hval.symm, ?_⟩
  · rw [hown, owned, getLsbD_clearSlot, getLsbD_setSlot, decide_eq_false hj, Bool.or_false, Bool.not_false, Bool.and_true]
  · rw [hdone, getLsbD_setSlot, decide_eq_false hj, Bool.or_false]
    rfl
  · rw [hreqs, tget_tdel, if_neg hval]
    rfl

theorem TurnedAway.submitted {s t : State} {k : SlotId} {status : Nat} (h : TurnedAway s t k status) : Submitted s t := by
  obtain ⟨counters, r, -, -, -, -, -, -, -, -, -, -, heq⟩ := h
  refine ⟨by rw [heq]; rfl, fun i hi => ?_, ?_⟩
  · rw [heq]
    exact hi
  · rw [heq]
    exact Nat.le_refl _

theorem Holds.inFw {s t : State} {k : SlotId} (h : Holds s t k) (hd : s.mbx.done.getLsbD k.val = false) :
    InFw t k (reqOf (slotBytes s k.val) s.mbx.nextOrder) := by
  refine ⟨?_, ?_, ?_⟩
  · rw [h]
    exact (getLsbD_setSlot _ k k).trans (by simp)
  · rw [h]
    exact hd
  · rw [h]
    exact (tget_tset _ _ _ _).trans (if_pos rfl)

theorem Holds.nextOrder {s t : State} {k : SlotId} (h : Holds s t k) : t.mbx.nextOrder = s.mbx.nextOrder + 1 := by rw [h]

theorem Holds.slotKept {s t : State} {k j : SlotId} (h : Holds s t k) (hj : j ≠ k) : SlotKept s t j := by
  refine ⟨?_, ?_, ?_, ?_⟩
  · rw [h]
    exact (getLsbD_setSlot _ k j).trans (by simp [hj])
  · rw [h]
    rfl
  · rw [h]
    rfl
  · rw [h]
    exact (tget_tset _ _ _ _).trans (if_neg fun e => hj (Fin.ext e.symm))

theorem Holds.submitted {s t : State} {k : SlotId} (h : Holds s t k) : Submitted s t := by
  refine ⟨by rw [h]; rfl, fun i hi => ?_, ?_⟩
  · rw [h]
    exact hi
  · rw [h.nextOrder]
    exact Nat.le_succ _

/-! ## One doorbell bit -/

theorem respond_turnedAway (s : State) (k : SlotId) (r : Req) (status : Nat) :
    TurnedAway s (respond (owned s k) k.val r status []) k status := ⟨s.obs.ctr, r, answered_respond _ _ _ _ _⟩

/-- A firmware command that comes during another is refused by check 2 or 3 of R159, or is answered FW_BUSY (R146). -/
theorem fwBusyAnswer_turnedAway (s : State) (k : SlotId) (r : Req) :
    ∃ status ∈ [0x0102, 0x0106, 0x0143], TurnedAway s (fwBusyAnswer (owned s k) k.val r) k status := by
  unfold fwBusyAnswer
  extract_lets fields writes
  split
  · exact ⟨0x0102, by decide, respond_turnedAway s k r _⟩
  · split
    · exact ⟨0x0106, by decide, _, r, answered_respond (ctrAdd (owned s k) 0x800 1) k r 0x0106 []⟩
    · exact ⟨0x0143, by decide, respond_turnedAway s k r _⟩

theorem headerStatus_lt {bs : List Byte} {status : Nat} (h : headerStatus bs = some status) : status < 2 ^ 16 := by
  unfold headerStatus at h
  split at h
  · cases h
    decide
  · split at h
    · cases h
      decide
    · split at h
      · cases h
        decide
      · cases h

/-- A bit of a slot that is not in HOST acts on no slot (R143). -/
theorem submitSlot_notHost {s : State} {k : Nat} (h : slotIsHost s k = false) : submitSlot s k = sysErr s invwrMbx :=
  if_neg (by simp [h])

/-- Swifort, while it runs, takes a slot in HOST. -/
theorem submitSlot_host {s : State} {k : SlotId} (hf : fwUp s = true) (h : slotIsHost s k.val = true) :
    submitSlot s k.val = takeSlot (owned s k) k.val := by
  unfold submitSlot
  rw [if_pos h]
  exact if_pos hf

/-- A request whose header fails is answered with the status of its check (R144). -/
theorem takeSlot_refuses {s : State} {k : SlotId} {status : Nat} (h : headerStatus (slotBytes s k.val) = some status) :
    TurnedAway s (takeSlot (owned s k) k.val) k status := by
  have hown : headerStatus (slotBytes (owned s k) k.val) = some status := h
  unfold takeSlot
  rw [hown]
  exact respond_turnedAway s k _ status

theorem takeSlot_busy {s : State} {k : SlotId} (h : headerStatus (slotBytes s k.val) = none)
    (hop : isFwOp (leAt (slotBytes s k.val) 0 2) = true) (hu : fwUnderWay s = true) :
    ∃ status ∈ [0x0102, 0x0106, 0x0143], TurnedAway s (takeSlot (owned s k) k.val) k status := by
  have hown : headerStatus (slotBytes (owned s k) k.val) = none := h
  unfold takeSlot
  rw [hown]
  dsimp only
  rw [if_pos (by exact Bool.and_eq_true_iff.mpr ⟨hop, hu⟩)]
  exact fwBusyAnswer_turnedAway s k _

theorem takeSlot_holds {s : State} {k : SlotId} (h : headerStatus (slotBytes s k.val) = none)
    (hop : (isFwOp (leAt (slotBytes s k.val) 0 2) && fwUnderWay s) = false) : Holds s (takeSlot (owned s k) k.val) k := by
  have hown : headerStatus (slotBytes (owned s k) k.val) = none := h
  unfold takeSlot
  rw [hown]
  dsimp only
  rw [if_neg (by exact Bool.eq_false_iff.mp hop), settleMgt_eq]
  rfl

/-- What a doorbell bit does while Swifort runs. -/
theorem submitSlot_cases {s : State} (hf : fwUp s = true) (k : SlotId) :
    (slotIsHost s k.val = false ∧ submitSlot s k.val = sysErr s invwrMbx) ∨
    (slotIsHost s k.val = true ∧ ((∃ status, TurnedAway s (submitSlot s k.val) k status) ∨ Holds s (submitSlot s k.val) k)) := by
  cases hh : slotIsHost s k.val with
  | false => exact .inl ⟨rfl, submitSlot_notHost hh⟩
  | true =>
    refine .inr ⟨rfl, ?_⟩
    rw [submitSlot_host hf hh]
    cases hst : headerStatus (slotBytes s k.val) with
    | some status => exact .inl ⟨status, takeSlot_refuses hst⟩
    | none =>
      cases hop : isFwOp (leAt (slotBytes s k.val) 0 2) && fwUnderWay s with
      | false => exact .inr (takeSlot_holds hst hop)
      | true =>
        obtain ⟨hfw, hu⟩ := Bool.and_eq_true_iff.mp hop
        obtain ⟨status, -, ht⟩ := takeSlot_busy hst hfw hu
        exact .inl ⟨status, ht⟩

theorem sysErr_submitted (s : State) (bit : Nat) : Submitted s (sysErr s bit) :=
  ⟨rfl, fun i hi => by simp [sysErr, BitVec.getLsbD_or, hi], Nat.le_refl _⟩

theorem submitSlot_submitted {s : State} (hf : fwUp s = true) (k : SlotId) : Submitted s (submitSlot s k.val) := by
  rcases submitSlot_cases hf k with ⟨-, he⟩ | ⟨-, ⟨_, ht⟩ | hh⟩
  · rw [he]
    exact sysErr_submitted s _
  · exact ht.submitted
  · exact hh.submitted

/-- A doorbell bit leaves every other slot, and its own one where that is not in HOST. -/
theorem submitSlot_slotKept {s : State} (hf : fwUp s = true) {k j : SlotId} (h : j ≠ k ∨ slotIsHost s j.val = false) :
    SlotKept s (submitSlot s k.val) j := by
  rcases submitSlot_cases hf k with ⟨-, he⟩ | ⟨hhost, hcase⟩
  · rw [he]
    exact ⟨rfl, rfl, rfl, rfl⟩
  · have hj : j ≠ k := by
      rintro rfl
      simp [hhost] at h
    rcases hcase with ⟨_, ht⟩ | hh
    · exact ht.slotKept hj
    · exact hh.slotKept hj

/-! ## The bits of one write, in rising order (R145) -/

/-- The submission of slots one after the other. -/
def submitSlots (s : State) (l : List SlotId) : State := l.foldl (fun s k => submitSlot s k.val) s

theorem submitSlots_submitted {s : State} (hf : fwUp s = true) (l : List SlotId) : Submitted s (submitSlots s l) := by
  induction l generalizing s with
  | nil => exact Submitted.refl s
  | cons k l ih =>
    have hk := submitSlot_submitted hf k
    exact hk.trans (ih (hk.fwUp.trans hf))

theorem submitSlots_slotKept {s : State} (hf : fwUp s = true) {l : List SlotId} {j : SlotId} (h : j ∉ l ∨ slotIsHost s j.val = false) :
    SlotKept s (submitSlots s l) j := by
  induction l generalizing s with
  | nil => exact SlotKept.refl s j
  | cons k l ih =>
    have hkept : SlotKept s (submitSlot s k.val) j :=
      submitSlot_slotKept hf (h.imp_left fun hn => List.ne_of_not_mem_cons hn)
    refine hkept.trans (ih ((submitSlot_submitted hf k).fwUp.trans hf) ?_)
    rw [hkept.isHost]
    exact h.imp_left fun hn => List.not_mem_of_not_mem_cons hn

/-- A slot of the list is submitted once: in a state `u` that has it, and every slot not in HOST, as `s` does, and what follows leaves
it. -/
theorem submitSlots_at {s : State} (hf : fwUp s = true) {l : List SlotId} (hl : l.Nodup) {k : SlotId} (hk : k ∈ l) :
    ∃ u, Submitted s u ∧ (∀ j, j = k ∨ slotIsHost s j.val = false → SlotKept s u j) ∧
      Submitted (submitSlot u k.val) (submitSlots s l) ∧ SlotKept (submitSlot u k.val) (submitSlots s l) k := by
  obtain ⟨before, after, rfl⟩ := List.append_of_mem hk
  have hnot : k ∉ before ++ after := (List.nodup_cons.mp (List.nodup_middle.mp hl)).1
  rw [List.mem_append, not_or] at hnot
  have hu := submitSlots_submitted hf before
  have huf : fwUp (submitSlots s before) = true := hu.fwUp.trans hf
  have hvf : fwUp (submitSlot (submitSlots s before) k.val) = true := (submitSlot_submitted huf k).fwUp.trans huf
  have hsplit : submitSlots s (before ++ k :: after) = submitSlots (submitSlot (submitSlots s before) k.val) after := by
    rw [submitSlots, List.foldl_append]
    rfl
  rw [hsplit]
  have hbefore : ∀ j, j = k ∨ slotIsHost s j.val = false → SlotKept s (submitSlots s before) j :=
    fun j hj => submitSlots_slotKept hf (hj.imp_left fun e => by rw [e]; exact hnot.1)
  exact ⟨_, hu, hbefore, submitSlots_submitted hvf after,
    submitSlots_slotKept hvf (.inl hnot.2)⟩

/-! ## MBX_DOORBELL (R141 to R146) -/

/-- The write meets a tray past its ready event and a link in D0. -/
theorem execMbxDoorbell_takes {s : State} (hb : barReady s = true) (hl : linkServes s = true) (hd : s.host.d3hot = false) (mask : W32) :
    execMbxDoorbell mask s = .next (submitSlots s (namedSlots mask)) := by
  unfold execMbxDoorbell
  dsimp only
  rw [linkExit_of_serves s hl, if_neg (by simp [hb, hl]), if_neg (by simp [hd]), foldl_maskBits]
  rfl

section
variable {s : State} (hf : fwUp s = true) {l : List SlotId} (hl : l.Nodup) {k : SlotId} (hk : k ∈ l)
include hf hl hk

/-- A request whose header passes is held, in the place of the order of acceptance that is its own. -/
theorem submitSlots_holds (hh : slotIsHost s k.val = true) (hst : headerStatus (slotBytes s k.val) = none)
    (hop : isFwOp (leAt (slotBytes s k.val) 0 2) = false) :
    ∃ order, InFw (submitSlots s l) k (reqOf (slotBytes s k.val) order) ∧ s.mbx.nextOrder ≤ order ∧
      order < (submitSlots s l).mbx.nextOrder := by
  obtain ⟨u, hu, hkept, hafter, hlast⟩ := submitSlots_at hf hl hk
  have hku := hkept k (.inl rfl)
  rw [← hku.isHost] at hh
  rw [← hku.bytes] at hst hop ⊢
  have hholds : Holds u (submitSlot u k.val) k := by
    rw [submitSlot_host (hu.fwUp.trans hf) hh]
    exact takeSlot_holds hst (by rw [hop, Bool.false_and])
  refine ⟨u.mbx.nextOrder, (hholds.inFw (slotIsHost_iff.mp hh).2).kept hlast, hu.order, ?_⟩
  calc u.mbx.nextOrder < (submitSlot u k.val).mbx.nextOrder := by rw [hholds.nextOrder]; exact Nat.lt_succ_self _
    _ ≤ (submitSlots s l).mbx.nextOrder := hafter.order

/-- A firmware command finds the one under way in a slot of Swifort's, whatever else the write submits (R146). -/
theorem submitSlots_busy (hh : slotIsHost s k.val = true) (hst : headerStatus (slotBytes s k.val) = none)
    (hop : isFwOp (leAt (slotBytes s k.val) 0 2) = true) {j : SlotId} {q : Req} (hj : slotIsHost s j.val = false)
    (hq : tget s.mbx.reqs j.val = some q) (hqop : isFwOp q.opcode = true) :
    ∃ status ∈ [0x0102, 0x0106, 0x0143], InDone (submitSlots s l) k status := by
  obtain ⟨u, hu, hkept, -, hlast⟩ := submitSlots_at hf hl hk
  have hku := hkept k (.inl rfl)
  rw [← hku.isHost] at hh
  rw [← hku.bytes] at hst hop
  rw [← (hkept j (.inr hj)).req] at hq
  have hunder : fwUnderWay u = true := List.any_eq_true.mpr ⟨_, mem_of_tget hq, hqop⟩
  obtain ⟨status, hmem, haway⟩ := takeSlot_busy hst hop hunder
  rw [← submitSlot_host (hu.fwUp.trans hf) hh] at haway
  have hlt : status < 2 ^ 16 := by
    simp only [List.mem_cons, List.not_mem_nil, or_false] at hmem
    omega
  exact ⟨status, hmem, (haway.inDone hlt).kept hlast⟩

/-- A request whose header fails is answered with its check's status (R144). -/
theorem submitSlots_refuses (hh : slotIsHost s k.val = true) {status : Nat}
    (hst : headerStatus (slotBytes s k.val) = some status) : InDone (submitSlots s l) k status := by
  obtain ⟨u, hu, hkept, -, hlast⟩ := submitSlots_at hf hl hk
  have hku := hkept k (.inl rfl)
  rw [← hku.isHost] at hh
  rw [← hku.bytes] at hst
  have haway := takeSlot_refuses hst
  rw [← submitSlot_host (hu.fwUp.trans hf) hh] at haway
  exact (haway.inDone (headerStatus_lt hst)).kept hlast

/-- A bit of a slot that is not in HOST sets INVWR_MBX (R143). -/
theorem submitSlots_flags (hh : slotIsHost s k.val = false) : (submitSlots s l).host.sysErr.getLsbD 1 = true := by
  obtain ⟨u, -, hkept, hafter, -⟩ := submitSlots_at hf hl hk
  rw [← (hkept k (.inl rfl)).isHost] at hh
  refine hafter.flags 1 ?_
  rw [submitSlot_notHost hh, sysErr, invwrMbx, BitVec.getLsbD_or]
  simp

end

/-! ## MBX_DONE_CLEAR (R141, R143) -/

/-- The state DONE of Table 6-4. -/
def slotIsDone (s : State) (k : SlotId) : Bool := s.mbx.done.getLsbD k.val && !s.mbx.own.getLsbD k.val

/-- A bit of MBX_DONE_CLEAR. -/
def clearSlot (s : State) (k : SlotId) : State :=
  if slotIsDone s k then { s with mbx.done := s.mbx.done &&& ~~~(1#32 <<< k.val) } else sysErr s invwrMbx

/-- `t` is `s` with DONE of these slots cleared where they are in DONE, and INVWR_MBX set where one is not. -/
structure Cleared (s t : State) (l : List SlotId) : Prop where
  done : ∀ j : SlotId, t.mbx.done.getLsbD j.val = (s.mbx.done.getLsbD j.val && !(decide (j ∈ l) && !s.mbx.own.getLsbD j.val))
  sysErr : t.host.sysErr = if l.all (slotIsDone s) then s.host.sysErr else s.host.sysErr ||| (1#6 <<< 1)
  eq : t = { s with mbx.done := t.mbx.done, host.sysErr := t.host.sysErr }

theorem clearSlot_cleared (s : State) (k : SlotId) : Cleared s (clearSlot s k) [k] := by
  unfold clearSlot
  cases hk : slotIsDone s k with
  | true =>
    refine ⟨fun j => ?_, by simp [hk], rfl⟩
    rw [if_pos rfl, getLsbD_clearSlot]
    by_cases hj : j = k
    · subst hj
      obtain ⟨-, hown⟩ := Bool.and_eq_true_iff.mp hk
      rw [hown]
      simp
    · simp [hj]
  | false =>
    refine ⟨fun j => ?_, by simp [hk, sysErr, invwrMbx], rfl⟩
    by_cases hj : j = k
    · subst hj
      simpa [slotIsDone] using hk
    · simp [hj]

/-- What comes after a cleared bit, for slots that are others. -/
theorem Cleared.cons {s u t : State} {k : SlotId} {l : List SlotId} (h : Cleared s u [k]) (g : Cleared u t l) (hk : k ∉ l) :
    Cleared s t (k :: l) := by
  have hown : u.mbx.own = s.mbx.own := by rw [h.eq]
  have hsame : l.all (slotIsDone u) = l.all (slotIsDone s) := by
    rw [Bool.eq_iff_iff, List.all_eq_true, List.all_eq_true]
    refine forall₂_congr fun j hj => ?_
    have hjk : j ≠ k := fun e => hk (e ▸ hj)
    rw [slotIsDone, slotIsDone, h.done, hown]
    simp [hjk]
  refine ⟨fun j => ?_, ?_, by rw [g.eq, h.eq]⟩
  · rw [g.done, h.done, hown]
    by_cases hj : j = k
    · simp [hj, hk]
    · simp [hj]
  · rw [g.sysErr, h.sysErr, hsame, List.all_cons, List.all_cons, List.all_nil, Bool.and_true]
    cases slotIsDone s k with
    | true => simp
    | false => simp [BitVec.or_assoc]

theorem clearSlots_cleared {s : State} {l : List SlotId} (hl : l.Nodup) : Cleared s (l.foldl clearSlot s) l := by
  induction l generalizing s with
  | nil => exact ⟨fun j => by simp, rfl, rfl⟩
  | cons k l ih =>
    obtain ⟨hk, hl⟩ := List.nodup_cons.mp hl
    exact (clearSlot_cleared s k).cons (ih hl) hk

theorem execMbxDoneClear_takes {s : State} (hb : barReady s = true) (hl : linkServes s = true) (hd : s.host.d3hot = false) (mask : W32) :
    execMbxDoneClear mask s = .next ((namedSlots mask).foldl clearSlot s) := by
  unfold execMbxDoneClear
  dsimp only
  rw [linkExit_of_serves s hl, if_neg (by simp [hb, hl]), if_neg (by simp [hd]), foldl_maskBits]
  rfl

/-- The mask names no slot but ones in DONE. -/
theorem all_slotIsDone_iff (s : State) (mask : W32) :
    (namedSlots mask).all (slotIsDone s) = true ↔ mask &&& ~~~(s.mbx.done &&& ~~~s.mbx.own) = 0 := by
  have hbit (k : SlotId) : (mask &&& ~~~(s.mbx.done &&& ~~~s.mbx.own)).getLsbD k.val = (mask.getLsbD k.val && !slotIsDone s k) := by
    simp [slotIsDone]
  rw [List.all_eq_true]
  constructor
  · intro h
    refine BitVec.eq_of_getLsbD_eq fun i hi => ?_
    refine (hbit ⟨i, hi⟩).trans ((Bool.and_eq_false_iff.mpr ?_).trans BitVec.getLsbD_zero.symm)
    rw [Bool.not_eq_false']
    cases hm : mask.getLsbD i with
    | false => exact .inl rfl
    | true => exact .inr (h ⟨i, hi⟩ (mem_namedSlots.mpr hm))
  · intro h k hk
    have hz := hbit k
    rw [h, mem_namedSlots.mp hk, Bool.true_and] at hz
    simpa using hz

/-- DONE loses the slots in DONE that the mask names. -/
theorem Cleared.mask {s t : State} {mask : W32} (h : Cleared s t (namedSlots mask)) :
    t.mbx.done = s.mbx.done &&& ~~~(mask &&& ~~~s.mbx.own) := by
  refine BitVec.eq_of_getLsbD_eq fun i hi => ?_
  have hdone := h.done ⟨i, hi⟩
  dsimp only at hdone
  rw [hdone, Bool.decide_congr mem_namedSlots]
  simp [hi]

/-! ## CMD_TIMEOUT (R150) -/

/-- A ring that the command was destroying stays. -/
def ringStays (s : State) (r : Req) : State :=
  { s with rings := tmap s.rings (fun n g => if r.opcode = 0x0502 && n = leAt r.payload 0 2 then { g with destroying := false } else g) }

theorem ringStays_other {r : Req} (h : r.opcode ≠ 0x0502) (s : State) : ringStays s r = s := by
  have hmap : tmap s.rings (fun n g => if r.opcode = 0x0502 && n = leAt r.payload 0 2 then { g with destroying := false } else g)
      = s.rings := by
    simp [tmap, h]
  rw [ringStays, hmap]

theorem ring_ringStays {r : Req} (h : r.opcode = 0x0502) (s : State) (n : Nat) :
    ring (ringStays s r) n = if n = leAt r.payload 0 2 then { ring s n with destroying := false } else ring s n := by
  unfold ring ringStays
  rw [tgetD_tmap _ _ _ _ (by split <;> rfl)]
  simp [h]

theorem execCmdTimeout_started {s : State} (hf : fwUp s = true) {k : SlotId} {p : Pend} (hr : tget s.mbx.reqs k.val = some p.req)
    (hp : tget s.mbx.running k.val = some p) (moved : List Byte) :
    execCmdTimeout k moved s = .next (respond (ringStays s p.req) k.val p.req 0x0105 p.payload) := by
  unfold execCmdTimeout
  rw [if_neg (by simp [hf]), hr]
  dsimp only
  rw [hp]
  rfl

/-- A command that has moved nothing has applied nothing (log entry 81). -/
theorem execCmdTimeout_unstarted {s : State} (hf : fwUp s = true) {k : SlotId} {r : Req} (hr : tget s.mbx.reqs k.val = some r)
    (hp : tget s.mbx.running k.val = none) (hm : mayStart s k.val r = true) :
    execCmdTimeout k [] s = .next (respond s k.val r 0x0105 []) := by
  unfold execCmdTimeout
  rw [if_neg (by simp [hf]), hr]
  dsimp only
  rw [hp]
  dsimp only
  rw [if_neg (by simp [hm])]
  rfl

theorem Answered.rings {u t : State} {k : SlotId} {r : Req} {status : Nat} {payload : List Byte} (h : Answered u t k r status payload) :
    t.rings = u.rings := by
  obtain ⟨-, -, -, -, -, -, -, -, -, -, heq⟩ := h
  rw [heq]

/-- The answer of a started command at its bound. -/
theorem cmdTimeout_started {s : State} (hf : fwUp s = true) {k : SlotId} {p : Pend} (hr : tget s.mbx.reqs k.val = some p.req)
    (hp : tget s.mbx.running k.val = some p) (moved : List Byte) :
    Completes (.cmdTimeout k moved) s (fun t =>
      Answered { s with rings := t.rings } t k p.req 0x0105 p.payload ∧
      (p.req.opcode ≠ 0x0502 → t.rings = s.rings) ∧
      (p.req.opcode = 0x0502 → (ring t (leAt p.req.payload 0 2)).destroying = false ∧
        ∀ n, n ≠ leAt p.req.payload 0 2 → ring t n = ring s n)) := by
  have hans := answered_respond (ringStays s p.req) k p.req 0x0105 p.payload
  have hring (n : Nat) : ring (respond (ringStays s p.req) k.val p.req 0x0105 p.payload) n = ring (ringStays s p.req) n := by
    rw [ring, ring, hans.rings]
  refine ⟨_, execCmdTimeout_started hf hr hp moved, ?_, fun hop => ?_, fun hop => ⟨?_, fun n hn => ?_⟩⟩
  · rw [hans.rings]
    exact hans
  · rw [hans.rings, ringStays_other hop]
  · rw [hring, ring_ringStays hop, if_pos rfl]
  · rw [hring, ring_ringStays hop, if_neg hn]

/-- Settles O18. That a command which has moved nothing is answered with no payload is log entry 81. -/
theorem mailboxBitsMoveSlots : Obligations.MailboxBitsMoveSlots := by
  unfold Obligations.MailboxBitsMoveSlots
  intro s hb hl hd
  refine ⟨fun mask hf => ?_, fun mask => ?_, fun k p moved hf hr hp => cmdTimeout_started hf hr hp moved,
    fun k r hf hr hp hm => ⟨_, execCmdTimeout_unstarted hf hr hp hm, answered_respond s k r _ _⟩⟩
  · have hn := nodup_namedSlots mask
    refine ⟨_, execMbxDoorbell_takes hb hl hd mask, fun k hk hh hst hop => ?_, fun k j q hk hh hst hop hj hq hqop => ?_,
      fun k status hk hh hst => ?_, fun k hk => ?_, fun ⟨k, hk, hh⟩ => submitSlots_flags hf hn (mem_namedSlots.mpr hk) hh,
      (submitSlots_submitted hf _).eq⟩
    · obtain ⟨order, hin, hlow, hhigh⟩ := submitSlots_holds hf hn (mem_namedSlots.mpr hk) hh hst hop
      exact ⟨hin.own, hin.done, _, hin.req, rfl, hlow, hhigh⟩
    · obtain ⟨status, hmem, hin⟩ := submitSlots_busy hf hn (mem_namedSlots.mpr hk) hh hst hop hj hq hqop
      exact ⟨hin.own, hin.done, by rw [hin.status]; exact hmem⟩
    · have hin := submitSlots_refuses hf hn (mem_namedSlots.mpr hk) hh hst
      exact ⟨hin.own, hin.done, hin.status⟩
    · have hkept := submitSlots_slotKept (l := namedSlots mask) hf (hk.imp_left fun h => mem_namedSlots.not.mpr (Bool.eq_false_iff.mp h))
      exact ⟨hkept.own, hkept.done, hkept.bytes⟩
  · have hc := clearSlots_cleared (s := s) (nodup_namedSlots mask)
    refine ⟨_, execMbxDoneClear_takes hb hl hd mask, hc.mask, fun h => ?_, fun h => ?_, hc.eq⟩
    · rw [hc.sysErr, if_pos ((all_slotIsDone_iff s mask).mpr h)]
    · rw [hc.sysErr, if_neg (mt (all_slotIsDone_iff s mask).mp h)]

end Sys2Proof.Machine
end

section
/-! PROOFS. What settling a core and the retirement of its pending instructions leave alone, a region's bytes after a write at one of its
counts, and what a landed token changes (09_cores_and_scratchpad.md R236, R241, R242; 11_sequencer_and_tile_instructions.md R304). -/

namespace Sys2Proof.Machine

/-! ## Settling (R275) -/

/-- A sequencer that has gone on: its place and the count of R296 may differ, and it is not at END unless it was. -/
structure SeqKept (q r : Seq) : Prop where
  eq : r = { q with pc := r.pc, run := r.run, since := r.since, defer := r.defer, begun := r.begun }
  ending : q.run ≠ .ending → r.run ≠ .ending

theorem SeqKept.refl (q : Seq) : SeqKept q q := ⟨rfl, id⟩

theorem SeqKept.trans {a b c : Seq} (h : SeqKept a b) (g : SeqKept b c) : SeqKept a c where
  eq := by
    have h1 := h.eq
    have h2 := g.eq
    rw [h1] at h2
    exact h2
  ending e := g.ending (h.ending e)

theorem SeqKept.res {q r : Seq} (h : SeqKept q r) : r.res = q.res := by rw [h.eq]

theorem seqKept_next (q : Seq) (pc : Word) : SeqKept q (q.next pc) := ⟨rfl, fun _ => nofun⟩

/-- A counter that neither the section record nor INSTR_RETIRED counts in (Table 25-4). -/
def Unrecorded (off : Nat) : Prop := ∀ c o, o < 0x200 → coreCtr c o ≠ off

theorem unrecorded_coreCtr (c : Nat) {o : Nat} (h : 0x200 ≤ o) (h' : o < 0x1000) : Unrecorded (coreCtr c o) := by
  intro d p hp
  unfold coreCtr
  omega

theorem unrecorded_low {off : Nat} (h : off < 0x100000) : Unrecorded off := by
  intro d p hp
  unfold coreCtr
  omega

theorem recOff_lt {word off : Nat} (h : recOff word = some off) : off < 0x200 := by
  unfold recOff at h
  split at h
  case h_15 =>
    split at h
    · next hw => cases h; simp at hw; omega
    · cases h
  all_goals (cases h; decide)

/-- `t` is `s` but for sequencers that have gone on, queues, pending instructions with their ranges, records, and recorded counters. -/
structure Settled (s t : State) : Prop where
  eq : t = { s with cores := t.cores, swi := t.swi, obs.ctr := t.obs.ctr }
  core : ∀ d, core t d = { core s d with
    seq := (core t d).seq, queues := (core t d).queues, pend := (core t d).pend, rngs := (core t d).rngs,
    drnStatus := (core t d).drnStatus, recs := (core t d).recs }
  seq : ∀ d, SeqKept (Machine.core s d).seq (Machine.core t d).seq
  swi : SeqKept s.swi t.swi
  ctr : ∀ off, Unrecorded off → ctr t off = ctr s off

theorem Settled.refl (s : State) : Settled s s := ⟨rfl, fun _ => rfl, fun _ => .refl _, .refl _, fun _ _ => rfl⟩

theorem Settled.trans {a b c : State} (h : Settled a b) (g : Settled b c) : Settled a c where
  eq := by
    have h1 := h.eq
    have h2 := g.eq
    rw [h1] at h2
    exact h2
  core d := by
    have h1 := h.core d
    have h2 := g.core d
    rw [h1] at h2
    exact h2
  seq d := (h.seq d).trans (g.seq d)
  swi := h.swi.trans g.swi
  ctr off ho := (g.ctr off ho).trans (h.ctr off ho)

theorem Settled.circ {s t : State} (h : Settled s t) (c r : Nat) : circ t c r = circ s c r := by
  unfold Machine.circ
  rw [h.core c]

theorem Settled.mem {s t : State} (h : Settled s t) : t.mem = s.mem := by rw [h.eq]

theorem Settled.store {s t : State} (h : Settled s t) : t.store = s.store := by rw [h.eq]

theorem Settled.dsp {s t : State} (h : Settled s t) : t.dsp = s.dsp := by rw [h.eq]

theorem Settled.net {s t : State} (h : Settled s t) : t.net = s.net := by rw [h.eq]

/-- No reservation is lost, so nothing waits for a hold. -/
theorem Settled.waitHold {s t : State} (h : Settled s t) : waitHold none s t = t :=
  waitHold_of_seqs (fun c _ => (h.seq c).res) fun _ => h.swi.res

theorem setCore_settled {s : State} {c : Nat} {k : Core}
    (h : k = { core s c with seq := k.seq, queues := k.queues, pend := k.pend, rngs := k.rngs, drnStatus := k.drnStatus, recs := k.recs })
    (hq : SeqKept (core s c).seq k.seq) : Settled s (setCore s c k) where
  eq := rfl
  core d := by
    rw [core_setCore]
    split
    · next e => exact e ▸ h
    · rfl
  seq d := by
    rw [core_setCore]
    split
    · next e => exact e ▸ hq
    · exact .refl _
  swi := .refl _
  ctr _ _ := rfl

theorem ctrAdd_settled (s : State) (c n : Nat) {o : Nat} (h : o < 0x200) : Settled s (ctrAdd s (coreCtr c o) n) where
  eq := rfl
  core _ := rfl
  seq _ := .refl _
  swi := .refl _
  ctr _ ho := ctr_ctrAdd_ne s (ho c o h) n

theorem count_settled (s : State) (c word n : Nat) : Settled s (count s c word n) := by
  have hrec : Settled s (if (core s c).work.isSome then setCore s c { core s c with
      recs := tmod (core s c).recs (core s c).chnCur [] (fun r => tmod r word 0 (fun x => (x + n) % 2 ^ 64)) } else s) := by
    split
    · exact setCore_settled rfl (.refl _)
    · exact .refl s
  unfold count
  dsimp only
  split
  · next h => exact hrec.trans (ctrAdd_settled _ c n (recOff_lt h))
  · exact hrec

theorem setSeq_settled {s : State} {ag : Nat} {q : Seq} (h : SeqKept (seqOf s ag) q) : Settled s (setSeq s ag q) := by
  unfold seqOf at h
  unfold setSeq
  split at h
  · next hag =>
    rw [if_pos hag]
    exact setCore_settled rfl h
  · next hag =>
    rw [if_neg hag]
    exact ⟨rfl, fun _ => rfl, fun _ => .refl _, h, fun _ _ => rfl⟩

theorem retireSeq_settled (s : State) (ag : Nat) (pc : Word) : Settled s (retireSeq s ag pc) := by
  have h := setSeq_settled (seqKept_next (seqOf s ag) pc)
  unfold retireSeq
  dsimp only
  split
  · exact h.trans (ctrAdd_settled _ ag 1 (by decide))
  · exact h

theorem popAll_settled (s : State) (c : Nat) :
    Settled s (setCore s c ((List.range 7).foldl (fun k i => popQueue k (i + 1)) (core s c))) := by
  refine setCore_settled ?_ ?_ <;> rw [popAll_core]
  exact .refl _

/-- A core that is not at END settles without a report to the dispatcher. -/
theorem settle1_settled {s : State} {c : Nat} (h : (core s c).seq.run ≠ .ending) : Settled s (settle1 s c) := by
  unfold settle1
  extract_lets k u
  have hpop : Settled s u := by
    unfold u
    split
    · exact popAll_settled s c
    · exact .refl s
  have hrun := (hpop.seq c).ending h
  split
  · split
    · exact hpop.trans (retireSeq_settled _ _ _)
    · exact hpop
  · next he => exact absurd he hrun
  · exact hpop

theorem settle_settled {s : State} {c : Nat} (h : (core s c).seq.run ≠ .ending) : Settled s (settle s c) :=
  List.foldlRecOn _ _ (motive := Settled s) (.refl s) fun _ hb _ _ => hb.trans (settle1_settled ((hb.seq c).ending h))

/-! ## Retirement of a pending instruction (R304, R346) -/

theorem flagWork_dsp (s : State) (w : Nat) (sat nan : Bool) : ∃ d, flagWork s w sat nan = { s with dsp := d } := by
  unfold flagWork
  split
  · exact ⟨_, rfl⟩
  · split
    · exact ⟨_, rfl⟩
    · exact ⟨s.dsp, rfl⟩

/-- The flags of a DRAIN's rows reach works alone. -/
theorem rowFlags_dsp (s : State) (c : Nat) (fs : List (Nat × Bool × Bool)) : ∃ d, rowFlags s c fs = { s with dsp := d } := by
  unfold rowFlags
  refine List.foldlRecOn fs _ (motive := fun t => ∃ d, t = { s with dsp := d }) ⟨s.dsp, rfl⟩ fun t ht f _ => ?_
  obtain ⟨d, rfl⟩ := ht
  split
  · split
    · obtain ⟨d', h⟩ := flagWork_dsp { s with dsp := d } (by assumption) f.2.1 f.2.2
      exact ⟨d', h⟩
    · exact ⟨d, rfl⟩
  · exact ⟨d, rfl⟩

/-- Rows that set no flag change nothing. -/
theorem rowFlags_quiet {s : State} {c : Nat} {fs : List (Nat × Bool × Bool)} (h : ∀ f ∈ fs, f.2 = (false, false)) : rowFlags s c fs = s := by
  unfold rowFlags
  refine List.foldlRecOn fs _ (motive := fun t => t = s) rfl fun t ht f hf => ?_
  rw [ht, h f hf]
  split <;> rfl

/-- No pending instruction of this placement order sets a flag. -/
def PendQuiet (k : Core) (ord : Nat) : Prop := ∀ z ∈ k.pend, z.ord = ord → ∀ f ∈ z.flags, f.2 = (false, false)

theorem pendDone_settled (s : State) (c ord : Nat) :
    ∃ d, Settled { s with dsp := d } (pendDone s c ord) ∧ (PendQuiet (core s c) ord → d = s.dsp) := by
  unfold pendDone
  dsimp only
  split
  · exact ⟨s.dsp, .refl _, fun _ => rfl⟩
  · next p hp =>
    split
    · exact ⟨s.dsp, setCore_settled rfl (.refl _), fun _ => rfl⟩
    · generalize hu : setCore s c (freeRanges _ ord) = u
      have hset : Settled s u := hu ▸ setCore_settled rfl (.refl _)
      obtain ⟨d, hd⟩ := rowFlags_dsp u c p.flags
      refine ⟨d, ?_, fun hq => ?_⟩
      · have hflags : Settled { s with dsp := d } (rowFlags u c p.flags) := by
          rw [hd]
          exact ⟨by rw [hset.eq], hset.core, hset.seq, hset.swi, hset.ctr⟩
        split
        · exact hflags
        · exact hflags.trans (count_settled _ _ _ _)
      · have hnone := rowFlags_quiet (s := u) (c := c) (hq p (List.mem_of_find?_eq_some hp) (by simpa using List.find?_some hp))
        rw [hnone] at hd
        rw [← hset.dsp, hd]

end Sys2Proof.Machine
end

section
/-! PROOFS. Tokens that land in a circular region, and credits that come back (08_jobs_and_dispatch.md R212; 09_cores_and_scratchpad.md R236,
R241 to R244; 17_tiling_buckets_and_chains.md R436). -/

namespace Sys2Proof.Machine

/-! ## A write in a region (R236) -/

/-- `t` is `s` but for memory, its words' checks, and reservations. -/
structure Stored (s t : State) : Prop where
  eq : t = { s with cores := t.cores, swi := t.swi, ecc := t.ecc, mem := t.mem }
  core : ∀ d, ∃ res hold, core t d = { core s d with seq := { (core s d).seq with res := res, hold := hold } }
  clean : t.ecc.poison = []

theorem Stored.refl {s : State} (h : s.ecc.poison = []) : Stored s s := ⟨rfl, fun _ => ⟨_, _, rfl⟩, h⟩

theorem Stored.trans {a b c : State} (h : Stored a b) (g : Stored b c) : Stored a c where
  eq := by
    have h1 := h.eq
    have h2 := g.eq
    rw [h1] at h2
    exact h2
  core d := by
    obtain ⟨r, l, h1⟩ := h.core d
    obtain ⟨r', l', h2⟩ := g.core d
    exact ⟨r', l', by rw [h2, h1]⟩
  clean := g.clean

/-- A write where no word is poisoned: other agents' reservations go, whole words are cured, and the bytes are put. -/
theorem memWrite_clean {s : State} (h : s.ecc.poison = []) (a : Nat) (ds : List Byte) : (memWrite s a ds).1 =
    { cure (breakRes s none a ds.length) (fun w => (wholeWordsOf a ds.length).contains w) with mem := mwrite s.mem a ds } := by
  have hbad : poisonedIn (breakRes s none a ds.length) a ds.length = [] := poisonedIn_nil h _ _
  have hmem := cure_mem (breakRes s none a ds.length) (fun w => (wholeWordsOf a ds.length).contains w)
  unfold memWrite memWriteBy memPut
  rw [hbad]
  dsimp only [List.filter_nil, List.isEmpty_nil]
  rw [if_pos rfl, hmem]
  rfl

theorem memWrite_stored {s : State} (h : s.ecc.poison = []) (a : Nat) (ds : List Byte) : Stored s (memWrite s a ds).1 where
  eq := by
    rw [memWrite_clean h, cure_eq]
    rfl
  core d := by
    have hcores : core (memWrite s a ds).1 d = core (breakRes s none a ds.length) d := by
      rw [memWrite_clean h]
      exact congrArg (tgetD · d {}) (cure_cores _ _)
    have hres : core (breakRes s none a ds.length) d = { core s d with seq := dropRes (core s d).seq a ds.length } :=
      tgetD_tmap s.cores (fun _ k => { k with seq := dropRes k.seq a ds.length }) d {} rfl
    rw [hcores, hres]
    unfold dropRes
    split
    · exact ⟨_, _, rfl⟩
    · exact ⟨_, _, rfl⟩
  clean := (memWrite_moves h a ds).clean h

/-- A write at a count of a region as one or two writes of memory. The function is unfolded as a constant and its pairs are projected by a
lemma, for the kernel would evaluate addresses to compare the body with its unfolded application. -/
theorem circWrite_fst (s : State) (c : Nat) (x : Circ) (count : Nat) (ds : List Byte) : (circWrite s c x count ds).1 =
    if ds.length ≤ x.bytes - count % x.bytes then (memWrite s (circAddr c x count) (ds.take (x.bytes - count % x.bytes))).1
    else (memWrite (memWrite s (circAddr c x count) (ds.take (x.bytes - count % x.bytes))).1 (spBase c + x.base * 4096)
      (ds.drop (x.bytes - count % x.bytes))).1 := by
  have hfst (u : State) (ws : List Nat) : (u, ws).1 = u := rfl
  generalize h : @circWrite = f
  delta circWrite at h
  subst h
  beta_reduce
  extract_lets room u ws v
  split
  · exact hfst _ _
  · exact hfst _ _

theorem circWrite_stored {s : State} (h : s.ecc.poison = []) (c : Nat) (x : Circ) (count : Nat) (ds : List Byte) :
    Stored s (circWrite s c x count ds).1 := by
  have hfirst := memWrite_stored h (circAddr c x count) (ds.take (x.bytes - count % x.bytes))
  rw [circWrite_fst]
  split
  · exact hfirst
  · exact hfirst.trans (memWrite_stored hfirst.clean _ _)

/-- A write's memory: up to the region's end, and what is left from its start. -/
theorem circWrite_mem {s : State} (h : s.ecc.poison = []) (c : Nat) (x : Circ) (count : Nat) (ds : List Byte) :
    (circWrite s c x count ds).1.mem =
      mwrite (mwrite s.mem (circAddr c x count) (ds.take (x.bytes - count % x.bytes))) (spBase c + x.base * 4096)
        (ds.drop (x.bytes - count % x.bytes)) := by
  have hfirst := memWrite_stored h (circAddr c x count) (ds.take (x.bytes - count % x.bytes))
  have hmem := memWrite_mem (s := s) (a := circAddr c x count) (ds := ds.take (x.bytes - count % x.bytes)) (poisonedIn_nil h _ _)
  rw [circWrite_fst]
  split
  · next hlen =>
    rw [List.drop_eq_nil_of_le hlen]
    exact hmem
  · rw [memWrite_mem (poisonedIn_nil hfirst.clean _ _), hmem]

/-- The places of a region's bytes, from a count on, while they do not come round. -/
theorem circAddr_add {c : Nat} {x : Circ} {count j : Nat} (hx : 0 < x.bytes) (hj : j < x.bytes) : circAddr c x (count + j) =
    if j < x.bytes - count % x.bytes then circAddr c x count + j else spBase c + x.base * 4096 + (j - (x.bytes - count % x.bytes)) := by
  have hlt := Nat.mod_lt count hx
  have hmod : (count + j) % x.bytes = (count % x.bytes + j) % x.bytes := by rw [Nat.mod_add_mod]
  unfold circAddr
  rw [hmod]
  split
  · rw [Nat.mod_eq_of_lt (by omega)]
    omega
  · rw [Nat.mod_eq_sub_mod (by omega), Nat.mod_eq_of_lt (by omega)]
    omega

/-- A byte of a region after a write at a count that fits the region. -/
theorem mget_circWrite_in {s : State} (hp : s.ecc.poison = []) (hc : Canonical s) {c : Nat} {x : Circ} {count : Nat} {ds : List Byte}
    (hx : 0 < x.bytes) (hn : ds.length ≤ x.bytes) {j : Nat} (hj : j < ds.length) :
    mget (circWrite s c x count ds).1.mem (circAddr c x (count + j)) = ds.getD j 0 := by
  have hlt := Nat.mod_lt count hx
  have hfirst : (ds.take (x.bytes - count % x.bytes)).length = min (x.bytes - count % x.bytes) ds.length := List.length_take
  have hrest : (ds.drop (x.bytes - count % x.bytes)).length = ds.length - (x.bytes - count % x.bytes) := List.length_drop
  have hat : circAddr c x count = spBase c + x.base * 4096 + count % x.bytes := rfl
  rw [circWrite_mem hp, mget_mwrite _ _ _ (mwrite_wf _ _ hc), mget_mwrite _ _ _ hc, circAddr_add hx (by omega)]
  split
  · next hin =>
    rw [if_neg (by omega), if_pos (by omega), Nat.add_sub_cancel_left]
    simp [List.getD_eq_getElem?_getD, hin]
  · next hout =>
    rw [if_pos (by omega), Nat.add_sub_cancel_left]
    simp only [List.getD_eq_getElem?_getD, List.getElem?_drop]
    rw [show x.bytes - count % x.bytes + (j - (x.bytes - count % x.bytes)) = j by omega]

/-- Any other byte is as it was. -/
theorem mget_circWrite_out {s : State} (hp : s.ecc.poison = []) (hc : Canonical s) {c : Nat} {x : Circ} {count : Nat} {ds : List Byte}
    (hx : 0 < x.bytes) (hn : ds.length ≤ x.bytes) {a : Nat} (ha : ∀ j, j < ds.length → a ≠ circAddr c x (count + j)) :
    mget (circWrite s c x count ds).1.mem a = mget s.mem a := by
  have hlt := Nat.mod_lt count hx
  have hfirst : (ds.take (x.bytes - count % x.bytes)).length = min (x.bytes - count % x.bytes) ds.length := List.length_take
  have hrest : (ds.drop (x.bytes - count % x.bytes)).length = ds.length - (x.bytes - count % x.bytes) := List.length_drop
  rw [circWrite_mem hp, mget_mwrite _ _ _ (mwrite_wf _ _ hc), mget_mwrite _ _ _ hc, if_neg, if_neg]
  · intro hin
    refine ha (a - circAddr c x count) (by omega) ?_
    rw [circAddr_add hx (by omega), if_pos (by omega)]
    omega
  · intro hin
    refine ha (a - (spBase c + x.base * 4096) + (x.bytes - count % x.bytes)) (by omega) ?_
    rw [circAddr_add hx (by omega), if_neg (by omega)]
    omega

/-! ## A token lands (R241, R242) -/

/-- The first byte of a permitted range passes its check. -/
theorem checkAt_of_endpoint {s : State} {t a n : Nat} {write : Bool} (h : endpoint s t a n write = .ok) : checkAt s t a write = .ok := by
  have hstay (l : List Nat) {r : EndPoint} (hr : r ≠ .ok) :
      l.foldl (fun r g => match r with | .ok => checkAt s t (max a g) write | other => other) r ≠ .ok := by
    refine List.foldlRecOn l _ (motive := fun r : EndPoint => r ≠ EndPoint.ok) hr fun r hr g _ => ?_
    cases r with
    | ok => exact absurd rfl hr
    | refused o => exact hr
    | hole => exact hr
  unfold endpoint at h
  rw [List.range_succ_eq_map, List.map_cons, List.foldl_cons, Nat.add_zero, Nat.max_eq_left (Nat.div_mul_le_self a 0x10000)] at h
  exact Decidable.byContradiction fun hno => hstay _ hno h

/-- Beyond the scratchpads of the 64 cores there is no memory (R464). -/
theorem checkAt_beyond (s : State) (t : Nat) {a : Nat} (write : Bool) (h : 0x80020000000 ≤ a) : checkAt s t a write = .hole := by
  have htier : (inTierA a || inTierB a) = false := by unfold inTierA inTierB; simp; omega
  have hsp : inSp a = false := by unfold inSp; simp; omega
  unfold checkAt
  rw [htier, hsp, if_neg Bool.false_ne_true, if_neg Bool.false_ne_true]

/-- A region's access begins with the bytes up to its end. -/
theorem circEndpoint_first {s : State} {c : Nat} {x : Circ} {t count n : Nat} {write : Bool}
    (h : circEndpoint s c x t count n write = .ok) : endpoint s t (circAddr c x count) (min n (x.bytes - count % x.bytes)) write = .ok := by
  generalize hf : @circEndpoint = f at h
  delta circEndpoint at hf
  subst hf
  beta_reduce at h
  extract_lets room at h
  split at h
  · assumption
  · next hno => exact absurd h hno

/-- A region that takes an access is one of the 64 cores'. -/
theorem lt_of_circEndpoint {s : State} {c : Nat} {x : Circ} {t count n : Nat} {write : Bool}
    (h : circEndpoint s c x t count n write = .ok) : c < 64 := by
  by_contra hc
  have hat := checkAt_of_endpoint (circEndpoint_first h)
  rw [checkAt_beyond s t write (by unfold circAddr spBase; omega)] at hat
  cases hat

/-- A sequencer whose TOKEN is set for region `r` (Table 11-2). -/
def tokenSet (q : Seq) (r : Nat) : Seq :=
  { q with ip := q.ip ||| (1#2 <<< 1), tokReg := if !q.ip.getLsbD 1 then r else q.tokReg,
           defer := if q.res.isSome && q.since < 16 && !q.ip.getLsbD 1 then q.defer ||| (1#2 <<< 1) else q.defer }

/-- A core whose TOKEN is set goes on if it waits. -/
theorem raiseIp_settled {s : State} {c : Nat} (hc : c < 64) (r : Nat) :
    Settled (setCore s c { core s c with seq := tokenSet (core s c).seq r }) (raiseIp s c 1 r) := by
  have hset : setSeq s c (tokenSet (core s c).seq r) = setCore s c { core s c with seq := tokenSet (core s c).seq r } := if_pos hc
  have hraise : raiseIp s c 1 r = if (core s c).seq.run = .wait
      then retireSeq (setSeq s c (tokenSet (core s c).seq r)) c ((core s c).seq.pc + 4) else setSeq s c (tokenSet (core s c).seq r) := by
    unfold raiseIp
    rw [seqOf, if_pos hc]
    rfl
  rw [hraise, hset]
  split
  · exact retireSeq_settled _ _ _
  · exact .refl _

/-- A region that has taken a token. -/
def tokenAdded (x : Circ) (tag units : Nat) : Circ :=
  { x with tail := (x.tail + units * 4096) % (2 * x.bytes), toks := x.toks ++ [{ tag := tag, units := units }] }

/-- The state in which a token is in its region's list, before a waiting core goes on. -/
structure Listed (s v : State) (c r tag units : Nat) : Prop where
  eq : v = { s with cores := v.cores }
  others : ∀ d, d ≠ c → core v d = core s d
  self : core v c = { core s c with circ := tset (core s c).circ r (tokenAdded (circ s c r) tag units), seq := (core v c).seq }
  seq : (core v c).seq = if (core s c).seq.imask.getLsbD (16 + r) then tokenSet (core s c).seq r else (core s c).seq

theorem landTail_lands {s : State} {c : Nat} (hc : c < 64) (r tag units : Nat) :
    ∃ v, Listed s v c r tag units ∧ Settled v (landTail s c r tag units) := by
  have hland : landTail s c r tag units = if (core s c).seq.imask.getLsbD (16 + r)
      then raiseIp (setCirc s c r (tokenAdded (circ s c r) tag units)) c 1 r else setCirc s c r (tokenAdded (circ s c r) tag units) := by
    have himask : (core (setCirc s c r (tokenAdded (circ s c r) tag units)) c).seq.imask = (core s c).seq.imask := by
      rw [setCirc, core_modCore_self]
    rw [← himask]
    rfl
  have hself : core (setCirc s c r (tokenAdded (circ s c r) tag units)) c
      = { core s c with circ := tset (core s c).circ r (tokenAdded (circ s c r) tag units) } := by rw [setCirc, core_modCore_self]
  have hothers (d : Nat) (hd : d ≠ c) : core (setCirc s c r (tokenAdded (circ s c r) tag units)) d = core s d :=
    core_modCore_ne s (Ne.symm hd) _
  rw [hland]
  split
  · next hm =>
    refine ⟨_, ⟨rfl, fun d hd => ?_, ?_, ?_⟩, raiseIp_settled hc r⟩
    · rw [core_setCore_ne _ (Ne.symm hd), hothers d hd]
    · rw [core_setCore_self, hself]
    · rw [core_setCore_self, hself, if_pos hm]
  · next hm => exact ⟨_, ⟨rfl, hothers, by rw [hself], by rw [hself, if_neg hm]⟩, .refl _⟩

theorem setSeq_pend (s : State) (ag : Nat) (q : Seq) (d : Nat) : (core (setSeq s ag q) d).pend = (core s d).pend := by
  unfold setSeq
  split
  · rw [modCore, core_setCore]
    split
    · next e => rw [e]
    · rfl
  · rfl

theorem raiseIp_pend (s : State) (ag i r d : Nat) : (core (raiseIp s ag i r) d).pend = (core s d).pend := by
  unfold raiseIp retireSeq
  extract_lets q q' u v
  have hu : (core u d).pend = (core s d).pend := setSeq_pend s ag q' d
  have hv : (core v d).pend = (core u d).pend := setSeq_pend u ag _ d
  split
  · split
    · exact hv.trans hu
    · exact hv.trans hu
  · exact hu

theorem landTail_pend (s : State) (c r tag units d : Nat) : (core (landTail s c r tag units) d).pend = (core s d).pend := by
  have hset (y : Circ) : (core (setCirc s c r y) d).pend = (core s d).pend := by
    rw [setCirc, modCore, core_setCore]
    split
    · next e => rw [e]
    · rfl
  unfold landTail
  dsimp only
  split
  · exact (raiseIp_pend _ _ _ _ _).trans (hset _)
  · exact hset _

/-! ## REMOTE_WRITE (R241) -/

/-- The state in which a token has landed, or has been refused, and a core that it belongs to has left DOZE. -/
def tokenLanded (s : State) (m : TokMsg) : State :=
  if sameWork s m.dcore m.work m.gen then modCore (landTok s m) m.dcore (fun k => { k with doze := false }) else landTok s m

/-- The tray once its oldest tokens are those without token `ix`. -/
abbrev tokenTaken (s : State) (ix : Nat) : State := { s with net := { s.net with toks := s.net.toks.eraseIdx ix } }

/-- What follows a landing: the writing instruction's operation is performed, and both cores settle. -/
def afterLanding (u : State) (m : TokMsg) : State := settle (settle (pendDone u m.core m.ord) m.core) m.dcore

theorem execRemoteWrite_clean {s : State} {ix : Nat} {m : TokMsg} (hd : domainsUp s = true) (hm : s.net.toks[ix]? = some m) :
    execRemoteWrite ix .clean s = .next (waitHold none s (afterLanding (tokenLanded (tokenTaken s ix) m) m)) := by
  unfold execRemoteWrite
  rw [hd, hm]
  rfl

theorem afterLanding_settled {u : State} {m : TokMsg} (hc : (core u m.core).seq.run ≠ .ending) (hd : (core u m.dcore).seq.run ≠ .ending) :
    ∃ d, Settled { u with dsp := d } (afterLanding u m) ∧ (PendQuiet (core u m.core) m.ord → d = u.dsp) := by
  obtain ⟨d, hpend, hquiet⟩ := pendDone_settled u m.core m.ord
  have hone := hpend.trans (settle_settled ((hpend.seq m.core).ending hc))
  exact ⟨d, hone.trans (settle_settled ((hone.seq m.dcore).ending hd)), hquiet⟩

end Sys2Proof.Machine
end

section
/-! PROOFS. Tokens that land, and those that are discarded (08_jobs_and_dispatch.md R212; 09_cores_and_scratchpad.md R236, R241 to R244;
11_sequencer_and_tile_instructions.md R301; 17_tiling_buckets_and_chains.md R436, R440, R441). -/

namespace Sys2Proof.Machine

/-! ## A token that lands -/

/-- What a token needs to land in its region (R241). -/
structure Lands (s : State) (m : TokMsg) : Prop where
  writer : writerOk (circ s m.dcore m.dreg) m.writer = true
  same : sameWork s m.dcore m.work m.gen = true
  gb : ∀ d, (core s d).gb = []
  poison : s.ecc.poison = []
  owner : badOwner s m = none
  canonical : Canonical s
  fits : m.units * 4096 ≤ (circ s m.dcore m.dreg).size * 4096
  permitted : circEndpoint s m.dcore (circ s m.dcore m.dreg) m.tcid (circ s m.dcore m.dreg).tail (m.units * 4096) true = .ok

/-- The branches are taken one by one at the head of the body, for the kernel would evaluate addresses to compare the body as a whole. -/
theorem landTok_lands {s : State} {m : TokMsg} (h : Lands s m) : landTok s m = landTail
    (circWrite s m.dcore (circ s m.dcore m.dreg) (circ s m.dcore m.dreg).tail (padTo (m.units * 4096) m.data)).1
    m.dcore m.dreg m.tag m.units := by
  have hpermit := h.permitted
  rw [landTok]
  refine (if_neg (by rw [h.writer]; decide)).trans ?_
  refine (if_neg (by rw [h.same]; decide)).trans ?_
  refine (if_neg (by rw [h.owner]; decide)).trans ?_
  rw [flushGb_nil h.gb]
  simp only [hpermit]

theorem Lands.bytes_pos {s : State} {m : TokMsg} (h : Lands s m) : 0 < (circ s m.dcore m.dreg).bytes := by
  have hw := h.writer
  unfold writerOk at hw
  simp only [Bool.and_eq_true, decide_eq_true_eq] at hw
  exact Nat.mul_pos hw.1 (by decide)

/-- A byte of a token, which zeros follow up to its last unit. -/
theorem getD_padTo {n : Nat} {bs : List Byte} {j : Nat} (hj : j < n) : (padTo n bs).getD j 0 = bs.getD j 0 := by
  unfold padTo zeros
  simp only [List.getD_eq_getElem?_getD, List.getElem?_take, if_pos hj, List.getElem?_append, List.getElem?_replicate]
  split
  · rfl
  · next h =>
    rw [List.getElem?_eq_none (Nat.le_of_not_lt h)]
    split <;> rfl

theorem checkAt_store {s t : State} (h : t.store = s.store) : checkAt t = checkAt s := by
  have hbank : bank t = bank s := by
    unfold bank
    rw [h]
  have hgtag : gtag t = gtag s := by
    unfold gtag
    rw [h]
  unfold checkAt
  rw [hbank, hgtag]

theorem endpoint_store {s t : State} (h : t.store = s.store) : endpoint t = endpoint s := by
  unfold endpoint
  rw [checkAt_store h]

theorem circEndpoint_store {s t : State} (h : t.store = s.store) : circEndpoint t = circEndpoint s := by
  generalize hf : @circEndpoint = f
  delta circEndpoint at hf
  subst hf
  beta_reduce
  rw [endpoint_store h]

theorem Lands.taken {s : State} {m : TokMsg} (h : Lands s m) (ix : Nat) : Lands (tokenTaken s ix) m where
  writer := h.writer
  same := h.same
  gb := h.gb
  poison := h.poison
  owner := h.owner
  canonical := h.canonical
  fits := h.fits
  permitted := by
    have hcirc : circ (tokenTaken s ix) m.dcore m.dreg = circ s m.dcore m.dreg := rfl
    have hstore : circEndpoint (tokenTaken s ix) = circEndpoint s := circEndpoint_store rfl
    rw [hstore, hcirc]
    exact h.permitted

/-- What a landed token leaves of the tray. -/
structure TokenIn (s t : State) (m : TokMsg) : Prop where
  bytes : ∀ j, j < m.units * 4096 →
    mget t.mem (circAddr m.dcore (circ s m.dcore m.dreg) ((circ s m.dcore m.dreg).tail + j)) = m.data.getD j 0
  others : ∀ a, (∀ j, j < m.units * 4096 → a ≠ circAddr m.dcore (circ s m.dcore m.dreg) ((circ s m.dcore m.dreg).tail + j)) →
    mget t.mem a = mget s.mem a
  circ : Machine.circ t m.dcore m.dreg = tokenAdded (Machine.circ s m.dcore m.dreg) m.tag m.units
  doze : (core t m.dcore).doze = false
  token : (core s m.dcore).seq.imask.getLsbD (16 + m.dreg) = true → (core t m.dcore).seq.ip.getLsbD 1 = true
  store : t.store = s.store
  net : t.net = s.net
  dsp : t.dsp = s.dsp
  run : ∀ d, (core s d).seq.run ≠ .ending → (core t d).seq.run ≠ .ending
  pend : ∀ d, (core t d).pend = (core s d).pend

theorem tokenSet_token (q : Seq) (r : Nat) : (tokenSet q r).ip.getLsbD 1 = true := by simp [tokenSet]

theorem core_undoze (s : State) (c d : Nat) : core (modCore s c (fun k => { k with doze := false })) d =
    { core s d with doze := if c = d then false else (core s d).doze } := by
  rw [modCore, core_setCore]
  split
  · next e => rw [e]
  · rfl

theorem circWrite_lands {s : State} {m : TokMsg} (h : Lands s m) : TokenIn s (modCore (landTail
    (circWrite s m.dcore (circ s m.dcore m.dreg) (circ s m.dcore m.dreg).tail (padTo (m.units * 4096) m.data)).1
    m.dcore m.dreg m.tag m.units) m.dcore (fun k => { k with doze := false })) m := by
  have hlen := length_padTo (m.units * 4096) m.data
  have hin (j : Nat) (hj : j < m.units * 4096) := mget_circWrite_in h.poison h.canonical h.bytes_pos (c := m.dcore)
    (count := (circ s m.dcore m.dreg).tail) (ds := padTo (m.units * 4096) m.data) (by rw [hlen]; exact h.fits) (hlen.symm ▸ hj)
  have hout (a : Nat) (ha) := mget_circWrite_out h.poison h.canonical h.bytes_pos (c := m.dcore) (a := a)
    (count := (circ s m.dcore m.dreg).tail) (ds := padTo (m.units * 4096) m.data) (by rw [hlen]; exact h.fits) ha
  have hstored := circWrite_stored h.poison m.dcore (circ s m.dcore m.dreg) (circ s m.dcore m.dreg).tail (padTo (m.units * 4096) m.data)
  generalize (circWrite s _ _ _ _).1 = u at hin hout hstored
  have hpend (d : Nat) := landTail_pend u m.dcore m.dreg m.tag m.units d
  obtain ⟨v, hlist, hset⟩ := landTail_lands (s := u) (lt_of_circEndpoint h.permitted) m.dreg m.tag m.units
  generalize landTail u _ _ _ _ = w at hpend hset
  obtain ⟨res, hold, hself⟩ := hstored.core m.dcore
  have hcirc : circ u m.dcore m.dreg = circ s m.dcore m.dreg := by rw [circ, hself, ← circ]
  have hstore : w.store = u.store ∧ w.net = u.net ∧ w.dsp = u.dsp ∧ w.mem = u.mem := by
    rw [hset.store, hset.net, hset.dsp, hset.mem, hlist.eq]
    exact ⟨rfl, rfl, rfl, rfl⟩
  obtain ⟨hstore, hnet, hdsp, hmem⟩ := hstore
  have hseq (d : Nat) : (core v d).seq.run = (core s d).seq.run := by
    obtain ⟨res, hold, hd⟩ := hstored.core d
    by_cases hdc : d = m.dcore
    · subst hdc
      rw [hlist.seq]
      split
      · rw [hd]
        rfl
      · rw [hd]
    · rw [hlist.others d hdc, hd]
  have heq := hstored.eq
  constructor
  case bytes =>
    intro j hj
    rw [modCore_mem, hmem, hin j hj, getD_padTo hj]
  case others =>
    intro a ha
    rw [modCore_mem, hmem]
    exact hout a fun j hj => ha j (hlen ▸ hj)
  case circ =>
    have hw := hset.circ m.dcore m.dreg
    rw [circ, core_modCore_self, ← circ, hw, circ, hlist.self, tgetD_tset_self, hcirc]
  case doze => rw [core_modCore_self]
  case token =>
    intro hmask
    have hv : (core v m.dcore).seq.ip.getLsbD 1 = true := by
      rw [hlist.seq, hself, if_pos hmask]
      exact tokenSet_token _ _
    rw [core_modCore_self, (hset.seq m.dcore).eq]
    exact hv
  case store => rw [modCore_store, hstore, heq]
  case net => rw [modCore_net, hnet, heq]
  case dsp => rw [modCore_dsp, hdsp, heq]
  case run =>
    intro d hd
    rw [core_undoze]
    exact (hset.seq d).ending (hseq d ▸ hd)
  case pend =>
    intro d
    obtain ⟨res, hold, hd⟩ := hstored.core d
    rw [core_undoze, hpend, hd]

theorem tokenLanded_lands {s : State} {m : TokMsg} (h : Lands s m) : TokenIn s (tokenLanded s m) m := by
  rw [tokenLanded, if_pos h.same, landTok_lands h]
  exact circWrite_lands h

/-- A token in time, from the region's producer, is written at TAIL (R236, R241, R242, R436). -/
theorem remoteWrite_lands {s : State} {ix : Nat} {m : TokMsg} (hd : domainsUp s = true) (hm : s.net.toks[ix]? = some m)
    (hc : (core s m.core).seq.run ≠ .ending) (hdc : (core s m.dcore).seq.run ≠ .ending) (h : Lands s m) (hh : noHold s = true) :
    let y := circ s m.dcore m.dreg
    let n := m.units * 4096
    let at_ (j : Nat) : Nat := spBase m.dcore + y.base * 4096 + (y.tail + j) % (y.size * 4096)
    Completes (.remoteWrite ix .clean) s (fun t => t.net.toks = s.net.toks.eraseIdx ix ∧
      (∀ j, j < n → mget t.mem (at_ j) = m.data.getD j 0) ∧ (∀ a, (∀ j, j < n → a ≠ at_ j) → mget t.mem a = mget s.mem a) ∧
      (circ t m.dcore m.dreg).tail = (y.tail + n) % (2 * (y.size * 4096)) ∧ (circ t m.dcore m.dreg).head = y.head ∧
      (circ t m.dcore m.dreg).toks = y.toks ++ [{ tag := m.tag, units := m.units }] ∧ (core t m.dcore).doze = false ∧
      ((core s m.dcore).seq.imask.getLsbD (16 + m.dreg) = true → (core t m.dcore).seq.ip.getLsbD 1 = true) ∧
      t.store = s.store ∧ (PendQuiet (core s m.core) m.ord → t.dsp = s.dsp)) := by
  intro y n at_
  have hin := tokenLanded_lands (h.taken ix)
  refine ⟨_, (execRemoteWrite_clean hd hm).trans (congrArg _ (waitHold_of_noHold hh _ _)), ?_⟩
  obtain ⟨d, hset, hquiet⟩ := afterLanding_settled (m := m) (hin.run _ hc) (hin.run _ hdc)
  generalize tokenLanded (tokenTaken s ix) m = u at hin hset hquiet
  have hcirc : circ (afterLanding u m) m.dcore m.dreg = tokenAdded y m.tag m.units := (hset.circ _ _).trans hin.circ
  refine ⟨?_, ?_, ?_, ?_, ?_, ?_, ?_, ?_, ?_, ?_⟩
  · rw [hset.net]
    exact congrArg Net.toks hin.net
  · intro j hj
    rw [hset.mem]
    exact hin.bytes j hj
  · intro a ha
    rw [hset.mem]
    exact hin.others a ha
  · rw [hcirc]
    rfl
  · rw [hcirc]
    rfl
  · rw [hcirc]
    rfl
  · rw [hset.core]
    exact hin.doze
  · intro hmask
    rw [(hset.seq _).eq]
    exact hin.token hmask
  · rw [hset.store]
    exact hin.store
  · intro hq
    rw [hset.dsp]
    exact (hquiet (by unfold PendQuiet; rw [hin.pend]; exact hq)).trans hin.dsp

/-! ## A token that is refused or stale -/

/-- What a token that is not taken leaves: the core's ingress count or DSP_LATE_DROPS at most, and DOZE. -/
structure TokenOut (s u : State) (m : TokMsg) : Prop where
  eq : u = { s with cores := u.cores, obs.ctr := u.obs.ctr }
  core : ∀ d, core u d = { core s d with doze := (core u d).doze }
  ingress : writerOk (circ s m.dcore m.dreg) m.writer = false ∨ workGen s m.work ≠ m.gen →
    ctr u (coreCtr m.dcore 0x248) = ctr s (coreCtr m.dcore 0x248) + 1
  late : writerOk (circ s m.dcore m.dreg) m.writer = true → ctr u 0x020 = ctr s 0x020 + 1

theorem ctr_ingressRefused (s : State) (c : Nat) :
    ctr (ingressRefused s c) (coreCtr c 0x248) = ctr s (coreCtr c 0x248) + 1 ∧ ctr (ingressRefused s c) 0x020 = ctr s 0x020 :=
  ⟨ctr_ctrAdd _ _ _, ctr_ctrAdd_ne _ (by unfold coreCtr; omega) _⟩

theorem ctr_lateDrop (s : State) : ctr (lateDrop s) 0x020 = ctr s 0x020 + 1 := ctr_ctrAdd _ _ _

theorem ctr_lateDrop_core (s : State) (c o : Nat) : ctr (lateDrop s) (coreCtr c o) = ctr s (coreCtr c o) :=
  ctr_ctrAdd_ne _ (by unfold coreCtr; omega) _

theorem landTok_unowned {s : State} {m : TokMsg} (h : writerOk (circ s m.dcore m.dreg) m.writer = false) :
    landTok s m = ingressRefused s m.dcore := by
  rw [landTok]
  exact if_pos (by rw [h]; decide)

theorem landTok_stale {s : State} {m : TokMsg} (h : writerOk (circ s m.dcore m.dreg) m.writer = true)
    (hw : sameWork s m.dcore m.work m.gen = false) : landTok s m = staleWrite s m.dcore m.work m.gen := by
  rw [landTok]
  refine (if_neg (by rw [h]; decide)).trans ?_
  exact if_pos (by rw [hw]; decide)

theorem TokenOut.undoze {s u : State} {m : TokMsg} (h : TokenOut s u m) :
    TokenOut s (modCore u m.dcore (fun k => { k with doze := false })) m where
  eq := by
    have heq := h.eq
    rw [modCore, setCore, heq]
  core d := by
    rw [core_undoze, h.core]
  ingress := h.ingress
  late := h.late

theorem tokenLanded_out {s : State} {m : TokMsg}
    (h : writerOk (circ s m.dcore m.dreg) m.writer = false ∨ sameWork s m.dcore m.work m.gen = false) : TokenOut s (tokenLanded s m) m := by
  have hland : TokenOut s (landTok s m) m := by
    cases hw : writerOk (circ s m.dcore m.dreg) m.writer with
    | false =>
      rw [landTok_unowned hw]
      exact ⟨rfl, fun _ => rfl, fun _ => (ctr_ingressRefused s m.dcore).1, fun h => by rw [hw] at h; cases h⟩
    | true =>
      rw [landTok_stale hw (h.resolve_left (by rw [hw]; decide)), staleWrite]
      split
      · next hg =>
        simp only [Bool.and_eq_true, beq_iff_eq] at hg
        refine ⟨rfl, fun _ => rfl, fun hr => ?_, fun _ => ctr_lateDrop s⟩
        rcases hr with hr | hr
        · rw [hw] at hr; cases hr
        · exact absurd hg.1 hr
      · refine ⟨rfl, fun _ => rfl, fun _ => ?_, fun _ => ?_⟩
        · rw [ctr_lateDrop_core, (ctr_ingressRefused s m.dcore).1]
        · rw [ctr_lateDrop, (ctr_ingressRefused s m.dcore).2]
  unfold tokenLanded
  split
  · exact hland.undoze
  · exact hland

/-- A token of another writer, or of another work or generation, is discarded and counted (R212, R241). -/
theorem remoteWrite_drops {s : State} {ix : Nat} {m : TokMsg} (hd : domainsUp s = true) (hm : s.net.toks[ix]? = some m)
    (hc : (core s m.core).seq.run ≠ .ending) (hdc : (core s m.dcore).seq.run ≠ .ending)
    (h : writerOk (circ s m.dcore m.dreg) m.writer = false ∨ sameWork s m.dcore m.work m.gen = false) :
    let y := circ s m.dcore m.dreg
    Completes (.remoteWrite ix .clean) s (fun t => t.net.toks = s.net.toks.eraseIdx ix ∧ circ t m.dcore m.dreg = y ∧
      (writerOk y m.writer = false ∨ workGen s m.work ≠ m.gen →
        ctr t (coreCtr m.dcore 0x248) = ctr s (coreCtr m.dcore 0x248) + 1) ∧
      (writerOk y m.writer = true → ctr t 0x020 = ctr s 0x020 + 1) ∧ t.mem = s.mem ∧ t.store = s.store ∧
      (PendQuiet (core s m.core) m.ord → t.dsp = s.dsp)) := by
  intro y
  have hout := tokenLanded_out (s := tokenTaken s ix) h
  have hrun (d : Nat) : (core (tokenLanded (tokenTaken s ix) m) d).seq = (core s d).seq := by
    rw [hout.core]
    rfl
  refine ⟨_, execRemoteWrite_clean hd hm, ?_⟩
  obtain ⟨d, hset, hquiet⟩ := afterLanding_settled (u := tokenLanded (tokenTaken s ix) m) (m := m) (by rw [hrun]; exact hc)
    (by rw [hrun]; exact hdc)
  generalize tokenLanded (tokenTaken s ix) m = u at hout hrun hset hquiet
  have hwait : waitHold none s (afterLanding u m) = afterLanding u m := by
    refine waitHold_of_seqs (fun c _ => ?_) fun _ => ?_
    · rw [(hset.seq c).res]
      exact congrArg Seq.res (hrun c)
    · rw [hset.swi.res]
      exact congrArg (·.swi.res) hout.eq
  rw [hwait]
  have heq := hout.eq
  refine ⟨?_, ?_, fun hr => ?_, fun hr => ?_, ?_, ?_, fun hq => ?_⟩
  · rw [hset.net]
    exact congrArg (·.net.toks) heq
  · refine (hset.circ _ _).trans ?_
    show circ u m.dcore m.dreg = _
    rw [circ, hout.core]
    rfl
  · exact (hset.ctr _ (unrecorded_coreCtr _ (by decide) (by decide))).trans (hout.ingress hr)
  · exact (hset.ctr _ (unrecorded_low (by decide))).trans (hout.late hr)
  · rw [hset.mem]
    exact congrArg (·.mem) heq
  · rw [hset.store]
    exact congrArg (·.store) heq
  · have hpend : PendQuiet (core u m.core) m.ord := by
      rw [hout.core]
      exact hq
    rw [hset.dsp]
    exact (hquiet hpend).trans (congrArg (·.dsp) heq)

end Sys2Proof.Machine
end

section
/-! PROOFS. Frames that the tray issues, and the credits of circular regions (08_jobs_and_dispatch.md R212; 09_cores_and_scratchpad.md R243,
R244; 21_fabric_routing_and_remote_operations.md R510, R520, R528). -/

namespace Sys2Proof.Machine

/-! ## Frames (R510, R518, R528) -/

/-- `t` is `s` but for the fabric, what goes out on it, and the counters of its ports. -/
structure Framed (s t : State) : Prop where
  eq : t = { s with fab := t.fab, fabOut := t.fabOut, obs.ctr := t.obs.ctr }
  ctr : ∀ off, off < 0x400 ∨ 0x100000 ≤ off → ctr t off = ctr s off

theorem Framed.refl (s : State) : Framed s s := ⟨rfl, fun _ _ => rfl⟩

theorem Framed.trans {a b c : State} (h : Framed a b) (g : Framed b c) : Framed a c where
  eq := by
    have h1 := h.eq
    have h2 := g.eq
    rw [h1] at h2
    exact h2
  ctr off ho := (g.ctr off ho).trans (h.ctr off ho)

theorem Framed.foldl {α : Type} {f : State → α → State} (h : ∀ s x, Framed s (f s x)) (l : List α) (s : State) : Framed s (l.foldl f s) :=
  List.foldlRecOn l f (Framed.refl s) fun _ hb x _ => hb.trans (h _ x)

theorem Framed.core {s t : State} (h : Framed s t) (d : Nat) : Machine.core t d = Machine.core s d := by
  rw [h.eq]
  rfl

theorem issueFrame_framed (s : State) (node : Nat) (vc : Vc) (flits : Nat) : Framed s (issueFrame s node vc flits) := by
  unfold issueFrame
  dsimp only
  split
  · exact ⟨rfl, fun _ _ => rfl⟩
  · refine ⟨rfl, fun off ho => ctr_ctrAdd_ne s ?_ 1⟩
    have hout : entryOut (routeEntry s 6 node) < 2 ^ 3 := Nat.mod_lt _ (by decide)
    unfold portCtr
    omega

theorem sendTxn_framed (s : State) (dst : Nat) (op : TxnOp) (tcid slot : Nat) (gen : BitVec 16) (work : Option Nat) (core ord : Nat) :
    Framed s (sendTxn s dst op tcid slot gen work core ord) := by
  unfold sendTxn sendFrames
  refine Framed.trans ?_ (Framed.foldl (fun _ _ => issueFrame_framed _ _ _ _) _ _)
  exact ⟨rfl, fun _ _ => rfl⟩

theorem sendCredit_framed (s : State) (dst tcid slot : Nat) (gen : BitVec 16) (pcore ccore creg total : Nat) :
    Framed s (sendCredit s dst tcid slot gen pcore ccore creg total) := by
  unfold sendCredit
  refine Framed.trans ?_ (issueFrame_framed _ _ _ _)
  exact ⟨rfl, fun _ _ => rfl⟩

/-! ## Credits (R243, R244) -/

/-- A change of the counters of one region. -/
def atCounter (d r : Nat) (g : Nat → Nat) (x : Cred) : Cred := if x.core = d && x.region = r then { x with n := g x.n } else x

theorem find?_atCounter_self (d r : Nat) (g : Nat → Nat) (l : List Cred) :
    (l.map (atCounter d r g)).find? (fun x => x.core == d && x.region == r) =
      (l.find? (fun x => x.core == d && x.region == r)).map (fun x => { x with n := g x.n }) := by
  induction l with
  | nil => rfl
  | cons x l ih =>
    rw [List.map_cons]
    by_cases h : x.core = d ∧ x.region = r
    · simp [atCounter, h]
    · have hx : atCounter d r g x = x := if_neg (by simpa using h)
      rw [hx, List.find?_cons_of_neg (by simpa using h), List.find?_cons_of_neg (by simpa using h), ih]

theorem find?_atCounter_other {d r d' r' : Nat} (h : d' ≠ d ∨ r' ≠ r) (g : Nat → Nat) (l : List Cred) :
    (l.map (atCounter d r g)).find? (fun x => x.core == d' && x.region == r') = l.find? (fun x => x.core == d' && x.region == r') := by
  induction l with
  | nil => rfl
  | cons x l ih =>
    have hkey : (atCounter d r g x).core = x.core ∧ (atCounter d r g x).region = x.region := by
      unfold atCounter
      split <;> exact ⟨rfl, rfl⟩
    rw [List.map_cons]
    by_cases hx : x.core = d' ∧ x.region = r'
    · have hsame : atCounter d r g x = x := by
        refine if_neg ?_
        simp only [Bool.and_eq_true, decide_eq_true_eq]
        omega
      rw [hsame, List.find?_cons_of_pos (by simpa using hx), List.find?_cons_of_pos (by simpa using hx)]
    · rw [List.find?_cons_of_neg (by rw [hkey.1, hkey.2]; simpa using hx), List.find?_cons_of_neg (by simpa using hx), ih]

/-- Credits as the count that a search finds. -/
theorem creditOf_eq (k : Core) (d r : Nat) :
    creditOf k d r = ((k.creds.find? (fun x => x.core == d && x.region == r)).map (·.n)).getD 0 := by
  unfold creditOf
  split
  · next h => rw [h]; rfl
  · next h => rw [h]; rfl

theorem creditOf_spendCredit (k : Core) (d r n : Nat) : creditOf (spendCredit k d r n) d r = creditOf k d r - n := by
  have hmap : (spendCredit k d r n).creds = k.creds.map (atCounter d r (· - n)) := rfl
  rw [creditOf_eq, creditOf_eq, hmap, find?_atCounter_self]
  cases k.creds.find? (fun x => x.core == d && x.region == r) with
  | none => exact (Nat.zero_sub n).symm
  | some x => rfl

/-- A core counts credits for this region, or has a counter left for it. -/
def HasCounter (k : Core) (d r : Nat) : Prop := k.creds.any (fun z => z.core == d && z.region == r) = true ∨ k.creds.length < 16

theorem addCredit_creds (k : Core) (d r n : Nat) : (addCredit k d r n).creds =
    if k.creds.any (fun z => z.core == d && z.region == r) then k.creds.map (atCounter d r (· + n))
    else if k.creds.length < 16 then k.creds ++ [{ core := d, region := r, n := n }] else k.creds := by
  unfold addCredit
  split
  · rfl
  · split <;> rfl

theorem creditOf_addCredit_self {k : Core} {d r : Nat} (h : HasCounter k d r) (n : Nat) :
    creditOf (addCredit k d r n) d r = creditOf k d r + n := by
  rw [creditOf_eq, creditOf_eq, addCredit_creds]
  split
  · next hany =>
    obtain ⟨x, hx⟩ := Option.isSome_iff_exists.mp (List.find?_isSome.mpr (List.any_eq_true.mp hany))
    rw [find?_atCounter_self, hx]
    rfl
  · next hnone =>
    have hfind : k.creds.find? (fun x => x.core == d && x.region == r) = none := by simpa using hnone
    rw [if_pos (h.resolve_left hnone), List.find?_append, hfind]
    simp

theorem creditOf_addCredit_other (k : Core) {d r d' r' : Nat} (h : d' ≠ d ∨ r' ≠ r) (n : Nat) :
    creditOf (addCredit k d r n) d' r' = creditOf k d' r' := by
  have hnew : ([{ core := d, region := r, n := n }] : List Cred).find? (fun x => x.core == d' && x.region == r') = none := by
    rw [List.find?_singleton, if_neg]
    simp only [Bool.and_eq_true, beq_iff_eq]
    omega
  rw [creditOf_eq, creditOf_eq, addCredit_creds]
  split
  · rw [find?_atCounter_other h]
  · split
    · rw [List.find?_append, hnew, Option.or_none]
    · rfl

/-! ## CREDIT_RETURN (R212, R243 to R245) -/

/-- The tray without the credit message `ix`. -/
abbrev creditTaken (s : State) (ix : Nat) : State := { s with net := { s.net with creds := s.net.creds.eraseIdx ix } }

theorem creditReturn_late {s : State} {ix : Nat} {m : CredMsg} (hd : domainsUp s = true) (hm : s.net.creds[ix]? = some m)
    (h : flightLive s m.work m.gen = false) : execCreditReturn ix s = .next (lateDrop (creditTaken s ix)) := by
  have hl : flightLive (creditTaken s ix) m.work m.gen = false := h
  unfold execCreditReturn
  refine (if_neg (by rw [hd]; decide)).trans ?_
  rw [hm]
  exact if_pos (by rw [hl]; rfl)

theorem creditReturn_core {s : State} {ix : Nat} {m : CredMsg} (hd : domainsUp s = true) (hm : s.net.creds[ix]? = some m)
    (h : flightLive s m.work m.gen = true) (hp : m.pcore ≠ feedProducer) : execCreditReturn ix s =
      .next (modCore (creditTaken s ix) m.pcore (fun k => { addCredit k m.core m.region m.n with doze := false })) := by
  have hl : flightLive (creditTaken s ix) m.work m.gen = true := h
  unfold execCreditReturn
  refine (if_neg (by rw [hd]; decide)).trans ?_
  rw [hm]
  refine (if_neg (by rw [hl]; decide)).trans ?_
  rw [if_neg hp]

theorem creditReturn_feed {s : State} {ix : Nat} {m : CredMsg} (hd : domainsUp s = true) (hm : s.net.creds[ix]? = some m)
    (h : flightLive s m.work m.gen = true) (hp : m.pcore = feedProducer) : execCreditReturn ix s =
      .next (modCore (creditTaken s ix) m.core (fun k => { k with feeds := k.feeds.map (fun f =>
        if f.desc.dest = m.region then { f with credits := f.credits + m.n } else f) })) := by
  have hl : flightLive (creditTaken s ix) m.work m.gen = true := h
  unfold execCreditReturn
  refine (if_neg (by rw [hd]; decide)).trans ?_
  rw [hm]
  refine (if_neg (by rw [hl]; decide)).trans ?_
  rw [if_pos hp]

/-- A credit return adds its credits to the one counter or feed; one of an older generation is discarded and counted. -/
theorem creditReturn_adds {s : State} {ix : Nat} {m : CredMsg} (hd : domainsUp s = true) (hm : s.net.creds[ix]? = some m) :
    let live := flightLive s m.work m.gen
    (live = false → Completes (.creditReturn ix) s (fun t => ctr t 0x020 = ctr s 0x020 + 1 ∧
      t = { s with net.creds := s.net.creds.eraseIdx ix, obs.ctr := t.obs.ctr })) ∧
    (live = true → m.pcore ≠ feedProducer → HasCounter (core s m.pcore) m.core m.region → Completes (.creditReturn ix) s (fun t =>
      creditOf (core t m.pcore) m.core m.region = creditOf (core s m.pcore) m.core m.region + m.n ∧
      (∀ d r, d ≠ m.core ∨ r ≠ m.region → creditOf (core t m.pcore) d r = creditOf (core s m.pcore) d r) ∧
      (∀ d, d ≠ m.pcore → core t d = core s d) ∧ (core t m.pcore).doze = false ∧
      t = { s with net.creds := s.net.creds.eraseIdx ix, cores := t.cores })) ∧
    (live = true → m.pcore = feedProducer → Completes (.creditReturn ix) s (fun t =>
      core t m.core = { core s m.core with feeds := (core s m.core).feeds.map (fun f =>
        if f.desc.dest = m.region then { f with credits := f.credits + m.n } else f) } ∧ (∀ d, d ≠ m.core → core t d = core s d) ∧
      t = { s with net.creds := s.net.creds.eraseIdx ix, cores := t.cores })) := by
  refine ⟨fun hl => ⟨_, creditReturn_late hd hm hl, ctr_lateDrop _, rfl⟩,
    fun hl hp hc => ⟨_, creditReturn_core hd hm hl hp, ?_, fun d r hne => ?_, fun d hne => core_modCore_ne _ (Ne.symm hne) _, ?_, rfl⟩,
    fun hl hp => ⟨_, creditReturn_feed hd hm hl hp, core_modCore_self _ _ _, fun d hne => core_modCore_ne _ (Ne.symm hne) _, rfl⟩⟩
  · rw [core_modCore_self]
    exact creditOf_addCredit_self hc _
  · rw [core_modCore_self]
    exact creditOf_addCredit_other _ hne _
  · rw [core_modCore_self]

end Sys2Proof.Machine
end

section
/-! PROOFS. STEER, and the statement on tokens and credits (08_jobs_and_dispatch.md R212; 09_cores_and_scratchpad.md R236, R241 to R244;
11_sequencer_and_tile_instructions.md R301; 17_tiling_buckets_and_chains.md R436, R440, R441). -/

namespace Sys2Proof.Machine

/-! ## The release of a token (R243, R436) -/

/-- What a grant of a region's credits changes: messages to the producer, and the region's total. -/
structure CreditsSent (s t : State) (c r : Nat) : Prop where
  eq : t = { s with cores := t.cores, net.creds := t.net.creds, fab := t.fab, fabOut := t.fabOut, obs.ctr := t.obs.ctr }
  core : ∀ d, core t d = { core s d with circ := (core t d).circ }
  self : ∃ n, circ t c r = { circ s c r with total := n }
  ctr : ∀ off, 0x100000 ≤ off → ctr t off = ctr s off

theorem core_setCirc (s : State) (c r : Nat) (x : Circ) (d : Nat) :
    core (setCirc s c r x) d = if c = d then { core s c with circ := tset (core s c).circ r x } else core s d := by
  rw [setCirc, modCore, core_setCore]

theorem circ_setCirc (s : State) (c r : Nat) (x : Circ) : circ (setCirc s c r x) c r = x := by
  rw [circ, core_setCirc, if_pos rfl, tgetD_tset_self]

theorem setCirc_sent (s : State) (c r n : Nat) : CreditsSent s (setCirc s c r { circ s c r with total := n }) c r where
  eq := rfl
  core d := by
    rw [core_setCirc]
    split
    · next e => rw [e]
    · rfl
  self := ⟨n, circ_setCirc _ _ _ _⟩
  ctr _ _ := rfl

theorem CreditsSent.framed {s t u : State} {c r : Nat} (h : CreditsSent s t c r) (g : Framed t u) : CreditsSent s u c r where
  eq := by
    have h1 := h.eq
    have h2 := g.eq
    have hcores : u.cores = t.cores := by rw [h2]
    have hnet : u.net = t.net := by rw [h2]
    rw [h1] at h2
    rw [hcores, hnet]
    exact h2
  core d := by rw [g.core, h.core]
  self := by
    rw [circ, g.core, ← circ]
    exact h.self
  ctr off ho := (g.ctr off (.inr ho)).trans (h.ctr off ho)

theorem sendTotal_framed (s : State) (c r : Nat) : Framed s (sendTotal s c r) := by
  unfold sendTotal
  split
  · exact Framed.refl s
  · split
    · exact Framed.refl s
    · exact sendCredit_framed _ _ _ _ _ _ _ _ _

theorem grantCredits_sent (s : State) (c r n : Nat) : CreditsSent s (grantCredits s c r n) c r := by
  unfold grantCredits
  split
  · exact ⟨rfl, fun _ => rfl, ⟨_, rfl⟩, fun _ _ => rfl⟩
  · dsimp only
    split
    · exact (setCirc_sent s c r _).framed (sendTotal_framed _ _ _)
    · exact ⟨rfl, fun _ => rfl, ⟨_, rfl⟩, fun _ _ => rfl⟩

/-! ## Issue (R304) -/

/-- An engine's row whose queue head may issue, with no hold under way. -/
theorem engineRow_issues {s : State} {c e w : Nat} {ops : List Nat} {ranges : Core → Nat → List Rng} {ready : Core → Nat → Bool}
    {q : QEnt} (body : State → Nat → QEnt → State) (hd : domainsUp s = true) (hi : issues (core s c) e ops (ranges (core s c)) = some q)
    (hw : (core s c).work = some w) (hr : ready (core s c) q.inst = true) (hh : noHold s = true) :
    engineRow s c e ops ranges ready body = settle (body (Taken s c e) w q) c := by
  unfold engineRow
  refine (if_neg (by rw [hd]; decide)).trans ?_
  simp only [hi, hw]
  rw [if_pos hr, waitHold_of_noHold hh]

/-! ## STEER (R440, R441) -/

/-- The tray once a STEER has sent its token: credits spent, the instruction pending, and its side counted. -/
def steered (u : State) (c w : Nat) (q : QEnt) (units : Nat) : State :=
  let bs := oldestTok u c (tSreg q.inst)
  let d := steerSide q.inst bs
  let dc := mapCore (core u c) d.1
  let p : PendI := { eng := 7, ord := q.ord, left := 1, word := 0, cycles := 0 }
  let v := countCore (setCore u c { spendCredit (core u c) dc d.2 units with pend := (core u c).pend ++ [p] }) c
    (if steerCond q.inst bs then 0x208 else 0x200) 1
  let m : TokMsg := { writer := coreUnit c, core := c, ord := q.ord, dcore := dc, dreg := d.2, tag := iTag q.inst,
                      units := units, data := bs, work := w, gen := workGen v w, tcid := workTcid v w }
  { v with net.toks := v.net.toks ++ [m] }

/-- A STEER finds its region's oldest token, which it may read, in clean words. -/
structure Steers (u : State) (c w : Nat) (i units : Nat) : Prop where
  tok : steerTok u c i = some (units, oldestTok u c (tSreg i))
  valid : steerInvalid (core u c) i units = false
  gb : ∀ d, (core u d).gb = []
  poison : u.ecc.poison = []
  latent : u.ecc.latent = []
  permitted : circEndpoint u c (circ u c (tSreg i)) (workTcid u w) (circ u c (tSreg i)).head (units * 4096) false = .ok

theorem tokEcc_clean {u : State} (hp : u.ecc.poison = []) (hl : u.ecc.latent = []) (c w : Nat) (x : Circ) (n : Nat) :
    tokEcc u c w x n = (u, true) := by
  unfold tokEcc
  simp only [eccRead_clean hp hl, ite_self]

theorem have_eq {α β : Sort _} {v : α} {f : α → β} {r : β} (h : f v = r) : (have x := v; f x) = r := h

theorem steerBody_steers {u : State} {c w : Nat} {q : QEnt} {units : Nat} (h : Steers u c w q.inst units) : steerBody c u w q =
    if tRelease q.inst then (releaseTok (steered u c w q units) c (tSreg q.inst)).getD (steered u c w q units)
    else steered u c w q units := by
  have hpermit := h.permitted
  rw [steerBody]
  simp only [h.tok]
  refine (if_neg (by rw [h.valid]; decide)).trans ?_
  refine have_eq ?_
  rw [hpermit, flushGb_nil h.gb, tokEcc_clean h.poison h.latent]
  exact rfl

/-! ## What the steps after the sending keep (R243, R441) -/

/-- What the steps after the sending of a token keep of it: the token, the credits and the counters, memory, and the stores. -/
structure SentKept (s t : State) : Prop where
  toks : t.net.toks = s.net.toks
  creds : ∀ d, (core t d).creds = (core s d).creds
  ctr : ∀ c o, 0x200 ≤ o → o < 0x1000 → ctr t (coreCtr c o) = ctr s (coreCtr c o)
  mem : t.mem = s.mem
  store : t.store = s.store
  dsp : t.dsp = s.dsp

theorem SentKept.trans {a b c : State} (h : SentKept a b) (g : SentKept b c) : SentKept a c where
  toks := g.toks.trans h.toks
  creds d := (g.creds d).trans (h.creds d)
  ctr d o ho ho' := (g.ctr d o ho ho').trans (h.ctr d o ho ho')
  mem := g.mem.trans h.mem
  store := g.store.trans h.store
  dsp := g.dsp.trans h.dsp

theorem Settled.sentKept {s t : State} (h : Settled s t) : SentKept s t where
  toks := congrArg (·.toks) h.net
  creds d := by rw [h.core d]
  ctr c _ ho ho' := h.ctr _ (unrecorded_coreCtr c ho ho')
  mem := h.mem
  store := h.store
  dsp := h.dsp

theorem CreditsSent.sentKept {s t : State} {c r : Nat} (h : CreditsSent s t c r) : SentKept s t where
  toks := by rw [h.eq]
  creds d := by rw [h.core d]
  ctr d o _ _ := h.ctr _ (by unfold coreCtr; omega)
  mem := by rw [h.eq]
  store := by rw [h.eq]
  dsp := by rw [h.eq]

theorem setCirc_sentKept (s : State) (c r : Nat) (x : Circ) : SentKept s (setCirc s c r x) where
  toks := rfl
  creds d := by
    rw [core_setCirc]
    split
    · next e => rw [e]
    · rfl
  ctr _ _ _ _ := rfl
  mem := rfl
  store := rfl
  dsp := rfl

/-- A region without its oldest token. -/
def Circ.popped (x : Circ) (rest : List Tok) (units : Nat) : Circ := { x with toks := rest, head := (x.head + units * 4096) % (2 * x.bytes) }

theorem releaseTok_cons {s : State} {c r : Nat} {tk : Tok} {rest : List Tok} (h : (circ s c r).toks = tk :: rest) :
    releaseTok s c r = some (grantCredits (setCirc s c r ((circ s c r).popped rest tk.units)) c r tk.units) := by
  unfold releaseTok
  simp only [h]
  rfl

/-- The state once a STEER has sent its token and, with RELEASE, dropped it from its region. -/
def steeredOn (u : State) (c w : Nat) (q : QEnt) (tk : Tok) (rest : List Tok) : State :=
  let v := steered u c w q tk.units
  if tRelease q.inst then
    grantCredits (setCirc v c (tSreg q.inst) ((circ v c (tSreg q.inst)).popped rest tk.units)) c (tSreg q.inst) tk.units
  else v

theorem core_steered (u : State) (c w : Nat) (q : QEnt) (units d : Nat) :
    let side := steerSide q.inst (oldestTok u c (tSreg q.inst))
    core (steered u c w q units) d = if c = d then
      { spendCredit (core u c) (mapCore (core u c) side.1) side.2 units with
        pend := (core u c).pend ++ [{ eng := 7, ord := q.ord, left := 1, word := 0, cycles := 0 }] } else core u d :=
  core_setCore ..

theorem circ_steered (u : State) (c w : Nat) (q : QEnt) (units d r : Nat) : circ (steered u c w q units) d r = circ u d r := by
  rw [circ, core_steered]
  dsimp only
  split
  · next e => exact e ▸ rfl
  · rfl

theorem steered_rests (u : State) (c w : Nat) (q : QEnt) (units : Nat) :
    (steered u c w q units).mem = u.mem ∧ (steered u c w q units).store = u.store ∧ (steered u c w q units).dsp = u.dsp := ⟨rfl, rfl, rfl⟩

theorem run_steered (u : State) (c w : Nat) (q : QEnt) (units d : Nat) : (core (steered u c w q units) d).seq = (core u d).seq := by
  rw [core_steered]
  dsimp only
  split
  · next e => exact e ▸ rfl
  · rfl

/-- A STEER has sent its token to a position and region, spent its credits, and counted the side. -/
structure SentTo (s t : State) (c w : Nat) (q : QEnt) (tk : Tok) (bs : List Byte) (side : Nat × Nat) (off : Nat) : Prop where
  token : ∃ m : TokMsg, t.net.toks = s.net.toks ++ [m] ∧ m.data = bs ∧ m.units = tk.units ∧ m.tag = iTag q.inst ∧
    m.dcore = mapCore (core s c) side.1 ∧ m.dreg = side.2 ∧ m.writer = coreUnit c ∧ m.work = w ∧ m.ord = q.ord
  credits : creditOf (core t c) (mapCore (core s c) side.1) side.2 = creditOf (core s c) (mapCore (core s c) side.1) side.2 - tk.units
  counted : ctr t (coreCtr c off) = ctr s (coreCtr c off) + 1

theorem SentTo.kept {s t u : State} {c w : Nat} {q : QEnt} {tk : Tok} {bs : List Byte} {side : Nat × Nat} {off : Nat}
    (h : SentTo s t c w q tk bs side off) (ho : 0x200 ≤ off) (ho' : off < 0x1000) (g : SentKept t u) : SentTo s u c w q tk bs side off where
  token := by
    rw [g.toks]
    exact h.token
  credits := by
    rw [creditOf_eq, g.creds, ← creditOf_eq]
    exact h.credits
  counted := (g.ctr c off ho ho').trans h.counted

theorem steered_sent (u : State) (c w : Nat) (q : QEnt) (tk : Tok) :
    let bs := oldestTok u c (tSreg q.inst)
    SentTo u (steered u c w q tk.units) c w q tk bs (steerSide q.inst bs) (if steerCond q.inst bs then 0x208 else 0x200) where
  token := ⟨_, rfl, rfl, rfl, rfl, rfl, rfl, rfl, rfl, rfl⟩
  credits := by
    rw [core_steered]
    dsimp only
    rw [if_pos rfl]
    exact creditOf_spendCredit _ _ _ _
  counted := ctr_ctrAdd _ _ _

theorem SentTo.of_taken {s t : State} {c w e : Nat} {q : QEnt} {tk : Tok} {bs : List Byte} {side : Nat × Nat} {off : Nat}
    (h : SentTo (Taken s c e) t c w q tk bs side off) : SentTo s t c w q tk bs side off := by
  obtain ⟨htok, hcred, hctr⟩ := h
  rw [core_setCore_self] at htok hcred
  exact ⟨htok, hcred, hctr⟩

theorem circ_taken (s : State) (c e d r : Nat) : circ (Taken s c e) d r = circ s d r := by
  rw [circ, core_setCore]
  split
  · next h => exact h ▸ rfl
  · rfl

theorem oldestTok_taken (s : State) (c e r : Nat) : oldestTok (Taken s c e) c r = oldestTok s c r := by
  unfold oldestTok
  rw [circ_taken]
  rfl

theorem oldestTok_cons {s : State} {c r : Nat} {tk : Tok} {rest : List Tok} (h : (circ s c r).toks = tk :: rest) :
    oldestTok s c r = circRead s c (circ s c r) (circ s c r).head (tk.units * 4096) := by
  unfold oldestTok
  simp only [h]

theorem steers_taken {s : State} {c w : Nat} {q : QEnt} {tk : Tok} {rest : List Tok}
    (hi : Issues s c 7 1 (fun _ _ => []) q w) (htoks : (circ s c (tSreg q.inst)).toks = tk :: rest) (htag : tk.tag = iTag q.inst)
    (hvalid : steerInvalid (core s c) q.inst tk.units = false)
    (hmay : circEndpoint s c (circ s c (tSreg q.inst)) (workTcid s w) (circ s c (tSreg q.inst)).head (tk.units * 4096) false = .ok) :
    Steers (Taken s c 7) c w q.inst tk.units := by
  obtain ⟨-, -, -, -, hgb, hpoison, hlatent, -, -⟩ := hi
  refine ⟨?_, ?_, fun d => ?_, hpoison, hlatent, ?_⟩
  · unfold steerTok
    rw [circ_taken]
    simp only [htoks, htag, if_true]
  · rw [core_setCore_self]
    exact hvalid
  · rw [core_setCore]
    split
    · exact hgb c
    · exact hgb d
  · have hstore : circEndpoint (Taken s c 7) = circEndpoint s := circEndpoint_store rfl
    rw [hstore, circ_taken]
    exact hmay

theorem steerBody_steeredOn {u : State} {c w : Nat} {q : QEnt} {tk : Tok} {rest : List Tok} (h : Steers u c w q.inst tk.units)
    (htoks : (circ u c (tSreg q.inst)).toks = tk :: rest) : steerBody c u w q = steeredOn u c w q tk rest := by
  have hrel := releaseTok_cons (s := steered u c w q tk.units) (c := c) (r := tSreg q.inst) (tk := tk) (rest := rest)
    (by rw [circ_steered]; exact htoks)
  rw [steerBody_steers h, hrel]
  rfl

/-- What is done with the region that a STEER reads: nothing, or with RELEASE its oldest token leaves. -/
structure Released (s t : State) (c r : Nat) (rest : List Tok) (units : Nat) (release : Bool) : Prop where
  stays : release = false → circ t c r = circ s c r
  toks : release = true → (circ t c r).toks = rest
  head : release = true → (circ t c r).head = ((circ s c r).head + units * 4096) % (2 * (circ s c r).bytes)
  kept : SentKept s t
  seq : ∀ d, (core t d).seq = (core s d).seq

theorem steeredOn_released (u : State) (c w : Nat) (q : QEnt) (tk : Tok) (rest : List Tok) :
    Released (steered u c w q tk.units) (steeredOn u c w q tk rest) c (tSreg q.inst) rest tk.units (tRelease q.inst) := by
  unfold steeredOn
  dsimp only
  generalize steered u c w q tk.units = v
  generalize tSreg q.inst = r
  cases tRelease q.inst with
  | false =>
    exact ⟨fun _ => rfl, nofun, nofun, ⟨rfl, fun _ => rfl, fun _ _ _ _ => rfl, rfl, rfl, rfl⟩, fun _ => rfl⟩
  | true =>
    have hset := setCirc_sentKept v c r ((circ v c r).popped rest tk.units)
    have hgrant := grantCredits_sent (setCirc v c r ((circ v c r).popped rest tk.units)) c r tk.units
    obtain ⟨n, hn⟩ := hgrant.self
    rw [circ_setCirc] at hn
    refine ⟨nofun, fun _ => ?_, fun _ => ?_, hset.trans hgrant.sentKept, fun d => ?_⟩
    · rw [if_pos rfl, hn]
      rfl
    · rw [if_pos rfl, hn]
      rfl
    · rw [if_pos rfl, hgrant.core, core_setCirc]
      split
      · next e => rw [e]
      · rfl

/-- A STEER that issues sends its region's oldest token to the side that its predicate selects (R440, R441). -/
theorem route_steers {s : State} {c : CoreId} {w : Nat} {q : QEnt} {tk : Tok} {rest : List Tok}
    (hi : Issues s c.val 7 1 (fun _ _ => []) q w) (hready : steerReady s c.val (core s c.val) q.inst = true)
    (htoks : (circ s c.val (tSreg q.inst)).toks = tk :: rest) (htag : tk.tag = iTag q.inst)
    (hvalid : steerInvalid (core s c.val) q.inst tk.units = false)
    (hmay : circEndpoint s c.val (circ s c.val (tSreg q.inst)) (workTcid s w) (circ s c.val (tSreg q.inst)).head (tk.units * 4096) false = .ok) :
    let x := circ s c.val (tSreg q.inst)
    let bs := circRead s c.val x x.head (tk.units * 4096)
    Completes (.route c) s (fun t =>
      SentTo s t c.val w q tk bs (steerSide q.inst bs) (if steerCond q.inst bs then 0x208 else 0x200) ∧
      (tRelease q.inst = false → (circ t c.val (tSreg q.inst)) = x) ∧
      (tRelease q.inst = true → (circ t c.val (tSreg q.inst)).toks = rest ∧
        (circ t c.val (tSreg q.inst)).head = (x.head + tk.units * 4096) % (2 * (x.size * 4096))) ∧
      t.mem = s.mem ∧ t.store = s.store ∧ t.dsp = s.dsp) := by
  intro x bs
  have htaken : (circ (Taken s c.val 7) c.val (tSreg q.inst)).toks = tk :: rest := by
    rw [circ_taken]
    exact htoks
  have hbs : oldestTok (Taken s c.val 7) c.val (tSreg q.inst) = bs := by
    rw [oldestTok_taken, oldestTok_cons htoks]
  have hsteers := steers_taken hi htoks htag hvalid hmay
  obtain ⟨hd, hiss, hw, hrun, -, -, -, hhold, -⟩ := hi
  have hexec : exec (.route c) s = .next (settle (steeredOn (Taken s c.val 7) c.val w q tk rest) c.val) := by
    show execRoute c s = _
    unfold execRoute
    rw [engineRow_issues _ hd hiss hw hready hhold, steerBody_steeredOn hsteers htaken]
  refine ⟨_, hexec, ?_⟩
  have hsent := steered_sent (Taken s c.val 7) c.val w q tk
  have hrel := steeredOn_released (Taken s c.val 7) c.val w q tk rest
  rw [hbs] at hsent
  have hset : Settled (steeredOn (Taken s c.val 7) c.val w q tk rest) (settle (steeredOn (Taken s c.val 7) c.val w q tk rest) c.val) := by
    refine settle_settled ?_
    rw [hrel.seq, run_steered, core_setCore_self]
    exact hrun
  generalize settle (steeredOn (Taken s c.val 7) c.val w q tk rest) c.val = t at hset
  have hkept := hrel.kept.trans hset.sentKept
  have hcirc : circ (steered (Taken s c.val 7) c.val w q tk.units) c.val (tSreg q.inst) = x := by rw [circ_steered, circ_taken]
  obtain ⟨hmem, hstore, hdsp⟩ := steered_rests (Taken s c.val 7) c.val w q tk.units
  dsimp only
  rw [hset.circ]
  refine ⟨(hsent.kept ?_ ?_ hkept).of_taken, fun hr => ?_, fun hr => ⟨hrel.toks hr, ?_⟩, hkept.mem.trans hmem, hkept.store.trans hstore,
    hkept.dsp.trans hdsp⟩
  · split <;> decide
  · split <;> decide
  · rw [hrel.stays hr, hcirc]
  · rw [hrel.head hr, hcirc]
    rfl

/-- Settles O49. The condition that the core counts credits for the region, or has a counter left, leaves out the credits of a 17th region
(log entry 89). -/
theorem tokensMoveUnderCredits : Obligations.TokensMoveUnderCredits := by
  unfold Obligations.TokensMoveUnderCredits
  intro s c q w k i x
  refine ⟨fun tk rest hi hready htoks htag hvalid hmay => ?_, fun ix m hd hm hc hdc => ?_, fun ix m hd hm => creditReturn_adds hd hm⟩
  · intro bs p v yes sent
    have hyes : yes ↔ steerCond i bs = true := by
      unfold yes steerCond
      dsimp only
      generalize tCond i = n
      match n with
      | 0 => exact beq_iff_eq.symm
      | 1 => exact bne_iff_ne.symm
      | 2 => exact (decide_eq_true_iff (p := p < v)).symm
      | n + 3 => exact (decide_eq_true_iff (p := v ≤ p)).symm
    obtain ⟨t, ht, hsent, hstays, hleaves, hkept⟩ := route_steers hi hready htoks htag hvalid hmay
    refine ⟨t, ht, fun hy => ?_, fun hn => ?_, hstays, hleaves, hkept⟩
    · have hcond := hyes.mp hy
      unfold steerSide at hsent
      rw [if_pos hcond, if_pos hcond] at hsent
      exact ⟨hsent.token, hsent.credits, hsent.counted⟩
    · have hcond := mt hyes.mpr hn
      unfold steerSide at hsent
      rw [if_neg hcond, if_neg hcond] at hsent
      exact ⟨hsent.token, hsent.credits, hsent.counted⟩
  · exact ⟨fun hwr hsame hgb hpoison hh hown hcan hfits _ hmay =>
        remoteWrite_lands hd hm hc hdc ⟨hwr, hsame, hgb, hpoison, hown, hcan, hfits, hmay⟩ hh, remoteWrite_drops hd hm hc hdc⟩

end Sys2Proof.Machine
end

section
/-! PROOFS. What work on the tray leaves of the dispatcher: memory and its checks, copies, records, the trace, the ledger, the fabric and
messages to the host change no job, no ring, no unit at FAULT, no message already on its way, and not the count of completions
(08_jobs_and_dispatch.md R205, R212, R214; 22_guarantees_and_arbitration.md R541). -/

namespace Sys2Proof.Machine

/-! ## The relation -/

/-- `t` has the jobs and rings of `s`, its units at FAULT, its messages to the host and its count of completions. -/
structure Spares (s t : State) : Prop where
  dsp : t.dsp = s.dsp
  rings : t.rings = s.rings
  fault : ∀ u, (unitRec s u).health = .fault → (unitRec t u).health = .fault
  out : s.hostOut <+: t.hostOut
  completed : ctr t 0x8 = ctr s 0x8

theorem Spares.refl (s : State) : Spares s s := ⟨rfl, rfl, fun _ => id, ⟨[], List.append_nil _⟩, rfl⟩

theorem Spares.trans {a b c : State} (h : Spares a b) (g : Spares b c) : Spares a c where
  dsp := g.dsp.trans h.dsp
  rings := g.rings.trans h.rings
  fault u hu := g.fault u (h.fault u hu)
  out := h.out.trans g.out
  completed := g.completed.trans h.completed

theorem Spares.foldl {α : Type} {f : State → α → State} (h : ∀ s x, Spares s (f s x)) (l : List α) (s : State) : Spares s (l.foldl f s) :=
  List.foldlRecOn l f (Spares.refl s) fun _ hb x _ => hb.trans (h _ x)

/-- What of a state the relation speaks of. -/
def sparedParts (s : State) : Dsp × Tab Ring × Tab UnitRec × List OutMsg × Tab (BitVec 64) :=
  (s.dsp, s.rings, s.errs.units, s.hostOut, s.obs.ctr)

theorem Spares.same {s t : State} (h : sparedParts t = sparedParts s) : Spares s t := by
  simp only [sparedParts, Prod.mk.injEq] at h
  obtain ⟨hdsp, hrings, hunits, hout, hctr⟩ := h
  refine ⟨hdsp, hrings, fun u hu => ?_, ?_, ?_⟩
  · rw [unitRec, hunits]
    exact hu
  · rw [hout]
  · rw [ctr, hctr, ← ctr]

theorem Wiped.spares {s t : State} (h : Wiped s t) : Spares s t := by
  rw [h]
  exact Spares.same rfl

theorem Framed.spares {s t : State} (h : Framed s t) : Spares s t where
  dsp := by rw [h.eq]
  rings := by rw [h.eq]
  fault u hu := by
    rw [h.eq]
    exact hu
  out := by rw [h.eq]
  completed := h.ctr _ (.inl (by decide))

/-! ## Counters, records and the trace (Tables 25-2 to 25-4, R588, R593, R594) -/

theorem ctrAdd_spares (s : State) {off : Nat} (h : off ≠ 0x8) (n : Nat) : Spares s (ctrAdd s off n) :=
  ⟨rfl, rfl, fun _ => id, ⟨[], List.append_nil _⟩, ctr_ctrAdd_ne _ h n⟩

theorem Spares.counted {s t : State} (h : Spares s t) {off : Nat} (hoff : off ≠ 0x8) (n : Nat) : Spares s (ctrAdd t off n) :=
  h.trans (ctrAdd_spares t hoff n)

theorem countCore_spares (s : State) (c off n : Nat) : Spares s (countCore s c off n) := ctrAdd_spares s (by unfold coreCtr; omega) n

theorem setCore_spares (s : State) (c : Nat) (k : Core) : Spares s (setCore s c k) := .same rfl

theorem modCore_spares (s : State) (c : Nat) (f : Core → Core) : Spares s (modCore s c f) := .same rfl

theorem draw_spares (s : State) (w : Nat) : Spares s (draw s w).2 := .same rfl

theorem pondPut_spares (s : State) (p : Nat) (r : TrcRec) : Spares s (pondPut s p r) := by
  have hput (b : PondBuf) : Spares s { s with obs.ponds := tset s.obs.ponds p b } := .same rfl
  unfold pondPut
  dsimp only
  split
  · split
    · exact (hput _).counted (by decide) _
    · exact (hput _).counted (by decide) _
  · split
    · exact (hput _).counted (by decide) _
    · split
      · exact ((hput _).counted (by decide) _).counted (by decide) _
      · exact (hput _).counted (by decide) _

theorem trcTake_spares (s : State) (r : TrcRec) : Spares s (trcTake s r) := by
  have hdropped (d : Tab Nat) : Spares s { s with obs.stagingDropped := d } := .same rfl
  unfold trcTake
  split
  · exact .refl s
  · split
    · exact pondPut_spares _ _ _
    · split
      · exact .same rfl
      · exact (hdropped _).counted (by decide) _

theorem traceCore_spares (s : State) (c : Nat) (ts : List Nat) (tag type arg : Nat) : Spares s (traceCore s c ts tag type arg) := by
  obtain h | ⟨r, h⟩ | h := traceCore_cases s c ts tag type arg <;> rw [h]
  · exact .refl s
  · exact trcTake_spares s r
  · exact ctrAdd_spares s (by decide) 1

theorem count_spares (s : State) (c word n : Nat) : Spares s (count s c word n) := by
  have hrec (r : Tab (Tab Nat)) : Spares s (if (core s c).work.isSome then setCore s c { core s c with recs := r } else s) := by
    split
    · exact setCore_spares _ _ _
    · exact .refl s
  unfold count
  dsimp only
  split
  · exact (hrec _).trans (countCore_spares _ _ _ _)
  · exact hrec _

theorem countStall_spares (s : State) (c code waiter n : Nat) : Spares s (countStall s c code waiter n) :=
  ((count_spares s c _ n).trans (countCore_spares _ _ _ _)).trans (countCore_spares _ _ _ _)

theorem stall_spares (s : State) (c code waiter n : Nat) : Spares s (stall s c code waiter n) := by
  unfold stall
  dsimp only
  split
  · exact .refl s
  · split
    · exact countStall_spares _ _ _ _ _
    · exact ((countStall_spares _ _ _ _ _).trans (traceCore_spares _ _ _ _ _ _)).trans (traceCore_spares _ _ _ _ _ _)

theorem freeStalls_spares (s : State) (c : Nat) : Spares s (freeStalls s c) := by
  unfold freeStalls
  dsimp only
  exact (draw_spares s _).trans (Spares.foldl (fun _ _ => countStall_spares _ _ _ _ _) _ _)

theorem pageRec_spares (s : State) (t : Nat) (r : Tab Nat) : Spares s (pageRec s t r) := by
  unfold pageRec
  split
  · exact .refl s
  · exact .same rfl

theorem keepRec_spares (s : State) (t : Nat) (r : Tab Nat) : Spares s (keepRec s t r) := by
  unfold keepRec
  split
  · exact .refl s
  · exact .same rfl

theorem Paged.spares {s t : State} (h : Paged s t) : Spares s t := by
  rw [h]
  exact .same rfl

/-- The closing of a core's section record (R451, R586 to R588). -/
theorem closeRec_spares (s : State) (c : Nat) (incomplete : Bool) : Spares s (closeRec s c incomplete) := by
  unfold closeRec
  split
  · exact .refl s
  · extract_lets u k drawn
    split
    next extra v hv =>
    have hdraw : Spares s v := by
      have h := draw_spares u 48
      rw [hv] at h
      exact (freeStalls_spares s c).trans h
    extract_lets cyc tcids cob w0 r r' x y z
    have hclosed : Spares v y := .same rfl
    exact ((hdraw.trans hclosed).trans (Spares.foldl (fun _ _ => (pageRec_spares _ _ _).trans (keepRec_spares _ _ _)) _ _)).trans
      (traceCore_spares _ _ _ _ _ _)

theorem startWork_spares (s : State) (c w : Nat) : Spares s (startWork s c w) := by
  unfold startWork
  exact ((setCore_spares s c _).trans (countCore_spares _ _ _ _)).trans (traceCore_spares _ _ _ _ _ _)

theorem kick_spares (s : State) (c : Nat) : Spares s (kick s c) := by
  unfold kick
  dsimp only
  split
  · exact .refl s
  · split
    · exact .refl s
    · split
      · exact .refl s
      · split
        · exact startWork_spares _ _ _
        · exact setCore_spares _ _ _

theorem setSeq_spares (s : State) (ag : Nat) (q : Seq) : Spares s (setSeq s ag q) := by
  unfold setSeq
  split
  · exact modCore_spares _ _ _
  · exact .same rfl

theorem retireSeq_spares (s : State) (ag : Nat) (pc : Word) : Spares s (retireSeq s ag pc) := by
  unfold retireSeq
  dsimp only
  split
  · exact (setSeq_spares _ _ _).trans (countCore_spares _ _ _ _)
  · exact setSeq_spares _ _ _

/-! ## The stop of a core (R214) -/

theorem coreStop_spares (s : State) (c : Nat) : Spares s (coreStop s c) := by
  have hstop (u : State) : Spares u (dropTotals (dropCredsOf (setCore u c (stoppedCore (core u c))) c) c) := .same rfl
  exact (closeRec_spares s c true).trans (hstop _)

theorem stopChain_spares (s : State) (w : Nat) : Spares s (stopChain s w) := by
  unfold stopChain
  refine Spares.foldl (fun u p => ?_) _ s
  split
  · split
    · exact .refl u
    · exact coreStop_spares _ _
  · dsimp only
    split
    · split
      · exact .refl u
      · exact coreStop_spares _ _
    · exact .refl u

/-! ## Copies (R247, R471) -/

theorem dropTaCopy_spares (s : State) (r : Nat) : Spares s (dropTaCopy s r) := by
  unfold dropTaCopy
  split
  · split
    · exact .same rfl
    · exact .refl s
  · exact .refl s

theorem loseCopy_spares (s : State) (y : SpCopy) : Spares s (loseCopy s y) := by
  have hzero : Wiped s (y.banks.foldl (fun s b => memZero s (0x80000000000 + b * 0x40000) 0x40000) s) :=
    Wiped.foldl _ s fun _ _ => memZero_wiped _ _ _
  unfold loseCopy
  extract_lets pinned u _ v
  have hkeep : Spares u v := .same rfl
  split
  · exact (dropSpCopy_wiped s y).spares
  · split
    · exact hzero.spares.trans hkeep
    · exact (hzero.spares.trans hkeep).trans (.same rfl)

theorem dropPoisoned_spares (s : State) : Spares s (dropPoisoned s) :=
  (Spares.foldl loseCopy_spares _ s).trans (Spares.foldl (fun _ _ => dropTaCopy_spares _ _) _ _)

theorem cancelStaging_spares (s : State) (j : Nat) : Spares s (cancelStaging s j) := by
  unfold cancelStaging
  extract_lets mine _ u
  have horders : Spares s u := .same rfl
  refine horders.trans (Spares.foldl (fun v o => ?_) _ u)
  extract_lets w
  have hdrop : Spares v w := (Wiped.foldl (f := dropSpCopy) _ v fun s y => dropSpCopy_wiped s y).spares
  split
  · split
    · split
      · split
        · exact hdrop
        · exact hdrop.trans (dropTaCopy_spares _ _)
      · exact hdrop
    · exact hdrop
  · exact hdrop

/-! ## Messages to the host, events and the ledger (R142, R153, R574) -/

theorem send_spares (s : State) (m : OutMsg) : Spares s (send s m) := by
  unfold send
  split
  · exact .same rfl
  · exact ⟨rfl, rfl, fun _ => id, ⟨_, rfl⟩, rfl⟩

theorem raiseMsix_spares (s : State) (v : Nat) : Spares s (raiseMsix s v) := by
  unfold raiseMsix
  split
  · exact .refl s
  · split
    · split
      · exact .refl s
      · exact .same rfl
    · exact send_spares _ _

theorem evqWrite_spares (s : State) (e : EvRec) : Spares s (evqWrite s e) := by
  unfold evqWrite
  extract_lets u wrap _ v
  have hnext : Spares u v := .same rfl
  exact ((send_spares s _).trans hnext).trans (raiseMsix_spares _ _)

theorem raiseEvent_spares (s : State) (type p q : Nat) : Spares s (raiseEvent s type p q) := by
  unfold raiseEvent
  extract_lets e _ u
  have hseq : Spares s u := .same rfl
  split
  · exact hseq.trans (evqWrite_spares _ _)
  · split
    · exact .same rfl
    · exact .same rfl

theorem ledgerEvents_spares (s : State) : Spares s (ledgerEvents s) := by
  unfold ledgerEvents
  extract_lets _ u
  have hwarn : Spares s u := by
    unfold u
    split
    · exact Spares.trans (b := { s with ledger.warnArmed := false }) (.same rfl) (raiseEvent_spares _ _ _ _)
    · exact .refl s
  split
  · exact hwarn.trans (raiseEvent_spares _ _ _ _)
  · exact hwarn

theorem cure_spares (s : State) (f : Nat → Bool) : Spares s (cure s f) := by
  rw [cure_eq]
  exact .same rfl

theorem ledgerAppend_spares (s : State) (e : LEntry) : Spares s (ledgerAppend s e) := by
  unfold ledgerAppend
  split
  · exact .refl s
  · extract_lets seq prev bytes u
    have hcure : Spares s u := cure_spares s _
    refine (hcure.trans ?_).trans (ledgerEvents_spares _)
    exact .same rfl

theorem ledgerSelf_spares (s : State) (kind tcid object value : Nat) : Spares s (ledgerSelf s kind tcid object value) := by
  unfold ledgerSelf ledgerOwn
  split
  · refine Spares.counted ?_ (by decide) 1
    exact .same rfl
  · exact ledgerAppend_spares s _

theorem respond_spares (s : State) (k : Nat) (r : Req) (status : Nat) (payload : List Byte) : Spares s (respond s k r status payload) := by
  have hmgt (u : State) : Spares u (settleMgt u) := by
    rw [settleMgt_eq]
    exact .same rfl
  unfold respond
  extract_lets hdr _ u
  have hslot : Spares s u := .same rfl
  split
  · exact hslot.trans (hmgt _)
  · exact (hslot.trans (raiseMsix_spares _ _)).trans (hmgt _)

theorem answerWaits_spares (s : State) : Spares s (answerWaits s) := Spares.foldl (fun _ _ => respond_spares _ _ _ _ _) _ s

/-! ## Units and the fabric (R499 to R506, R541) -/

theorem latch_spares (s : State) (q : Nat) (r : ErrRep) : Spares s (latch s q r) := by
  unfold latch
  dsimp only
  split
  · exact .same rfl
  · exact .same rfl

theorem unitRec_tset (s : State) (u v : Nat) (r : UnitRec) :
    unitRec { s with errs.units := tset s.errs.units u r } v = if u = v then r else unitRec s v := by
  unfold unitRec tgetD
  simp only [tget_tset]
  split <;> rfl

/-- A unit at FAULT does not become SUSPECT. -/
theorem setHealth_spares (s : State) (u : Nat) {h : Health} (hh : h = .suspect ∨ h = .fault) (notify : Bool) :
    Spares s (setHealth s u h notify) := by
  unfold setHealth
  extract_lets r g _ t
  have hset (hne : ¬(decide (r.health = h) || decide (r.health = .fault) && decide (h = .suspect)) = true) : Spares s t := by
    refine ⟨rfl, rfl, fun v hv => ?_, ⟨[], List.append_nil _⟩, rfl⟩
    rw [unitRec_tset]
    split
    · next e =>
      subst e
      rcases hh with rfl | rfl
      · exact absurd (by rw [hv]; decide) hne
      · rfl
    · exact hv
  split
  · exact .refl s
  · next hne =>
    split
    · exact (hset hne).trans (.same rfl)
    · exact hset hne

theorem writeAdmin_spares (s : State) (u : Nat) (a : Admin) : Spares s (writeAdmin s u a) := by
  unfold writeAdmin
  dsimp only
  split
  · exact .refl s
  · refine ⟨rfl, rfl, fun v hv => ?_, ⟨[], List.append_nil _⟩, rfl⟩
    rw [unitRec_tset]
    split
    · next e => exact e ▸ hv
    · exact hv

theorem fenceAdmin_spares (s : State) (u : Nat) (a : Admin) : Spares s (fenceAdmin s u a) := by
  unfold fenceAdmin
  dsimp only
  split
  · exact .refl s
  · exact (writeAdmin_spares _ _ _).trans (ledgerSelf_spares _ _ _ _ _)

theorem sendLsr_spares (s : State) (r : LsrRec) (p : Nat) : Spares s (sendLsr s r p) := .same rfl

theorem sendHello_spares (s : State) (p : Nat) : Spares s (sendHello s p) := .same rfl

theorem floodLsr_spares (s : State) (r : LsrRec) (p : Option Nat) : Spares s (floodLsr s r p) :=
  Spares.foldl (fun s p => sendLsr_spares s r p) _ s

theorem checkReach_spares (s : State) : Spares s (checkReach s) := by
  unfold checkReach
  extract_lets now lost _ u
  have hreach : Spares s u := .same rfl
  refine hreach.trans (Spares.foldl (fun v x => ?_) _ u)
  split
  · split
    · exact .refl v
    · exact raiseEvent_spares _ _ _ _
  · exact .refl v

theorem originateNow_spares (s : State) : Spares s (originateNow s) := by
  unfold originateNow
  extract_lets _ u r hello changed _ flooded greeted
  have hflood : Spares s flooded :=
    Spares.trans (b := { u with fab.own := some r, fab.dirty := u.fab.dirty || changed }) (.same rfl) (floodLsr_spares _ _ _)
  have hgreet : Spares flooded greeted := by
    unfold greeted
    split
    · exact Spares.foldl sendHello_spares _ _
    · exact .refl _
  exact (hflood.trans hgreet).trans (checkReach_spares _)

theorem originate_spares (s : State) : Spares s (originate s) := by
  unfold originate
  split
  · dsimp only
    split
    · exact .refl s
    · exact originateNow_spares s
  · exact originateNow_spares s

theorem linkChange_spares (s : State) (p : Nat) (up : Bool) : Spares s (linkChange s p up) :=
  (raiseEvent_spares _ _ _ _).trans (trcTake_spares _ _)

theorem revertRoutes_spares (s : State) (cause : Nat) : Spares s (revertRoutes s cause) := by
  unfold revertRoutes
  split
  · exact .refl s
  · exact Spares.trans (b := { s with fab.hostSet := none, fab.dirty := true, fab.computing := false }) (.same rfl) (ledgerSelf_spares _ _ _ _ _)

theorem setPort_spares (s : State) (p : Nat) (x : Port) : Spares s (setPort s p x) := .same rfl

theorem portDown_spares (s : State) (p : Nat) (retry : Bool) : Spares s (portDown s p retry) := by
  unfold portDown
  extract_lets x
  split
  · exact .refl s
  · exact .same rfl
  · next a b downs flap c d v w _ _ =>
    have hdown : Spares s b := (ctrAdd_spares s (by unfold portCtr; omega) _).trans (linkChange_spares _ _ _)
    have hset : Spares s c := hdown.trans (setPort_spares _ _ _)
    have hflap : Spares s v := by
      unfold v
      split
      · exact (hset.trans (setHealth_spares _ _ (.inl rfl) _)).trans (latch_spares _ _ _)
      · exact hset
    have hroutes : Spares s w := by
      unfold w
      split
      · exact hflap.trans (revertRoutes_spares _ _)
      · exact hflap
    exact hroutes.trans (originate_spares _)

theorem portUnitChanged_spares (s : State) (u : Nat) : Spares s (portUnitChanged s u) := by
  unfold portUnitChanged
  split
  · exact .refl s
  · extract_lets p r v
    have hdown : Spares s v := by
      unfold v
      split
      · exact portDown_spares _ _ _
      · exact .refl s
    split
    · exact hdown.trans (originate_spares _)
    · exact hdown

theorem finishFencing_spares (s : State) : Spares s (finishFencing s) :=
  Spares.foldl (fun _ _ => (fenceAdmin_spares _ _ _).trans (portUnitChanged_spares _ _)) _ s

theorem advanceRepairs_spares (s : State) : Spares s (advanceRepairs s) := by
  unfold advanceRepairs
  split
  · exact .refl s
  · refine Spares.foldl (fun u p => ?_) _ s
    exact (fenceAdmin_spares u (coreUnit p.1) .offline).trans (.same rfl)

end Sys2Proof.Machine
end

section
/-! PROOFS. The release of a job, and the completion of one whose cores have all ended (08_jobs_and_dispatch.md R198, R205, R212, R219,
R272; 17_tiling_buckets_and_chains.md R435, R446). -/

namespace Sys2Proof.Machine

/-! ## The release (R205, R212) -/

theorem passLead_spares (s : State) (j : Nat) (job : Job) : Spares s (passLead s j job) := by
  have hpass (u : State) (m : Nat) : Spares u (passNet u j m) := .same rfl
  have hbanks (u : State) (c t t' : Nat) : Spares u (passBanks u c t t') := .same rfl
  unfold passLead
  split
  · exact .refl s
  · refine (Spares.foldl (fun u p => ?_) _ s).trans (hpass _ _)
    split
    · exact (modCore_spares _ _ _).trans (hbanks _ _ _ _)
    · exact .refl u

/-- A job is gone, its slot has the next generation, and nothing else of the dispatcher differs but a ring that waited for it. -/
structure Freed (s t : State) (j : Nat) (job : Job) : Prop where
  dsp : t.dsp = { s.dsp with jobs := tdel s.dsp.jobs j, gens := tset s.dsp.gens j (job.gen + 1) }
  rings : (ring s job.ring).destroying = false → t.rings = s.rings
  fault : ∀ u, (unitRec s u).health = .fault → (unitRec t u).health = .fault
  out : s.hostOut <+: t.hostOut
  completed : ctr t 0x8 = ctr s 0x8

theorem Freed.spares {s t u : State} {j : Nat} {job : Job} (h : Freed s t j job) (g : Spares t u) : Freed s u j job where
  dsp := g.dsp.trans h.dsp
  rings hd := g.rings.trans (h.rings hd)
  fault v hv := g.fault v (h.fault v hv)
  out := h.out.trans g.out
  completed := g.completed.trans h.completed

theorem Freed.of_spares {s t u : State} {j : Nat} {job : Job} (h : Spares s t) (g : Freed t u j job) : Freed s u j job where
  dsp := by rw [g.dsp, h.dsp]
  rings hd := by
    refine (g.rings ?_).trans h.rings
    rw [ring, h.rings]
    exact hd
  fault v hv := g.fault v (h.fault v hv)
  out := h.out.trans g.out
  completed := g.completed.trans h.completed

/-- The slot of a job is free, before its units are. -/
theorem slotFreed (s : State) (j : Nat) (job : Job) :
    Freed s { s with dsp.jobs := tdel s.dsp.jobs j, dsp.gens := tset s.dsp.gens j (job.gen + 1) } j job :=
  ⟨rfl, fun _ => rfl, fun _ => id, ⟨[], List.append_nil _⟩, rfl⟩

theorem releaseJob_freed {s : State} {j : Nat} {job : Job} (h : tget s.dsp.jobs j = some job) : Freed s (releaseJob s j) j job := by
  unfold releaseJob
  simp only [h]
  refine Freed.of_spares (passLead_spares s j job) ?_
  generalize passLead s j job = u
  have hsent (v : State) : Spares v (if job.quench.isSome then v
      else job.parts.foldl (fun s p => sendTxn s p.node .release job.tcid j job.gen none 64 0) v) := by
    split
    · exact .refl v
    · exact Spares.foldl (fun _ _ => (sendTxn_framed _ _ _ _ _ _ _ _ _).spares) _ v
  refine Freed.spares ?_ (answerWaits_spares _)
  refine Freed.spares ?_ (Spares.foldl (fun _ _ => kick_spares _ _) _ _)
  refine Freed.spares ?_ (((finishFencing_spares _).trans (advanceRepairs_spares _)).trans (dropPoisoned_spares _))
  have hfree := (slotFreed u j job).spares (hsent _)
  generalize (if job.quench.isSome = true then _ else _ : State) = v at hfree
  split
  · next hd =>
    refine ⟨hfree.dsp, fun hr => ?_, hfree.fault, hfree.out, hfree.completed⟩
    have hring : tgetD v.rings job.ring {} = ring u job.ring := by rw [hfree.rings hr, ring]
    rw [hring, hr] at hd
    exact absurd hd (by simp)
  · exact hfree

theorem pageJob_eq {s : State} {j : Nat} {job : Job} (h : tget s.dsp.jobs j = some job) :
    ∃ u, Spares s u ∧ pageJob s j = setJob u j { job with waits := [0, 0, 0, 0, 0] } := by
  have hgroup (v : State) : Spares v (pageGroup v job) := by
    unfold pageGroup
    split
    · exact ((pageAdd_paged _ _ _ _).trans (pageAdd_paged _ _ _ _)).spares
    · exact .refl v
  unfold pageJob
  simp only [h]
  exact ⟨_, (Spares.foldl (fun _ _ => (pageAdd_paged _ _ _ _).spares) _ s).trans (hgroup _), rfl⟩

theorem tdel_tset {α : Type} (t : Tab α) (k : Nat) (v : α) : tdel (tset t k v) k = tdel t k := by
  unfold tdel
  induction t with
  | nil => simp [tset]
  | cons p t ih =>
    unfold tset
    split
    · simp
    · split
      · next e => simp [e]
      · rw [List.filter_cons, List.filter_cons, ih]

/-- A job whose waits have gone to its tenant's page goes. -/
theorem releasePaged_freed {s t : State} {j : Nat} {job : Job} (h : tget s.dsp.jobs j = some job) (ht : Spares (pageJob s j) t) :
    Freed s (releaseJob t j) j job := by
  obtain ⟨u, hu, heq⟩ := pageJob_eq h
  rw [heq] at ht
  have hget : tget t.dsp.jobs j = some { job with waits := [0, 0, 0, 0, 0] } := by rw [ht.dsp, setJob, tget_tset, if_pos rfl]
  have hset : Spares (setJob s j { job with waits := [0, 0, 0, 0, 0] }) t :=
    ⟨ht.dsp.trans (by rw [setJob, setJob, hu.dsp]), ht.rings.trans hu.rings, fun v hv => ht.fault v (hu.fault v hv), hu.out.trans ht.out,
      ht.completed.trans hu.completed⟩
  have hfree := Freed.of_spares hset (releaseJob_freed hget)
  refine ⟨hfree.dsp.trans ?_, hfree.rings, hfree.fault, hfree.out, hfree.completed⟩
  rw [setJob, tdel_tset]

/-! ## The completion (R198, R219, R272) -/

/-- In D0 a completion is the next message to the host. -/
theorem postCompl_out {s : State} (hd : s.host.d3hot = false) (r : Nat) (c : Compl) (counted : Bool) :
    s.hostOut ++ [OutMsg.write ((ring s r).cqAddr + 32 * (ring s r).cqIdx) (complBytes s (ring s r) c)] <+: (postCompl s r c counted).hostOut := by
  have hw : (complWritten s r c counted).hostOut =
      s.hostOut ++ [OutMsg.write ((ring s r).cqAddr + 32 * (ring s r).cqIdx) (complBytes s (ring s r) c)] := by
    unfold complWritten
    dsimp only
    rw [hostWrite, send_d0 hd, complCounted_paged]
    rfl
  rw [postCompl_eq, ← hw]
  split
  · exact (raiseMsix_spares _ _).out
  · exact ⟨[], List.append_nil _⟩

theorem execCompletionPost_single {s : State} {j : JobId} {x : Job} (hd : domainsUp s = true) (hx : tget s.dsp.jobs j.val = some x)
    (he : jobEnded s j.val x = true) (hs : x.stream = none) :
    exec (.completionPost j) s = .next (releaseJob (pageJob (postCompl s x.ring (jobCompl x 0 0) true) j.val) j.val) := by
  show execCompletionPost j s = _
  unfold execCompletionPost
  simp only [hx, hs]
  rw [if_neg (by rw [hd, he]; decide)]

theorem completionPost_posts {s : State} {j : JobId} {x : Job} (hd : domainsUp s = true) (hx : tget s.dsp.jobs j.val = some x)
    (he : jobEnded s j.val x = true) (hs : x.stream = none) :
    Completes (.completionPost j) s (fun t => (tget t.dsp.jobs j.val = none ∧ tgetD t.dsp.gens j.val 0 = x.gen + 1) ∧
      ctr t 0x8 = ctr s 0x8 + 1 ∧ (s.host.d3hot = false →
        ∃ more, t.hostOut = s.hostOut ++ OutMsg.write ((ring s x.ring).cqAddr + 32 * (ring s x.ring).cqIdx)
          (complBytes s (ring s x.ring) (jobCompl x 0 0)) :: more)) := by
  refine ⟨_, execCompletionPost_single hd hx he hs, ?_⟩
  have hpost := postCompl_posted s x.ring (jobCompl x 0 0) true
  have hout (h3 : s.host.d3hot = false) := postCompl_out h3 x.ring (jobCompl x 0 0) true
  generalize postCompl s x.ring (jobCompl x 0 0) true = u at hpost hout
  have hdsp : u.dsp = s.dsp := by rw [hpost.eq]
  have hfree := releasePaged_freed (s := u) (j := j.val) (job := x) (by rw [hdsp]; exact hx) (.refl _)
  refine ⟨⟨?_, ?_⟩, ?_, fun h3 => ?_⟩
  · rw [hfree.dsp]
    exact tget_tdel_self _ _
  · rw [hfree.dsp]
    exact tgetD_tset_self _ _ _ _
  · rw [hfree.completed, hpost.ctr_eq]
    rfl
  · obtain ⟨more, hmore⟩ := (hout h3).trans hfree.out
    exact ⟨more, by rw [← hmore, List.append_assoc]; rfl⟩

end Sys2Proof.Machine
end

section
/-! PROOFS. The start of a quench, the acknowledgements of its units, and what starts a stream's next frame and a plan's next round
(08_jobs_and_dispatch.md R202, R212 to R214, R216, R218, R219; 17_tiling_buckets_and_chains.md R445). -/

namespace Sys2Proof.Machine

/-! ## The start of a quench (R214, R216) -/

/-- One job of the dispatcher is set, and the rings and the units at FAULT are as they were. -/
structure JobSet (s t : State) (j : Nat) (y : Job) : Prop where
  dsp : t.dsp = { s.dsp with jobs := tset s.dsp.jobs j y }
  rings : t.rings = s.rings
  fault : ∀ u, (unitRec s u).health = .fault → (unitRec t u).health = .fault

theorem JobSet.spares {s t u : State} {j : Nat} {y : Job} (h : JobSet s t j y) (g : Spares t u) : JobSet s u j y where
  dsp := g.dsp.trans h.dsp
  rings := g.rings.trans h.rings
  fault v hv := g.fault v (h.fault v hv)

theorem JobSet.of_spares {s t u : State} {j : Nat} {y : Job} (h : Spares s t) (g : JobSet t u j y) : JobSet s u j y where
  dsp := by rw [g.dsp, h.dsp]
  rings := g.rings.trans h.rings
  fault v hv := g.fault v (h.fault v hv)

theorem JobSet.job_self {s t : State} {j : Nat} {y : Job} (h : JobSet s t j y) : tget t.dsp.jobs j = some y := by
  rw [h.dsp, tget_tset, if_pos rfl]

theorem JobSet.job_ne {s t : State} {j : Nat} {y : Job} (h : JobSet s t j y) {i : Nat} (hi : i ≠ j) : tget t.dsp.jobs i = tget s.dsp.jobs i := by
  rw [h.dsp, tget_tset, if_neg (Ne.symm hi)]

theorem setJob_jobSet (s : State) (j : Nat) (y : Job) : JobSet s (setJob s j y) j y := ⟨rfl, rfl, fun _ => id⟩

theorem traceQuench_spares (s : State) (j : Nat) (job : Job) (status : Nat) : Spares s (traceQuench s j job status) := by
  unfold traceQuench
  split
  · exact .refl s
  · exact traceCore_spares _ _ _ _ _ _

theorem abandonTxns_spares (s : State) (w : Nat) (gen : BitVec 16) : Spares s (abandonTxns s w gen) := .same rfl

/-- The quench that a job with none starts. -/
def newQuench (s : State) (j : Nat) (job : Job) (status detail : Nat) (frameOnly : Bool) : Quench :=
  { status := status, detail := detail, start := s.eft.tick, units := quenchUnits s j job, remote := job.parts.map (·.stage),
    frameOnly := frameOnly }

theorem quenchJob_starts {s : State} {j : Nat} {job : Job} (h : tget s.dsp.jobs j = some job) (hq : job.quench = none)
    (status detail : Nat) (frameOnly : Bool) : JobSet s (quenchJob s j status detail frameOnly) j
      { job with quench := some (newQuench s j job status detail frameOnly) } := by
  unfold quenchJob
  simp only [h, hq]
  refine JobSet.spares ?_ (Spares.foldl (fun _ _ => (sendTxn_framed _ _ _ _ _ _ _ _ _).spares) _ _)
  refine JobSet.spares ?_ (((stopChain_spares _ _).trans (abandonTxns_spares _ _ _)).trans (cancelStaging_spares _ _))
  exact JobSet.of_spares (traceQuench_spares s j job status) (setJob_jobSet _ _ _)

theorem execDeadlineExpiry_single {s : State} {j : JobId} {x : Job} (hd : domainsUp s = true) (hx : tget s.dsp.jobs j.val = some x)
    (hq : x.quench = none) (hs : x.stream = none) (hdue : x.stamp + x.deadline ≤ s.eft.tick) :
    exec (.deadlineExpiry j) s = .next (quenchJob s j.val 0x0201 0 false) := by
  show execDeadlineExpiry j s = _
  unfold execDeadlineExpiry
  simp only [hx, hs]
  rw [if_neg (by rw [hd, hq]; decide), if_pos hdue]

/-! ## Acknowledgements (R212, R214) -/

/-- While no GATHER waits, none goes on. -/
theorem resumeGathers_none {s : State} (h : s.cores.all (fun p => p.2.gather.isNone) = true) : resumeGathers s = s := by
  have hnone : s.cores.filter (fun p => p.2.gather.isSome) = [] := by
    refine List.filter_eq_nil_iff.mpr fun p hp => ?_
    have hp' := List.all_eq_true.mp h p hp
    simpa using hp'
  unfold resumeGathers
  rw [hnone]
  rfl

/-- A quench that still waits goes on. -/
theorem quenchDone_waits {s : State} {j : Nat} {x : Job} {q : Quench} (hx : tget s.dsp.jobs j = some x) (hq : x.quench = some q)
    (hw : q.units ≠ [] ∨ q.remote ≠ []) : quenchDone s j = s := by
  unfold quenchDone
  simp only [hx, hq]
  refine if_neg ?_
  simpa [List.isEmpty_iff] using fun hu => hw.resolve_left (not_not_intro hu)

/-- A job whose quench no longer waits for a unit. -/
def unitStruck (x : Job) (q : Quench) (u : Nat) : Job := { x with quench := some { q with units := q.units.filter (· != u) } }

theorem quenchAck_strikes {s : State} {j : JobId} {x : Job} {q : Quench} {u : Nat} (hd : domainsUp s = true)
    (hx : tget s.dsp.jobs j.val = some x) (hq : x.quench = some q) (hu : u ∈ q.units)
    (hw : q.units.filter (· != u) ≠ [] ∨ q.remote ≠ []) (hg : s.cores.all (fun p => p.2.gather.isNone) = true) :
    exec (.quenchAck j { gen := x.gen, unit := u }) s = .next (setJob s j.val (unitStruck x q u)) := by
  have hthis : (q.units.contains u && x.gen == x.gen) = true := by simpa using hu
  have hget : tget (setJob s j.val (unitStruck x q u)).dsp.jobs j.val = some (unitStruck x q u) := by rw [setJob, tget_tset, if_pos rfl]
  have hrest : resumeGathers (quenchDone (setJob s j.val (unitStruck x q u)) j.val) = setJob s j.val (unitStruck x q u) := by
    rw [quenchDone_waits hget rfl hw]
    exact resumeGathers_none hg
  show execQuenchAck j { gen := x.gen, unit := u } s = _
  unfold execQuenchAck
  simp only [hx, hq]
  rw [if_neg (by rw [hd]; decide), if_pos hthis]
  exact congrArg Host.Outcome.next hrest

theorem quenchAck_late {s : State} {j : JobId} {x : Job} {g : BitVec 16} {u : Nat} (hd : domainsUp s = true)
    (hx : tget s.dsp.jobs j.val = some x) (hq : x.quench = none) (hg : g ≠ x.gen) (hp : s.dsp.parts = []) :
    exec (.quenchAck j { gen := g, unit := u }) s = .next (lateDrop s) := by
  have hold : (x.gen == g) = false := by simpa using Ne.symm hg
  show execQuenchAck j { gen := g, unit := u } s = _
  unfold execQuenchAck
  simp only [hx, hq, hp, hold]
  rw [if_neg (by rw [hd]; decide)]
  rfl

/-! ## The next frame (R218, R219) -/

/-- A stream's job as its frame `k` starts. -/
def frameStarted (s : State) (job : Job) (k rel : Nat) : Job :=
  let job := placeFrame s job k
  { job with frame := some (k, rel), ended := [], sat := false, nan := false, hotCore := 64, hotFirst := none, hotCount := 0, round := 0,
             mark := s.eft.tick, parts := if k = 0 then job.parts else job.parts.map (fun p => { p with st := .claiming }) }

theorem Framed.aside {s t : State} (h : Framed s t) : Aside s t where
  dsp := by rw [h.eq]
  rings := by rw [h.eq]
  admitted := h.ctr _ (.inl (by decide))

theorem restage_wiped (s : State) (w : Nat) : Wiped s (restage s w) := by
  unfold restage
  exact (Wiped.foldl _ s fun u y => Wiped.foldl _ u fun _ _ => memZero_wiped _ _ _).trans rfl

theorem startFrame_aside {s : State} {j : Nat} {job : Job} (h : tget s.dsp.jobs j = some job) (k rel : Nat) :
    Aside (setJob s j (frameStarted s job k rel)) (startFrame s j k rel) := by
  have hclaim (u : State) (x : Job) : Aside u (if k = 0 then u else reclaim u j x) := by
    split
    · exact .refl u
    · exact Aside.foldl (fun _ _ => (sendTxn_framed _ _ _ _ _ _ _ _ _).aside) _ u
  unfold startFrame
  simp only [h]
  refine Aside.trans ?_ (Aside.foldl (fun _ _ => kick_aside _ _) _ _)
  refine Aside.trans ?_ (ensureCopies_aside _ _ _ _)
  refine Aside.trans ?_ (restage_wiped _ _).aside
  exact hclaim _ _

theorem placeFrame_stream (s : State) (j : Job) (k : Nat) : (placeFrame s j k).stream = j.stream := by
  unfold placeFrame
  split <;> rfl

/-- The release tick of a stream's frame has come. -/
structure FrameDue (s : State) (j : Nat) (x : Job) (st : Stream) : Prop where
  up : domainsUp s = true
  job : tget s.dsp.jobs j = some x
  stream : x.stream = some st
  open_ : st.ending = false
  quench : x.quench = none
  due : st.admitted + st.released * st.period ≤ s.eft.tick

theorem execFrameRelease_due {s : State} {j : JobId} {x : Job} {st : Stream} (h : FrameDue s j.val x st) : exec (.frameRelease j) s =
    .next (if !slotFree (ring s x.ring) then
        setJob s j.val { x with stream := some { st with released := st.released + 1, skipped := st.skipped + 1 } }
      else releaseFrame (setJob (reserve s x.ring) j.val { x with stream := some { st with released := st.released + 1 } }) j.val st.released
        (st.admitted + st.released * st.period) { x with stream := some { st with released := st.released + 1 } }
        { st with released := st.released + 1 }) := by
  obtain ⟨hd, hx, hs, ho, hq, hdue⟩ := h
  have hgo : ¬(!domainsUp s || st.ending || false || decide (s.eft.tick < st.admitted + st.released * st.period)) = true := by
    rw [hd, ho]
    simpa using hdue
  show execFrameRelease j s = _
  unfold execFrameRelease
  simp only [hx, hs, hq]
  rw [if_neg hgo]
  split <;> rfl

/-- With a slot free and no frame running the frame starts. -/
theorem frameRelease_starts {s : State} {j : JobId} {x : Job} {st : Stream} (h : FrameDue s j.val x st)
    (hf : slotFree (ring s x.ring) = true) (hn : x.frame = none) :
    Completes (.frameRelease j) s (fun t => ∃ y, tget t.dsp.jobs j.val = some y ∧
      y.frame = some (st.released, st.admitted + st.released * st.period) ∧ y.stream = some { st with released := st.released + 1 } ∧
      y.ended = [] ∧ (ring t x.ring).reserved = (ring s x.ring).reserved + 1) := by
  have hexec := execFrameRelease_due h
  rw [hf, if_neg (by decide)] at hexec
  generalize hx' : ({ x with stream := some { st with released := st.released + 1 } } : Job) = x' at hexec
  have hframe : x'.frame = none := by rw [← hx', hn]
  have hquench : x'.quench = none := by rw [← hx', h.quench]
  have hstream : x'.stream = some { st with released := st.released + 1 } := by rw [← hx']
  unfold releaseFrame at hexec
  rw [hframe, hquench, if_pos (by decide)] at hexec
  refine ⟨_, hexec, ?_⟩
  have hget : tget (setJob (reserve s x.ring) j.val x').dsp.jobs j.val = some x' := by rw [setJob, tget_tset, if_pos rfl]
  have haside := startFrame_aside hget st.released (st.admitted + st.released * st.period)
  refine ⟨frameStarted (setJob (reserve s x.ring) j.val x') x' st.released (st.admitted + st.released * st.period), ?_, rfl, ?_, rfl, ?_⟩
  · rw [haside.dsp, setJob, tget_tset, if_pos rfl]
  · exact (placeFrame_stream _ _ _).trans hstream
  · rw [haside.ring_eq]
    exact congrArg Ring.reserved (tgetD_tset_self _ _ _ _)

/-! ## The next round (R445) -/

theorem CoresOnly.foldl {α : Type} {f : State → α → State} (h : ∀ s x, CoresOnly s (f s x)) (l : List α) (s : State) :
    CoresOnly s (l.foldl f s) :=
  List.foldlRecOn l f (motive := CoresOnly s) rfl fun _ hb x _ => hb.trans (h _ x)

theorem modCore_coresOnly (s : State) (c : Nat) (f : Core → Core) : CoresOnly s (modCore s c f) := rfl

theorem writeTablesOf_coresOnly (s : State) (w c : Nat) : CoresOnly s (writeTablesOf s w c) := by
  unfold writeTablesOf writeTables
  split
  · split
    · exact CoresOnly.foldl (fun _ _ => modCore_coresOnly _ _ _) _ s
    · rfl
  · rfl

/-- A job that runs alone goes to its next round. -/
theorem nextRound_alone {s : State} {j : Nat} {x : Job} (hj : isPart j = false) (hx : tget s.dsp.jobs j = some x) (hg : x.group = []) :
    CoresOnly (setJob s j { x with round := x.round + 1, ended := [] }) (nextRound s j) := by
  have hmembers : members s j = [j] := by
    unfold members
    rw [if_neg (by rw [hj]; decide)]
    simp only [hx, hg]
    rfl
  unfold nextRound
  rw [if_neg (by rw [hj]; decide), hmembers]
  simp only [List.foldl_cons, List.foldl_nil, hx]
  exact CoresOnly.foldl (fun _ _ => modCore_coresOnly _ _ _) _ _

theorem roundAdvance_starts {s : State} {j : JobId} {x : Job} (hd : domainsUp s = true) (hx : tget s.dsp.jobs j.val = some x)
    (hq : x.quench = none) (hs : x.stream = none ∨ x.frame ≠ none) (hg : x.group = []) (hr : x.round + 1 < roundsOf s j.val)
    (he : x.chain.all (fun p => x.ended.contains p.2) = true) :
    Completes (.roundAdvance j) s (fun t => CoresOnly (setJob s j.val { x with round := x.round + 1, ended := [] }) t) := by
  have hpart : isPart j.val = false := decide_eq_false (Nat.not_le.mpr j.isLt)
  have hframe : (x.stream.isSome && x.frame.isNone) = false := by
    rcases hs with hs | hs
    · rw [hs]
      rfl
    · rw [Option.isNone_eq_false_iff.mpr (Option.isSome_iff_ne_none.mpr hs), Bool.and_false]
  have hexec : exec (.roundAdvance j) s = .next (x.chain.foldl (fun s p => writeTablesOf s j.val p.2) (nextRound s j.val)) := by
    show execRoundAdvance j s = _
    unfold execRoundAdvance
    simp only [hx]
    refine if_neg ?_
    rw [hd, hq, he, hframe]
    simpa using hr
  exact ⟨_, hexec, (nextRound_alone hpart hx hg).trans (CoresOnly.foldl (fun _ _ => writeTablesOf_coresOnly _ _ _) _ _)⟩

end Sys2Proof.Machine
end

section
/-! PROOFS. What a fault leaves of the dispatcher: a quench of any job, and the ends of works that it brings, let every job keep its ring and
its quench, and bring back none that is gone (08_jobs_and_dispatch.md R207, R212 to R216; 09_cores_and_scratchpad.md R247, R249). -/

namespace Sys2Proof.Machine

/-! ## The relation -/

/-- A job as it was but for its progress, its flags and a quench that may have started. -/
structure JobKept (x y : Job) : Prop where
  gen : y.gen = x.gen
  ring : y.ring = x.ring
  stream : y.stream = x.stream
  superseded : y.superseded = x.superseded
  quench : x.quench.isSome = true → y.quench.isSome = true

theorem JobKept.refl (x : Job) : JobKept x x := ⟨rfl, rfl, rfl, rfl, id⟩

theorem JobKept.trans {x y z : Job} (h : JobKept x y) (g : JobKept y z) : JobKept x z where
  gen := g.gen.trans h.gen
  ring := g.ring.trans h.ring
  stream := g.stream.trans h.stream
  superseded := g.superseded.trans h.superseded
  quench hq := g.quench (h.quench hq)

/-- Tables that hold the same jobs, each kept. -/
structure JobsKept (t u : Tab Job) : Prop where
  kept : ∀ j x, tget t j = some x → ∃ y, tget u j = some y ∧ JobKept x y
  gone : ∀ j, tget t j = none → tget u j = none

theorem JobsKept.refl (t : Tab Job) : JobsKept t t := ⟨fun _ x h => ⟨x, h, .refl x⟩, fun _ => id⟩

theorem JobsKept.trans {t u v : Tab Job} (h : JobsKept t u) (g : JobsKept u v) : JobsKept t v where
  kept j x hx := by
    obtain ⟨y, hy, hxy⟩ := h.kept j x hx
    obtain ⟨z, hz, hyz⟩ := g.kept j y hy
    exact ⟨z, hz, hxy.trans hyz⟩
  gone j hj := g.gone j (h.gone j hj)

theorem jobsKept_tset {t : Tab Job} {j : Nat} {x y : Job} (hx : tget t j = some x) (h : JobKept x y) : JobsKept t (tset t j y) where
  kept i z hz := by
    rw [tget_tset]
    split
    · next e =>
      subst e
      rw [hx] at hz
      cases hz
      exact ⟨y, rfl, h⟩
    · exact ⟨z, hz, .refl z⟩
  gone i hi := by
    rw [tget_tset]
    split
    · next e =>
      subst e
      rw [hx] at hi
      cases hi
    · exact hi

/-- `t` has the rings and generations of `s`, its units at FAULT, and its jobs but for their progress and for quenches that have started. -/
structure Ebbs (s t : State) : Prop where
  jobs : JobsKept s.dsp.jobs t.dsp.jobs
  gens : t.dsp.gens = s.dsp.gens
  rings : t.rings = s.rings
  fault : ∀ u, (unitRec s u).health = .fault → (unitRec t u).health = .fault

theorem Ebbs.refl (s : State) : Ebbs s s := ⟨.refl _, rfl, rfl, fun _ => id⟩

theorem Ebbs.trans {a b c : State} (h : Ebbs a b) (g : Ebbs b c) : Ebbs a c where
  jobs := h.jobs.trans g.jobs
  gens := g.gens.trans h.gens
  rings := g.rings.trans h.rings
  fault u hu := g.fault u (h.fault u hu)

theorem Ebbs.foldl {α : Type} {f : State → α → State} (h : ∀ s x, Ebbs s (f s x)) (l : List α) (s : State) : Ebbs s (l.foldl f s) :=
  List.foldlRecOn l f (Ebbs.refl s) fun _ hb x _ => hb.trans (h _ x)

theorem Spares.ebbs {s t : State} (h : Spares s t) : Ebbs s t where
  jobs := by
    rw [h.dsp]
    exact .refl _
  gens := by rw [h.dsp]
  rings := h.rings
  fault := h.fault

theorem JobSet.ebbs {s t : State} {j : Nat} {x y : Job} (h : JobSet s t j y) (hx : tget s.dsp.jobs j = some x) (hy : JobKept x y) :
    Ebbs s t where
  jobs := by
    rw [h.dsp]
    exact jobsKept_tset hx hy
  gens := by rw [h.dsp]
  rings := h.rings
  fault := h.fault

/-! ## The ends of works (R207, R216, R525) -/

theorem modPart_ebbs (s : State) (w : Nat) (f : RPart → RPart) : Ebbs s (modPart s w f) := ⟨.refl _, rfl, rfl, fun _ => id⟩

theorem quenchJob_ebbs (s : State) (j status detail : Nat) (frameOnly : Bool) : Ebbs s (quenchJob s j status detail frameOnly) := by
  cases hx : tget s.dsp.jobs j with
  | none =>
    have h : quenchJob s j status detail frameOnly = s := by
      unfold quenchJob
      simp only [hx]
    rw [h]
    exact .refl s
  | some x =>
    cases hq : x.quench with
    | none => exact (quenchJob_starts hx hq status detail frameOnly).ebbs hx ⟨rfl, rfl, rfl, rfl, fun _ => rfl⟩
    | some q =>
      unfold quenchJob
      simp only [hx, hq]
      split
      · exact (setJob_jobSet s j _).ebbs hx ⟨rfl, rfl, rfl, rfl, fun _ => rfl⟩
      · exact .refl s

theorem quenchWhere_ebbs (s : State) (p : Nat → Job → Bool) (status detail : Nat) : Ebbs s (quenchWhere s p status detail) :=
  Ebbs.foldl (fun _ _ => quenchJob_ebbs _ _ _ _ _) _ s

theorem failWork_ebbs (s : State) (w status : Nat) : Ebbs s (failWork s w status) := by
  unfold failWork
  split
  · split
    · exact .refl s
    · dsimp only
      split
      · exact .refl s
      · exact ((modPart_ebbs _ _ _).trans (stopChain_spares _ _).ebbs).trans (sendTxn_framed _ _ _ _ _ _ _ _ _).spares.ebbs
  · unfold failJob
    split
    · exact .refl s
    · exact quenchJob_ebbs _ _ _ _ _

theorem failWorks_ebbs (s : State) (ws : List Nat) (status : Nat) : Ebbs s (failWorks s ws status) :=
  Ebbs.foldl (fun _ _ => failWork_ebbs _ _ _) _ s

theorem hwHealth_ebbs (s : State) (u : Nat) {h : Health} (hh : h = .suspect ∨ h = .fault) (notify : Bool) : Ebbs s (hwHealth s u h notify) := by
  have hset := (setHealth_spares s u hh notify).ebbs
  unfold hwHealth
  dsimp only
  split
  · exact (hset.trans (quenchWhere_ebbs _ _ _ _)).trans (failWorks_ebbs _ _ _)
  · exact hset

/-! ## The end of a quench (R214, R541, R563) -/

theorem hwHealth_fault (s : State) (u : Nat) (notify : Bool) : (unitRec (hwHealth s u .fault notify) u).health = .fault := by
  have hset : (unitRec (setHealth s u .fault notify) u).health = .fault := by
    unfold setHealth
    dsimp only
    split
    · next h => simpa using h
    · split
      all_goals
        exact congrArg UnitRec.health ((unitRec_tset s u u _).trans (if_pos rfl))
  unfold hwHealth
  dsimp only
  split
  · exact ((quenchWhere_ebbs _ _ _ _).trans (failWorks_ebbs _ _ _)).fault u hset
  · exact hset

theorem missedAck_ebbs (s : State) (j : Nat) (x : Job) (q : Quench) (u : Nat) : Ebbs s (missedAck s j x q u) := by
  unfold missedAck
  dsimp only
  split
  · exact (latch_spares _ _ _).ebbs
  · exact (hwHealth_ebbs _ _ (.inr rfl) _).trans (latch_spares _ _ _).ebbs

theorem missedAck_fault (s : State) (j : Nat) (x : Job) (q : Quench) {u : Nat} (hu : u ≠ moverUnit) :
    (unitRec (missedAck s j x q u) u).health = .fault := by
  unfold missedAck
  dsimp only
  rw [if_neg hu]
  exact (latch_spares _ _ _).fault u (hwHealth_fault _ _ _)

/-- Every unit of a list that has not acknowledged is at FAULT in the end. -/
theorem missedAcks_fault (s : State) (j : Nat) (x : Job) (q : Quench) {l : List Nat} {u : Nat} (hu : u ∈ l) (hm : u ≠ moverUnit) :
    (unitRec (l.foldl (fun s u => missedAck s j x q u) s) u).health = .fault := by
  induction l generalizing s with
  | nil => cases hu
  | cons v l ih =>
    rw [List.foldl_cons]
    rcases List.mem_cons.mp hu with rfl | hl
    · exact (Ebbs.foldl (fun s u => missedAck_ebbs s j x q u) l _).fault u (missedAck_fault s j x q hm)
    · exact ih _ hl

theorem breakRes_spares (s : State) (by_ : Option Nat) (a n : Nat) : Spares s (breakRes s by_ a n) := .same rfl

theorem memPut_spares (s : State) (a : Nat) (ds : List Byte) : Spares s (memPut s a ds).1 := by
  have hcure (f : Nat → Bool) (m : Memory) : Spares s { cure s f with mem := m } := (cure_spares s f).trans (.same rfl)
  unfold memPut
  dsimp only
  split
  · exact hcure _ _
  · exact hcure _ _

theorem memWrite_spares (s : State) (a : Nat) (ds : List Byte) : Spares s (memWrite s a ds).1 :=
  (breakRes_spares s none a ds.length).trans (memPut_spares _ _ _)

theorem scrambleOut_spares (s : State) (job : Job) (status : Nat) : Spares s (scrambleOut s job status) := by
  unfold scrambleOut
  split
  · exact .refl s
  · next p _ =>
    split
    · exact .refl s
    · exact (draw_spares s (8 * p.outSize)).trans (memWrite_spares _ _ _)

theorem releaseUnacked_spares (s : State) (j : Nat) (job : Job) (q : Quench) : Spares s (releaseUnacked s j job q) :=
  Spares.foldl (fun _ _ => (sendTxn_framed _ _ _ _ _ _ _ _ _).spares) _ s

/-- A job is gone under the next generation, and its ring has moved past its completion. -/
structure Ended (s t : State) (j : Nat) (x : Job) : Prop where
  gone : tget t.dsp.jobs j = none
  gen : tgetD t.dsp.gens j 0 = x.gen + 1
  fault : ∀ u, (unitRec s u).health = .fault → (unitRec t u).health = .fault
  ring : (ring s x.ring).destroying = false →
    (Machine.ring t x.ring).cqIdx = ((Machine.ring s x.ring).cqIdx + 1) % 2 ^ (Machine.ring s x.ring).log2

theorem Ended.ebbs {s t u : State} {j : Nat} {x : Job} (h : Ended s t j x) (g : Ebbs t u) : Ended s u j x where
  gone := g.jobs.gone j h.gone
  gen := by
    rw [g.gens]
    exact h.gen
  fault v hv := g.fault v (h.fault v hv)
  ring hd := by
    rw [Machine.ring, g.rings]
    exact h.ring hd

theorem Ended.of_ebbs {s t u : State} {j : Nat} {x y : Job} (h : Ebbs s t) (hk : JobKept x y) (g : Ended t u j y) : Ended s u j x where
  gone := g.gone
  gen := by
    rw [g.gen, hk.gen]
  fault v hv := g.fault v (h.fault v hv)
  ring hd := by
    have hring : Machine.ring t y.ring = Machine.ring s x.ring := by rw [hk.ring, Machine.ring, h.rings, ← Machine.ring]
    have hr := g.ring (by rw [hring]; exact hd)
    rw [hring, hk.ring] at hr
    exact hr

theorem posted_ended {s u v : State} {j : Nat} {x : Job} (hp : Posted s u x.ring) (hf : Freed u v j x) : Ended s v j x where
  gone := by
    rw [hf.dsp]
    exact tget_tdel_self _ _
  gen := by
    rw [hf.dsp]
    exact tgetD_tset_self _ _ _ _
  fault w hw := by
    refine hf.fault w ?_
    rw [hp.eq]
    exact hw
  ring hd := by
    have hu : (Machine.ring u x.ring).destroying = false := by
      rw [hp.ring_self]
      exact hd
    rw [Machine.ring, hf.rings hu, ← Machine.ring, hp.ring_self]
    rfl

/-- The end of a quench posts the job's one completion and frees it. -/
theorem finishQuench_ends {s : State} {j : Nat} {x : Job} (hx : tget s.dsp.jobs j = some x) (hq : x.quench.isSome = true)
    (hs : x.stream = none) (hp : x.superseded = false) : Ended s (finishQuench s j) j x := by
  obtain ⟨q, hq⟩ := Option.isSome_iff_exists.mp hq
  unfold finishQuench
  simp only [hx, hq, hs, hp]
  rw [if_neg (by decide)]
  have hscramble := scrambleOut_spares s x q.status
  generalize scrambleOut s x q.status = u at hscramble
  refine Ended.of_ebbs hscramble.ebbs (.refl x) ?_
  have hpost (detail : Nat) := postCompl_posted u x.ring (jobCompl x q.status detail) true
  have hjob : tget u.dsp.jobs j = some x := by
    rw [hscramble.dsp]
    exact hx
  refine posted_ended (hpost _) (releasePaged_freed ?_ (releaseUnacked_spares _ _ _ _))
  rw [(hpost _).eq]
  exact hjob

end Sys2Proof.Machine
end

section
/-! PROOFS. What faults of memory, and reads and writes that may meet them, leave of the dispatcher (09_cores_and_scratchpad.md R226, R229,
R232, R233, R235, R246, R247, R249; 19_tier_memory.md R470 to R472). -/

namespace Sys2Proof.Machine

/-! ## Faults of words (R229, R246, R247, R470 to R472) -/

theorem poisonWord_spares (s : State) (a : Nat) : Spares s (poisonWord s a) := by
  unfold poisonWord
  split
  · exact .refl s
  · exact .same rfl

theorem memCopy_spares (s : State) (src dst n : Nat) : Spares s (memCopy s src dst n) := (memZero_wiped s dst n).spares.trans (.same rfl)

theorem evict_spares (s : State) (v : CopyRef) : Spares s (evict s v) := by
  cases v with
  | ta r => exact dropTaCopy_spares s r
  | sp y => exact (dropSpCopy_wiped s y).spares

theorem allocTierA_spares {size n a : Nat} {s t : State} (h : allocTierA size n s = some (a, t)) : Spares s t := by
  induction n generalizing s with
  | zero =>
    obtain ⟨b, -, hb⟩ := Option.map_eq_some_iff.mp h
    cases hb
    exact .refl _
  | succ n ih =>
    unfold allocTierA at h
    split at h
    · cases h
      exact .refl _
    · split at h
      · next v _ =>
        have hfill (u : State) : Spares u (u.store.fills.foldl (fun s f => if inTierA f.base then memZero s f.base f.size else s) u) := by
          refine Spares.foldl (fun w f => ?_) _ u
          split
          · exact (memZero_wiped _ _ _).spares
          · exact .refl w
        have hkept (u : State) (fs : List Fill) : Spares u { u with store.fills := fs } := .same rfl
        exact (evict_spares s v).trans ((hfill _).trans ((hkept _ _).trans ((answerWaits_spares _).trans (ih h))))
      · cases h

theorem recopyCommons_spares (s : State) (a : Nat) : Spares s (recopyCommons s a) := by
  have hset (u : State) (c : Tab Commons) (f : List Fill) : Spares u { u with store.commons := c, store.fills := f } := .same rfl
  unfold recopyCommons
  split
  · exact .refl s
  · split
    · exact .refl s
    · next ha =>
      rw [alloc, if_pos rfl] at ha
      exact ((allocTierA_spares ha).trans (memCopy_spares _ _ _ _)).trans (hset _ _ _)

theorem retireBank_ebbs (s : State) (a syn : Nat) : Ebbs s (retireBank s a syn) := by
  have hbanks (u : State) (b : Tab Bank) : Spares u { u with store.banks := b } := .same rfl
  unfold retireBank
  extract_lets b c d0 u v _ w n x
  have hdrop : Spares s u := (Wiped.foldl (f := dropSpCopy) _ s fun s y => dropSpCopy_wiped s y).spares
  have hw : Ebbs s w := (hdrop.trans ((memZero_wiped u _ _).spares.trans (hbanks v _))).ebbs
  have hx : Ebbs s x := by
    unfold x
    split
    · exact hw.trans (hwHealth_ebbs _ _ (.inl rfl) _)
    · exact hw
  split
  · exact .refl s
  · exact hx.trans (latch_spares _ _ _).ebbs

theorem retireGranule_ebbs (s : State) (a syn rereads : Nat) : Ebbs s (retireGranule s a syn rereads) := by
  unfold retireGranule
  extract_lets g _ u k n v
  have hu : Spares s u := .same rfl
  have hv : Ebbs s v := by
    unfold v
    split
    · exact hu.ebbs.trans (hwHealth_ebbs _ _ (.inl rfl) _)
    · exact hu.ebbs
  split
  · exact .refl s
  · exact hv.trans (latch_spares _ _ _).ebbs

theorem spFault_ebbs (s : State) (a syn cls : Nat) (w : Option Nat) : Ebbs s (spFault s a syn cls w) := by
  have hcopies (u : State) (c : List SpCopy) : Spares u { u with store.spCopies := c } := .same rfl
  unfold spFault
  extract_lets a' c again u v cs _ x idle y z
  have hv : Spares s v := (latch_spares _ _ _).trans (poisonWord_spares _ _)
  have hy : Spares s y := (hv.trans (hcopies v cs)).trans (Spares.foldl loseCopy_spares _ _)
  have hz : Spares s z := by
    unfold z
    split
    · exact hy.trans (modCore_spares _ _ _)
    · exact hy
  split
  · exact hz.ebbs.trans (retireBank_ebbs _ _ _)
  · exact hz.ebbs

theorem tierFault_ebbs (s : State) (a syn rereads cls : Nat) (w : Option Nat) : Ebbs s (tierFault s a syn rereads cls w) := by
  have hregions (u : State) (r : Tab Region) : Spares u { u with store.regions := r } := .same rfl
  unfold tierFault
  extract_lets a' k again u v rg _ x idle y z
  have hv : Spares s v := (latch_spares _ _ _).trans (poisonWord_spares _ _)
  have hy : Spares s y := (hv.trans (hregions v rg)).trans (Spares.foldl (fun _ _ => dropTaCopy_spares _ _) _ _)
  have hz : Ebbs s z := by
    unfold z
    split
    · exact hy.ebbs.trans (retireGranule_ebbs _ _ _ _)
    · exact hy.ebbs
  exact hz.trans (recopyCommons_spares _ _).ebbs

theorem wordFault_ebbs (s : State) (a syn : Nat) (w : Option Nat) : Ebbs s (wordFault s a syn w) := by
  unfold wordFault
  extract_lets u
  have hu : Ebbs s u := by
    unfold u
    split
    · exact spFault_ebbs _ _ _ _ _
    · exact tierFault_ebbs _ _ _ _ _ _
  split
  · exact hu.trans (failWork_ebbs _ _ _)
  · exact hu

theorem partialFault_ebbs (s : State) (c : Nat) (ws : List Nat) : Ebbs s (partialFault s c ws) := by
  unfold partialFault
  split
  · exact .refl s
  · refine Ebbs.trans ?_ (failWorks_ebbs _ _ _)
    refine (draw_spares s 8).ebbs.trans ?_
    split
    · exact spFault_ebbs _ _ _ _ _
    · exact tierFault_ebbs _ _ _ _ _ _

theorem partHit_ebbs (s : State) (w p : Nat) : Ebbs s (partHit s w p) := by
  unfold partHit
  refine Ebbs.trans ?_ (failWork_ebbs _ _ _)
  refine (draw_spares s 8).ebbs.trans ?_
  split
  · exact spFault_ebbs _ _ _ _ _
  · exact tierFault_ebbs _ _ _ _ _ _

theorem tagFault_ebbs (s : State) (unit w a owner : Nat) (write window : Bool) : Ebbs s (tagFault s unit w a owner write window) :=
  (latch_spares _ _ _).ebbs.trans (failWork_ebbs _ _ _)

theorem invalidField_ebbs (s : State) (c : Nat) : Ebbs s (invalidField s c) := failWorks_ebbs _ _ _

/-! ## Reads and writes of device memory (R226, R229, R232, R233, R235) -/

theorem corrected_spares (s : State) (key : Nat) : Spares s (corrected s key) := by
  unfold corrected
  split
  next ts last _ =>
  extract_lets ts' due _ u unit d0
  have hu : Spares s u := .same rfl
  split
  · exact hu.trans (latch_spares _ _ _)
  · exact hu

theorem eccFound_ebbs (s : State) (a : Nat) (find : EccFind) (w : Option Nat) : Ebbs s (eccFound s a find w) := by
  cases find with
  | clean => exact .refl s
  | corrected =>
    unfold eccFound
    dsimp only
    split
    · exact ((countCore_spares _ _ _ _).trans (corrected_spares _ _)).ebbs
    · exact ((ctrAdd_spares _ (by split <;> decide) _).trans (corrected_spares _ _)).ebbs
  | recovered n =>
    unfold eccFound
    dsimp only
    split
    · exact .refl s
    · exact (ctrAdd_spares _ (by split <;> decide) _).ebbs
  | uncorrectable syn => exact wordFault_ebbs _ _ _ _

theorem eccMeet_ebbs (s : State) (w : Option Nat) (due : List (Nat × Option EccFind)) : Ebbs s (eccMeet s w due).1 := by
  have hlatent (u : State) (l : Tab EccFind) : Spares u { u with ecc.latent := l } := .same rfl
  unfold eccMeet
  refine List.foldlRecOn due _ (motive := fun r : State × Bool => Ebbs s r.1) (.refl s) fun r hr x _ => ?_
  dsimp only
  split
  · exact hr.trans ((draw_spares r.1 8).ebbs.trans (wordFault_ebbs _ _ _ _))
  · exact hr.trans ((hlatent _ _).ebbs.trans (eccFound_ebbs _ _ _ _))

theorem eccRead_ebbs (s : State) (a n : Nat) (find : EccFind) (w : Option Nat) : Ebbs s (eccRead s a n find w).1 := by
  have hlay : Spares s (eccLay s a find) := by
    unfold eccLay
    split
    · exact .refl s
    · exact .same rfl
  unfold eccRead eccCheck
  split
  · exact hlay.ebbs
  · exact hlay.ebbs.trans (eccMeet_ebbs _ _ _)

theorem maskWrite_spares (s : State) (l : Line) : Spares s (maskWrite s l).1 := by
  unfold maskWrite
  refine List.foldlRecOn _ _ (motive := fun r : State × Bool => Spares s r.1) (.refl s) fun r hr i _ => ?_
  dsimp only
  split
  · exact hr.trans (memPut_spares _ _ _)
  · refine List.foldlRecOn _ _ (motive := fun r : State × Bool => Spares s r.1) hr fun v hv j _ => ?_
    split
    · exact hv.trans (memPut_spares _ _ _)
    · exact hv

theorem flushLine_ebbs (s : State) (c : Nat) (l : Line) : Ebbs s (flushLine s c l) := by
  unfold flushLine
  extract_lets u ws v
  have hv : Spares s v := (modCore_spares _ _ _).trans (stall_spares _ _ _ _ _)
  have hwrite := hv.trans (maskWrite_spares v l)
  split
  · exact .refl s
  · generalize maskWrite v l = r at hwrite
    obtain ⟨x, bad⟩ := r
    dsimp only
    split
    · exact hwrite.ebbs.trans (partialFault_ebbs _ _ _)
    · exact hwrite.ebbs

theorem flushGb_ebbs (s : State) (a n : Nat) : Ebbs s (flushGb s a n) := by
  unfold flushGb
  split
  · exact Ebbs.foldl (fun _ _ => flushLine_ebbs _ _ _) _ s
  · exact .refl s

/-- The tray after a read, whether it gave its bytes or not. -/
def Rd.state : Rd → State
  | .ok _ s => s
  | .fail s => s

theorem devRead_ebbs (s : State) (c w a n : Nat) : Ebbs s (devRead s c w a n).state := by
  unfold devRead
  split
  · exact .refl s
  · refine (flushGb_ebbs s a n).trans ?_
    dsimp only
    generalize flushGb s a n = u
    split
    · exact tagFault_ebbs _ _ _ _ _ _ _
    · exact tagFault_ebbs _ _ _ _ _ _ _
    · have hread := eccRead_ebbs u a n .clean (some w)
      split
      · next h =>
        rw [h] at hread
        exact hread
      · next h =>
        rw [h] at hread
        exact hread

theorem devWriteAs_ebbs (s : State) (c e w t a : Nat) (bs : List Byte) : Ebbs s (devWriteAs s c e w t a bs).1 := by
  unfold devWriteAs
  split
  · exact .refl s
  · refine (flushGb_ebbs s a bs.length).trans ?_
    dsimp only
    generalize flushGb s a bs.length = u
    split
    · exact tagFault_ebbs _ _ _ _ _ _ _
    · exact tagFault_ebbs _ _ _ _ _ _ _
    · have hstall : Spares u (if inSp a then stall u c 0x09 e (partBeats a bs.length) else u) := by
        split
        · exact stall_spares _ _ _ _ _
        · exact .refl u
      have hwrite := (hstall.trans (memWrite_spares _ a bs)).ebbs
      split
      · next h =>
        rw [h] at hwrite
        exact hwrite
      · next h =>
        rw [h] at hwrite
        exact hwrite.trans (partHit_ebbs _ _ _)

theorem engWrite_ebbs (s : State) (c e w win off : Nat) (bs : List Byte) : Ebbs s (engWrite s c e w win off bs).1 := by
  unfold engWrite engWriteAs
  split
  · exact .refl s
  · split
    · exact tagFault_ebbs _ _ _ _ _ _ _
    · exact devWriteAs_ebbs _ _ _ _ _ _ _

end Sys2Proof.Machine
end

section
/-! PROOFS. What the settling of cores and GATHERs that go on leave of the dispatcher (11_sequencer_and_tile_instructions.md R275;
16_embeddings_and_gather.md R404 to R424; 17_tiling_buckets_and_chains.md R445, R446), and the statement on the ends of jobs. -/

namespace Sys2Proof.Machine

/-! ## Settling (R275, R445, R446) -/

theorem setJob_ebbs {s : State} {j : Nat} {x y : Job} (hx : tget s.dsp.jobs j = some x) (h : JobKept x y) : Ebbs s (setJob s j y) :=
  (setJob_jobSet s j y).ebbs hx h

theorem flagWork_ebbs (s : State) (w : Nat) (sat nan : Bool) : Ebbs s (flagWork s w sat nan) := by
  unfold flagWork
  split
  · exact modPart_ebbs _ _ _
  · split
    · next hx => exact setJob_ebbs hx ⟨rfl, rfl, rfl, rfl, id⟩
    · exact .refl s

theorem nextRound_ebbs (s : State) (w : Nat) : Ebbs s (nextRound s w) := by
  have hjobs : JobsKept s.dsp.jobs ((members s w).foldl (fun t m => match tget t m with
      | some j => tset t m { j with round := j.round + 1, ended := [] }
      | none => t) s.dsp.jobs) := by
    refine List.foldlRecOn _ _ (.refl _) fun t ht m _ => ?_
    split
    · next hx => exact ht.trans (jobsKept_tset hx ⟨rfl, rfl, rfl, rfl, id⟩)
    · exact ht
  unfold nextRound
  refine Ebbs.trans ?_ (Ebbs.foldl (fun _ _ => (modCore_spares _ _ _).ebbs) _ _)
  split
  · exact modPart_ebbs _ _ _
  · exact ⟨hjobs, rfl, rfl, fun _ => id⟩

theorem takeFlags_kept (j : Job) (c : Nat) (fs : List HotKey) : JobKept j (takeFlags j c fs) := by
  unfold takeFlags
  split
  · exact .refl j
  · dsimp only
    split
    · exact ⟨rfl, rfl, rfl, rfl, id⟩
    · exact ⟨rfl, rfl, rfl, rfl, id⟩

theorem endedFlags_kept (j : Job) (es : List Nat) (c : Nat) (fs : List HotKey) : JobKept j (takeFlags { j with ended := es } c fs) :=
  JobKept.trans (y := { j with ended := es }) ⟨rfl, rfl, rfl, rfl, id⟩ (takeFlags_kept _ _ _)

theorem reportEnd_ebbs (s : State) (c : Nat) : Ebbs s (reportEnd s c) := by
  unfold reportEnd
  extract_lets k
  split
  · exact .refl s
  · next w hw =>
    split
    · exact failWorks_ebbs _ _ _
    · extract_lets last ms u p v t more _ x
      have hu : Ebbs s u := ((closeRec_spares s c false).trans (modCore_spares _ _ _)).ebbs
      have hp : Ebbs s p := hu.trans (modPart_ebbs _ _ _)
      have hv : Ebbs s v := by
        refine hu.trans (Ebbs.foldl (fun y m => ?_) ms u)
        split
        · next hx => exact setJob_ebbs hx (endedFlags_kept _ _ _ _)
        · exact .refl y
      have hx : Ebbs s x := by
        unfold x
        split
        · have hrows : Spares v { v with store.hotRows := v.store.hotRows ++ more } := .same rfl
          exact hv.trans hrows.ebbs
        · exact hv
      split
      · split
        · split
          · split
            · exact hp.trans ((sendTxn_framed _ _ _ _ _ _ _ _ _).spares.trans (kick_spares _ _)).ebbs
            · exact hp.trans (nextRound_ebbs _ _)
          · exact hp.trans (kick_spares _ _).ebbs
        · exact hp
      · exact hx.trans (kick_spares _ _).ebbs

theorem settle_ebbs (s : State) (c : Nat) : Ebbs s (settle s c) := by
  refine Ebbs.foldl (fun u _ => ?_) _ s
  unfold settle1
  extract_lets k v k'
  have hpop : Spares u v := by
    unfold v
    split
    · exact setCore_spares _ _ _
    · exact .refl u
  split
  · split
    · exact (hpop.trans (retireSeq_spares _ _ _)).ebbs
    · exact hpop.ebbs
  · split
    · exact (hpop.trans (countCore_spares _ _ _ _)).ebbs.trans (reportEnd_ebbs _ _)
    · exact hpop.ebbs
  · exact hpop.ebbs

/-! ## GATHERs that go on (R404 to R424) -/

theorem waitHold_ebbs {s t u : State} {ag : Option Nat} (h : Ebbs s t) (hu : Ebbs s u) : Ebbs s (waitHold ag t u) := by
  unfold waitHold
  split
  · exact hu
  · exact h

theorem winHit_spares {s t : State} {c tb r : Nat} (h : winHit s c tb r = some t) : Spares s t := by
  unfold winHit at h
  split at h
  · cases h
  · cases h
    refine Spares.trans ?_ (count_spares _ _ _ _)
    split
    · exact (modCore_spares _ _ _).trans (modCore_spares _ _ _)
    · exact modCore_spares _ _ _

theorem winMiss_spares (s : State) (c t r : Nat) (sl : GSlot) : Spares s (winMiss s c t r sl) := by
  unfold winMiss
  dsimp only
  split
  · exact modCore_spares _ _ _
  · exact (modCore_spares _ _ _).trans (count_spares _ _ _ _)

theorem fetchRow_ebbs (s : State) (c w t r addr : Nat) : Ebbs s (fetchRow s c w t r addr) := by
  have hread := devRead_ebbs s c w addr (etPitch (core s c) t)
  unfold fetchRow
  dsimp only
  split
  · split
    · next h =>
      rw [h] at hread
      exact hread.trans (modCore_spares _ _ _).ebbs
    · next h =>
      rw [h] at hread
      exact hread
  · split
    · next h => exact (winHit_spares h).ebbs
    · exact (winMiss_spares _ _ _ _ _).ebbs

theorem fetchPartner_ebbs (s : State) (c w : Nat) (p : Option (Nat × Nat)) : Ebbs s (fetchPartner s c w p) := by
  unfold fetchPartner
  split
  · split
    · exact fetchRow_ebbs _ _ _ _ _ _
    · exact .refl s
  · exact .refl s

theorem entryDone_spares (s : State) (c : Nat) (z : GRes) : Spares s (entryDone s c z) := by
  unfold entryDone
  exact (modCore_spares _ _ _).trans (count_spares _ _ _ _)

theorem localEntry_ebbs {s u : State} {c w t b r addr : Nat} {p : Option (Nat × Nat)} {g : GatherRun}
    (h : localEntry s c w t b r addr p g = some u) : Ebbs s u := by
  unfold localEntry at h
  dsimp only at h
  split at h
  · cases h
    exact ((entryDone_spares _ _ _).trans (count_spares _ _ _ _)).ebbs
  · split at h
    · cases h
    · cases h
      exact ((entryDone_spares _ _ _).ebbs.trans (fetchRow_ebbs _ _ _ _ _ _)).trans (fetchPartner_ebbs _ _ _ _)

theorem remoteEntry_ebbs {s u : State} {c w t node region r : Nat} {p : Option (Nat × Nat)} {g : GatherRun}
    (h : remoteEntry s c w t node region r p g = some u) : Ebbs s u := by
  unfold remoteEntry at h
  dsimp only at h
  split at h
  · cases h
    exact (entryDone_spares _ _ _).ebbs
  · split at h
    · next hhit =>
      cases h
      exact ((winHit_spares hhit).trans (entryDone_spares _ _ _)).ebbs.trans (fetchPartner_ebbs _ _ _ _)
    · split at h
      · cases h
      · cases h
        refine Ebbs.trans ?_ (fetchPartner_ebbs _ _ _ _)
        exact ((((entryDone_spares _ _ _).trans (count_spares _ _ _ _)).trans (winMiss_spares _ _ _ _ _)).trans
          (sendTxn_framed _ _ _ _ _ _ _ _ _).spares).ebbs

theorem shardedEntry_ebbs {s u : State} {c w t b node region r : Nat} {p : Option (Nat × Nat)} {g : GatherRun}
    (h : shardedEntry s c w t b node region r p g = some u) : Ebbs s u := by
  have hread := devRead_ebbs s c w (etHdir (core s c) t + 64 * (r % 2 ^ (etHlog2 (core s c) t - 3))) 64
  unfold shardedEntry at h
  dsimp only at h
  split at h
  · cases h
    exact ((entryDone_spares _ _ _).trans (count_spares _ _ _ _)).ebbs
  · split at h
    · exact remoteEntry_ebbs h
    · split at h
      · cases h
      · split at h
        · next hr =>
          rw [hr] at hread
          cases h
          exact hread
        · next hr =>
          rw [hr] at hread
          split at h
          · obtain ⟨v, hv, rfl⟩ := Option.map_eq_some_iff.mp h
            exact (hread.trans (localEntry_ebbs hv)).trans (count_spares _ _ _ _).ebbs
          · exact hread.trans (remoteEntry_ebbs h)

theorem nextEntry_ebbs {s u : State} {c w b x : Nat} {g : GatherRun} (h : nextEntry s c w g b x = some u) : Ebbs s u := by
  unfold nextEntry at h
  dsimp only at h
  split at h
  · cases h
    exact invalidField_ebbs _ _
  · split at h
    · cases h
      exact ((entryDone_spares _ _ _).trans (count_spares _ _ _ _)).ebbs
    · cases h
      exact ((entryDone_spares _ _ _).trans (count_spares _ _ _ _)).ebbs
    · exact localEntry_ebbs h
    · exact shardedEntry_ebbs h

theorem resolveAll_ebbs (c w n : Nat) (s : State) : Ebbs s (resolveAll c w n s) := by
  induction n generalizing s with
  | zero => exact .refl s
  | succ n ih =>
    unfold resolveAll
    split
    · exact .refl s
    · split
      · exact .refl s
      · split
        · exact .refl s
        · next h => exact (nextEntry_ebbs h).trans (ih _)

theorem sendSubs_spares (c w n : Nat) (s : State) : Spares s (sendSubs c w n s) := by
  induction n generalizing s with
  | zero => exact .refl s
  | succ n ih =>
    unfold sendSubs
    split
    · exact .refl s
    · split
      · split
        · exact .refl s
        · dsimp only
          refine Spares.trans ?_ (ih _)
          exact ((modCore_spares _ _ _).trans (count_spares _ _ _ _)).trans (sendTxn_framed _ _ _ _ _ _ _ _ _).spares
      · exact .refl s

theorem gatherEnd_ebbs (s : State) (c w : Nat) : Ebbs s (gatherEnd s c w) := by
  unfold gatherEnd
  refine waitHold_ebbs (.refl s) ?_
  split
  · exact .refl s
  · split
    · exact .refl s
    · extract_lets k i ot nout outs adds u sat nan v x y
      have hu : Ebbs s u := by
        refine Ebbs.foldl (fun z n => ?_) _ s
        split
        · exact .refl z
        · exact engWrite_ebbs _ _ _ _ _ _ _
      have hv : Ebbs s v := by
        unfold v
        split
        · exact hu.trans (flagWork_ebbs _ _ _ _)
        · exact hu
      have hx : Ebbs s x := by
        unfold x
        split
        · exact hv
        · exact hv.trans (count_spares _ _ _ _).ebbs
      split
      · exact hu
      · exact hx.trans ((modCore_spares _ _ _).trans (count_spares _ _ _ _)).ebbs

theorem gatherGo_ebbs (s : State) (c : Nat) : Ebbs s (gatherGo s c) := by
  unfold gatherGo
  split
  · exact .refl s
  · next w _ =>
    extract_lets u
    have hu : Ebbs s u := resolveAll_ebbs _ _ _ _
    split
    · exact hu
    · split
      · exact hu
      · extract_lets v
        have hv : Ebbs s v := by
          unfold v
          split
          · exact hu
          · exact hu.trans (modCore_spares _ _ _).ebbs
        split
        · exact hv.trans (invalidField_ebbs _ _)
        · exact hv.trans ((sendSubs_spares _ _ _ _).ebbs.trans (gatherEnd_ebbs _ _ _))

theorem resumeGathers_ebbs (s : State) : Ebbs s (resumeGathers s) := by
  unfold resumeGathers
  refine Ebbs.foldl (fun u p => ?_) _ s
  exact (gatherGo_ebbs u p.1).trans (settle_ebbs (gatherGo u p.1) p.1)

/-! ## The bound of a quench (R214, R563) -/

theorem quenchBoundExpiry_ends {s : State} {j : JobId} {x : Job} {q : Quench} (hd : domainsUp s = true)
    (hx : tget s.dsp.jobs j.val = some x) (hq : x.quench = some q) (hs : x.stream = none) (hp : x.superseded = false)
    (hdue : s.eft.tick ≥ q.start + quenchBound x) : Completes (.quenchBoundExpiry j true) s (fun t =>
      Ended s t j.val x ∧ ∀ u ∈ q.units, u ≠ moverUnit → (unitRec t u).health = .fault) := by
  have hexec : exec (.quenchBoundExpiry j true) s =
      .next (resumeGathers (finishQuench (q.units.foldl (fun s u => missedAck s j.val x q u) s) j.val)) := by
    show execQuenchBoundExpiry j true s = _
    unfold execQuenchBoundExpiry
    simp only [hx, hq]
    have hwait : ¬(!domainsUp s || decide (s.eft.tick < q.start + quenchBound x)) = true := by
      rw [hd]
      simpa using hdue
    rw [if_neg hwait, Bool.not_true, Bool.and_false]
    rfl
  refine ⟨_, hexec, ?_⟩
  have hmissed : Ebbs s (q.units.foldl (fun s u => missedAck s j.val x q u) s) := Ebbs.foldl (fun u v => missedAck_ebbs u j.val x q v) _ s
  have hfault (u : Nat) (hu : u ∈ q.units) (hm : u ≠ moverUnit) := missedAcks_fault s j.val x q hu hm
  generalize q.units.foldl (fun s u => missedAck s j.val x q u) s = v at hmissed hfault
  obtain ⟨y, hy, hkept⟩ := hmissed.jobs.kept _ _ hx
  have hended : Ended v (finishQuench v j.val) j.val y :=
    finishQuench_ends hy (hkept.quench (by rw [hq]; rfl)) (hkept.stream.trans hs) (hkept.superseded.trans hp)
  have hafter := hended.ebbs (resumeGathers_ebbs _)
  exact ⟨hafter.of_ebbs hmissed hkept, fun u hu hm => hafter.fault u (hfault u hu hm)⟩

/-! ## The statement -/

/-- Settles O34. The status of a missed deadline is 0x0201, TIMEOUT (R214, Table 7-8). -/
theorem jobsEndQuenchAndAdvance : Obligations.JobsEndQuenchAndAdvance := by
  unfold Obligations.JobsEndQuenchAndAdvance
  intro s j x hd hx gone
  refine ⟨fun hq hs hdue => ?_, fun q u hq hu hw hg => quenchAck_strikes hd hx hq hu hw hg,
    fun g u hq hg hp => ⟨_, quenchAck_late hd hx hq hg hp, ctr_lateDrop s, rfl⟩, fun q hq hs hp hdue => ?_,
    fun he hs => completionPost_posts hd hx he hs, fun st hs ho hq hdue => ⟨fun hf => ?_, fun hf hn => ?_⟩,
    fun hq hs hg hr he => ?_⟩
  · have hset := quenchJob_starts hx hq 0x0201 0 false
    exact ⟨_, execDeadlineExpiry_single hd hx hq hs hdue, _, _, hset.job_self, rfl, rfl, rfl, fun i hi => hset.job_ne hi, hset.rings⟩
  · obtain ⟨t, ht, hended, hfault⟩ := quenchBoundExpiry_ends hd hx hq hs hp hdue
    exact ⟨t, ht, ⟨hended.gone, hended.gen⟩, hfault, hended.ring⟩
  · intro y
    have hexec := execFrameRelease_due ⟨hd, hx, hs, ho, hq, hdue⟩
    rw [hf, if_pos (by decide)] at hexec
    exact hexec
  · exact frameRelease_starts ⟨hd, hx, hs, ho, hq, hdue⟩ hf hn
  · obtain ⟨t, ht, hcores⟩ := roundAdvance_starts hd hx hq hs hg hr he
    refine ⟨t, ht, ?_⟩
    rw [hcores]
    refine ⟨?_, fun i hi => ?_, rfl, rfl, rfl⟩
    · exact (tget_tset _ _ _ _).trans (if_pos rfl)
    · exact (tget_tset _ _ _ _).trans (if_neg (Ne.symm hi))

end Sys2Proof.Machine
end

section
/-! PROOFS. What it means for a result to keep memory in its canonical form (19_tier_memory.md, R463). Memory changes only through
`mwrite`, `mset`, `filter` and their folds, whose lemmas stand above; every other function of the model passes it on. So each
function that answers a state has one lemma, `f_orderly`, that cites those of the functions it calls, and the lemma `exec…_keeps`
of a command also names the state it answers. The lemmas stand in the model's order, under the model's headings. -/
namespace Sys2Proof.Machine

/-! ## The results that carry a state -/

/-- `Canonical` as a structure: the kernel then compares the states it is said of as they are written, and evaluates none. -/
structure Orderly (s : State) : Prop where
  wf : Canonical s

/-- The state that an optional result holds. -/
def OptOrderly (o : Option State) : Prop := ∀ t, o = some t → Orderly t

/-- The state in the first place of an optional pair. -/
def OptFstOrderly {α : Type} (o : Option (State × α)) : Prop := ∀ t a, o = some (t, a) → Orderly t

/-- The state in the second place of an optional pair. -/
def OptSndOrderly {α : Type} (o : Option (α × State)) : Prop := ∀ a t, o = some (a, t) → Orderly t

/-- The state that ends a check before its answer. -/
def InlOrderly {α : Type} (x : State ⊕ α) : Prop := ∀ t, x = .inl t → Orderly t

/-- The state that a read leaves, whether it answers bytes or fails; so for the results below. -/
def Rd.Orderly : Rd → Prop
  | .ok _ s | .fail s => Machine.Orderly s

def Rows.Orderly : Rows → Prop
  | .ok _ s | .fail s => Machine.Orderly s

def LoadB.Orderly : LoadB → Prop
  | .ok _ s | .fail s | .invalid s => Machine.Orderly s

def FbRead.Orderly : FbRead → Prop
  | .ok _ s | .fail s | .invalid s => Machine.Orderly s

def DenseRead.Orderly : DenseRead → Prop
  | .ok _ s | .fail s | .invalid s => Machine.Orderly s

def Formed.Orderly : Formed → Prop
  | .ok _ _ s | .fail s | .invalid s => Machine.Orderly s

def BagRead.Orderly : BagRead → Prop
  | .ok _ _ _ s | .fail s | .invalid s => Machine.Orderly s

def LoadOps.Orderly : LoadOps → Prop
  | .ok _ s | .fail s => Machine.Orderly s

def Lanes.Orderly : Lanes → Prop
  | .ok _ s | .fail s => Machine.Orderly s

def AddOut.Orderly : AddOut → Prop
  | .done _ _ s | .refused _ s => Machine.Orderly s

def Quota.Orderly : Quota → Prop
  | .fits s | .hold s => Machine.Orderly s
  | .refuse => True

def Asg.Orderly : Asg → Prop
  | .chain s _ _ _ | .hold s => Machine.Orderly s
  | .refuse _ => True

/-- The state that a mailbox command leaves; a refusal carries none. -/
def CmdOut.Orderly : CmdOut → Prop
  | .refuse _ => True
  | .ended s _ _ | .ok s _ | .wait s _ _ _ | .silent s => Machine.Orderly s

/-- A step from `s` answers a next state, canonical where `s` is. -/
def Keeps (s : State) (r : Res) : Prop := ∃ t, r = .next t ∧ (Orderly s → Orderly t)

theorem keeps_next {s t : State} (h : Orderly s → Orderly t) : Keeps s (.next t) := ⟨t, rfl, h⟩

theorem keeps_ite {c : Prop} [Decidable c] {s : State} {r q : Res} (hr : Keeps s r) (hq : Keeps s q) : Keeps s (if c then r else q) := by
  split
  · exact hr
  · exact hq

theorem wf_ite {c : Prop} [Decidable c] {m n : Memory} (hm : Memory.wf m = true) (hn : Memory.wf n = true) :
    Memory.wf (if c then m else n) = true := by
  split
  · exact hm
  · exact hn

theorem orderly_ite {c : Prop} [Decidable c] {s t : State} (hs : Orderly s) (ht : Orderly t) : Orderly (if c then s else t) := by
  split
  · exact hs
  · exact ht

theorem orderly_foldl {α : Type} {f : State → α → State} {l : List α} {s : State} (hf : ∀ u x, Orderly u → Orderly (f u x))
    (h : Orderly s) : Orderly (l.foldl f s) :=
  List.foldlRecOn l f h fun u hu x _ => hf u x hu

/-- Every other field of the state may take any value. -/
theorem orderly_update {pending freeCtr hostOut eft pwr boot host rings mbx store dsp errs ecc repairs ledger cores swi net fab
    fabOut obs board mem} (h : Memory.wf mem = true) :
    Orderly (State.mk pending freeCtr hostOut eft pwr boot host rings mbx store dsp errs ecc repairs ledger cores swi net fab
      fabOut obs board mem) := ⟨h⟩

theorem optOrderly_none : OptOrderly none := fun _ h => nomatch h

theorem optOrderly_some {s : State} (h : Orderly s) : OptOrderly (some s) := fun _ e => Option.some.inj e ▸ h

theorem optFstOrderly_none {α : Type} : OptFstOrderly (none : Option (State × α)) := fun _ _ h => nomatch h

theorem optSndOrderly_none {α : Type} : OptSndOrderly (none : Option (α × State)) := fun _ _ h => nomatch h

theorem optFstOrderly_some {α : Type} {s : State} {a : α} (h : Orderly s) : OptFstOrderly (some (s, a)) := by
  rintro t b ⟨⟩
  exact h

theorem optSndOrderly_some {α : Type} {s : State} {a : α} (h : Orderly s) : OptSndOrderly (some (a, s)) := by
  rintro b t ⟨⟩
  exact h

theorem optSndOrderly_of_snd {α : Type} {x : α × State} (h : Orderly x.2) : OptSndOrderly (some x) := by
  rintro b t ⟨⟩
  exact h

theorem optSndOrderly_map {α β : Type} {f : α → β × State} {o : Option α} (hf : ∀ x, Orderly (f x).2) : OptSndOrderly (o.map f) := by
  intro b t e
  obtain ⟨x, -, hx⟩ := Option.map_eq_some_iff.mp e
  have h := hf x
  rw [hx] at h
  exact h

theorem optSndOrderly_ite {α : Type} {c : Prop} [Decidable c] {o q : Option (α × State)} (ho : OptSndOrderly o) (hq : OptSndOrderly q) :
    OptSndOrderly (if c then o else q) := by
  split
  · exact ho
  · exact hq

theorem cmdOut_guard {c : Prop} [Decidable c] {st : ℕ} {o : CmdOut} (h : o.Orderly) : (if c then .refuse st else o).Orderly := by
  split
  · exact trivial
  · exact h

theorem inlOrderly_inl {α : Type} {s : State} (h : Orderly s) : InlOrderly (.inl s : State ⊕ α) := by
  rintro t ⟨⟩
  exact h

theorem inlOrderly_inr {α : Type} {a : α} : InlOrderly (.inr a : State ⊕ α) := fun _ e => nomatch e

theorem orderly_of_fst {β : Type} {x : State × β} {t : State} {b : β} (h : Orderly x.1) (e : x = (t, b)) : Orderly t := by
  subst e
  exact h

theorem orderly_of_snd {β : Type} {x : β × State} {t : State} {b : β} (h : Orderly x.2) (e : x = (b, t)) : Orderly t := by
  subst e
  exact h

theorem orderly_foldl_fst {α β : Type} {f : State × β → α → State × β} {l : List α} {p : State × β}
    (hf : ∀ q x, Orderly q.1 → Orderly (f q x).1) (h : Orderly p.1) : Orderly (l.foldl f p).1 :=
  List.foldlRecOn (motive := fun q => Orderly q.1) l f h fun q hq x _ => hf q x hq

theorem optOrderly_map {α : Type} {f : α → State} {o : Option α} (hf : ∀ x, Orderly (f x)) : OptOrderly (o.map f) := by
  intro t e
  obtain ⟨x, -, rfl⟩ := Option.map_eq_some_iff.mp e
  exact hf x

theorem optOrderly_map_state {f : State → State} {o : Option State} (hf : ∀ u, Orderly u → Orderly (f u)) (h : OptOrderly o) :
    OptOrderly (o.map f) := by
  intro t e
  obtain ⟨u, hu, rfl⟩ := Option.map_eq_some_iff.mp e
  exact hf u (h u hu)

theorem orderly_getD {o : Option State} {s : State} (ho : OptOrderly o) (h : Orderly s) : Orderly (o.getD s) := by
  cases ho' : o with
  | none => exact h
  | some t => exact ho t ho'

theorem Rd.Orderly.at {r q : Rd} (h : r.Orderly) (e : r = q) : q.Orderly := e ▸ h

theorem Rows.Orderly.at {r q : Rows} (h : r.Orderly) (e : r = q) : q.Orderly := e ▸ h

theorem LoadB.Orderly.at {r q : LoadB} (h : r.Orderly) (e : r = q) : q.Orderly := e ▸ h

theorem FbRead.Orderly.at {r q : FbRead} (h : r.Orderly) (e : r = q) : q.Orderly := e ▸ h

theorem DenseRead.Orderly.at {r q : DenseRead} (h : r.Orderly) (e : r = q) : q.Orderly := e ▸ h

theorem Formed.Orderly.at {r q : Formed} (h : r.Orderly) (e : r = q) : q.Orderly := e ▸ h

theorem BagRead.Orderly.at {r q : BagRead} (h : r.Orderly) (e : r = q) : q.Orderly := e ▸ h

theorem LoadOps.Orderly.at {r q : LoadOps} (h : r.Orderly) (e : r = q) : q.Orderly := e ▸ h

theorem Lanes.Orderly.at {r q : Lanes} (h : r.Orderly) (e : r = q) : q.Orderly := e ▸ h

theorem AddOut.Orderly.at {r q : AddOut} (h : r.Orderly) (e : r = q) : q.Orderly := e ▸ h

theorem Quota.Orderly.at {r q : Quota} (h : r.Orderly) (e : r = q) : q.Orderly := e ▸ h

theorem Asg.Orderly.at {r q : Asg} (h : r.Orderly) (e : r = q) : q.Orderly := e ▸ h

theorem CmdOut.Orderly.at {r q : CmdOut} (h : r.Orderly) (e : r = q) : q.Orderly := e ▸ h

end Sys2Proof.Machine
end

section
/-! PROOFS. The operations that the meanings share, work, sending on the fabric, and quenches keep memory in its canonical form. -/
namespace Sys2Proof.Machine

/-! ## The whole state of the tray, the reasons a step can stop, and the tray right after reset -/

theorem State.reset_orderly : Orderly (State.reset) := by
  unfold State.reset
  exact orderly_update rfl

/-! ## Whether a part of the tray acts -/

theorem linkExit_orderly {s : State} (h : Orderly s) : Orderly (linkExit s) := by
  unfold linkExit
  exact orderly_ite (orderly_update h.wf) h

theorem noteBusy_orderly {s : State} (h : Orderly s) : Orderly (noteBusy s) := by
  unfold noteBusy
  exact orderly_update h.wf

theorem settleMgt_orderly {s : State} (h : Orderly s) : Orderly (settleMgt s) := by
  unfold settleMgt
  exact orderly_ite (orderly_update h.wf) h

/-! ## Counters -/

theorem ctrAdd_orderly {s : State} {off n : ℕ} (h : Orderly s) : Orderly (ctrAdd s off n) := by
  unfold ctrAdd
  exact orderly_update h.wf

/-! ## Messages to the host -/

theorem send_orderly {s : State} {m : OutMsg} (h : Orderly s) : Orderly (send s m) := by
  unfold send
  exact orderly_ite (orderly_update h.wf) (orderly_update h.wf)

theorem hostWrite_orderly {s : State} {addr : ℕ} {data : List Byte} (h : Orderly s) : Orderly (hostWrite s addr data) := by
  unfold hostWrite
  exact send_orderly h

theorem sendMsix_orderly {s : State} {v : ℕ} (h : Orderly s) : Orderly (sendMsix s v) := by
  unfold sendMsix
  exact send_orderly h

theorem raiseMsix_orderly {s : State} {v : ℕ} (h : Orderly s) : Orderly (raiseMsix s v) := by
  unfold raiseMsix
  exact orderly_ite h (orderly_ite (orderly_ite h (orderly_update h.wf)) (sendMsix_orderly h))

theorem sysErr_orderly {s : State} {bit : ℕ} (h : Orderly s) : Orderly (sysErr s bit) := by
  unfold sysErr
  exact orderly_update h.wf

/-! ## Free values -/

theorem draw_orderly {s : State} {w : ℕ} (h : Orderly s) : Orderly (draw s w).2 := by
  unfold draw
  exact orderly_update h.wf

/-! ## Events (R152 to R156) -/

theorem evqWrite_orderly {s : State} {e : EvRec} (h : Orderly s) : Orderly (evqWrite s e) := by
  unfold evqWrite
  extract_lets u wrap _ u1
  have hu : Orderly u := hostWrite_orderly h
  have hu1 : Orderly u1 := orderly_update hu.wf
  exact raiseMsix_orderly hu1

theorem evqDrain_orderly {n : ℕ} {s : State} (h : Orderly s) : Orderly (evqDrain n s) := by
  induction n generalizing s with
  | zero =>
    unfold evqDrain
    exact h
  | succ n ih =>
    unfold evqDrain
    split
    · exact h
    · exact orderly_ite (ih (evqWrite_orderly (orderly_update h.wf))) h

theorem evqSpaceReturned_orderly {s : State} (h : Orderly s) : Orderly (evqSpaceReturned s) := by
  unfold evqSpaceReturned
  split
  · extract_lets _ u
    have hu : Orderly u := orderly_ite h (orderly_update h.wf)
    exact evqDrain_orderly hu
  · exact h

theorem raiseEvent_orderly {s : State} {type p0 p1 : ℕ} (h : Orderly s) : Orderly (raiseEvent s type p0 p1) := by
  unfold raiseEvent
  extract_lets e _ u
  have hu : Orderly u := orderly_update h.wf
  exact orderly_ite (evqWrite_orderly hu) (orderly_ite (orderly_update hu.wf) (orderly_update hu.wf))

/-! ## Trace records (R589 to R594) -/

theorem pondPut_orderly {s : State} {p : ℕ} {r : TrcRec} (h : Orderly s) : Orderly (pondPut s p r) := by
  unfold pondPut
  extract_lets b room _ d u
  have hu : Orderly u := ctrAdd_orderly (orderly_update h.wf)
  split
  · exact orderly_ite (ctrAdd_orderly (orderly_update h.wf)) (ctrAdd_orderly (orderly_update h.wf))
  · split
    · exact ctrAdd_orderly (orderly_update h.wf)
    · exact orderly_ite (ctrAdd_orderly hu) (ctrAdd_orderly (orderly_update h.wf))

theorem trcTake_orderly {s : State} {r : TrcRec} (h : Orderly s) : Orderly (trcTake s r) := by
  unfold trcTake
  split
  · exact h
  · exact orderly_ite (pondPut_orderly h) (orderly_ite (orderly_update h.wf) (ctrAdd_orderly (orderly_update h.wf)))

theorem traceTray_orderly {s : State} {type arg : ℕ} (h : Orderly s) : Orderly (traceTray s type arg) := by
  unfold traceTray
  exact trcTake_orderly h

theorem traceCore_orderly {s : State} {core : ℕ} {tcids : List ℕ} {tag type arg : ℕ} (h : Orderly s) :
    Orderly (traceCore s core tcids tag type arg) := by
  obtain e | ⟨r, e⟩ | e := traceCore_cases s core tcids tag type arg <;> rw [e]
  · exact h
  · exact trcTake_orderly h
  · exact ctrAdd_orderly h

/-! ## Poisoned words -/

theorem cure_orderly {s : State} {cured : ℕ → Bool} (h : Orderly s) : Orderly (cure s cured) := by
  unfold cure
  extract_lets _ u ws
  have hu : Orderly u := orderly_ite h (orderly_update h.wf)
  exact orderly_ite hu (orderly_update hu.wf)

/-! ## The ledger engine (24_change_ledger.md) -/

theorem ledgerEvents_orderly {s : State} (h : Orderly s) : Orderly (ledgerEvents s) := by
  unfold ledgerEvents
  extract_lets _ u
  have hu : Orderly u := orderly_ite (raiseEvent_orderly (orderly_update h.wf)) h
  exact orderly_ite (raiseEvent_orderly hu) hu

theorem ledgerAppend_orderly {s : State} {e : LEntry} (h : Orderly s) : Orderly (ledgerAppend s e) := by
  unfold ledgerAppend
  split
  · exact h
  · extract_lets seq prev bytes u
    have hu : Orderly u := cure_orderly h
    exact ledgerEvents_orderly (orderly_update (mwrite_wf _ _ hu.wf))

theorem ledgerOwn_orderly {s : State} {e : LEntry} (h : Orderly s) : Orderly (ledgerOwn s e) := by
  unfold ledgerOwn
  exact orderly_ite (ctrAdd_orderly (orderly_update h.wf)) (ledgerAppend_orderly h)

theorem ledgerSelf_orderly {s : State} {kind tcid object value : ℕ} (h : Orderly s) :
    Orderly (ledgerSelf s kind tcid object value) := by
  unfold ledgerSelf
  exact ledgerOwn_orderly h

theorem ledgerCmd_orderly {s : State} {slot : ℕ} {r : Req} {tcid object part : ℕ} (h : Orderly s) :
    Orderly (ledgerCmd s slot r tcid object part) := by
  unfold ledgerCmd
  exact ledgerAppend_orderly h

/-! ## Units (R166, R167) -/

theorem setHealth_orderly {s : State} {u : ℕ} {h : Health} {notify : Bool} (hs : Orderly s) :
    Orderly (setHealth s u h notify) := by
  unfold setHealth
  extract_lets r g _ u1
  have hu1 : Orderly u1 := orderly_update hs.wf
  exact orderly_ite hs (orderly_ite (orderly_update hu1.wf) hu1)

theorem writeAdmin_orderly {s : State} {u : ℕ} {a : Admin} (h : Orderly s) : Orderly (writeAdmin s u a) := by
  unfold writeAdmin
  extract_lets r
  exact orderly_ite h (orderly_update h.wf)

theorem fenceAdmin_orderly {s : State} {u : ℕ} {a : Admin} (h : Orderly s) : Orderly (fenceAdmin s u a) := by
  unfold fenceAdmin
  extract_lets r u1
  have hu1 : Orderly u1 := writeAdmin_orderly h
  exact orderly_ite h (ledgerSelf_orderly hu1)

/-! ## Error reports (R549, R554) -/

theorem latch_orderly {s : State} {queue : ℕ} {r : ErrRep} (h : Orderly s) : Orderly (latch s queue r) := by
  unfold latch
  extract_lets q
  exact orderly_ite (orderly_update h.wf) (orderly_update h.wf)

theorem corrected_orderly {s : State} {key : ℕ} (h : Orderly s) : Orderly (corrected s key) := by
  unfold corrected
  split
  · extract_lets ts1 due _ u unit d0
    have hu : Orderly u := orderly_update h.wf
    exact orderly_ite (latch_orderly hu) hu

/-! ## Cores, sequencers and reservations -/

theorem setCore_orderly {s : State} {c : ℕ} {k : Core} (h : Orderly s) : Orderly (setCore s c k) := by
  unfold setCore
  exact orderly_update h.wf

theorem modCore_orderly {s : State} {c : ℕ} {f : Core → Core} (h : Orderly s) : Orderly (modCore s c f) := by
  unfold modCore
  exact setCore_orderly h

theorem setSeq_orderly {s : State} {ag : ℕ} {q : Seq} (h : Orderly s) : Orderly (setSeq s ag q) := by
  unfold setSeq
  exact orderly_ite (modCore_orderly h) (orderly_update h.wf)

theorem breakRes_orderly {s : State} {by_ : Option ℕ} {a n : ℕ} (h : Orderly s) : Orderly (breakRes s by_ a n) := by
  unfold breakRes
  exact orderly_update h.wf

theorem waitHold_orderly {ag : Option ℕ} {s t : State} (h : Orderly s) (ht : Orderly t) : Orderly (waitHold ag s t) := by
  unfold waitHold
  exact orderly_ite ht h

/-! ## Writing memory with poison (R246, R470, R472) -/

theorem memPut_orderly {s : State} {a : ℕ} {ds : List Byte} (h : Orderly s) : Orderly (memPut s a ds).1 := by
  unfold memPut
  extract_lets whole bad u idx
  have hu : Orderly u := cure_orderly h
  split
  · exact orderly_update (mwrite_wf _ _ hu.wf)
  · refine orderly_update (foldl_wf _ (fun m i hm => ?_) _ hu.wf)
    split
    · exact hm
    · exact mset_wf _ _ hm

theorem memWriteBy_orderly {s : State} {by_ : Option ℕ} {a : ℕ} {ds : List Byte} (h : Orderly s) :
    Orderly (memWriteBy s by_ a ds).1 := by
  unfold memWriteBy
  exact memPut_orderly (breakRes_orderly h)

theorem memWrite_orderly {s : State} {a : ℕ} {ds : List Byte} (h : Orderly s) : Orderly (memWrite s a ds).1 := by
  unfold memWrite
  exact memWriteBy_orderly h

theorem memZero_orderly {s : State} {a n : ℕ} (h : Orderly s) : Orderly (memZero s a n) := by
  unfold memZero
  extract_lets u
  have hu : Orderly u := cure_orderly (breakRes_orderly h)
  exact orderly_update (mzero_wf _ _ hu.wf)

theorem memCopy_orderly {s : State} {src dst n : ℕ} (h : Orderly s) : Orderly (memCopy s src dst n) := by
  unfold memCopy
  extract_lets u
  have hu : Orderly u := memZero_orderly h
  exact orderly_update (mcopy_wf _ _ _ hu.wf)

/-! ## Work: jobs of this tray and parts of jobs of other trays -/

theorem modPart_orderly {s : State} {w : ℕ} {f : RPart → RPart} (h : Orderly s) : Orderly (modPart s w f) := by
  unfold modPart
  exact orderly_update h.wf

/-! ## Counters of the section record (Table 25-4) -/

theorem count_orderly {s : State} {c word n : ℕ} (h : Orderly s) : Orderly (count s c word n) := by
  unfold count
  extract_lets k u
  have hu : Orderly u := orderly_ite (setCore_orderly h) h
  split
  · exact ctrAdd_orderly hu
  · exact hu

theorem countCore_orderly {s : State} {c off n : ℕ} (h : Orderly s) : Orderly (countCore s c off n) := by
  unfold countCore
  exact ctrAdd_orderly h

theorem countStall_orderly {s : State} {c code waiter n : ℕ} (h : Orderly s) : Orderly (countStall s c code waiter n) := by
  unfold countStall
  extract_lets u
  have hu : Orderly u := count_orderly h
  exact ctrAdd_orderly (ctrAdd_orderly hu)

theorem stall_orderly {s : State} {c code waiter n : ℕ} (h : Orderly s) : Orderly (stall s c code waiter n) := by
  unfold stall
  split
  · exact h
  · extract_lets u u1
    have hu : Orderly u := countStall_orderly h
    have hu1 : Orderly u1 := traceCore_orderly hu
    exact orderly_ite hu (traceCore_orderly hu1)

theorem freeStalls_orderly {s : State} {c : ℕ} (h : Orderly s) : Orderly (freeStalls s c) := by
  unfold freeStalls
  extract_lets ps
  split
  · rename_i e
    exact orderly_foldl (fun _ _ => countStall_orderly) (orderly_of_snd (draw_orderly h) e)

theorem pageRec_orderly {s : State} {t : ℕ} {r : Tab ℕ} (h : Orderly s) : Orderly (pageRec s t r) := by
  unfold pageRec
  exact orderly_ite h (orderly_update h.wf)

theorem keepRec_orderly {s : State} {t : ℕ} {r : Tab ℕ} (h : Orderly s) : Orderly (keepRec s t r) := by
  unfold keepRec
  exact orderly_ite h (orderly_update h.wf)

theorem closeRec_orderly {s : State} {c : ℕ} {incomplete : Bool} (h : Orderly s) : Orderly (closeRec s c incomplete) := by
  unfold closeRec
  split
  · exact h
  · extract_lets u k r
    have hu : Orderly u := freeStalls_orderly h
    split
    · rename_i u1 e
      have hu1 : Orderly u1 := orderly_of_snd (draw_orderly hu) e
      extract_lets cyc tcids cob w0 r1 u2 _ u3 u4
      have hu2 : Orderly u2 := setCore_orderly hu1
      have hu3 : Orderly u3 := orderly_update hu2.wf
      have hu4 : Orderly u4 := orderly_foldl (fun _ _ hu5 => keepRec_orderly (pageRec_orderly hu5)) hu3
      exact traceCore_orderly hu4

/-! ## Stopping a core -/

theorem lateDrop_orderly {s : State} (h : Orderly s) : Orderly (lateDrop s) := by
  unfold lateDrop
  exact ctrAdd_orderly h

theorem endFlight_orderly {s : State} {w : ℕ} (h : Orderly s) : Orderly (endFlight s w) := by
  unfold endFlight
  exact orderly_update h.wf

theorem dropCredsOf_orderly {s : State} {c : ℕ} (h : Orderly s) : Orderly (dropCredsOf s c) := by
  unfold dropCredsOf
  exact orderly_update h.wf

theorem dropTotals_orderly {s : State} {c : ℕ} (h : Orderly s) : Orderly (dropTotals s c) := by
  unfold dropTotals
  exact orderly_update h.wf

theorem coreStop_orderly {s : State} {c : ℕ} (h : Orderly s) : Orderly (coreStop s c) := by
  unfold coreStop
  extract_lets u
  have hu : Orderly u := closeRec_orderly h
  exact dropTotals_orderly (dropCredsOf_orderly (setCore_orderly hu))

theorem stopChain_orderly {s : State} {w : ℕ} (h : Orderly s) : Orderly (stopChain s w) := by
  unfold stopChain
  refine orderly_foldl (fun u x hu => ?_) h
  split
  · exact orderly_ite hu (coreStop_orderly hu)
  · extract_lets ms
    exact orderly_ite (orderly_ite hu (coreStop_orderly hu)) hu

/-! ## Sending on the fabric -/

theorem setPort_orderly {s : State} {p : ℕ} {x : Port} (h : Orderly s) : Orderly (setPort s p x) := by
  unfold setPort
  exact orderly_update h.wf

theorem modPort_orderly {s : State} {p : ℕ} {f : Port → Port} (h : Orderly s) : Orderly (modPort s p f) := by
  unfold modPort
  exact setPort_orderly h

theorem fabSend_orderly {s : State} {m : FabOut} (h : Orderly s) : Orderly (fabSend s m) := by
  unfold fabSend
  exact orderly_update h.wf

/-! ## Link layer -/

theorem enqueue_orderly {s : State} {p : ℕ} {vc : Vc} {flits : ℕ} (h : Orderly s) : Orderly (enqueue s p vc flits) := by
  unfold enqueue
  exact modPort_orderly h

/-! ## Routes -/

theorem issueFrame_orderly {s : State} {node : ℕ} {vc : Vc} {flits : ℕ} (h : Orderly s) :
    Orderly (issueFrame s node vc flits) := by
  unfold issueFrame
  extract_lets e p
  exact orderly_ite (enqueue_orderly h) (ctrAdd_orderly h)

/-! ## Transactions -/

theorem sendFrames_orderly {s : State} {txid : ℕ} {t : Txn} (h : Orderly s) : Orderly (sendFrames s txid t) := by
  unfold sendFrames
  extract_lets u
  have hu : Orderly u := fabSend_orderly h
  exact orderly_foldl (fun _ _ => issueFrame_orderly) hu

theorem sendTxn_orderly {s : State} {dst : ℕ} {op : TxnOp} {tcid slot : ℕ} {gen : BitVec 16} {work : Option ℕ} {core ord : ℕ}
    (h : Orderly s) : Orderly (sendTxn s dst op tcid slot gen work core ord) := by
  unfold sendTxn
  extract_lets id t _ u
  have hu : Orderly u := orderly_update h.wf
  exact sendFrames_orderly hu

theorem sendResponse_orderly {s : State} {dst : ℕ} {txid : BitVec 32} {status : ℕ} {sat nan hold : Bool} {payload : List Byte}
    (h : Orderly s) : Orderly (sendResponse s dst txid status sat nan hold payload) := by
  unfold sendResponse
  extract_lets u
  have hu : Orderly u := fabSend_orderly h
  exact orderly_foldl (fun _ _ => issueFrame_orderly) hu

theorem recordDup_orderly {s : State} {d : DupRec} (h : Orderly s) : Orderly (recordDup s d) := by
  unfold recordDup
  extract_lets mine old
  exact orderly_update h.wf

theorem sendCredit_orderly {s : State} {dst tcid slot : ℕ} {gen : BitVec 16} {pcore ccore creg total : ℕ} (h : Orderly s) :
    Orderly (sendCredit s dst tcid slot gen pcore ccore creg total) := by
  unfold sendCredit
  extract_lets _ u
  have hu : Orderly u := orderly_update h.wf
  exact issueFrame_orderly (fabSend_orderly hu)

/-! ## Completion records -/

theorem pageAdd_orderly {s : State} {t word n : ℕ} (h : Orderly s) : Orderly (pageAdd s t word n) := by
  unfold pageAdd
  exact orderly_ite (orderly_update h.wf) h

theorem postCompl_orderly {s : State} {r : ℕ} {c : Compl} {counted : Bool} (h : Orderly s) :
    Orderly (postCompl s r c counted) := by
  unfold postCompl
  extract_lets g u n wrap u1 u2 u3 u4
  have hu : Orderly u := hostWrite_orderly h
  have hu1 : Orderly u1 := orderly_update hu.wf
  have hu2 : Orderly u2 := ctrAdd_orderly hu1
  have hu3 : Orderly u3 := orderly_ite (pageAdd_orderly hu2) hu2
  have hu4 : Orderly u4 := orderly_ite (pageAdd_orderly hu3) hu3
  exact orderly_ite (raiseMsix_orderly hu4) hu4

theorem reserve_orderly {s : State} {r : ℕ} (h : Orderly s) : Orderly (reserve s r) := by
  unfold reserve
  exact orderly_update h.wf

theorem unreserve_orderly {s : State} {r : ℕ} (h : Orderly s) : Orderly (unreserve s r) := by
  unfold unreserve
  exact orderly_update h.wf

theorem postReadFault_orderly {s : State} {r : ℕ} (h : Orderly s) : Orderly (postReadFault s r) := by
  unfold postReadFault
  extract_lets g
  exact orderly_ite (postCompl_orderly (reserve_orderly (orderly_update h.wf))) h

/-! ## Staging orders -/

theorem dropTaCopy_orderly {s : State} {r : ℕ} (h : Orderly s) : Orderly (dropTaCopy s r) := by
  unfold dropTaCopy
  split
  · split
    · exact orderly_update h.wf
    · exact h
  · exact h

theorem retag_orderly {s : State} {b owner : ℕ} {res : Bool} (h : Orderly s) : Orderly (retag s b owner res) := by
  unfold retag
  extract_lets k u
  have hu : Orderly u := orderly_ite h (memZero_orderly h)
  exact orderly_update hu.wf

theorem dropSpCopy_orderly {s : State} {c : SpCopy} (h : Orderly s) : Orderly (dropSpCopy s c) := by
  unfold dropSpCopy
  extract_lets u
  have hu : Orderly u := orderly_foldl (fun _ _ => retag_orderly) h
  exact orderly_update hu.wf

theorem cancelStaging_orderly {s : State} {j : ℕ} (h : Orderly s) : Orderly (cancelStaging s j) := by
  unfold cancelStaging
  extract_lets mine _ u
  have hu : Orderly u := orderly_update h.wf
  refine orderly_foldl (fun u1 x hu1 => ?_) hu
  extract_lets u2
  have hu2 : Orderly u2 := orderly_foldl (fun _ _ => dropSpCopy_orderly) hu1
  split
  · split
    · split
      · exact orderly_ite hu2 (dropTaCopy_orderly hu2)
      · exact hu2
    · exact hu2
  · exact hu2

/-! ## Claims -/

theorem abortClaim_orderly {s : State} {r : ℕ} (h : Orderly s) : Orderly (abortClaim s r) := by
  unfold abortClaim
  extract_lets g t
  split
  · exact h
  · extract_lets mine u
    have hu : Orderly u := orderly_update h.wf
    exact orderly_foldl (fun _ _ => sendTxn_orderly) hu

/-! ## Quench -/

theorem traceQuench_orderly {s : State} {j : ℕ} {job : Job} {status : ℕ} (h : Orderly s) :
    Orderly (traceQuench s j job status) := by
  unfold traceQuench
  split
  · exact h
  · exact traceCore_orderly h

theorem abandonTxns_orderly {s : State} {w : ℕ} {gen : BitVec 16} (h : Orderly s) : Orderly (abandonTxns s w gen) := by
  unfold abandonTxns
  extract_lets shared
  exact orderly_update h.wf

theorem quenchJob_orderly {s : State} {j status detail : ℕ} {frameOnly : Bool} (h : Orderly s) :
    Orderly (quenchJob s j status detail frameOnly) := by
  unfold quenchJob
  split
  · exact h
  · split
    · exact orderly_ite (orderly_update h.wf) h
    · extract_lets q u _ u1 u2 u3
      have hu : Orderly u := traceQuench_orderly h
      have hu1 : Orderly u1 := orderly_update hu.wf
      have hu2 : Orderly u2 := abandonTxns_orderly (stopChain_orderly hu1)
      have hu3 : Orderly u3 := cancelStaging_orderly hu2
      exact orderly_foldl (fun _ _ => sendTxn_orderly) hu3

theorem quenchWhere_orderly {s : State} {p : ℕ → Job → Bool} {status detail : ℕ} (h : Orderly s) :
    Orderly (quenchWhere s p status detail) := by
  unfold quenchWhere
  exact orderly_foldl (fun _ _ => quenchJob_orderly) h

theorem failJob_orderly {s : State} {j status : ℕ} (h : Orderly s) : Orderly (failJob s j status) := by
  unfold failJob
  split
  · exact h
  · exact quenchJob_orderly h

theorem failWork_orderly {s : State} {w status : ℕ} (h : Orderly s) : Orderly (failWork s w status) := by
  unfold failWork
  split
  · split
    · exact h
    · split
      · exact h
      · extract_lets u
        have hu : Orderly u := stopChain_orderly (modPart_orderly h)
        exact sendTxn_orderly hu
  · exact failJob_orderly h

theorem failWorks_orderly {s : State} {ws : List ℕ} {status : ℕ} (h : Orderly s) : Orderly (failWorks s ws status) := by
  unfold failWorks
  exact orderly_foldl (fun _ _ => failWork_orderly) h

theorem hwHealth_orderly {s : State} {u : ℕ} {h : Health} {notify : Bool} (hs : Orderly s) : Orderly (hwHealth s u h notify) := by
  unfold hwHealth
  extract_lets before u1 g hit
  have hu1 : Orderly u1 := setHealth_orderly hs
  exact orderly_ite (failWorks_orderly (quenchWhere_orderly hu1)) hu1

end Sys2Proof.Machine
end

section
/-! PROOFS. Configuration space, mailboxes and evictions keep memory in its canonical form. -/
namespace Sys2Proof.Machine

/-! ## Configuration space of the function and its error reporting -/

theorem aerMark_orderly {s : State} {e : AerErr} (h : Orderly s) : Orderly (aerMark s e) := by
  unfold aerMark
  exact orderly_ite h (orderly_update h.wf)

theorem aerReport_orderly {s : State} {e : AerErr} (h : Orderly s) : Orderly (aerReport s e) := by
  unfold aerReport
  extract_lets sev u
  have hu : Orderly u := aerMark_orderly h
  exact orderly_ite hu (send_orderly hu)

theorem aerAdvisory_orderly {s : State} {e : AerErr} (h : Orderly s) : Orderly (aerAdvisory s e) := by
  unfold aerAdvisory
  split
  · exact aerReport_orderly h
  · extract_lets u
    have hu : Orderly u := aerMark_orderly (aerMark_orderly h)
    exact orderly_ite hu (send_orderly hu)

theorem unsupportedRequest_orderly {s : State} {write : Bool} {attr : TlpAttr} (h : Orderly s) :
    Orderly (unsupportedRequest s write attr) := by
  unfold unsupportedRequest
  split
  · exact aerReport_orderly h
  · extract_lets u
    have hu : Orderly u := aerAdvisory_orderly h
    exact orderly_update hu.wf

theorem msixFlush_orderly {s : State} (h : Orderly s) : Orderly (msixFlush s) := by
  unfold msixFlush
  extract_lets go
  exact orderly_foldl (fun _ _ hu => sendMsix_orderly (orderly_update hu.wf)) h

theorem cfgAccess_orderly {s : State} {a : CfgAccess} (h : Orderly s) : Orderly (cfgAccess s a) := by
  unfold cfgAccess
  split
  · exact orderly_ite (orderly_update h.wf) (orderly_update h.wf)
  · exact orderly_update h.wf
  · exact msixFlush_orderly (orderly_update h.wf)
  · exact orderly_update h.wf
  · exact orderly_update h.wf
  · exact orderly_update h.wf
  · exact orderly_ite h (orderly_update h.wf)
  · exact aerReport_orderly h
  · exact orderly_update h.wf

theorem execPowerMgmtState_keeps {acc : CfgAccess} {s : State} : Keeps s (execPowerMgmtState acc s) := by
  unfold execPowerMgmtState
  extract_lets u
  have hu (h : Orderly s) : Orderly u := linkExit_orderly h
  exact keeps_ite (keeps_next hu) (keeps_next fun h => cfgAccess_orderly (hu h))

/-! ## Slots -/

theorem respond_orderly {s : State} {k : ℕ} {r : Req} {status : ℕ} {payload : List Byte} (h : Orderly s) :
    Orderly (respond s k r status payload) := by
  unfold respond
  extract_lets hdr _ u
  have hu : Orderly u := orderly_update h.wf
  exact settleMgt_orderly (orderly_ite hu (raiseMsix_orderly hu))

theorem refuseFull_orderly {s : State} {k : ℕ} {r : Req} (h : Orderly s) : Orderly (refuseFull s k r) := by
  unfold refuseFull
  exact respond_orderly (ctrAdd_orderly h)

theorem fwBusyAnswer_orderly {s : State} {k : ℕ} {r : Req} (h : Orderly s) : Orderly (fwBusyAnswer s k r) := by
  unfold fwBusyAnswer
  extract_lets fields writes
  exact orderly_ite (respond_orderly h) (orderly_ite (refuseFull_orderly h) (respond_orderly h))

theorem takeSlot_orderly {s : State} {k : ℕ} (h : Orderly s) : Orderly (takeSlot s k) := by
  unfold takeSlot
  extract_lets r
  split
  · exact respond_orderly h
  · exact orderly_ite (fwBusyAnswer_orderly h) (settleMgt_orderly (noteBusy_orderly (orderly_update h.wf)))

theorem submitSlot_orderly {s : State} {k : ℕ} (h : Orderly s) : Orderly (submitSlot s k) := by
  unfold submitSlot
  split
  · extract_lets _ u
    have hu : Orderly u := orderly_update h.wf
    exact orderly_ite (takeSlot_orderly hu) (orderly_update hu.wf)
  · exact sysErr_orderly h

theorem execMbxDoorbell_keeps {mask : W32} {s : State} : Keeps s (execMbxDoorbell mask s) := by
  unfold execMbxDoorbell
  extract_lets u
  have hu (h : Orderly s) : Orderly u := linkExit_orderly h
  split
  · exact keeps_next hu
  · split
    · exact keeps_next fun h1 => unsupportedRequest_orderly (hu h1)
    · exact keeps_next fun h1 => orderly_foldl (fun _ _ => submitSlot_orderly) (hu h1)

theorem execMbxDoneClear_keeps {mask : W32} {s : State} : Keeps s (execMbxDoneClear mask s) := by
  unfold execMbxDoneClear
  extract_lets u
  have hu (h : Orderly s) : Orderly u := linkExit_orderly h
  split
  · exact keeps_next hu
  · split
    · exact keeps_next fun h1 => unsupportedRequest_orderly (hu h1)
    · exact keeps_next fun h1 => orderly_foldl (fun _ _ hu1 => orderly_ite (orderly_update hu1.wf) (sysErr_orderly hu1)) (hu h1)

theorem execMbxEvqBaseWrite_keeps {value : PartWrite} {s : State} : Keeps s (execMbxEvqBaseWrite value s) := by
  unfold execMbxEvqBaseWrite
  extract_lets u v
  have hu (h : Orderly s) : Orderly u := linkExit_orderly h
  split
  · exact keeps_next hu
  · split
    · exact keeps_next fun h1 => unsupportedRequest_orderly (hu h1)
    · exact keeps_ite (keeps_next fun h1 => sysErr_orderly (hu h1)) (keeps_next fun h1 => orderly_update (hu h1).wf)

theorem execMbxEvqCtlWrite_keeps {value : W32} {s : State} : Keeps s (execMbxEvqCtlWrite value s) := by
  unfold execMbxEvqCtlWrite
  extract_lets u
  have hu (h : Orderly s) : Orderly u := linkExit_orderly h
  split
  · exact keeps_next hu
  · split
    · exact keeps_next fun h1 => unsupportedRequest_orderly (hu h1)
    · split
      · exact keeps_ite (keeps_next hu) (keeps_next fun h1 => evqSpaceReturned_orderly (orderly_update (hu h1).wf))
      · exact keeps_next fun h1 => orderly_update (hu h1).wf

theorem execMbxEvqHeadWrite_keeps {value : W32} {s : State} : Keeps s (execMbxEvqHeadWrite value s) := by
  unfold execMbxEvqHeadWrite
  extract_lets u
  have hu (h : Orderly s) : Orderly u := linkExit_orderly h
  split
  · exact keeps_next hu
  · split
    · exact keeps_next fun h1 => unsupportedRequest_orderly (hu h1)
    · exact keeps_next fun h1 => evqSpaceReturned_orderly (orderly_update (hu h1).wf)

theorem execCroak_keeps {s : State} : Keeps s (execCroak s) := by
  unfold execCroak
  exact keeps_ite (keeps_next fun h => orderly_update h.wf) (keeps_next id)

/-! ## Running a command -/

theorem takePlace_orderly {s : State} {k : ℕ} {p : Pend} (h : Orderly s) : Orderly (takePlace s k p) := by
  unfold takePlace
  extract_lets run
  exact orderly_update h.wf

theorem finishCmd_orderly {s : State} {k : ℕ} {r : Req} {o : CmdOut} (h : Orderly s) (ho : CmdOut.Orderly o) :
    Orderly (finishCmd s k r o) := by
  cases o with
  | refuse st => exact respond_orderly h
  | ended u st p => exact respond_orderly ho
  | ok u p => exact respond_orderly ho
  | wait u jobs fills p => exact orderly_ite (respond_orderly ho) (takePlace_orderly ho)
  | silent u => exact ho

theorem runCmd_orderly {k opcode : ℕ} {ledger : Bool} {fields : State → List Byte → Bool} {body : Req → State → CmdOut}
    {s : State} (hbody : ∀ x u1, Orderly u1 → CmdOut.Orderly (body x u1)) (h : Orderly s) : Orderly
    (runCmd k opcode ledger fields body s) := by
  unfold runCmd
  split
  · exact h
  · split
    · exact h
    · split
      · exact respond_orderly h
      · exact orderly_ite (refuseFull_orderly h) (waitHold_orderly h (finishCmd_orderly h (hbody _ _ h)))

theorem answerWaits_orderly {s : State} (h : Orderly s) : Orderly (answerWaits s) := by
  unfold answerWaits
  exact orderly_foldl (fun _ _ => respond_orderly) h

/-! ## Eviction of resident copies -/

theorem evict_orderly {s : State} {a : CopyRef} (h : Orderly s) : Orderly (evict s a) := by
  unfold evict
  split
  · exact dropTaCopy_orderly h
  · exact dropSpCopy_orderly h

theorem loseCopy_orderly {s : State} {c : SpCopy} (h : Orderly s) : Orderly (loseCopy s c) := by
  unfold loseCopy
  extract_lets pinned u _ u1
  have hu : Orderly u := orderly_foldl (fun _ _ => memZero_orderly) h
  have hu1 : Orderly u1 := orderly_update hu.wf
  exact orderly_ite (dropSpCopy_orderly h) (orderly_ite hu1 (orderly_update hu1.wf))

theorem allocTierA_orderly {size n : ℕ} {s : State} (h : Orderly s) : OptSndOrderly (allocTierA size n s) := by
  induction n generalizing s with
  | zero =>
    unfold allocTierA
    exact optSndOrderly_map (fun _ => h)
  | succ n ih =>
    unfold allocTierA
    split
    · exact optSndOrderly_some h
    · split
      · extract_lets u u1
        have hu : Orderly u := evict_orderly h
        have hu1 : Orderly u1 := orderly_foldl (fun _ _ hu2 => orderly_ite (memZero_orderly hu2) hu2) hu
        exact ih (answerWaits_orderly (orderly_update hu1.wf))
      · exact optSndOrderly_none

theorem alloc_orderly {s : State} {tierA : Bool} {size : ℕ} (h : Orderly s) : OptSndOrderly (alloc s tierA size) := by
  unfold alloc
  split
  · exact allocTierA_orderly h
  · exact optSndOrderly_map (fun _ => h)

end Sys2Proof.Machine
end

section
/-! PROOFS. The cores and the matrix array keep memory in its canonical form. -/
namespace Sys2Proof.Machine

/-! ## Ending a work -/

theorem flagWork_orderly {s : State} {w : ℕ} {sat nan : Bool} (h : Orderly s) : Orderly (flagWork s w sat nan) := by
  unfold flagWork
  split
  · exact modPart_orderly h
  · split
    · exact orderly_update h.wf
    · exact h

/-! ## Uncorrectable words -/

theorem poisonWord_orderly {s : State} {a : ℕ} (h : Orderly s) : Orderly (poisonWord s a) := by
  unfold poisonWord
  exact orderly_ite h (orderly_update h.wf)

theorem retireBank_orderly {s : State} {a syn : ℕ} (h : Orderly s) : Orderly (retireBank s a syn) := by
  unfold retireBank
  extract_lets b c d0 u u1 _ u2 n u3
  have hu : Orderly u := orderly_foldl (fun _ _ => dropSpCopy_orderly) h
  have hu1 : Orderly u1 := memZero_orderly hu
  have hu2 : Orderly u2 := orderly_update hu1.wf
  have hu3 : Orderly u3 := orderly_ite (hwHealth_orderly hu2) hu2
  exact orderly_ite h (latch_orderly hu3)

theorem spFault_orderly {s : State} {a syn cls : ℕ} {w : Option ℕ} (h : Orderly s) : Orderly (spFault s a syn cls w) := by
  unfold spFault
  extract_lets a1 c again u u1 cs _ u2 idle u3 u4
  have hu : Orderly u := latch_orderly h
  have hu1 : Orderly u1 := poisonWord_orderly hu
  have hu2 : Orderly u2 := orderly_update hu1.wf
  have hu3 : Orderly u3 := orderly_foldl (fun _ _ => loseCopy_orderly) hu2
  have hu4 : Orderly u4 := orderly_ite (modCore_orderly hu3) hu3
  exact orderly_ite (retireBank_orderly hu4) hu4

theorem retireGranule_orderly {s : State} {a syn rereads : ℕ} (h : Orderly s) : Orderly (retireGranule s a syn rereads) := by
  unfold retireGranule
  extract_lets g _ u u1 n u2
  have hu : Orderly u := orderly_update h.wf
  have hu2 : Orderly u2 := orderly_ite (hwHealth_orderly hu) hu
  exact orderly_ite h (latch_orderly hu2)

theorem recopyCommons_orderly {s : State} {a : ℕ} (h : Orderly s) : Orderly (recopyCommons s a) := by
  unfold recopyCommons
  split
  · exact h
  · split
    · exact h
    · rename_i u e
      have hu : Orderly u := (alloc_orderly h) _ _ e
      extract_lets u1
      have hu1 : Orderly u1 := memCopy_orderly hu
      exact orderly_update hu1.wf

theorem tierFault_orderly {s : State} {a syn rereads cls : ℕ} {w : Option ℕ} (h : Orderly s) :
    Orderly (tierFault s a syn rereads cls w) := by
  unfold tierFault
  extract_lets a1 u again u1 u2 rg _ u3 idle u4 u5
  have hu1 : Orderly u1 := latch_orderly h
  have hu2 : Orderly u2 := poisonWord_orderly hu1
  have hu3 : Orderly u3 := orderly_update hu2.wf
  have hu4 : Orderly u4 := orderly_foldl (fun _ _ => dropTaCopy_orderly) hu3
  have hu5 : Orderly u5 := orderly_ite (retireGranule_orderly hu4) hu4
  exact recopyCommons_orderly hu5

theorem wordFault_orderly {s : State} {a syn : ℕ} {w : Option ℕ} (h : Orderly s) : Orderly (wordFault s a syn w) := by
  unfold wordFault
  extract_lets u
  have hu : Orderly u := orderly_ite (spFault_orderly h) (tierFault_orderly h)
  split
  · exact failWork_orderly hu
  · exact hu

theorem eccFound_orderly {s : State} {a : ℕ} {find : EccFind} {w : Option ℕ} (h : Orderly s) : Orderly (eccFound s a find w) := by
  unfold eccFound
  split
  · exact h
  · exact orderly_ite (corrected_orderly (countCore_orderly h)) (corrected_orderly (ctrAdd_orderly h))
  · exact orderly_ite h (ctrAdd_orderly h)
  · exact wordFault_orderly h

theorem eccMeet_orderly {s : State} {w : Option ℕ} {due : List (ℕ × Option EccFind)} (h : Orderly s) :
    Orderly (eccMeet s w due).1 := by
  unfold eccMeet
  refine orderly_foldl_fst (fun u x hu => ?_) h
  split
  · split
    · rename_i e
      exact wordFault_orderly (orderly_of_snd (draw_orderly hu) e)
  · extract_lets u1 _ u2
    have hu1 : Orderly u1 := hu
    have hu2 : Orderly u2 := orderly_update hu1.wf
    exact eccFound_orderly hu2

theorem eccCheck_orderly {s : State} {a n : ℕ} {w : Option ℕ} (h : Orderly s) : Orderly (eccCheck s a n w).1 := by
  unfold eccCheck
  split
  · exact h
  · exact eccMeet_orderly h

theorem eccSweep_orderly {s : State} {a n : ℕ} {w : Option ℕ} (h : Orderly s) : Orderly (eccSweep s a n w).1 := by
  unfold eccSweep
  extract_lets hit
  exact eccMeet_orderly h

theorem eccLay_orderly {s : State} {a : ℕ} {find : EccFind} (h : Orderly s) : Orderly (eccLay s a find) := by
  unfold eccLay
  exact orderly_ite h (orderly_update h.wf)

theorem eccRead_orderly {s : State} {a n : ℕ} {find : EccFind} {w : Option ℕ} (h : Orderly s) :
    Orderly (eccRead s a n find w).1 := by
  unfold eccRead
  exact eccCheck_orderly (eccLay_orderly h)

theorem eccSettle_orderly {s : State} {a n : ℕ} (h : Orderly s) : Orderly (eccSettle s a n) := by
  unfold eccSettle
  refine orderly_foldl (fun u x hu => ?_) h
  split
  · exact hu
  · extract_lets _ u1
    have hu1 : Orderly u1 := orderly_update hu.wf
    split
    · exact poisonWord_orderly hu1
    · exact eccFound_orderly hu1

/-! ## The gathering buffer (R232, R233) -/

theorem maskWrite_orderly {s : State} {l : Line} (h : Orderly s) : Orderly (maskWrite s l).1 := by
  unfold maskWrite
  refine orderly_foldl_fst (fun u x hu => ?_) h
  split
  · split
    · rename_i e
      exact orderly_of_fst (memPut_orderly hu) e
  · refine orderly_foldl_fst (fun u1 x1 hu1 => ?_) hu
    split
    · split
      · rename_i e
        exact orderly_of_fst (memPut_orderly hu1) e
    · exact hu1

theorem partialFault_orderly {s : State} {c : ℕ} {ws : List ℕ} (h : Orderly s) : Orderly (partialFault s c ws) := by
  unfold partialFault
  split
  · exact h
  · split
    · rename_i u e
      have hu : Orderly u := orderly_of_snd (draw_orderly h) e
      extract_lets w u1
      have hu1 : Orderly u1 := orderly_ite (spFault_orderly hu) (tierFault_orderly hu)
      exact failWorks_orderly hu1

theorem flushLine_orderly {s : State} {c : ℕ} {l : Line} (h : Orderly s) : Orderly (flushLine s c l) := by
  unfold flushLine
  split
  · exact h
  · extract_lets u ws u1
    have hu : Orderly u := modCore_orderly h
    have hu1 : Orderly u1 := stall_orderly hu
    split
    · rename_i u2 _ e
      have hu2 : Orderly u2 := orderly_of_fst (maskWrite_orderly hu1) e
      exact orderly_ite (partialFault_orderly hu2) hu2

theorem flushWhere_orderly {s : State} {c : ℕ} {p : Line → Bool} (h : Orderly s) : Orderly (flushWhere s c p) := by
  unfold flushWhere
  exact orderly_foldl (fun _ _ => flushLine_orderly) h

theorem flushGb_orderly {s : State} {a n : ℕ} (h : Orderly s) : Orderly (flushGb s a n) := by
  unfold flushGb
  exact orderly_ite (flushWhere_orderly h) h

/-! ## Windows and engine accesses -/

theorem tagFault_orderly {s : State} {unit w a owner : ℕ} {write window : Bool} (h : Orderly s) :
    Orderly (tagFault s unit w a owner write window) := by
  unfold tagFault
  extract_lets u
  have hu : Orderly u := latch_orderly h
  exact failWork_orderly hu

theorem partHit_orderly {s : State} {w p : ℕ} (h : Orderly s) : Orderly (partHit s w p) := by
  unfold partHit
  split
  · rename_i u e
    have hu : Orderly u := orderly_of_snd (draw_orderly h) e
    exact failWork_orderly (orderly_ite (spFault_orderly hu) (tierFault_orderly hu))

theorem devRead_orderly {s : State} {c w a n : ℕ} (h : Orderly s) : Rd.Orderly (devRead s c w a n) := by
  unfold devRead
  split
  · exact h
  · extract_lets u
    have hu : Orderly u := flushGb_orderly h
    split
    · exact tagFault_orderly hu
    · exact tagFault_orderly hu
    · split
      all_goals
        rename_i e
        exact orderly_of_fst (eccRead_orderly hu) e

theorem engRead_orderly {s : State} {c w win off n : ℕ} (h : Orderly s) : Rd.Orderly (engRead s c w win off n) := by
  unfold engRead
  split
  · exact h
  · split
    · exact tagFault_orderly h
    · exact devRead_orderly h

theorem devWriteAs_orderly {s : State} {c e w t a : ℕ} {bs : List Byte} (h : Orderly s) :
    Orderly (devWriteAs s c e w t a bs).1 := by
  unfold devWriteAs
  split
  · exact h
  · extract_lets u
    have hu : Orderly u := flushGb_orderly h
    split
    · exact tagFault_orderly hu
    · exact tagFault_orderly hu
    · split
      · rename_i e1
        exact orderly_of_fst (memWrite_orderly (orderly_ite (stall_orderly hu) hu)) e1
      · rename_i e1
        exact partHit_orderly (orderly_of_fst (memWrite_orderly (orderly_ite (stall_orderly hu) hu)) e1)

theorem engWriteAs_orderly {s : State} {c e w t win off : ℕ} {bs : List Byte} (h : Orderly s) :
    Orderly (engWriteAs s c e w t win off bs).1 := by
  unfold engWriteAs
  split
  · exact h
  · split
    · exact tagFault_orderly h
    · exact devWriteAs_orderly h

theorem engWrite_orderly {s : State} {c e w win off : ℕ} {bs : List Byte} (h : Orderly s) :
    Orderly (engWrite s c e w win off bs).1 := by
  unfold engWrite
  exact engWriteAs_orderly h

/-! ## Tile instruction fields, scoreboard and issue -/

theorem dropInstr_orderly {s : State} {c ord : ℕ} (h : Orderly s) : Orderly (dropInstr s c ord) := by
  unfold dropInstr
  exact modCore_orderly h

theorem rowFlags_orderly {s : State} {c : ℕ} {fs : List (ℕ × Bool × Bool)} (h : Orderly s) : Orderly (rowFlags s c fs) := by
  unfold rowFlags
  refine orderly_foldl (fun u x hu => ?_) h
  split
  · exact orderly_ite (flagWork_orderly hu) hu
  · exact hu

theorem pendDone_orderly {s : State} {c ord : ℕ} (h : Orderly s) : Orderly (pendDone s c ord) := by
  unfold pendDone
  extract_lets k
  split
  · exact h
  · split
    · exact setCore_orderly h
    · extract_lets k1 u
      have hu : Orderly u := rowFlags_orderly (setCore_orderly h)
      exact orderly_ite hu (count_orderly hu)

/-! ## Sections and the start of a work -/

theorem startWork_orderly {s : State} {c w : ℕ} (h : Orderly s) : Orderly (startWork s c w) := by
  unfold startWork
  extract_lets k u u1 i
  have hu : Orderly u := setCore_orderly h
  have hu1 : Orderly u1 := countCore_orderly hu
  exact traceCore_orderly hu1

theorem kick_orderly {s : State} {c : ℕ} (h : Orderly s) : Orderly (kick s c) := by
  unfold kick
  extract_lets k
  split
  · exact h
  · split
    · exact h
    · exact orderly_ite h (orderly_ite (startWork_orderly h) (setCore_orderly h))

/-! ## END -/

theorem nextRound_orderly {s : State} {w : ℕ} (h : Orderly s) : Orderly (nextRound s w) := by
  unfold nextRound
  extract_lets _ u
  have hu : Orderly u := orderly_ite (modPart_orderly h) (orderly_update h.wf)
  exact orderly_foldl (fun _ _ => modCore_orderly) hu

theorem reportEnd_orderly {s : State} {c : ℕ} (h : Orderly s) : Orderly (reportEnd s c) := by
  unfold reportEnd
  extract_lets k u fs
  have hu : Orderly u := closeRec_orderly h
  split
  · exact h
  · split
    · exact failWorks_orderly h
    · extract_lets last ms u1 u2 u3 t more _ u4
      have hu1 : Orderly u1 := modCore_orderly hu
      have hu2 : Orderly u2 := modPart_orderly hu1
      have hu3 : Orderly u3 := by
        unfold u3
        refine orderly_foldl (fun u5 x1 hu5 => ?_) hu1
        split
        · extract_lets j1
          exact orderly_update hu5.wf
        · exact hu5
      have hu4 : Orderly u4 := orderly_ite (orderly_update hu3.wf) hu3
      split
      · split
        · exact orderly_ite (orderly_ite (kick_orderly (sendTxn_orderly hu2)) (nextRound_orderly hu2)) (kick_orderly hu2)
        · exact hu2
      · exact kick_orderly hu4

/-! ## What ends by itself -/

theorem retireSeq_orderly {s : State} {ag : ℕ} {pc : Word} (h : Orderly s) : Orderly (retireSeq s ag pc) := by
  unfold retireSeq
  extract_lets u
  have hu : Orderly u := setSeq_orderly h
  exact orderly_ite (countCore_orderly hu) hu

theorem settle1_orderly {s : State} {c : ℕ} (h : Orderly s) : Orderly (settle1 s c) := by
  unfold settle1
  extract_lets k u k1
  have hu : Orderly u := orderly_ite (setCore_orderly h) h
  split
  · exact orderly_ite (retireSeq_orderly hu) hu
  · exact orderly_ite (reportEnd_orderly (countCore_orderly hu)) hu
  · exact hu

theorem settle_orderly {s : State} {c : ℕ} (h : Orderly s) : Orderly (settle s c) := by
  unfold settle
  exact orderly_foldl (fun _ _ => settle1_orderly) h

theorem settleAg_orderly {s : State} {ag : ℕ} (h : Orderly s) : Orderly (settleAg s ag) := by
  unfold settleAg
  split
  · exact settle_orderly h
  · split
    · exact orderly_ite (retireSeq_orderly h) h
    · exact h

theorem engineRow_orderly {s : State} {c e : ℕ} {ops : List ℕ} {ranges : Core → ℕ → List Rng} {ready : Core → ℕ → Bool}
    {body : State → ℕ → QEnt → State} (h : Orderly s) (hbody : ∀ u x1 x2, Orderly u → Orderly (body u x1 x2)) : Orderly
    (engineRow s c e ops ranges ready body) := by
  unfold engineRow
  split
  · exact h
  · extract_lets k
    split
    · exact h
    · split
      · exact h
      · exact orderly_ite (waitHold_orderly h (settle_orderly (hbody _ _ _ (setCore_orderly h)))) h

/-! ## Reading operands -/

theorem readRows_orderly {c w win off pitch n n1 n2 : ℕ} {s : State} (h : Orderly s) :
    Rows.Orderly (readRows c w win off pitch n n1 n2 s) := by
  induction n1 generalizing n2 s with
  | zero =>
    unfold readRows
    exact h
  | succ n1 ih =>
    unfold readRows
    split
    · rename_i u e
      have hu : Orderly u := (engRead_orderly h).at e
      exact hu
    · rename_i u e
      have hu : Orderly u := (engRead_orderly h).at e
      split
      all_goals
        rename_i u1 e1
        have hu1 : Orderly u1 := (ih hu).at e1
        exact hu1

theorem readTile_orderly {e c w win off pitch n cnt : ℕ} {s : State} (h : Orderly s) :
    Rows.Orderly (readTile e c w win off pitch n cnt s) := by
  unfold readTile
  split
  · rename_i e1
    exact stall_orderly ((readRows_orderly h).at e1)
  · rename_i e1
    exact (readRows_orderly h).at e1

/-! ## Operand formats of B (R358 to R363) -/

theorem readParts_orderly {c w win off : ℕ} {l : List (ℕ × ℕ)} {l1 : List Byte} {s : State} (h : Orderly s) :
    Rd.Orderly (readParts c w win off l l1 s) := by
  induction l generalizing l1 s with
  | nil =>
    unfold readParts
    exact h
  | cons x xs ih =>
    unfold readParts
    split
    · rename_i e
      exact (engRead_orderly h).at e
    · rename_i e
      exact ih ((engRead_orderly h).at e)

theorem loadB_orderly {s : State} {c w i : ℕ} (h : Orderly s) : LoadB.Orderly (loadB s c w i) := by
  unfold loadB
  extract_lets k t f off
  split
  · split
    all_goals
      rename_i e
      exact (readTile_orderly h).at e
  · split
    · split
      · split
        · exact h
        · split
          · rename_i e
            exact (engRead_orderly h).at e
          · rename_i u e
            have hu : Orderly u := (engRead_orderly h).at e
            split
            · exact hu
            · split
              all_goals
                rename_i e1
                exact (readParts_orderly hu).at e1
  · split
    · rename_i e
      exact (engRead_orderly h).at e
    · rename_i u e
      have hu : Orderly u := (engRead_orderly h).at e
      extract_lets mask n
      split
      · exact hu
      · split
        all_goals
          rename_i e1
          exact (readParts_orderly hu).at e1

/-! ## MMA -/

theorem invalidField_orderly {s : State} {c : ℕ} (h : Orderly s) : Orderly (invalidField s c) := by
  unfold invalidField
  exact failWorks_orderly h

theorem mmaBody_orderly {c : ℕ} {s : State} {w : ℕ} {q : QEnt} (h : Orderly s) : Orderly (mmaBody c s w q) := by
  unfold mmaBody
  extract_lets k i ta u
  have hu : Orderly u := setCore_orderly h
  split
  · exact invalidField_orderly h
  · split
    · rename_i e
      exact dropInstr_orderly ((readTile_orderly hu).at e)
    · rename_i v e
      have hv : Orderly v := (readTile_orderly hu).at e
      extract_lets a
      have hb : LoadB.Orderly (if mHold i then .ok k.heldB v else loadB v c w i) := by
        split
        · exact hv
        · exact loadB_orderly hv
      split
      · rename_i e1
        exact dropInstr_orderly (hb.at e1)
      · rename_i e1
        exact dropInstr_orderly (invalidField_orderly (hb.at e1))
      · rename_i e1
        exact modCore_orderly (hb.at e1)

theorem execMma_keeps {core : CoreId} {s : State} : Keeps s (execMma core s) := by
  unfold execMma
  exact keeps_next fun h => engineRow_orderly h (fun _ _ _ => mmaBody_orderly)

/-! ## PASS_CHECK -/

theorem firstFailure_orderly {s : State} {c : ℕ} {lines : List ℕ} {quantum num cycles waiter : ℕ} (h : Orderly s) :
    Orderly (firstFailure s c lines quantum num cycles waiter) := by
  unfold firstFailure
  extract_lets u u1 u2
  have hu : Orderly u := countCore_orderly h
  have hu1 : Orderly u1 := stall_orderly hu
  have hu2 : Orderly u2 := orderly_foldl (fun _ _ => latch_orderly) hu1
  exact traceCore_orderly hu2

theorem secondFailure_orderly {s : State} {c line quantum num : ℕ} {works : List ℕ} (h : Orderly s) :
    Orderly (secondFailure s c line quantum num works) := by
  unfold secondFailure
  extract_lets u u1
  have hu : Orderly u := hwHealth_orderly h
  have hu1 : Orderly u1 := latch_orderly hu
  exact failWorks_orderly hu1

theorem commitPass_orderly {s : State} {c : ℕ} {p : Pass} (h : Orderly s) : Orderly (commitPass s c p) := by
  unfold commitPass
  extract_lets k i isF x u u1 u2
  have hu : Orderly u := setCore_orderly h
  have hu1 : Orderly u1 := count_orderly hu
  have hu2 : Orderly u2 := count_orderly hu1
  exact orderly_ite (countCore_orderly hu2) hu2

theorem execPassCheck_keeps {core_ : CoreId} {fails : List CmpFail} {s : State} : Keeps s (execPassCheck core_ fails s) := by
  unfold execPassCheck
  extract_lets c
  split
  · exact keeps_next id
  · split
    · exact keeps_next id
    · extract_lets u ok fs lines u1
      have hu (h1 : Orderly s) : Orderly u := countCore_orderly h1
      have hu1 (h1 : Orderly s) : Orderly u1 := modCore_orderly (hu h1)
      exact keeps_next fun h1 => settle_orderly
        (orderly_ite (commitPass_orderly (hu h1))
        (orderly_ite (modCore_orderly (firstFailure_orderly (hu h1))) (secondFailure_orderly (hu1 h1))))

/-! ## PRELOAD (R336, R337) -/

theorem preloadBody_orderly {c : ℕ} {s : State} {w : ℕ} {q : QEnt} (h : Orderly s) : Orderly (preloadBody c s w q) := by
  unfold preloadBody
  extract_lets i t
  split
  · rename_i e
    exact (readTile_orderly h).at e
  · rename_i u e
    have hu : Orderly u := (readTile_orderly h).at e
    extract_lets u1
    have hu1 : Orderly u1 := modCore_orderly hu
    exact count_orderly hu1

theorem execPreload_keeps {core : CoreId} {s : State} : Keeps s (execPreload core s) := by
  unfold execPreload
  exact keeps_next fun h => engineRow_orderly h (fun _ _ _ => preloadBody_orderly)

end Sys2Proof.Machine
end

section
/-! PROOFS. Host accesses, time, power and discovery keep memory in its canonical form. -/
namespace Sys2Proof.Machine

/-! ## Host accesses through BAR2 and their answers -/

theorem hostFaults_orderly {s : State} {ws : List ℕ} {tcid : ℕ} (h : Orderly s) : Orderly (hostFaults s ws tcid) := by
  unfold hostFaults
  refine orderly_foldl (fun u x hu => ?_) h
  split
  · rename_i u1 e
    have hu1 : Orderly u1 := orderly_of_snd (draw_orderly hu) e
    split
    all_goals
      extract_lets u2
      exact latch_orderly hu1

/-- The bindings stay in place: reduced, they make the kernel evaluate `endpoint`. -/
theorem bar2Perform_orderly {s : State} {write : Bool} {offset len : ℕ} {data : List Byte} {attr : TlpAttr} (h : Orderly s) :
    Orderly (bar2Perform s write offset len data attr) := by
  have hanswer (u : State) (ds : List Byte) (hu : Orderly u) : Orderly (bar2Answer u write ds attr) :=
    orderly_ite hu (orderly_update hu.wf)
  rw [bar2Perform]
  generalize offset / bar2WinSize s = n
  generalize offset - n * bar2WinSize s = b
  split
  · exact hanswer _ _ h
  · split
    · exact hanswer _ _ (sysErr_orderly h)
    · exact hanswer _ _ (sysErr_orderly h)
    · exact orderly_ite (hostFaults_orderly (memWrite_orderly (flushGb_orderly h)))
        (hanswer _ _ (hostFaults_orderly (eccSettle_orderly (flushGb_orderly h))))

theorem frzAbort_orderly {s s' : State} {attr : TlpAttr} (hs' : Orderly s') : Orderly (frzAbort s s' attr) := by
  unfold frzAbort
  exact orderly_ite (orderly_update hs'.wf) hs'

theorem execBar2Access_keeps {write : Bool} {offset len : ℕ} {data : List Byte} {req : TlpReq} {s : State} :
    Keeps s (execBar2Access write offset len data req s) := by
  unfold execBar2Access
  extract_lets attr u u1
  have hu (h : Orderly s) : Orderly u := linkExit_orderly h
  have hu1 (h : Orderly s) : Orderly u1 := bar2Perform_orderly (hu h)
  split
  · exact keeps_next fun h1 => orderly_ite (hu h1) (frzAbort_orderly (hu h1))
  · split
    · exact keeps_next fun h1 => unsupportedRequest_orderly (hu h1)
    · split
      · exact keeps_next fun h1 => aerReport_orderly (hu h1)
      · exact keeps_ite (keeps_next fun h1 => orderly_update (hu h1).wf) (keeps_next hu1)

/-! ## Tray time -/

theorem execEftTick_keeps {edge : EftEdge} {s : State} : Keeps s (execEftTick edge s) := by
  unfold execEftTick
  extract_lets frzLow _ u _ _ e
  have hu (h : Orderly s) : Orderly u := orderly_update h.wf
  split
  · exact keeps_next hu
  · split
    · exact keeps_next fun h1 => orderly_update (hu h1).wf
    · split <;> exact keeps_next fun h1 => orderly_update (hu h1).wf

/-! ## Frequency and voltage -/

theorem closeWin_orderly {s : State} (h : Orderly s) : Orderly (closeWin s) := by
  unfold closeWin
  split
  · exact orderly_ite (orderly_update h.wf) h
  · exact h

theorem applyFreq_orderly {s : State} {k : ℕ} (h : Orderly s) : Orderly (applyFreq s k) := by
  unfold applyFreq
  extract_lets old new _ u u1 u2 u3 w
  have hu : Orderly u := orderly_update h.wf
  have hu1 : Orderly u1 := ctrAdd_orderly hu
  have hu2 : Orderly u2 := traceTray_orderly hu1
  have hu3 : Orderly u3 := closeWin_orderly hu2
  exact orderly_ite h (orderly_update hu3.wf)

theorem postWin_orderly {s : State} {w : ClkWin} (h : Orderly s) : Orderly (postWin s w) := by
  unfold postWin
  exact raiseEvent_orderly h

theorem postWins_orderly {s : State} (h : Orderly s) : Orderly (postWins s) := by
  unfold postWins
  exact orderly_foldl (fun _ _ => postWin_orderly) (orderly_update h.wf)

theorem execClockStep_keeps {s : State} : Keeps s (execClockStep s) := by
  unfold execClockStep
  split
  · exact keeps_next id
  · extract_lets u
    have hu (h1 : Orderly s) : Orderly u := closeWin_orderly h1
    exact keeps_next fun h1 => orderly_ite (postWins_orderly (hu h1)) (hu h1)

/-! ## Monitors -/

theorem noteReading_orderly {s : State} {k : Monitor} {x : ℤ} (h : Orderly s) : Orderly (noteReading s k x) := by
  unfold noteReading
  split
  · exact orderly_update h.wf
  · exact orderly_update h.wf
  · exact orderly_update h.wf
  · exact orderly_update h.wf
  · exact orderly_update h.wf
  · exact orderly_update h.wf
  · exact h

theorem resetReleases_orderly {s : State} (h : Orderly s) : Orderly (resetReleases s) := by
  unfold resetReleases
  exact orderly_update h.wf

theorem execMonitorSample_keeps {monitor : Monitor} {reading : ℤ} {s : State} :
    Keeps s (execMonitorSample monitor reading s) := by
  unfold execMonitorSample
  split
  · exact keeps_next id
  · split
    · exact keeps_next id
    · extract_lets k m gap _ m' u _ u1 u2 _ u3
      have hu (h1 : Orderly s) : Orderly u := noteReading_orderly h1
      have hu1 (h1 : Orderly s) : Orderly u1 := orderly_update (hu h1).wf
      have hu2 (h1 : Orderly s) : Orderly u2 := resetReleases_orderly (hu1 h1)
      have hu3 (h1 : Orderly s) : Orderly u3 := orderly_ite (orderly_update (hu2 h1).wf) (hu1 h1)
      exact keeps_next fun h1 => applyFreq_orderly (hu3 h1)

theorem execCurrentWarning_keeps {s : State} : Keeps s (execCurrentWarning s) := by
  unfold execCurrentWarning
  split
  · exact keeps_next id
  · extract_lets m
    exact keeps_next fun h1 => applyFreq_orderly (orderly_update h1.wf)

theorem execOvercurrentWarningDeassert_keeps {s : State} : Keeps s (execOvercurrentWarningDeassert s) := by
  unfold execOvercurrentWarningDeassert
  exact keeps_ite (keeps_next id) (keeps_next fun h => orderly_update h.wf)

theorem execFmaxStep_keeps {s : State} : Keeps s (execFmaxStep s) := by
  unfold execFmaxStep
  exact keeps_ite (keeps_next id) (keeps_next fun h => applyFreq_orderly (orderly_update h.wf))

theorem execPowerFloor_keeps {s : State} : Keeps s (execPowerFloor s) := by
  unfold execPowerFloor
  split
  · exact keeps_next id
  · split <;> exact keeps_ite (keeps_next fun h1 => raiseEvent_orderly (orderly_update h1.wf)) (keeps_next id)

/-! ## The board controller behind the I2C port -/

theorem execI2cTransaction_keeps {target : BitVec 7} {pointer : BitVec 16} {_written : List Byte} {len : ℕ} {s : State} :
    Keeps s (execI2cTransaction target pointer _written len s) := by
  unfold execI2cTransaction
  split
  · exact keeps_next id
  · split
    · extract_lets p
      exact keeps_next fun h1 => orderly_update h1.wf
    · split
      · extract_lets p
        exact keeps_next fun h1 => orderly_update h1.wf
      · exact keeps_next id

theorem execTempUpdate_keeps {tj inlet outlet vr lpddr : ℤ} {s : State} :
    Keeps s (execTempUpdate tj inlet outlet vr lpddr s) := by
  unfold execTempUpdate
  split
  · exact keeps_next id
  · extract_lets run
    exact keeps_next fun h1 => orderly_update h1.wf

/-! ## The identity, time and power commands -/

theorem execIdentify_keeps {slot : SlotId} {s : State} : Keeps s (execIdentify slot s) := by
  unfold execIdentify
  exact keeps_next fun h => runCmd_orderly (fun _ _ hu => hu) h

theorem execTrayStatus_keeps {slot : SlotId} {s : State} : Keeps s (execTrayStatus slot s) := by
  unfold execTrayStatus
  exact keeps_next fun h => runCmd_orderly (fun _ _ hu => hu) h

theorem execTimeSet_keeps {slot : SlotId} {s : State} : Keeps s (execTimeSet slot s) := by
  unfold execTimeSet
  refine keeps_next fun h => runCmd_orderly (fun x u hu => ?_) h
  extract_lets t before
  exact ledgerCmd_orderly (orderly_update hu.wf)

theorem execTimeQuery_keeps {slot : SlotId} {s : State} : Keeps s (execTimeQuery slot s) := by
  unfold execTimeQuery
  exact keeps_next fun h => runCmd_orderly (fun _ _ hu => hu) h

theorem ledgerChanges_orderly {s : State} {slot : ℕ} {r : Req} {tcid object : ℕ} {changed : List Bool} (h : Orderly s) :
    Orderly (ledgerChanges s slot r tcid object changed) := by
  unfold ledgerChanges
  exact orderly_foldl (fun _ _ => ledgerCmd_orderly) h

theorem execPowerSet_keeps {slot : SlotId} {s : State} : Keeps s (execPowerSet slot s) := by
  unfold execPowerSet
  refine keeps_next fun h => runCmd_orderly (fun x u hu => ?_) h
  extract_lets p sl tor fm en _ u1
  have hu1 : Orderly u1 := orderly_update hu.wf
  exact ledgerCmd_orderly (applyFreq_orderly hu1)

theorem execPowerQuery_keeps {slot : SlotId} {s : State} : Keeps s (execPowerQuery slot s) := by
  unfold execPowerQuery
  exact keeps_next fun h => runCmd_orderly (fun _ _ hu => hu) h

/-! ## The tray's own record -/

theorem sendLsr_orderly {s : State} {r : LsrRec} {p : ℕ} (h : Orderly s) : Orderly (sendLsr s r p) := by
  unfold sendLsr
  exact enqueue_orderly (fabSend_orderly h)

theorem floodLsr_orderly {s : State} {r : LsrRec} {except_ : Option ℕ} (h : Orderly s) : Orderly (floodLsr s r except_) := by
  unfold floodLsr
  exact orderly_foldl (fun _ _ => sendLsr_orderly) h

theorem sendHello_orderly {s : State} {p : ℕ} (h : Orderly s) : Orderly (sendHello s p) := by
  unfold sendHello
  exact enqueue_orderly (fabSend_orderly h)

theorem checkReach_orderly {s : State} (h : Orderly s) : Orderly (checkReach s) := by
  unfold checkReach
  extract_lets now lost _ u
  have hu : Orderly u := orderly_update h.wf
  refine orderly_foldl (fun u1 x hu1 => ?_) hu
  split
  · exact orderly_ite hu1 (raiseEvent_orderly hu1)
  · exact hu1

theorem originateNow_orderly {s : State} (h : Orderly s) : Orderly (originateNow s) := by
  unfold originateNow
  extract_lets _ u r hello changed _ u1 u2
  have hu : Orderly u := orderly_update h.wf
  have hu1 : Orderly u1 := floodLsr_orderly (orderly_update hu.wf)
  have hu2 : Orderly u2 := orderly_ite (orderly_foldl (fun _ _ => sendHello_orderly) hu1) hu1
  exact checkReach_orderly hu2

theorem originate_orderly {s : State} (h : Orderly s) : Orderly (originate s) := by
  unfold originate
  split
  · extract_lets r
    exact orderly_ite h (originateNow_orderly h)
  · exact originateNow_orderly h

/-! ## Host routes -/

theorem revertRoutes_orderly {s : State} {cause : ℕ} (h : Orderly s) : Orderly (revertRoutes s cause) := by
  unfold revertRoutes
  split
  · exact h
  · exact ledgerSelf_orderly (orderly_update h.wf)

/-! ## Ports -/

theorem linkChange_orderly {s : State} {p : ℕ} {up : Bool} (h : Orderly s) : Orderly (linkChange s p up) := by
  unfold linkChange
  extract_lets n p0
  exact traceTray_orderly (raiseEvent_orderly h)

theorem portDown_orderly {s : State} {p : ℕ} {retry : Bool} (h : Orderly s) : Orderly (portDown s p retry) := by
  unfold portDown
  extract_lets x u u1 downs flap u2 u3 u4 u5
  have hu : Orderly u := ctrAdd_orderly h
  have hu1 : Orderly u1 := linkChange_orderly hu
  have hu2 : Orderly u2 := setPort_orderly hu1
  have hu3 : Orderly u3 := setHealth_orderly hu2
  have hu4 : Orderly u4 := orderly_ite (latch_orderly hu3) hu2
  have hu5 : Orderly u5 := orderly_ite (revertRoutes_orderly hu4) hu4
  split
  · exact h
  · exact setPort_orderly h
  · exact originate_orderly hu5

theorem startTraining_orderly {s : State} {p : ℕ} (h : Orderly s) : Orderly (startTraining s p) := by
  unfold startTraining
  extract_lets x
  exact orderly_ite h (orderly_ite (setPort_orderly h) (ctrAdd_orderly (setPort_orderly h)))

theorem trainAll_orderly {s : State} (h : Orderly s) : Orderly (trainAll s) := by
  unfold trainAll
  exact orderly_foldl (fun _ _ => startTraining_orderly) h

theorem portUnitChanged_orderly {s : State} {u : ℕ} (h : Orderly s) : Orderly (portUnitChanged s u) := by
  unfold portUnitChanged
  split
  · exact h
  · extract_lets p r u1
    have hu1 : Orderly u1 := orderly_ite (portDown_orderly h) h
    exact orderly_ite (originate_orderly hu1) hu1

theorem withdraw_orderly {s : State} (h : Orderly s) : Orderly (withdraw s) := by
  unfold withdraw
  exact originate_orderly (orderly_update h.wf)

theorem dropPorts_orderly {s : State} (h : Orderly s) : Orderly (dropPorts s) := by
  unfold dropPorts
  extract_lets u
  have hu : Orderly u := orderly_foldl (fun _ _ => linkChange_orderly) h
  exact orderly_update hu.wf

theorem rejoin_orderly {s : State} (h : Orderly s) : Orderly (rejoin s) := by
  unfold rejoin
  exact orderly_update h.wf

/-! ## Node addresses (R503, R504) -/

theorem claimFrom_orderly {s : State} {n : ℕ} (h : Orderly s) : Orderly (claimFrom s n) := by
  unfold claimFrom
  split <;> exact originate_orderly (orderly_update h.wf)

theorem claimAddr_orderly {s : State} (h : Orderly s) : Orderly (claimAddr s) := by
  unfold claimAddr
  exact orderly_ite (claimFrom_orderly h) h

theorem claimAlone_orderly {s : State} (h : Orderly s) : Orderly (claimAlone s) := by
  unfold claimAlone
  exact orderly_ite (claimAddr_orderly h) h

theorem yieldAddr_orderly {s : State} (h : Orderly s) : Orderly (yieldAddr s) := by
  unfold yieldAddr
  extract_lets old firm u
  have hu : Orderly u := claimFrom_orderly h
  exact orderly_ite (ledgerSelf_orderly hu) hu

end Sys2Proof.Machine
end

section
/-! PROOFS. Copies, the end of jobs, tenants, the ledger, start-up and regions keep memory in its canonical form. -/
namespace Sys2Proof.Machine

/-! ## Banks of a core -/

theorem makeRoom_orderly {c : ℕ} {work : List ℕ} {xs : List ScratchDesc} {n : ℕ} {s : State} (h : Orderly s) :
    OptFstOrderly (makeRoom c work xs n s) := by
  induction n generalizing s with
  | zero =>
    unfold makeRoom
    exact optFstOrderly_none
  | succ n ih =>
    unfold makeRoom
    split
    · exact optFstOrderly_some h
    · extract_lets keep
      split
      · exact ih (evict_orderly h)
      · exact optFstOrderly_none

theorem tagWork_orderly {s : State} {c t : ℕ} {work : List ℕ} (h : Orderly s) : Orderly (tagWork s c t work) := by
  unfold tagWork
  refine orderly_foldl (fun u x hu => ?_) h
  extract_lets k
  exact orderly_ite hu (orderly_ite (retag_orderly hu) (orderly_ite hu (retag_orderly hu)))

theorem addCopies_orderly {s : State} {w : Option ℕ} {c : ℕ} {need : List ScratchDesc} {ps : List (List ℕ)} {order : ℕ}
    (h : Orderly s) : Orderly (addCopies s w c need ps order) := by
  unfold addCopies
  refine orderly_foldl (fun u x hu => ?_) h
  split
  · extract_lets bs1 u1 u2
    have hu1 : Orderly u1 := orderly_foldl (fun _ _ => dropSpCopy_orderly) hu
    have hu2 : Orderly u2 := orderly_foldl (fun _ _ => retag_orderly) hu1
    exact orderly_update hu2.wf
  · exact hu

/-! ## Quotas (R54) -/

theorem shedOwn_orderly {used : State → ℕ} {limit : ℕ} {all : State → List (ℕ × CopyRef)} {n : ℕ} {s : State} (h : Orderly s) :
    Orderly (shedOwn used limit all n s).1 := by
  induction n generalizing s with
  | zero =>
    unfold shedOwn
    dsimp -zeta only
    exact h
  | succ n ih =>
    unfold shedOwn
    split
    · exact h
    · split
      · exact ih (evict_orderly h)
      · exact h

theorem quotaCheck_orderly {s : State} {t banks given : ℕ} {os : List ObjRef} {keep : SpCopy → Bool} (h : Orderly s) :
    Quota.Orderly (quotaCheck s t banks given os keep) := by
  unfold quotaCheck
  extract_lets x mibs
  split
  · exact trivial
  · split
    · rename_i e
      exact orderly_of_fst (shedOwn_orderly h) e
    · rename_i u e
      have hu : Orderly u := orderly_of_fst (shedOwn_orderly h) e
      split
      all_goals
        rename_i e1
        exact orderly_of_fst (shedOwn_orderly hu) e1

/-! ## Tier A copies and orders -/

theorem addTaCopies_orderly {order : ℕ} {l : List ObjRef} {s : State} (h : Orderly s) : OptOrderly (addTaCopies order l s) := by
  induction l generalizing s with
  | nil => exact optOrderly_some h
  | cons o os ih =>
    cases o with
    | commons i => exact ih h
    | region r =>
      rw [addTaCopies]
      split
      · exact ih h
      · split
        · exact ih h
        · split
          · exact optOrderly_none
          · rename_i e
            exact ih (orderly_update (alloc_orderly h _ _ e).wf)

theorem orderStaging_orderly {s : State} {w : ℕ} {os : List ObjRef} (h : Orderly s) : Orderly (orderStaging s w os) := by
  unfold orderStaging
  refine orderly_foldl (fun u x hu => ?_) h
  extract_lets cs
  exact orderly_ite hu (orderly_ite (orderly_update hu.wf) (orderly_update hu.wf))

theorem touch_orderly {s : State} {os : List ObjRef} {cs : List ℕ} {order : ℕ} (h : Orderly s) :
    Orderly (touch s os cs order) := by
  unfold touch
  extract_lets rs co sp
  exact orderly_update h.wf

theorem pinCores_orderly {s : State} {o : ObjRef} {cs : List ℕ} (h : Orderly s) : Orderly (pinCores s o cs) := by
  unfold pinCores
  extract_lets rs
  exact orderly_update h.wf

theorem dropPoisoned_orderly {s : State} (h : Orderly s) : Orderly (dropPoisoned s) := by
  unfold dropPoisoned
  extract_lets u
  have hu : Orderly u := orderly_foldl (fun _ _ => loseCopy_orderly) h
  exact orderly_foldl (fun _ _ => dropTaCopy_orderly) hu

theorem restage_orderly {s : State} {w : ℕ} (h : Orderly s) : Orderly (restage s w) := by
  unfold restage
  extract_lets mine hit u
  have hu : Orderly u := orderly_foldl (fun _ _ hu1 => orderly_foldl (fun _ _ => memZero_orderly) hu1) h
  exact orderly_update hu.wf

/-! ## How a job ends -/

theorem setJob_orderly {s : State} {j : ℕ} {job : Job} (h : Orderly s) : Orderly (setJob s j job) := by
  unfold setJob
  exact orderly_update h.wf

theorem skipWaiting_orderly {s : State} {j : ℕ} (h : Orderly s) : Orderly (skipWaiting s j) := by
  unfold skipWaiting
  split
  · split
    · split
      · exact setJob_orderly (postCompl_orderly h)
      · exact h
    · exact h
  · exact h

theorem finishFencing_orderly {s : State} (h : Orderly s) : Orderly (finishFencing s) := by
  unfold finishFencing
  exact orderly_foldl (fun _ _ hu => portUnitChanged_orderly (fenceAdmin_orderly hu)) h

theorem advanceRepairs_orderly {s : State} (h : Orderly s) : Orderly (advanceRepairs s) := by
  unfold advanceRepairs
  exact orderly_ite h (orderly_foldl (fun _ _ hu => orderly_update (fenceAdmin_orderly hu).wf) h)

theorem pageGroup_orderly {s : State} {job : Job} (h : Orderly s) : Orderly (pageGroup s job) := by
  unfold pageGroup
  exact orderly_ite (pageAdd_orderly (pageAdd_orderly h)) h

theorem pageJob_orderly {s : State} {j : ℕ} (h : Orderly s) : Orderly (pageJob s j) := by
  unfold pageJob
  split
  · exact h
  · extract_lets u
    have hu : Orderly u := orderly_foldl (fun _ _ => pageAdd_orderly) h
    exact setJob_orderly (pageGroup_orderly hu)

theorem passNet_orderly {s : State} {j m : ℕ} (h : Orderly s) : Orderly (passNet s j m) := by
  unfold passNet
  extract_lets gen t
  exact orderly_update h.wf

theorem passBanks_orderly {s : State} {c t t' : ℕ} (h : Orderly s) : Orderly (passBanks s c t t') := by
  unfold passBanks
  exact orderly_update h.wf

theorem passLead_orderly {s : State} {j : ℕ} {job : Job} (h : Orderly s) : Orderly (passLead s j job) := by
  unfold passLead
  split
  · exact h
  · exact passNet_orderly (orderly_foldl (fun _ _ hu => orderly_ite (passBanks_orderly (modCore_orderly hu)) hu) h)

theorem releaseJob_orderly {s : State} {j : ℕ} (h : Orderly s) : Orderly (releaseJob s j) := by
  unfold releaseJob
  split
  · exact h
  · extract_lets u _ u1 u2 g u3 u4
    have hu : Orderly u := passLead_orderly h
    have hu1 : Orderly u1 := orderly_update hu.wf
    have hu2 : Orderly u2 := orderly_ite hu1 (orderly_foldl (fun _ _ => sendTxn_orderly) hu1)
    have hu3 : Orderly u3 := orderly_ite (orderly_update hu2.wf) hu2
    have hu4 : Orderly u4 := orderly_foldl (fun _ _ => kick_orderly)
      (dropPoisoned_orderly (advanceRepairs_orderly (finishFencing_orderly hu3)))
    exact answerWaits_orderly hu4

theorem freePart_orderly {s : State} {w : ℕ} (h : Orderly s) : Orderly (freePart s w) := by
  unfold freePart
  split
  · exact h
  · extract_lets u u1 _ u2
    have hu : Orderly u := orderly_ite h (stopChain_orderly h)
    have hu1 : Orderly u1 := cancelStaging_orderly hu
    have hu2 : Orderly u2 := orderly_update hu1.wf
    exact orderly_foldl (fun _ _ => kick_orderly) (dropPoisoned_orderly (advanceRepairs_orderly (finishFencing_orderly hu2)))

theorem ensureCopies_orderly {s : State} {w order : ℕ} {uses : List ObjRef} (h : Orderly s) :
    Orderly (ensureCopies s w order uses) := by
  unfold ensureCopies
  extract_lets at_ u
  have hu : Orderly u := by
    unfold u
    split
    · exact h
    · split
      · exact h
      · extract_lets u1
        have hu1 : Orderly u1 := by
          unfold u1
          refine orderly_foldl (fun u2 x1 hu2 => ?_) h
          extract_lets work need
          split
          · exact hu2
          · split
            · rename_i e
              exact addCopies_orderly ((makeRoom_orderly hu2) _ _ e)
            · exact hu2
        exact orderly_getD (addTaCopies_orderly hu1) hu1
  exact orderStaging_orderly hu

theorem reclaim_orderly {s : State} {j : ℕ} {job : Job} (h : Orderly s) : Orderly (reclaim s j job) := by
  unfold reclaim
  exact orderly_foldl (fun _ _ => sendTxn_orderly) h

theorem scrambleOut_orderly {s : State} {job : Job} {status : ℕ} (h : Orderly s) : Orderly (scrambleOut s job status) := by
  unfold scrambleOut
  split
  · exact h
  · split
    · exact h
    · split
      · rename_i e
        exact memWrite_orderly (orderly_of_snd (draw_orderly h) e)

theorem startFrame_orderly {s : State} {j k rel : ℕ} (h : Orderly s) : Orderly (startFrame s j k rel) := by
  unfold startFrame
  split
  · exact h
  · extract_lets job u u1 u2
    have hu : Orderly u := setJob_orderly h
    have hu1 : Orderly u1 := orderly_ite hu (reclaim_orderly hu)
    have hu2 : Orderly u2 := ensureCopies_orderly (restage_orderly hu1)
    exact orderly_foldl (fun _ _ => kick_orderly) hu2

theorem finishStream_orderly {s : State} {j status detail : ℕ} (h : Orderly s) : Orderly (finishStream s j status detail) := by
  unfold finishStream
  split
  · exact h
  · split
    · exact h
    · extract_lets u u1
      have hu : Orderly u := postCompl_orderly h
      have hu1 : Orderly u1 := by
        unfold u1
        split
        · exact postCompl_orderly hu
        · exact hu
      exact releaseJob_orderly hu1

theorem endStream_orderly {s : State} {j : ℕ} (h : Orderly s) : Orderly (endStream s j) := by
  unfold endStream
  split
  · exact h
  · split
    · exact h
    · extract_lets u u1
      have hu : Orderly u := setJob_orderly h
      have hu1 : Orderly u1 := skipWaiting_orderly hu
      exact orderly_ite hu (orderly_ite (finishStream_orderly hu1) hu1)

theorem endStreamsOf_orderly {s : State} {t : ℕ} (h : Orderly s) : Orderly (endStreamsOf s t) := by
  unfold endStreamsOf
  exact orderly_foldl (fun _ _ => endStream_orderly) h

theorem releaseUnacked_orderly {s : State} {j : ℕ} {job : Job} {q : Quench} (h : Orderly s) :
    Orderly (releaseUnacked s j job q) := by
  unfold releaseUnacked
  exact orderly_foldl (fun _ _ => sendTxn_orderly) h

theorem finishQuenched_orderly {s : State} {j status detail : ℕ} (h : Orderly s) :
    Orderly (finishQuenched s j status detail) := by
  unfold finishQuenched
  split
  · exact finishStream_orderly (setJob_orderly h)
  · exact h

theorem finishQuench_orderly {s : State} {j : ℕ} (h : Orderly s) : Orderly (finishQuench s j) := by
  unfold finishQuench
  split
  · exact h
  · split
    · exact h
    · extract_lets detail n u u1 u2 u3 e
      have hu : Orderly u := postReadFault_orderly (orderly_foldl (fun _ _ => unreserve_orderly) h)
      have hu1 : Orderly u1 := scrambleOut_orderly h
      have hu2 : Orderly u2 := orderly_ite (pageJob_orderly (postCompl_orderly hu1)) hu1
      have hu3 : Orderly u3 := releaseUnacked_orderly hu2
      split
      · exact releaseJob_orderly (releaseUnacked_orderly (ctrAdd_orderly (pageGroup_orderly (scrambleOut_orderly hu))))
      · split
        · exact releaseJob_orderly (releaseUnacked_orderly (pageJob_orderly (postCompl_orderly (scrambleOut_orderly h))))
        · extract_lets ran st1 job' u4 u5
          have hu4 : Orderly u4 := setJob_orderly hu3
          have hu5 : Orderly u5 := endFlight_orderly hu4
          split
          · split
            · exact finishQuenched_orderly hu5
            · split
              · exact finishQuenched_orderly (skipWaiting_orderly hu5)
              · split
                · exact startFrame_orderly (setJob_orderly hu5)
                · exact orderly_foldl (fun _ _ => kick_orderly) hu5
          · exact finishQuenched_orderly (skipWaiting_orderly hu4)

theorem quenchDone_orderly {s : State} {j : ℕ} (h : Orderly s) : Orderly (quenchDone s j) := by
  unfold quenchDone
  split
  · split
    · exact orderly_ite (finishQuench_orderly h) h
    · exact h
  · exact h

/-! ## Tenants -/

theorem execTenantCreate_keeps {slot : SlotId} {s : State} : Keeps s (execTenantCreate slot s) := by
  unfold execTenantCreate
  refine keeps_next fun h => runCmd_orderly (fun x u hu => ?_) h
  extract_lets named
  refine cmdOut_guard (cmdOut_guard ?_)
  split
  · exact trivial
  · extract_lets old c u1
    have hu1 : Orderly u1 := orderly_update hu.wf
    exact ledgerCmd_orderly hu1

theorem execTenantSet_keeps {slot : SlotId} {s : State} : Keeps s (execTenantSet slot s) := by
  unfold execTenantSet
  refine keeps_next fun h => runCmd_orderly (fun x u hu => ?_) h
  extract_lets t c n changed _ u1
  have hu1 : Orderly u1 := orderly_update hu.wf
  refine cmdOut_guard (cmdOut_guard (cmdOut_guard ?_))
  split
  · exact trivial
  · exact ledgerChanges_orderly hu1

theorem execTenantQuery_keeps {slot : SlotId} {s : State} : Keeps s (execTenantQuery slot s) := by
  unfold execTenantQuery
  refine keeps_next fun h => runCmd_orderly (fun x u hu => ?_) h
  extract_lets t
  exact cmdOut_guard hu

theorem setTState_orderly {s : State} {t : ℕ} {st : TState} (h : Orderly s) : Orderly (setTState s t st) := by
  unfold setTState
  exact orderly_update h.wf

theorem execTenantSuspend_keeps {slot : SlotId} {s : State} : Keeps s (execTenantSuspend slot s) := by
  unfold execTenantSuspend
  refine keeps_next fun h => runCmd_orderly (fun x u hu => ?_) h
  extract_lets t
  exact cmdOut_guard (cmdOut_guard (ledgerCmd_orderly (endStreamsOf_orderly (setTState_orderly hu))))

theorem execTenantResume_keeps {slot : SlotId} {s : State} : Keeps s (execTenantResume slot s) := by
  unfold execTenantResume
  refine keeps_next fun h => runCmd_orderly (fun x u hu => ?_) h
  extract_lets t
  exact cmdOut_guard (cmdOut_guard (ledgerCmd_orderly (setTState_orderly hu)))

theorem execTenantDestroy_keeps {slot : SlotId} {s : State} : Keeps s (execTenantDestroy slot s) := by
  unfold execTenantDestroy
  refine keeps_next fun h => runCmd_orderly (fun x u hu => ?_) h
  extract_lets t mine regions u1 u2 u3
  have hu1 : Orderly u1 := setTState_orderly hu
  have hu2 : Orderly u2 := failWorks_orderly (quenchWhere_orderly hu1)
  have hu3 : Orderly u3 := ledgerCmd_orderly hu2
  refine cmdOut_guard (cmdOut_guard ?_)
  split
  · exact hu3
  · exact ledgerCmd_orderly (endStreamsOf_orderly hu1)

theorem startFill_orderly {s : State} {base size : ℕ} (h : Orderly s) : Orderly (startFill s base size) := by
  unfold startFill
  exact orderly_update h.wf

theorem freeRegion_orderly {s : State} {id : ℕ} (h : Orderly s) : Orderly (freeRegion s id) := by
  unfold freeRegion
  split
  · exact h
  · extract_lets u u1
    have hu : Orderly u := orderly_foldl (fun _ _ => dropSpCopy_orderly) h
    have hu1 : Orderly u1 := by
      unfold u1
      split
      · exact startFill_orderly hu
      · exact hu
    exact startFill_orderly (orderly_update hu1.wf)

theorem dropReplicas_orderly {s : State} {p : ℕ → Bool} (h : Orderly s) : Orderly (dropReplicas s p) := by
  unfold dropReplicas
  extract_lets gone
  exact orderly_foldl (fun _ _ hu => startFill_orderly (orderly_update hu.wf)) h

theorem dropImage_orderly {s : State} {id : ℕ} (h : Orderly s) : Orderly (dropImage s id) := by
  unfold dropImage
  split
  · exact h
  · exact freeRegion_orderly (orderly_update h.wf)

theorem execTenantFreed_keeps {tcid : ℕ} {s : State} : Keeps s (execTenantFreed tcid s) := by
  unfold execTenantFreed
  extract_lets c images regions u u1 u2 u3 _ u4 u5 _ _ u6 u7
  have hu (h : Orderly s) : Orderly u := orderly_foldl
    (fun _ _ hu8 => ledgerSelf_orderly (ledgerSelf_orderly (dropImage_orderly hu8))) h
  have hu1 (h : Orderly s) : Orderly u1 := orderly_foldl (fun _ _ hu8 => ledgerSelf_orderly (freeRegion_orderly hu8)) (hu h)
  have hu2 (h : Orderly s) : Orderly u2 := dropReplicas_orderly (hu1 h)
  have hu3 (h : Orderly s) : Orderly u3 := orderly_foldl (fun _ _ => memZero_orderly) (hu2 h)
  have hu4 (h : Orderly s) : Orderly u4 := orderly_update (hu3 h).wf
  have hu5 (h : Orderly s) : Orderly u5 := orderly_foldl (fun _ _ hu8 => orderly_ite (retag_orderly hu8) hu8) (hu4 h)
  have hu6 (h : Orderly s) : Orderly u6 := orderly_update (hu5 h).wf
  have hu7 (h : Orderly s) : Orderly u7 := ledgerSelf_orderly (hu6 h)
  exact keeps_ite (keeps_next id) (keeps_next fun h => answerWaits_orderly (raiseEvent_orderly (hu7 h)))

/-! ## The ledger commands -/

theorem execLedgerQuery_keeps {slot : SlotId} {s : State} : Keeps s (execLedgerQuery slot s) := by
  unfold execLedgerQuery
  exact keeps_next fun h => runCmd_orderly (fun _ _ hu => hu) h

theorem reportPoison_orderly {s : State} {ws : List ℕ} (h : Orderly s) : Orderly (reportPoison s ws) := by
  unfold reportPoison
  exact orderly_foldl (fun _ _ => latch_orderly) h

theorem execLedgerRead_keeps {slot : SlotId} {hostOk : Bool} {s : State} : Keeps s (execLedgerRead slot hostOk s) := by
  unfold execLedgerRead
  refine keeps_next fun h => runCmd_orderly (fun x u hu => ?_) h
  extract_lets from_ n idx u1 data
  have hu1 : Orderly u1 := reportPoison_orderly hu
  exact cmdOut_guard (cmdOut_guard (hostWrite_orderly hu1))

theorem ledgerFree_orderly {s : State} {n : ℕ} (h : Orderly s) : Orderly (ledgerFree s n) := by
  unfold ledgerFree
  extract_lets _ u
  have hu : Orderly u := orderly_update h.wf
  exact orderly_ite (orderly_update hu.wf) hu

theorem ledgerSuppressed_orderly {s : State} (h : Orderly s) : Orderly (ledgerSuppressed s) := by
  unfold ledgerSuppressed
  split
  · exact h
  · extract_lets u
    have hu : Orderly u := ledgerAppend_orderly h
    exact orderly_update hu.wf

theorem execLedgerAck_keeps {slot : SlotId} {s : State} : Keeps s (execLedgerAck slot s) := by
  unfold execLedgerAck
  refine keeps_next fun h => runCmd_orderly (fun x u hu => ?_) h
  extract_lets upTo u1
  have hu1 : Orderly u1 := ledgerSuppressed_orderly (ledgerCmd_orderly (ledgerFree_orderly hu))
  exact cmdOut_guard hu1

theorem execLedgerAnchor_keeps {slot : SlotId} {s : State} : Keeps s (execLedgerAnchor slot s) := by
  unfold execLedgerAnchor
  exact keeps_next fun h => runCmd_orderly (fun _ _ hu => hu) h

/-! ## What each reset leaves (Table 4-6) -/

theorem coldReset_orderly {s : State} {trigger : ℕ} {eft : Eft} : Orderly (coldReset s trigger eft) := by
  unfold coldReset
  extract_lets u
  have hu : Orderly u := State.reset_orderly
  exact orderly_update hu.wf

theorem warmReset_orderly {s : State} {cause : ℕ} {link : LinkReset} (h : Orderly s) : Orderly (warmReset s cause link) := by
  unfold warmReset
  extract_lets linkReset u
  exact orderly_update (filter_wf _ h.wf)

theorem execPowerOn_keeps {s : State} : Keeps s (execPowerOn s) := by
  unfold execPowerOn
  exact keeps_next fun _ => coldReset_orderly

theorem execPerst_keeps {s : State} : Keeps s (execPerst s) := by
  unfold execPerst
  split
  · exact keeps_next id
  · exact keeps_ite (keeps_next fun h1 => orderly_update h1.wf) (keeps_next fun _ => coldReset_orderly)

theorem execPerstDeassertion_keeps {s : State} : Keeps s (execPerstDeassertion s) := by
  unfold execPerstDeassertion
  split
  · exact keeps_next id
  · exact keeps_ite (keeps_next fun h1 => orderly_update h1.wf) (keeps_next fun h1 => orderly_update h1.wf)

theorem execHostCold_keeps {s : State} : Keeps s (execHostCold s) := by
  unfold execHostCold
  extract_lets u u1
  have hu (h : Orderly s) : Orderly u := linkExit_orderly h
  have hu1 (h : Orderly s) : Orderly u1 := coldReset_orderly
  split
  · exact keeps_next hu
  · split
    · exact keeps_next fun h1 => unsupportedRequest_orderly (hu h1)
    · exact keeps_next fun h1 => orderly_update (hu1 h1).wf

theorem execHostWarm_keeps {s : State} : Keeps s (execHostWarm s) := by
  unfold execHostWarm
  extract_lets u
  have hu (h : Orderly s) : Orderly u := linkExit_orderly h
  split
  · exact keeps_next hu
  · split
    · exact keeps_next fun h1 => unsupportedRequest_orderly (hu h1)
    · exact keeps_next fun h1 => warmReset_orderly (hu h1)

theorem execFlr_keeps {s : State} : Keeps s (execFlr s) := by
  unfold execFlr
  exact keeps_ite (keeps_next warmReset_orderly) (keeps_next id)

theorem execHotReset_keeps {s : State} : Keeps s (execHotReset s) := by
  unfold execHotReset
  exact keeps_ite (keeps_next warmReset_orderly) (keeps_next id)

theorem execEftWatchdog_keeps {s : State} : Keeps s (execEftWatchdog s) := by
  unfold execEftWatchdog
  exact keeps_ite (keeps_next warmReset_orderly) (keeps_next id)

theorem execInputUndervoltage_keeps {s : State} : Keeps s (execInputUndervoltage s) := by
  unfold execInputUndervoltage
  extract_lets _ u
  have hu (h : Orderly s) : Orderly u := coldReset_orderly
  exact keeps_next fun h => orderly_update (hu h).wf

theorem execThermalTrip_keeps {s : State} : Keeps s (execThermalTrip s) := by
  unfold execThermalTrip
  exact keeps_ite (keeps_next id) (keeps_next fun h => orderly_update h.wf)

/-! ## Secure boot -/

theorem keepSlot_orderly {s : State} {slot : Bool} {b : List Byte} (h : Orderly s) : Orderly (keepSlot s slot b) := by
  unfold keepSlot
  exact orderly_ite (orderly_update h.wf) (orderly_update h.wf)

theorem bootImage_orderly {s : State} {b : List Byte} {src : ImgSource} (h : Orderly s) : Orderly (bootImage s b src) := by
  unfold bootImage
  exact orderly_update h.wf

theorem recoveryBanks_orderly {s : State} {p : BankPower} (h : Orderly s) : Orderly (recoveryBanks s p) := by
  unfold recoveryBanks
  exact orderly_update h.wf

theorem enterRecovery_orderly {s : State} (h : Orderly s) : Orderly (enterRecovery s) := by
  unfold enterRecovery
  exact recoveryBanks_orderly (orderly_update h.wf)

theorem chooseImage_orderly {s : State} {b1 b2 : List Byte} (h : Orderly s) : Orderly (chooseImage s b1 b2) := by
  unfold chooseImage
  extract_lets first u
  have hu : Orderly u := bootImage_orderly h
  exact orderly_ite (bootImage_orderly h) (orderly_ite (orderly_update hu.wf) (enterRecovery_orderly h))

theorem execImageVerifyDone_keeps {flash : FlashSlots} {s : State} : Keeps s (execImageVerifyDone flash s) := by
  unfold execImageVerifyDone
  split
  · exact keeps_next id
  · split
    · exact keeps_ite (keeps_next bootImage_orderly) (keeps_next id)
    · extract_lets a b u
      have hu (h1 : Orderly s) : Orderly u := keepSlot_orderly (keepSlot_orderly h1)
      exact keeps_next fun h1 => orderly_ite (chooseImage_orderly (hu h1)) (chooseImage_orderly (hu h1))

theorem execRecover_keeps {value : W32} {s : State} : Keeps s (execRecover value s) := by
  unfold execRecover
  extract_lets u hdr b u1
  have hu (h : Orderly s) : Orderly u := linkExit_orderly h
  have hu1 (h : Orderly s) : Orderly u1 := bootImage_orderly (hu h)
  split
  · exact keeps_next hu
  · split
    · exact keeps_next fun h1 => unsupportedRequest_orderly (hu h1)
    · split
      · exact keeps_next hu
      · split
        · exact keeps_next fun h1 => sysErr_orderly (hu h1)
        · exact keeps_ite (keeps_next fun h1 => recoveryBanks_orderly (orderly_update (hu1 h1).wf)) (keeps_next hu)

theorem selftestFailed_orderly {s : State} {u : ℕ} (h : Orderly s) : Orderly (selftestFailed s u) := by
  unfold selftestFailed
  extract_lets _ u1
  have hu1 : Orderly u1 := orderly_update h.wf
  split
  · rename_i e
    exact latch_orderly (orderly_of_snd (draw_orderly hu1) e)

theorem execSelftestDone_keeps {failed : SelftestFails} {fatal : List FatalBlock} {s : State} :
    Keeps s (execSelftestDone failed fatal s) := by
  unfold execSelftestDone
  split
  · exact keeps_next id
  · extract_lets bad ctl _ _ _ u u1
    have hu (h1 : Orderly s) : Orderly u := orderly_update h1.wf
    have hu1 (h1 : Orderly s) : Orderly u1 := orderly_foldl (fun _ _ => selftestFailed_orderly) (hu h1)
    split
    · exact keeps_next fun h1 => orderly_update (hu1 h1).wf
    · exact keeps_next fun h1 => trainAll_orderly (hu1 h1)

theorem execTrainingDone_keeps {failed : List ℕ} {s : State} : Keeps s (execTrainingDone failed s) := by
  unfold execTrainingDone
  split
  · exact keeps_next id
  · exact keeps_ite (keeps_next fun h1 => orderly_update h1.wf) (keeps_next fun h1 => orderly_update h1.wf)

theorem execTierInitFillDone_keeps {s : State} : Keeps s (execTierInitFillDone s) := by
  unfold execTierInitFillDone
  split
  · exact keeps_next id
  · extract_lets keep
    exact keeps_next fun h1 => orderly_update (wf_ite (filter_wf _ h1.wf) rfl)

/-! ## The ready event -/

theorem openChain_orderly {s : State} (h : Orderly s) : Orderly (openChain s) := by
  unfold openChain
  extract_lets n _ u
  have hu : Orderly u := orderly_update h.wf
  exact ledgerSelf_orderly hu

theorem flushTrcStaging_orderly {s : State} (h : Orderly s) : Orderly (flushTrcStaging s) := by
  unfold flushTrcStaging
  extract_lets rs lost _ u
  have hu : Orderly u := orderly_foldl (fun _ _ => trcTake_orderly) (orderly_update h.wf)
  exact orderly_foldl (fun _ _ hu1 => orderly_update hu1.wf) hu

theorem postReady_orderly {s : State} (h : Orderly s) : Orderly (postReady s) := by
  unfold postReady
  extract_lets _ u written u1 u2
  have hu : Orderly u := orderly_update h.wf
  have hu1 : Orderly u1 := raiseEvent_orderly hu
  have hu2 : Orderly u2 := orderly_ite hu1 (raiseMsix_orderly hu1)
  split
  · exact raiseEvent_orderly (orderly_update hu2.wf)
  · exact hu2

theorem takeDeferred_orderly {s : State} {k : ℕ} (h : Orderly s) : Orderly (takeDeferred s k) := by
  unfold takeDeferred
  refine orderly_foldl (fun u x hu => ?_) h
  extract_lets m
  exact applyFreq_orderly (orderly_update hu.wf)

theorem endGap_orderly {s : State} {g : Gap} (h : Orderly s) : Orderly (endGap s g) := by
  unfold endGap
  extract_lets _ u u1 u2 u3 _ u4 u5 u6 u7 u8 latched
  have hu : Orderly u := orderly_update h.wf
  have hu1 : Orderly u1 := postReady_orderly hu
  have hu2 : Orderly u2 := ledgerSelf_orderly hu1
  have hu3 : Orderly u3 := postWins_orderly (closeWin_orderly hu2)
  have hu4 : Orderly u4 := orderly_update hu3.wf
  have hu5 : Orderly u5 := orderly_foldl (fun _ _ => takeDeferred_orderly) hu4
  have hu6 : Orderly u6 := flushTrcStaging_orderly hu5
  have hu7 : Orderly u7 := advanceRepairs_orderly (finishFencing_orderly (claimAddr_orderly (rejoin_orderly hu6)))
  have hu8 : Orderly u8 := by
    unfold u8
    split
    · exact respond_orderly hu7
    · exact hu7
  exact orderly_foldl (fun _ _ => takeSlot_orderly) (orderly_update hu8.wf)

theorem execReady_keeps {s : State} : Keeps s (execReady s) := by
  unfold execReady
  split
  · exact keeps_next id
  · split
    · exact keeps_ite (keeps_next endGap_orderly) (keeps_next id)
    · split
      · exact keeps_next id
      · extract_lets _ u u1
        have hu (h1 : Orderly s) : Orderly u := claimAlone_orderly (orderly_update h1.wf)
        have hu1 (h1 : Orderly s) : Orderly u1 := orderly_ite (openChain_orderly (hu h1)) (ledgerSelf_orderly (hu h1))
        exact keeps_next fun h1 => postReady_orderly (hu1 h1)

theorem execTrialAbandon_keeps {s : State} : Keeps s (execTrialAbandon s) := by
  unfold execTrialAbandon
  split
  · split
    · exact keeps_next id
    · extract_lets b _ _ u
      have hu (h1 : Orderly s) : Orderly u := orderly_update h1.wf
      exact keeps_next fun h1 => orderly_ite (bootImage_orderly (orderly_update (hu h1).wf)) (hu h1)
  · exact keeps_next id

/-! ## The commons and region commands -/

theorem loadBytes_orderly {s : State} {addr : ℕ} {data : List Byte} (h : Orderly s) : Orderly (loadBytes s addr data) := by
  unfold loadBytes
  split
  · rename_i u _ e
    have hu : Orderly u := orderly_of_fst (memWrite_orderly h) e
    exact orderly_ite (latch_orderly hu) hu

theorem loadBuffer_orderly {s : State} {addr len : ℕ} {buf : HostRead} {k : State → CmdOut} (h : Orderly s)
    (hk : ∀ u, Orderly u → CmdOut.Orderly (k u)) : CmdOut.Orderly (loadBuffer s addr len buf k) := by
  unfold loadBuffer
  split
  · exact trivial
  · extract_lets u
    have hu : Orderly u := loadBytes_orderly h
    split
    · exact hu
    · exact hk _ hu

/-! ## Commons -/

theorem execCommonsAlloc_keeps {slot : SlotId} {s : State} : Keeps s (execCommonsAlloc slot s) := by
  unfold execCommonsAlloc
  refine keeps_next fun h => runCmd_orderly (fun x u hu => ?_) h
  extract_lets named size
  refine cmdOut_guard (cmdOut_guard ?_)
  split
  · exact trivial
  · refine cmdOut_guard ?_
    split
    · exact trivial
    · split
      · exact trivial
      · rename_i u1 e
        have hu1 : Orderly u1 := (alloc_orderly hu) _ _ e
        extract_lets _ u2
        have hu2 : Orderly u2 := orderly_update hu1.wf
        exact ledgerCmd_orderly hu2

theorem execCommonsLoad_keeps {slot : SlotId} {buf : HostRead} {s : State} : Keeps s (execCommonsLoad slot buf s) := by
  unfold execCommonsLoad
  refine keeps_next fun h => runCmd_orderly (fun x u hu => ?_) h
  extract_lets coid len off
  split
  · exact trivial
  · exact cmdOut_guard (loadBuffer_orderly hu (fun _ => ledgerCmd_orderly))

theorem execCommonsSeal_keeps {slot : SlotId} {s : State} : Keeps s (execCommonsSeal slot s) := by
  unfold execCommonsSeal
  refine keeps_next fun h => runCmd_orderly (fun x u hu => ?_) h
  extract_lets coid
  split
  · exact trivial
  · refine cmdOut_guard ?_
    extract_lets u1 _ u2
    have hu1 : Orderly u1 := memCopy_orderly hu
    have hu2 : Orderly u2 := orderly_update hu1.wf
    exact ledgerCmd_orderly hu2

theorem execCommonsFree_keeps {slot : SlotId} {s : State} : Keeps s (execCommonsFree slot s) := by
  unfold execCommonsFree
  refine keeps_next fun h => runCmd_orderly (fun x u hu => ?_) h
  extract_lets coid u1
  have hu1 : Orderly u1 := orderly_foldl (fun _ _ => dropSpCopy_orderly) hu
  split
  · exact trivial
  · refine cmdOut_guard ?_
    extract_lets u2
    have hu2 : Orderly u2 := startFill_orderly (startFill_orderly (orderly_update hu1.wf))
    exact ledgerCmd_orderly hu2

theorem execCommonsQuery_keeps {slot : SlotId} {s : State} : Keeps s (execCommonsQuery slot s) := by
  unfold execCommonsQuery
  refine keeps_next fun h => runCmd_orderly (fun x u hu => ?_) h
  extract_lets coid
  split
  · exact hu

/-! ## Regions -/

theorem execRegionCreate_keeps {slot : SlotId} {s : State} : Keeps s (execRegionCreate slot s) := by
  unfold execRegionCreate
  refine keeps_next fun h => runCmd_orderly (fun x u hu => ?_) h
  extract_lets t f size addr tierA c id
  refine cmdOut_guard (cmdOut_guard (cmdOut_guard (cmdOut_guard ?_)))
  split
  · exact trivial
  · rename_i u1 e
    have hu1 : Orderly u1 := (optSndOrderly_ite (optSndOrderly_ite (optSndOrderly_some hu) optSndOrderly_none) (alloc_orderly hu))
      _ _ e
    refine cmdOut_guard ?_
    extract_lets g _ u2
    have hu2 : Orderly u2 := orderly_update hu1.wf
    exact ledgerCmd_orderly hu2

theorem execRegionLoad_keeps {slot : SlotId} {buf : HostRead} {s : State} : Keeps s (execRegionLoad slot buf s) := by
  unfold execRegionLoad
  refine keeps_next fun h => runCmd_orderly (fun x u hu => ?_) h
  extract_lets id len off
  split
  · exact trivial
  · exact cmdOut_guard (loadBuffer_orderly hu (fun _ => ledgerCmd_orderly))

theorem execRegionSeal_keeps {slot : SlotId} {s : State} : Keeps s (execRegionSeal slot s) := by
  unfold execRegionSeal
  refine keeps_next fun h => runCmd_orderly (fun x u hu => ?_) h
  extract_lets id
  split
  · exact trivial
  · extract_lets c u1
    have hu1 : Orderly u1 := orderly_update hu.wf
    refine cmdOut_guard ?_
    split
    · exact trivial
    · exact ledgerCmd_orderly hu1

theorem execRegionFree_keeps {slot : SlotId} {s : State} : Keeps s (execRegionFree slot s) := by
  unfold execRegionFree
  refine keeps_next fun h => runCmd_orderly (fun x u hu => ?_) h
  extract_lets id
  split
  · exact trivial
  · exact cmdOut_guard (ledgerCmd_orderly (freeRegion_orderly hu))

theorem execRegionQuery_keeps {slot : SlotId} {s : State} : Keeps s (execRegionQuery slot s) := by
  unfold execRegionQuery
  refine keeps_next fun h => runCmd_orderly (fun x u hu => ?_) h
  extract_lets id
  split
  · exact trivial
  · exact hu

end Sys2Proof.Machine
end

section
/-! PROOFS. The sparse path and what every sequencer instruction shares keep memory in its canonical form. -/
namespace Sys2Proof.Machine

/-! ## Fibre operands (R364, R365) -/

theorem readFb_orderly {rd : State → ℕ → ℕ → Rd} {t : EType} {table : Bool} {req : FbHdr → Bool} {s : State}
    (hrd : ∀ u x x1, Orderly u → Rd.Orderly (rd u x x1)) (h : Orderly s) : FbRead.Orderly (readFb rd t table req s) := by
  unfold readFb
  split
  · rename_i e
    exact (hrd _ _ _ h).at e
  · rename_i u e
    have hu : Orderly u := (hrd _ _ _ h).at e
    extract_lets hdr
    split
    · exact hu
    · split
      · rename_i e1
        exact (hrd _ _ _ hu).at e1
      · rename_i v e1
        have hv : Orderly v := (hrd _ _ _ hu).at e1
        split
        · exact hv
        · split
          · rename_i e2
            exact (hrd _ _ _ hv).at e2
          · rename_i w e2
            have hw : Orderly w := (hrd _ _ _ hv).at e2
            split
            · rename_i e3
              exact (hrd _ _ _ hw).at e3
            · rename_i x e3
              have hx : Orderly x := (hrd _ _ _ hw).at e3
              have hlast : Rd.Orderly (if table then rd x hdr.qtOff (4 * hdr.nq) else .ok [] x) := by
                split
                · exact hrd _ _ _ hx
                · exact hx
              split
              all_goals
                rename_i e4
                exact hlast.at e4

/-! ## MERGE -/

theorem readDense_orderly {c w win off len rows pitchN n : ℕ} {t : EType} {s : State} (h : Orderly s) :
    DenseRead.Orderly (readDense c w win off len rows pitchN n t s) := by
  unfold readDense
  split
  · exact h
  · split
    all_goals
      rename_i e
      exact (readTile_orderly h).at e

theorem winRd_orderly {c w win off : ℕ} {s : State} {o n : ℕ} (h : Orderly s) : Rd.Orderly (winRd c w win off s o n) := by
  unfold winRd
  exact engRead_orderly h

theorem formSdmm_orderly {c w i : ℕ} {s : State} (h : Orderly s) : Formed.Orderly (formSdmm c w i s) := by
  unfold formSdmm
  extract_lets ta tb nt
  split
  · rename_i e
    exact (readFb_orderly (fun _ _ _ => winRd_orderly) h).at e
  · rename_i e
    exact (readFb_orderly (fun _ _ _ => winRd_orderly) h).at e
  · rename_i u e
    have hu : Orderly u := (readFb_orderly (fun _ _ _ => winRd_orderly) h).at e
    split
    · rename_i e1
      exact (readDense_orderly hu).at e1
    · rename_i e1
      exact (readDense_orderly hu).at e1
    · rename_i u1 e1
      have hu1 : Orderly u1 := (readDense_orderly hu).at e1
      extract_lets qs
      exact hu1

theorem formSsmm_orderly {c w i : ℕ} {s : State} (h : Orderly s) : Formed.Orderly (formSsmm c w i s) := by
  unfold formSsmm
  extract_lets ta tb nt
  split
  · rename_i e
    exact (readFb_orderly (fun _ _ _ => winRd_orderly) h).at e
  · rename_i e
    exact (readFb_orderly (fun _ _ _ => winRd_orderly) h).at e
  · rename_i u e
    have hu : Orderly u := (readFb_orderly (fun _ _ _ => winRd_orderly) h).at e
    split
    · rename_i e1
      exact (readFb_orderly (fun _ _ _ => winRd_orderly) hu).at e1
    · rename_i e1
      exact (readFb_orderly (fun _ _ _ => winRd_orderly) hu).at e1
    · rename_i u1 e1
      have hu1 : Orderly u1 := (readFb_orderly (fun _ _ _ => winRd_orderly) hu).at e1
      extract_lets yOk qs
      exact hu1

theorem formDsmmFb_orderly {c w i : ℕ} {s : State} (h : Orderly s) : Formed.Orderly (formDsmmFb c w i s) := by
  unfold formDsmmFb
  extract_lets ta tb
  split
  · rename_i e
    exact (readFb_orderly (fun _ _ _ => winRd_orderly) h).at e
  · rename_i e
    exact (readFb_orderly (fun _ _ _ => winRd_orderly) h).at e
  · rename_i u e
    have hu : Orderly u := (readFb_orderly (fun _ _ _ => winRd_orderly) h).at e
    split
    · exact hu
    · split
      all_goals
        rename_i e1
        exact (readDense_orderly hu).at e1

/-! ## Deltas (R367, R368, R382 to R384) -/

theorem rd_ite {c : Prop} [Decidable c] {r q : Rd} (hr : r.Orderly) (hq : q.Orderly) : (if c then r else q).Orderly := by
  split
  · exact hr
  · exact hq

/-- The endpoint's answer is generalized, for the kernel would evaluate addresses to split on it. -/
theorem dlRead_orderly {c t off : ℕ} {s : State} {o n : ℕ} (h : Orderly s) : Rd.Orderly (dlRead c t off s o n) := by
  unfold dlRead
  extract_lets a w refuse
  have hrefuse (o : ℕ) : (refuse o).Orderly := by
    unfold refuse
    clear_value w
    cases w with
    | some w => exact tagFault_orderly h
    | none => exact h
  refine rd_ite h (rd_ite (hrefuse _) ?_)
  generalize endpoint s t a n false = p
  cases p with
  | refused o => exact hrefuse _
  | hole => exact hrefuse _
  | ok =>
    have hread : Orderly (eccRead (flushGb s a n) a n .clean w).1 := eccRead_orderly (flushGb_orderly h)
    generalize eccRead (flushGb s a n) a n .clean w = x at hread
    obtain ⟨u, good⟩ := x
    cases good with
    | false => exact hread
    | true => exact hread

theorem entryInvalid_orderly {s : State} {c t : ℕ} (h : Orderly s) : Orderly (entryInvalid s c t) := by
  unfold entryInvalid
  split
  · exact failWork_orderly h
  · exact h

theorem formDl_orderly {c w i : ℕ} {l : List ℕ} {n : ℕ} {s : State} (h : Orderly s) : Orderly (formDl c w i l n s).2.2 := by
  induction l generalizing n s with
  | nil =>
    unfold formDl
    dsimp -zeta only
    exact h
  | cons x xs ih =>
    unfold formDl
    extract_lets k t tb ta f rows skip
    have hskip : ∀ v, Orderly v → Orderly (skip v).2.2 := fun _ hv => ih hv
    split
    · rename_i e
      exact hskip _ ((dlRead_orderly h).at e)
    · rename_i u e
      have hu : Orderly u := (dlRead_orderly h).at e
      extract_lets dw
      split
      · exact hskip _ (entryInvalid_orderly hu)
      · split
        · rename_i e1
          exact hskip _ ((readFb_orderly (fun _ _ _ => dlRead_orderly) hu).at e1)
        · rename_i e1
          exact hskip _ (entryInvalid_orderly ((readFb_orderly (fun _ _ _ => dlRead_orderly) hu).at e1))
        · rename_i u1 e1
          have hu1 : Orderly u1 := (readFb_orderly (fun _ _ _ => dlRead_orderly) hu).at e1
          split
          · exact hskip _ (entryInvalid_orderly hu1)
          · split
            · rename_i e2
              exact (readDense_orderly hu1).at e2
            · rename_i e2
              exact invalidField_orderly ((readDense_orderly hu1).at e2)
            · rename_i u2 e2
              have hu2 : Orderly u2 := (readDense_orderly hu1).at e2
              extract_lets qs r
              exact ih hu2

theorem formMerge_orderly {c w i : ℕ} {s : State} (h : Orderly s) : Formed.Orderly (formMerge c w i s) := by
  unfold formMerge
  split
  · exact formSdmm_orderly h
  · exact formDsmmFb_orderly h
  · split
    · exact h
    · extract_lets r
      have hr : Orderly r.2.2 := formDl_orderly h
      split <;> exact hr
  · exact formSsmm_orderly h

theorem mergeEnd_orderly {s : State} {c : ℕ} (h : Orderly s) : Orderly (mergeEnd s c) := by
  unfold mergeEnd
  split
  · exact orderly_ite (count_orderly (modCore_orderly h)) h
  · exact h

theorem mergeBody_orderly {c : ℕ} {s : State} {w : ℕ} {q : QEnt} (h : Orderly s) : Orderly (mergeBody c s w q) := by
  unfold mergeBody
  extract_lets i isF k u
  have hu : Orderly u := setCore_orderly h
  split
  · exact invalidField_orderly h
  · split
    · rename_i e
      exact dropInstr_orderly ((formMerge_orderly hu).at e)
    · rename_i e
      exact dropInstr_orderly (invalidField_orderly ((formMerge_orderly hu).at e))
    · rename_i u1 e
      have hu1 : Orderly u1 := (formMerge_orderly hu).at e
      extract_lets cycles x1
      exact mergeEnd_orderly (modCore_orderly hu1)

theorem mergeRow_keeps {c op : ℕ} {s : State} : Keeps s (mergeRow c op s) := by
  unfold mergeRow
  exact keeps_next fun h => engineRow_orderly h (fun _ _ _ => mergeBody_orderly)

theorem execSdmm_keeps {core : CoreId} {s : State} : Keeps s (execSdmm core s) := by
  unfold execSdmm
  exact mergeRow_keeps

theorem execDsmm_keeps {core : CoreId} {s : State} : Keeps s (execDsmm core s) := by
  unfold execDsmm
  exact mergeRow_keeps

theorem execSsmm_keeps {core : CoreId} {s : State} : Keeps s (execSsmm core s) := by
  unfold execSsmm
  exact mergeRow_keeps

/-! ## QUANTUM_COMMIT -/

theorem censusQuant_orderly {s : State} {c : ℕ} {q : Quant} (h : Orderly s) : Orderly (censusQuant s c q) := by
  unfold censusQuant
  exact count_orderly (count_orderly (count_orderly (count_orderly (count_orderly (count_orderly h)))))

theorem execQuantumCommit_keeps {core_ : CoreId} {residueOk : Bool} {s : State} :
    Keeps s (execQuantumCommit core_ residueOk s) := by
  unfold execQuantumCommit
  extract_lets c k
  split
  · exact keeps_next id
  · split
    · exact keeps_next id
    · split
      · exact keeps_next id
      · extract_lets i isDl isF after drop x1 m' u u1
        have hdrop : ∀ v, Orderly v → Orderly (drop v) := fun _ hv => modCore_orderly hv
        have hu (h1 : Orderly s) : Orderly u := setCore_orderly h1
        have hu1 (h1 : Orderly s) : Orderly u1 := censusQuant_orderly (hu h1)
        exact keeps_next fun h1 => settle_orderly
          (orderly_ite (mergeEnd_orderly (orderly_ite (hdrop _ (entryInvalid_orderly h1)) (invalidField_orderly h1)))
          (orderly_ite (mergeEnd_orderly (orderly_ite (countCore_orderly (hu1 h1)) (hu1 h1)))
          (orderly_ite (modCore_orderly (firstFailure_orderly h1)) (mergeEnd_orderly (secondFailure_orderly (hdrop _ h1))))))

/-! ## QUANTA (R378) -/

theorem quantaBody_orderly {c : ℕ} {s : State} {w : ℕ} {q : QEnt} (h : Orderly s) : Orderly (quantaBody c s w q) := by
  unfold quantaBody
  extract_lets i win off
  split
  · exact engWrite_orderly h
  · split
    · rename_i e
      exact (engRead_orderly h).at e
    · rename_i u e
      have hu : Orderly u := (engRead_orderly h).at e
      extract_lets h1 nq w0
      split
      · exact invalidField_orderly hu
      · split
        · rename_i e1
          exact (engRead_orderly hu).at e1
        · rename_i u1 e1
          have hu1 : Orderly u1 := (engRead_orderly hu).at e1
          extract_lets ptrs qt
          split
          · exact invalidField_orderly hu1
          · split
            · rename_i e2
              exact orderly_of_fst (engWrite_orderly hu1) e2
            · rename_i u2 e2
              have hu2 : Orderly u2 := orderly_of_fst (engWrite_orderly hu1) e2
              split
              · rename_i e3
                exact orderly_of_fst (engWrite_orderly hu2) e3
              · rename_i e3
                exact count_orderly (orderly_of_fst (engWrite_orderly hu2) e3)

theorem execQuanta_keeps {core : CoreId} {s : State} : Keeps s (execQuanta core s) := by
  unfold execQuanta
  exact keeps_next fun h => engineRow_orderly h (fun _ _ _ => quantaBody_orderly)

/-! ## Running -/

theorem fetchLine_orderly {s : State} {ag : ℕ} (h : Orderly s) : Orderly (fetchLine s ag) := by
  unfold fetchLine
  exact orderly_ite (countCore_orderly h) h

/-! ## Traps -/

theorem trapStatus_orderly {s : State} {cause : ℕ} (h : Orderly s) : Orderly (trapStatus s cause).2 := by
  unfold trapStatus
  split
  · exact h
  · split
    · exact h
    · split
      · exact h
      · split
        · rename_i e
          exact orderly_of_snd (draw_orderly h) e

theorem trapFatalOf_orderly {s : State} {w : Option ℕ} {ag cause tval addr : ℕ} (h : Orderly s) :
    Orderly (trapFatalOf s w ag cause tval addr) := by
  unfold trapFatalOf
  extract_lets pc d1 _ u
  have hu : Orderly u := setSeq_orderly h
  split
  · rename_i u1 e
    have hu1 : Orderly u1 := orderly_of_snd (trapStatus_orderly hu) e
    split
    · extract_lets u2
      have hu2 : Orderly u2 := latch_orderly hu1
      exact failWorks_orderly hu2
    · exact latch_orderly hu1

theorem trapFatal_orderly {s : State} {ag cause tval addr : ℕ} (h : Orderly s) : Orderly (trapFatal s ag cause tval addr) := by
  unfold trapFatal
  exact trapFatalOf_orderly h

theorem trapHandled_orderly {s : State} {ag cause : ℕ} {tval epc : Word} (h : Orderly s) :
    Orderly (trapHandled s ag cause tval epc) := by
  unfold trapHandled
  extract_lets q u q1
  have hu : Orderly u := orderly_ite (traceCore_orderly (flushWhere_orderly h)) h
  exact orderly_ite (trapFatal_orderly h) (orderly_ite hu (fetchLine_orderly (setSeq_orderly hu)))

/-! ## Interrupts -/

theorem raiseIp_orderly {s : State} {ag i reg : ℕ} (h : Orderly s) : Orderly (raiseIp s ag i reg) := by
  unfold raiseIp
  extract_lets q q1 u
  have hu : Orderly u := setSeq_orderly h
  exact orderly_ite (retireSeq_orderly hu) hu

/-! ## One instruction -/

theorem seqRow_keeps {ag : Agent} {i : Instr} {body : State → Option State} {s : State}
    (hbody : ∀ u, Orderly u → OptOrderly (body u)) : Keeps s (seqRow ag i body s) := by
  unfold seqRow
  extract_lets q w line
  have hline : ∀ v, Orderly v → Orderly (line v) := fun _ hv => orderly_ite (fetchLine_orderly hv) hv
  split
  · exact keeps_next id
  · split
    · exact keeps_next fun h1 => trapFatal_orderly (hline _ h1)
    · split
      · split
        · rename_i u e
          have hu (h1 : Orderly s) : Orderly u := (hbody _ (orderly_ite h1 (hline _ h1))) _ e
          exact keeps_next fun h1 => waitHold_orderly h1 (settleAg_orderly (hu h1))
        · exact keeps_next setSeq_orderly
      · exact keeps_next id

theorem retireGd_orderly {s : State} {ag : ℕ} {gd : RegId} {v : Word} (h : Orderly s) : Orderly (retireGd s ag gd v) := by
  unfold retireGd
  extract_lets q
  exact retireSeq_orderly (setSeq_orderly h)

theorem retireNext_orderly {s : State} {ag : ℕ} (h : Orderly s) : Orderly (retireNext s ag) := by
  unfold retireNext
  exact retireSeq_orderly h

theorem retireJump_orderly {s : State} {ag : ℕ} {target : Word} (h : Orderly s) : Orderly (retireJump s ag target) := by
  unfold retireJump
  extract_lets u
  have hu : Orderly u := fetchLine_orderly (retireSeq_orderly h)
  exact orderly_ite hu (trapFatal_orderly hu)

end Sys2Proof.Machine
end

section
/-! PROOFS. Walks, tokens and embedding tables keep memory in its canonical form. -/
namespace Sys2Proof.Machine

/-! ## Credits (R243, R244, R528) -/

theorem setCirc_orderly {s : State} {c r : ℕ} {x : Circ} (h : Orderly s) : Orderly (setCirc s c r x) := by
  unfold setCirc
  exact modCore_orderly h

theorem sendTotal_orderly {s : State} {c r : ℕ} (h : Orderly s) : Orderly (sendTotal s c r) := by
  unfold sendTotal
  split
  · exact h
  · split
    · exact h
    · extract_lets k
      exact sendCredit_orderly h

theorem grantCredits_orderly {s : State} {c r n : ℕ} (h : Orderly s) : Orderly (grantCredits s c r n) := by
  unfold grantCredits
  split
  · exact h
  · extract_lets x1 p1
    exact orderly_ite (sendTotal_orderly (setCirc_orderly h)) (orderly_update h.wf)

/-! ## Tokens -/

theorem releaseTok_orderly {s : State} {c r : ℕ} (h : Orderly s) : OptOrderly (releaseTok s c r) := by
  unfold releaseTok
  extract_lets x
  split
  · exact optOrderly_none
  · extract_lets u
    have hu : Orderly u := setCirc_orderly h
    exact optOrderly_some (grantCredits_orderly hu)

theorem circWrite_orderly {s : State} {c : ℕ} {x : Circ} {count : ℕ} {ds : List Byte} (h : Orderly s) :
    Orderly (circWrite s c x count ds).1 := by
  rw [circWrite_fst]
  exact orderly_ite (memWrite_orderly h) (memWrite_orderly (memWrite_orderly h))

theorem ingressRefused_orderly {s : State} {c : ℕ} (h : Orderly s) : Orderly (ingressRefused s c) := by
  unfold ingressRefused
  exact countCore_orderly h

theorem landTail_orderly {s : State} {c r tag units : ℕ} (h : Orderly s) : Orderly (landTail s c r tag units) := by
  unfold landTail
  extract_lets x u
  have hu : Orderly u := setCirc_orderly h
  exact orderly_ite (raiseIp_orderly hu) hu

theorem staleWrite_orderly {s : State} {c w : ℕ} {gen : BitVec 16} (h : Orderly s) : Orderly (staleWrite s c w gen) := by
  unfold staleWrite
  exact lateDrop_orderly (orderly_ite h (ingressRefused_orderly h))

/-- The endpoint's answer is generalized, for the kernel would evaluate addresses to split on it. -/
theorem landTok_orderly {s : State} {m : TokMsg} (h : Orderly s) : Orderly (landTok s m) := by
  rw [landTok]
  refine orderly_ite (ingressRefused_orderly h) (orderly_ite (staleWrite_orderly h) (orderly_ite (tagFault_orderly h) ?_))
  extract_lets +onlyGivenNames n
  clear_value n
  generalize circEndpoint s m.dcore (circ s m.dcore m.dreg) m.tcid (circ s m.dcore m.dreg).tail n true = p
  cases p with
  | ok => exact landTail_orderly (circWrite_orderly (flushGb_orderly h))
  | refused o => exact tagFault_orderly h
  | hole => exact tagFault_orderly h

/-! ## Bag lists (R405) -/

theorem readBags_orderly {c w win off len : ℕ} {key64 weighted : Bool} {s : State} (h : Orderly s) :
    BagRead.Orderly (readBags c w win off len key64 weighted s) := by
  unfold readBags
  split
  · rename_i e
    exact (engRead_orderly h).at e
  · rename_i u e
    have hu : Orderly u := (engRead_orderly h).at e
    extract_lets h1 es ksz
    split
    · exact hu
    · split
      · rename_i e1
        exact (engRead_orderly hu).at e1
      · rename_i u1 e1
        have hu1 : Orderly u1 := (engRead_orderly hu).at e1
        extract_lets ptrs
        split
        · exact hu1
        · split
          all_goals
            rename_i e2
            exact (engRead_orderly hu1).at e2

/-! ## GATHER: rows (R408, R410, R411, R421) -/

theorem setGather_orderly {s : State} {c : ℕ} {g : GatherRun} (h : Orderly s) : Orderly (setGather s c g) := by
  unfold setGather
  exact modCore_orderly h

theorem modGather_orderly {s : State} {c : ℕ} {f : GatherRun → GatherRun} (h : Orderly s) : Orderly (modGather s c f) := by
  unfold modGather
  exact modCore_orderly h

theorem rowGot_orderly {s : State} {c t r : ℕ} {bs : List Byte} (h : Orderly s) : Orderly (rowGot s c t r bs) := by
  unfold rowGot
  exact modCore_orderly h

theorem winHit_orderly {s : State} {c t r : ℕ} (h : Orderly s) : OptOrderly (winHit s c t r) := by
  unfold winHit
  split
  · exact optOrderly_none
  · extract_lets u u1
    have hu : Orderly u := modCore_orderly h
    have hu1 : Orderly u1 := by
      unfold u1
      split
      · exact modGather_orderly hu
      · exact hu
    exact optOrderly_some (count_orderly hu1)

theorem winMiss_orderly {s : State} {c t r : ℕ} {sl : GSlot} (h : Orderly s) : Orderly (winMiss s c t r sl) := by
  unfold winMiss
  extract_lets u
  have hu : Orderly u := modCore_orderly h
  exact orderly_ite hu (count_orderly hu)

theorem fetchRow_orderly {s : State} {c w t r addr : ℕ} (h : Orderly s) : Orderly (fetchRow s c w t r addr) := by
  unfold fetchRow
  extract_lets k
  split
  · split
    · rename_i e
      exact modGather_orderly ((devRead_orderly h).at e)
    · rename_i e
      exact (devRead_orderly h).at e
  · split
    · rename_i e
      exact (winHit_orderly h) _ e
    · exact winMiss_orderly h

theorem fetchPartner_orderly {s : State} {c w : ℕ} {p : Option (ℕ × ℕ)} (h : Orderly s) : Orderly (fetchPartner s c w p) := by
  unfold fetchPartner
  split
  · exact orderly_ite (fetchRow_orderly h) h
  · exact h

/-! ## GATHER: entries -/

theorem entryDone_orderly {s : State} {c : ℕ} {z : GRes} (h : Orderly s) : Orderly (entryDone s c z) := by
  unfold entryDone
  extract_lets u
  have hu : Orderly u := modCore_orderly h
  exact count_orderly hu

theorem localEntry_orderly {s : State} {c w t b r addr : ℕ} {p : Option (ℕ × ℕ)} {g : GatherRun} (h : Orderly s) :
    OptOrderly (localEntry s c w t b r addr p g) := by
  unfold localEntry
  extract_lets k u
  have hu : Orderly u := fetchRow_orderly (entryDone_orderly h)
  split
  · exact optOrderly_some (count_orderly (entryDone_orderly h))
  · split
    · exact optOrderly_none
    · exact optOrderly_some (fetchPartner_orderly hu)

theorem remoteEntry_orderly {s : State} {c w t node region r : ℕ} {p : Option (ℕ × ℕ)} {g : GatherRun} (h : Orderly s) :
    OptOrderly (remoteEntry s c w t node region r p g) := by
  unfold remoteEntry
  extract_lets k id u u1 u2
  have hu : Orderly u := count_orderly (entryDone_orderly h)
  have hu1 : Orderly u1 := winMiss_orderly hu
  have hu2 : Orderly u2 := sendTxn_orderly hu1
  split
  · exact optOrderly_some (entryDone_orderly h)
  · split
    · rename_i e
      exact optOrderly_some (fetchPartner_orderly (entryDone_orderly ((winHit_orderly h) _ e)))
    · split
      · exact optOrderly_none
      · exact optOrderly_some (fetchPartner_orderly hu2)

theorem shardedEntry_orderly {s : State} {c w t b node region r : ℕ} {p : Option (ℕ × ℕ)} {g : GatherRun} (h : Orderly s) :
    OptOrderly (shardedEntry s c w t b node region r p g) := by
  unfold shardedEntry
  extract_lets k
  split
  · exact optOrderly_some (count_orderly (entryDone_orderly h))
  · split
    · exact remoteEntry_orderly h
    · split
      · exact optOrderly_none
      · split
        · rename_i e
          exact optOrderly_some ((devRead_orderly h).at e)
        · rename_i u e
          have hu : Orderly u := (devRead_orderly h).at e
          split
          · exact optOrderly_map_state (fun _ => count_orderly) (localEntry_orderly hu)
          · exact remoteEntry_orderly hu

theorem nextEntry_orderly {s : State} {c w : ℕ} {g : GatherRun} {b x : ℕ} (h : Orderly s) :
    OptOrderly (nextEntry s c w g b x) := by
  unfold nextEntry
  extract_lets k t
  split
  · exact optOrderly_some (invalidField_orderly h)
  · split
    · exact optOrderly_some (count_orderly (entryDone_orderly h))
    · exact optOrderly_some (count_orderly (entryDone_orderly h))
    · exact localEntry_orderly h
    · exact shardedEntry_orderly h

theorem resolveAll_orderly {c w n : ℕ} {s : State} (h : Orderly s) : Orderly (resolveAll c w n s) := by
  induction n generalizing s with
  | zero =>
    unfold resolveAll
    exact h
  | succ n ih =>
    unfold resolveAll
    split
    · exact h
    · split
      · exact h
      · split
        · exact h
        · rename_i e
          exact ih ((nextEntry_orderly h) _ e)

/-! ## GATHER: remote sub-bags (R423) -/

theorem sendSubs_orderly {c w n : ℕ} {s : State} (h : Orderly s) : Orderly (sendSubs c w n s) := by
  induction n generalizing s with
  | zero =>
    unfold sendSubs
    exact h
  | succ n ih =>
    unfold sendSubs
    dsimp -zeta only
    split
    · exact h
    · split
      · split
        · exact h
        · extract_lets k t sl u u1
          have hu : Orderly u := setGather_orderly h
          have hu1 : Orderly u1 := count_orderly hu
          exact ih (sendTxn_orderly hu1)
      · exact h

/-! ## GATHER: the output (R406, R413, R424) -/

theorem gatherEnd_orderly {s : State} {c w : ℕ} (h : Orderly s) : Orderly (gatherEnd s c w) := by
  unfold gatherEnd
  refine waitHold_orderly h ?_
  split
  · exact h
  · split
    · exact h
    · extract_lets k i ot nout outs adds u sat nan u1 u2 u3
      have hu : Orderly u := orderly_foldl (fun _ _ hu4 => orderly_ite hu4 (engWrite_orderly hu4)) h
      have hu1 : Orderly u1 := orderly_ite (flagWork_orderly hu) hu
      have hu2 : Orderly u2 := orderly_ite hu1 (count_orderly hu1)
      have hu3 : Orderly u3 := modCore_orderly hu2
      exact orderly_ite hu (count_orderly hu3)

theorem gatherGo_orderly {s : State} {c : ℕ} (h : Orderly s) : Orderly (gatherGo s c) := by
  unfold gatherGo
  split
  · exact h
  · extract_lets u
    have hu : Orderly u := resolveAll_orderly h
    split
    · exact hu
    · split
      · exact hu
      · extract_lets u1
        have hu1 : Orderly u1 := orderly_ite hu (setGather_orderly hu)
        exact orderly_ite (invalidField_orderly hu1) (gatherEnd_orderly (sendSubs_orderly hu1))

/-! ## GATHER: issue and arrivals -/

theorem gatherBody_orderly {c : ℕ} {s : State} {w : ℕ} {q : QEnt} (h : Orderly s) : Orderly (gatherBody c s w q) := by
  unfold gatherBody
  extract_lets i k t u
  have hu : Orderly u := setCore_orderly h
  split
  · rename_i e
    exact dropInstr_orderly ((readBags_orderly hu).at e)
  · rename_i e
    exact dropInstr_orderly (invalidField_orderly ((readBags_orderly hu).at e))
  · rename_i u1 e
    have hu1 : Orderly u1 := (readBags_orderly hu).at e
    extract_lets nout need g
    split
    · exact dropInstr_orderly (invalidField_orderly hu1)
    · exact gatherGo_orderly (count_orderly (setGather_orderly hu1))

theorem execGather_keeps {core : CoreId} {s : State} : Keeps s (execGather core s) := by
  unfold execGather
  exact keeps_next fun h => engineRow_orderly h (fun _ _ _ => gatherBody_orderly)

theorem execGatherRowArrival_keeps {core_ : CoreId} {index : ℕ} {find : EccFind} {s : State} :
    Keeps s (execGatherRowArrival core_ index find s) := by
  have hlost (u : State) (c : ℕ) (sl : GSlot) (hu : Orderly s → Orderly u) : Keeps s (execGatherRowArrival.lost u c sl) :=
    keeps_next fun h => settle_orderly (gatherGo_orderly (rowGot_orderly (hu h)))
  unfold execGatherRowArrival
  extract_lets c
  clear_value c
  split
  · exact keeps_next id
  · split
    · split
      · exact keeps_next id
      · split
        · exact keeps_next id
        · extract_lets u
          have hu (h : Orderly s) : Orderly u := setGather_orderly h
          clear_value u
          split
          · exact hlost _ _ _ fun h => tagFault_orderly (hu h)
          · exact hlost _ _ _ fun h => tagFault_orderly (hu h)
          · split
            · rename_i e
              exact hlost _ _ _ fun h => orderly_of_fst (eccRead_orderly (hu h)) e
            · rename_i e
              exact keeps_next fun h => settle_orderly
                (gatherGo_orderly (rowGot_orderly (orderly_of_fst (eccRead_orderly (hu h)) e)))
    · exact keeps_next id

theorem gatherAnswer_orderly {s : State} {c txid : ℕ} {op : TxnOp} {status : ℕ} {sat nan : Bool} {payload : List Byte}
    (h : Orderly s) : Orderly (gatherAnswer s c txid op status sat nan payload) := by
  unfold gatherAnswer
  split
  · split
    · exact h
    · extract_lets sl g
      split
      · exact failWorks_orderly (setGather_orderly h)
      · split
        · split
          · exact gatherGo_orderly (count_orderly (setGather_orderly h))
          · split
            rename_i u e
            have hu : Orderly u := by
              split at e
              · split at e
                cases e
                exact orderly_of_snd (draw_orderly h) ‹_›
              · cases e
                exact h
            exact gatherGo_orderly
              (orderly_ite (flagWork_orderly (count_orderly (setGather_orderly hu))) (count_orderly (setGather_orderly hu)))
        · split
          · exact gatherGo_orderly (count_orderly (modCore_orderly h))
          · exact gatherGo_orderly (rowGot_orderly (setGather_orderly h))
  · exact h

/-! ## FREQ and the job summary (R416, R417) -/

theorem freqBody_orderly {c : ℕ} {s : State} {w : ℕ} {q : QEnt} (h : Orderly s) : Orderly (freqBody c s w q) := by
  unfold freqBody
  extract_lets i t k
  split
  · rename_i e
    exact (readBags_orderly h).at e
  · rename_i e
    exact invalidField_orderly ((readBags_orderly h).at e)
  · rename_i u e
    have hu : Orderly u := (readBags_orderly h).at e
    extract_lets rows out
    split
    · rename_i e1
      exact orderly_of_fst (engWrite_orderly hu) e1
    · rename_i u1 e1
      have hu1 : Orderly u1 := orderly_of_fst (engWrite_orderly hu) e1
      extract_lets u2
      have hu2 : Orderly u2 := orderly_ite (modCore_orderly hu1) hu1
      exact count_orderly hu2

theorem execFreq_keeps {core : CoreId} {s : State} : Keeps s (execFreq core s) := by
  unfold execFreq
  exact keeps_next fun h => engineRow_orderly h (fun _ _ _ => freqBody_orderly)

end Sys2Proof.Machine
end

section
/-! PROOFS. Chains, rings, admission, firmware and freeze keep memory in its canonical form. -/
namespace Sys2Proof.Machine

/-! ## Registers that the dispatcher writes -/

theorem writeTables_orderly {s : State} {c tcid : ℕ} {d : ImageDesc} {x : SectionDesc} (h : Orderly s) :
    Orderly (writeTables s c tcid d x) := by
  unfold writeTables
  refine orderly_foldl (fun u x1 hu => ?_) h
  extract_lets rep b
  split
  · exact modCore_orderly hu

theorem writeTablesOf_orderly {s : State} {w c : ℕ} (h : Orderly s) : Orderly (writeTablesOf s w c) := by
  unfold writeTablesOf
  split
  · split
    · exact writeTables_orderly h
    · exact h
  · exact h

theorem occupy_orderly {s : State} {c : ℕ} {tcids : List ℕ} (h : Orderly s) : Orderly (occupy s c tcids) := by
  unfold occupy
  exact modCore_orderly h

theorem writeCore_orderly {s : State} {c : ℕ} {tcids : List ℕ} {maps : Tab ℕ × Tab ℕ} {cb smap : Tab ℕ} {w : ℕ} (h : Orderly s) :
    Orderly (writeCore s c tcids maps cb smap w) := by
  unfold writeCore
  extract_lets u u1
  have hu : Orderly u := occupy_orderly h
  have hu1 : Orderly u1 := modCore_orderly hu
  exact writeTablesOf_orderly hu1

/-! ## The ring commands -/

theorem setRing_orderly {s : State} {r : ℕ} {g : Ring} (h : Orderly s) : Orderly (setRing s r g) := by
  unfold setRing
  exact orderly_update h.wf

theorem execRingConfigure_keeps {slot : SlotId} {s : State} : Keeps s (execRingConfigure slot s) := by
  unfold execRingConfigure
  refine keeps_next fun h => runCmd_orderly (fun x u hu => ?_) h
  extract_lets p n dl u1
  have hu1 : Orderly u1 := setRing_orderly hu
  exact cmdOut_guard (cmdOut_guard (ledgerCmd_orderly hu1))

theorem execRingDestroy_keeps {slot : SlotId} {s : State} : Keeps s (execRingDestroy slot s) := by
  unfold execRingDestroy
  refine keeps_next fun h => runCmd_orderly (fun x u hu => ?_) h
  extract_lets n g jobs resp u1 u2 u3
  have hu1 : Orderly u1 := abortClaim_orderly hu
  have hu2 : Orderly u2 := setRing_orderly hu1
  have hu3 : Orderly u3 := quenchWhere_orderly hu2
  refine cmdOut_guard (cmdOut_guard ?_)
  split
  · exact ledgerCmd_orderly (setRing_orderly hu1)
  · exact ledgerCmd_orderly hu3

theorem execRingQuery_keeps {slot : SlotId} {s : State} : Keeps s (execRingQuery slot s) := by
  unfold execRingQuery
  refine keeps_next fun h => runCmd_orderly (fun x u hu => ?_) h
  extract_lets n g
  exact hu

theorem execRingRestart_keeps {slot : SlotId} {s : State} : Keeps s (execRingRestart slot s) := by
  unfold execRingRestart
  refine keeps_next fun h => runCmd_orderly (fun x u hu => ?_) h
  extract_lets n g
  exact cmdOut_guard (ledgerCmd_orderly (setRing_orderly hu))

/-! ## HEAD, refusals, epochs -/

theorem advanceHead_orderly {s : State} {r : ℕ} (h : Orderly s) : Orderly (advanceHead s r) := by
  unfold advanceHead
  extract_lets g h1
  exact setRing_orderly h

theorem holdCopy_orderly {s : State} {r : ℕ} (h : Orderly s) : Orderly (holdCopy s r) := by
  unfold holdCopy
  exact setRing_orderly h

theorem refuseCopy_orderly {s : State} {r : ℕ} {d : Desc} {status detail : ℕ} (h : Orderly s) :
    Orderly (refuseCopy s r d status detail) := by
  unfold refuseCopy
  extract_lets u g u1
  have hu : Orderly u := abortClaim_orderly h
  have hu1 : Orderly u1 := ctrAdd_orderly (postCompl_orderly (reserve_orderly hu))
  exact advanceHead_orderly (pageAdd_orderly hu1)

theorem supersede_orderly {s : State} {r : ℕ} {e : BitVec 16} (h : Orderly s) : Orderly (supersede s r e) := by
  unfold supersede
  extract_lets _ u js _ u1
  have hu : Orderly u := setRing_orderly h
  have hu1 : Orderly u1 := orderly_update hu.wf
  exact orderly_foldl (fun _ _ => quenchJob_orderly) hu1

/-! ## Assignment (check 15) -/

theorem candQuota_orderly {s : State} {lead : Bool} {m : Cand} {chain : Tab ℕ} {workOf : ℕ → List ℕ} (h : Orderly s) :
    Quota.Orderly (candQuota s lead m chain workOf) := by
  unfold candQuota
  extract_lets t w banks given keep
  exact quotaCheck_orderly h

theorem groupQuota_orderly {chain : Tab ℕ} {workOf : ℕ → List ℕ} {a : Bool} {l : List Cand} {s : State} (h : Orderly s) :
    Quota.Orderly (groupQuota chain workOf a l s) := by
  induction l generalizing a s with
  | nil =>
    unfold groupQuota
    exact h
  | cons x xs ih =>
    unfold groupQuota
    split
    · rename_i e
      exact ih ((candQuota_orderly h).at e)
    · exact candQuota_orderly h

theorem takeBanks_orderly {t order : ℕ} {ms : List Cand} {workOf : ℕ → List ℕ} {a : Tab ℕ} {s : State} (h : Orderly s) :
    OptOrderly (takeBanks t order ms workOf a s) := by
  induction a generalizing s with
  | nil =>
    unfold takeBanks
    exact optOrderly_some h
  | cons x xs ih =>
    unfold takeBanks
    extract_lets xs1
    split
    · exact optOrderly_none
    · rename_i u _ e
      have hu : Orderly u := (makeRoom_orderly h) _ _ e
      extract_lets need
      exact ih (addCopies_orderly (tagWork_orderly hu))

/-- A chain of cores found free is placed in a state that is orderly again. -/
theorem assignFree_orderly {s : State} {ms : List Cand} {order : ℕ} {a : Asg} (h : Orderly s) (e : assignFree s ms order = some a)
    : a.Orderly := by
  unfold assignFree at e
  split at e
  · cases e
  · extract_lets im extra at e
    split at e
    · cases e
      split
      · exact trivial
      · rename_i hq
        exact (groupQuota_orderly h).at hq
      · rename_i u hq
        have hu : Orderly u := (groupQuota_orderly h).at hq
        split
        · exact h
        · rename_i v hb
          have hv : Orderly v := takeBanks_orderly hu _ hb
          extract_lets os
          split
          · exact h
          · rename_i w hc
            have hw : Orderly w := addTaCopies_orderly hv _ hc
            split
            · exact hw
            · exact h
    · cases e

theorem assign_orderly {s : State} {ms : List Cand} {order : ℕ} (h : Orderly s) : Asg.Orderly (assign s ms order) := by
  unfold assign
  split
  · rename_i e
    exact assignFree_orderly h e
  · split
    · split <;> exact h
    · exact h

/-! ## Admission -/

theorem leaveDoze_orderly {s : State} (h : Orderly s) : Orderly (leaveDoze s) := by
  unfold leaveDoze
  exact orderly_ite (traceTray_orderly h) h

theorem admitOne_orderly {s : State} {m : Cand} {slot : ℕ} {chain : Tab ℕ} {tag : ℕ} {group mates : List ℕ} {parts : List OPart}
    (h : Orderly s) : Orderly (admitOne s m slot chain tag group mates parts) := by
  unfold admitOne
  extract_lets j _ _ u _ u1
  have hu : Orderly u := orderly_update h.wf
  have hu1 : Orderly u1 := setRing_orderly hu
  exact advanceHead_orderly (ctrAdd_orderly (reserve_orderly (touch_orderly hu1)))

theorem setUp_orderly {s : State} {ms : List Cand} {slots : List ℕ} {chain : Tab ℕ} {parts : List OPart} (h : Orderly s) :
    Orderly (setUp s ms slots chain parts) := by
  unfold setUp
  split
  · extract_lets im maps tcids rows u u1
    have hu : Orderly u := by
      unfold u
      refine orderly_foldl (fun u2 x hu2 => ?_) h
      split
      · exact ensureCopies_orderly hu2
      · exact hu2
    have hu1 : Orderly u1 := orderly_foldl (fun _ _ => writeCore_orderly) hu
    exact orderly_foldl (fun _ _ => kick_orderly) hu1
  · exact h

theorem admitAll_orderly {s : State} {ms : List Cand} {chain : Tab ℕ} {tag : ℕ} {slot0 : Option ℕ} {parts : List OPart}
    (h : Orderly s) : Orderly (admitAll s ms chain tag slot0 parts) := by
  unfold admitAll
  extract_lets u slots group mates u1
  have hu : Orderly u := leaveDoze_orderly h
  have hu1 : Orderly u1 := by
    unfold u1
    refine orderly_foldl (fun u2 x hu2 => ?_) hu
    split
    · exact admitOne_orderly hu2
    · exact hu2
  exact setUp_orderly hu1

/-! ## Claims of remote parts (R524) -/

theorem sendClaims_orderly {s : State} {m : Cand} {chain : Tab ℕ} {tag : ℕ} (h : Orderly s) :
    Orderly (sendClaims s m chain tag) := by
  unfold sendClaims
  extract_lets slot gen ps _ u
  have hu : Orderly u := setRing_orderly h
  exact orderly_foldl (fun _ _ => sendTxn_orderly) hu

theorem concludeClaim_orderly {s : State} {m : Cand} {c : Claim} (h : Orderly s) : Orderly (concludeClaim s m c) := by
  unfold concludeClaim
  split
  · exact holdCopy_orderly h
  · split
    · exact refuseCopy_orderly h
    · exact orderly_ite (holdCopy_orderly (abortClaim_orderly h)) (admitAll_orderly h)

theorem check15_orderly {s : State} {m : Cand} {partners : List ℕ} (h : Orderly s) : Orderly (check15 s m partners) := by
  unfold check15
  split
  · exact concludeClaim_orderly h
  · extract_lets ms solo
    have hsolo : ∀ v, Orderly v → Orderly (solo v) := by
      intro v hv
      unfold solo
      split
      · exact refuseCopy_orderly hv
      · rename_i e
        exact holdCopy_orderly ((assign_orderly hv).at e)
      · rename_i u _ _ _ e
        have hu : Orderly u := (assign_orderly hv).at e
        exact orderly_ite (admitAll_orderly hu) (sendClaims_orderly (orderly_ite hv hu))
    split
    · exact hsolo _ h
    · split
      · rename_i e
        exact admitAll_orderly ((assign_orderly h).at e)
      · exact hsolo _ h

/-! ## The firmware commands -/

theorem execFwStageBegin_keeps {slot : SlotId} {s : State} : Keeps s (execFwStageBegin slot s) := by
  unfold execFwStageBegin
  exact keeps_next fun h => runCmd_orderly (fun _ _ hu => orderly_update hu.wf) h

theorem execFwStageData_keeps {slot : SlotId} {buf : HostRead} {s : State} : Keeps s (execFwStageData slot buf s) := by
  unfold execFwStageData
  refine keeps_next fun h => runCmd_orderly (fun x u hu => ?_) h
  extract_lets off len
  split
  · exact trivial
  · refine cmdOut_guard ?_
    split
    · exact trivial
    · extract_lets u1
      have hu1 : Orderly u1 := orderly_update hu.wf
      split <;> exact hu1

theorem execFwStageEnd_keeps {slot : SlotId} {s : State} : Keeps s (execFwStageEnd slot s) := by
  unfold execFwStageEnd
  refine keeps_next fun h => runCmd_orderly (fun x u hu => ?_) h
  split
  · exact trivial
  · refine cmdOut_guard ?_
    extract_lets b sl u1 _ _ u2
    have hu1 : Orderly u1 := keepSlot_orderly hu
    have hu2 : Orderly u2 := orderly_update hu1.wf
    split
    · exact trivial
    · exact trivial
    · exact ledgerCmd_orderly hu2

theorem execFwActivate_keeps {slot : SlotId} {s : State} : Keeps s (execFwActivate slot s) := by
  unfold execFwActivate
  refine keeps_next fun h => runCmd_orderly (fun x u hu => ?_) h
  split
  · exact trivial
  · split
    · exact hu
    · extract_lets u1
      have hu1 : Orderly u1 := withdraw_orderly (ledgerCmd_orderly hu)
      exact orderly_update hu1.wf

theorem execFwCommit_keeps {slot : SlotId} {s : State} : Keeps s (execFwCommit slot s) := by
  unfold execFwCommit
  refine keeps_next fun h => runCmd_orderly (fun x u hu => cmdOut_guard ?_) h
  extract_lets before after _ u1 u2 u3
  have hu1 : Orderly u1 := orderly_update hu.wf
  have hu2 : Orderly u2 := ledgerCmd_orderly hu1
  exact orderly_ite (ledgerAppend_orderly hu2) hu2

/-! ## The control block of a core at 0xF10_0000_0000 + c × 0x1_0000 -/

theorem ctlLoad_orderly {s : State} {c o size : ℕ} (h : Orderly s) : Orderly (ctlLoad s c o size).2 := by
  unfold ctlLoad
  split
  · exact h
  · extract_lets k x1
    split
    · exact failWorks_orderly h
    · split
      · exact setCore_orderly h

theorem ctlStore_orderly {s : State} {c o : ℕ} {ds : List Byte} (h : Orderly s) : Orderly (ctlStore s c o ds) := by
  unfold ctlStore
  split
  · exact modCore_orderly h
  · split
    · exact modCore_orderly h
    · split
      · split
        · rename_i e
          exact (releaseTok_orderly h) _ e
        · exact failWorks_orderly h
      · exact h

/-! ## The latch -/

theorem freezeLatch_orderly {s : State} {cause : FrzCause} {block : Option FatalBlock} (h : Orderly s) :
    Orderly (freezeLatch s cause block) := by
  unfold freezeLatch
  exact orderly_ite h (orderly_ite (orderly_ite (orderly_update h.wf) h) (orderly_update h.wf))

theorem pinEntry_orderly {s : State} (h : Orderly s) : Orderly (pinEntry s) := by
  unfold pinEntry
  split
  · extract_lets u
    have hu : Orderly u := ledgerAppend_orderly h
    exact orderly_update hu.wf
  · exact h

theorem execPinFreeze_keeps {s : State} : Keeps s (execPinFreeze s) := by
  unfold execPinFreeze
  exact keeps_ite (keeps_next fun h => freezeLatch_orderly (orderly_ite h (pinEntry_orderly h))) (keeps_next id)

theorem fatal_orderly {s : State} {b : FatalBlock} (h : Orderly s) : Orderly (fatal s b) := by
  unfold fatal
  exact freezeLatch_orderly h

theorem execFatalReport_keeps {block : FatalBlock} {s : State} : Keeps s (execFatalReport block s) := by
  unfold execFatalReport
  exact keeps_next fatal_orderly

theorem freezeCmd_orderly {slot : ℕ} {s : State} (h : Orderly s) : Orderly (freezeCmd slot s) := by
  unfold freezeCmd
  exact runCmd_orderly (fun _ _ hu => freezeLatch_orderly (ledgerCmd_orderly hu)) h

theorem execFreeze_keeps {slot : SlotId} {s : State} : Keeps s (execFreeze slot s) := by
  unfold execFreeze
  split
  · extract_lets _ u
    have hu (h1 : Orderly s) : Orderly u := freezeCmd_orderly (orderly_update h1.wf)
    exact keeps_next fun h1 => orderly_ite (hu h1) h1
  · exact keeps_next freezeCmd_orderly

/-! ## The sequence (Table 26-1) -/

theorem skipStopped_orderly {n : ℕ} {s : State} (h : Orderly s) : Orderly (skipStopped n s) := by
  induction n generalizing s with
  | zero =>
    unfold skipStopped
    exact h
  | succ n ih =>
    unfold skipStopped
    split
    · exact orderly_ite h (ih (orderly_update h.wf))
    · exact h

theorem execFreezeSequenceStep_keeps {missed : List ℕ} {s : State} : Keeps s (execFreezeSequenceStep missed s) := by
  unfold execFreezeSequenceStep
  split
  · exact keeps_next id
  · extract_lets u n _ u1
    have hu (h1 : Orderly s) : Orderly u := skipStopped_orderly h1
    have hu1 (h1 : Orderly s) : Orderly u1 := orderly_update (hu h1).wf
    split
    · exact keeps_next hu
    · split
      · exact keeps_next hu
      · exact keeps_next fun h1 => orderly_ite (orderly_update (hu1 h1).wf) (orderly_ite (orderly_update (hu1 h1).wf) (hu1 h1))

/-! ## The image (R612 to R615) -/

theorem execSroRestart_keeps {s : State} : Keeps s (execSroRestart s) := by
  unfold execSroRestart
  exact keeps_ite (keeps_next fun h => orderly_update h.wf) (keeps_next id)

theorem execSroClkRisingEdge_keeps {s : State} : Keeps s (execSroClkRisingEdge s) := by
  unfold execSroClkRisingEdge
  extract_lets p
  split
  · exact keeps_next fun h1 => orderly_update h1.wf
  · exact keeps_ite (keeps_next fun h1 => orderly_update h1.wf) (keeps_next fun h1 => orderly_update h1.wf)

end Sys2Proof.Machine
end

section
/-! PROOFS. The dispatcher's events, fabric links, routes and hot rows keep memory in its canonical form. -/
namespace Sys2Proof.Machine

/-! ## Descriptor reads and admission -/

theorem execDescriptorRead_keeps {ring_ : RingId} {result : DescRead} {s : State} :
    Keeps s (execDescriptorRead ring_ result s) := by
  unfold execDescriptorRead
  extract_lets r g
  split
  · exact keeps_next id
  · split
    · exact keeps_next setRing_orderly
    · extract_lets e u
      have hu (h1 : Orderly s) : Orderly u := orderly_ite (aerAdvisory_orderly h1) (aerReport_orderly h1)
      split
      · exact keeps_next fun h1 => setRing_orderly (hu h1)
      · exact keeps_next fun h1 => postReadFault_orderly (setRing_orderly (hu h1))

theorem stopStream_orderly {s : State} {r j : ℕ} {d : Desc} (h : Orderly s) : Orderly (stopStream s r j d) := by
  unfold stopStream
  extract_lets g
  split
  · exact h
  · split
    · exact h
    · extract_lets st1
      exact endStream_orderly (advanceHead_orderly (reserve_orderly (setJob_orderly h)))

theorem afterFields_orderly {s : State} {r : ℕ} {d : Desc} {partners : List ℕ} (h : Orderly s) :
    Orderly (afterFields s r d partners) := by
  unfold afterFields
  extract_lets g u
  have hu : Orderly u := orderly_ite h (supersede_orderly h)
  split
  · exact refuseCopy_orderly h
  · split
    · exact refuseCopy_orderly hu
    · split
      · split
        · exact stopStream_orderly hu
        · exact refuseCopy_orderly hu
      · split
        · exact refuseCopy_orderly hu
        · exact holdCopy_orderly hu
        · split
          · exact check15_orderly hu
          · exact refuseCopy_orderly hu

theorem execAdmissionCheck_keeps {ring_ : RingId} {partners : List RingId} {s : State} :
    Keeps s (execAdmissionCheck ring_ partners s) := by
  unfold execAdmissionCheck
  extract_lets r g _ u
  have hu (h : Orderly s) : Orderly u := orderly_update h.wf
  split
  · exact keeps_next id
  · split
    · exact keeps_next id
    · split
      · exact keeps_next fun h1 => holdCopy_orderly (hu h1)
      · split
        · exact keeps_next fun h1 => afterFields_orderly (hu h1)
        · exact keeps_next fun h1 => refuseCopy_orderly (hu h1)

/-! ## Waits (R458) -/

theorem markWait_orderly {s : State} {j i : ℕ} (h : Orderly s) : Orderly (markWait s j i) := by
  unfold markWait
  split
  · exact h
  · exact setJob_orderly h

/-! ## Zero-fill (R47 to R49, R251) -/

theorem execZeroFillDone_keeps {core_ : CoreId} {s : State} : Keeps s (execZeroFillDone core_ s) := by
  unfold execZeroFillDone
  extract_lets c bs u js u1
  have hu (h : Orderly s) : Orderly u := orderly_foldl (fun _ _ => memZero_orderly) h
  have hu1 (h : Orderly s) : Orderly u1 := kick_orderly (modCore_orderly (hu h))
  split
  · exact keeps_next id
  · exact keeps_next fun h1 => orderly_foldl (fun _ _ => markWait_orderly) (stall_orderly (hu1 h1))

/-! ## Staging (R475, R555) -/

theorem bulkRead_orderly {s : State} {a n : ℕ} {find : EccFind} {w : Option ℕ} (h : Orderly s) :
    Orderly (bulkRead s a n find w).1 := by
  unfold bulkRead
  exact eccSweep_orderly (eccLay_orderly h)

theorem fillSlice_orderly {s : State} {base : ℕ} {y : SpCopy} (h : Orderly s) : Orderly (fillSlice s base y) := by
  unfold fillSlice
  extract_lets u
  have hu : Orderly u := flushGb_orderly h
  exact ctrAdd_orderly (memCopy_orderly hu)

theorem fill31_orderly {s : State} {img c : ℕ} (h : Orderly s) : Orderly (fill31 s img c) := by
  unfold fill31
  extract_lets want k have_ new fresh l lo u
  have hu : Orderly u := cure_orderly h
  exact ctrAdd_orderly (modCore_orderly hu)

theorem performOrder_orderly {s : State} {o : StgOrder} {src size : ℕ} {ta : Option ℕ} (h : Orderly s) :
    Orderly (performOrder s o src size ta) := by
  unfold performOrder
  extract_lets u base todo u1 u2 _ u3
  have hu : Orderly u := by
    unfold u
    split
    · extract_lets u4 rs
      have hu4 : Orderly u4 := ctrAdd_orderly (memCopy_orderly h)
      exact orderly_update hu4.wf
    · exact h
  have hu1 : Orderly u1 := pinCores_orderly hu
  have hu2 : Orderly u2 := orderly_foldl (fun _ _ => fillSlice_orderly) hu1
  have hu3 : Orderly u3 := orderly_update hu2.wf
  split
  · exact hu3
  · split
    · exact orderly_foldl (fun _ _ => fill31_orderly) hu3
    · exact hu3

theorem execStagingDone_keeps {order : ℕ} {find : EccFind} {s : State} : Keeps s (execStagingDone order find s) := by
  unfold execStagingDone
  extract_lets u
  have hu (h : Orderly s) : Orderly u := h
  split
  · exact keeps_next id
  · split
    · exact keeps_next id
    · split
      · exact keeps_next fun h1 => orderly_update h1.wf
      · split
        · rename_i u1 e
          have hu1 (h1 : Orderly s) : Orderly u1 := orderly_of_fst (bulkRead_orderly h1) e
          extract_lets u2
          have hu2 (h1 : Orderly s) : Orderly u2 := failWorks_orderly (hu1 h1)
          exact keeps_next fun h1 => orderly_update (hu2 h1).wf
        · rename_i u1 e
          have hu1 (h1 : Orderly s) : Orderly u1 := orderly_of_fst (bulkRead_orderly h1) e
          extract_lets u2 _ u3 u4
          have hu2 (h1 : Orderly s) : Orderly u2 := performOrder_orderly (hu1 h1)
          have hu3 (h1 : Orderly s) : Orderly u3 := orderly_update (hu2 h1).wf
          have hu4 (h1 : Orderly s) : Orderly u4 := orderly_foldl (fun _ _ => markWait_orderly) (hu3 h1)
          exact keeps_next fun h1 => waitHold_orderly (hu h1) (orderly_foldl (fun _ _ => kick_orderly) (hu4 h1))

/-! ## Section loads (R434, R442, R443) -/

theorem loadSection_orderly {s : State} {c w : ℕ} {id : ℕ × ℕ} {x : SectionDesc} (h : Orderly s) :
    Orderly (loadSection s c w id x) := by
  unfold loadSection
  extract_lets slices _ u u1 u2 cycles u3 u4 u5
  have hu : Orderly u := dropTotals_orderly (dropCredsOf_orderly (orderly_update h.wf))
  have hu1 : Orderly u1 := modCore_orderly hu
  have hu2 : Orderly u2 := memWrite_orderly (flushGb_orderly hu1)
  have hu3 : Orderly u3 := stall_orderly hu2
  have hu4 : Orderly u4 := traceCore_orderly hu3
  have hu5 : Orderly u5 := by
    unfold u5
    refine orderly_foldl (fun u6 x1 hu6 => ?_) hu4
    extract_lets z
    exact orderly_ite hu6 (grantCredits_orderly hu6)
  exact startWork_orderly hu5

theorem execConfigLoad_keeps {core_ : CoreId} {find : EccFind} {s : State} : Keeps s (execConfigLoad core_ find s) := by
  unfold execConfigLoad
  extract_lets c k
  split
  · exact keeps_next id
  · split
    · exact keeps_next id
    · split
      · exact keeps_next id
      · split
        · exact keeps_next orderStaging_orderly
        · split
          · rename_i u e
            have hu (h1 : Orderly s) : Orderly u := orderly_of_fst (bulkRead_orderly h1) e
            exact keeps_next hu
          · rename_i u e
            have hu (h1 : Orderly s) : Orderly u := orderly_of_fst (bulkRead_orderly h1) e
            split
            · exact keeps_next hu
            · extract_lets u1 u2
              have hu1 (h1 : Orderly s) : Orderly u1 := modCore_orderly (hu h1)
              have hu2 (h1 : Orderly s) : Orderly u2 := loadSection_orderly (hu1 h1)
              exact keeps_next fun h1 => orderly_foldl (fun _ _ hu3 => orderly_ite hu3 (markWait_orderly hu3)) (hu2 h1)

/-! ## Deadlines and quenches (R213 to R216) -/

theorem execDeadlineExpiry_keeps {job : JobId} {s : State} : Keeps s (execDeadlineExpiry job s) := by
  unfold execDeadlineExpiry
  extract_lets j
  split
  · exact keeps_next id
  · split
    · exact keeps_next id
    · split
      · exact keeps_ite (keeps_next quenchJob_orderly) (keeps_next id)
      · exact keeps_next id
      · exact keeps_ite (keeps_next quenchJob_orderly) (keeps_next id)

theorem partQuenched_orderly {s : State} {w : ℕ} (h : Orderly s) : Orderly (partQuenched s w) := by
  unfold partQuenched
  split
  · exact h
  · split
    · split
      · exact h
      · extract_lets _ u u1
        have hu : Orderly u := orderly_update h.wf
        have hu1 : Orderly u1 := recordDup_orderly hu
        exact orderly_foldl (fun _ _ => kick_orderly) (advanceRepairs_orderly (dropPoisoned_orderly (sendResponse_orderly hu1)))
    · exact h

/-! ## Completions, frames and rounds -/

theorem execCompletionPost_keeps {job : JobId} {s : State} : Keeps s (execCompletionPost job s) := by
  unfold execCompletionPost
  extract_lets j
  split
  · exact keeps_next id
  · split
    · exact keeps_next id
    · split
      · exact keeps_next fun h1 => releaseJob_orderly (pageJob_orderly (postCompl_orderly h1))
      · extract_lets u st1 u1
        have hu (h1 : Orderly s) : Orderly u := pageJob_orderly (postCompl_orderly h1)
        have hu1 (h1 : Orderly s) : Orderly u1 := setJob_orderly (hu h1)
        split
        · exact keeps_next fun h1 => finishStream_orderly (hu1 h1)
        · split
          · exact keeps_next fun h1 => finishStream_orderly (skipWaiting_orderly (hu1 h1))
          · split
            · exact keeps_next fun h1 => startFrame_orderly (setJob_orderly (hu1 h1))
            · exact keeps_next fun h1 => orderly_foldl (fun _ _ => kick_orderly) (hu1 h1)

theorem releaseFrame_orderly {s : State} {j k rel : ℕ} {x : Job} {st : Stream} (h : Orderly s) :
    Orderly (releaseFrame s j k rel x st) := by
  unfold releaseFrame
  split
  · exact startFrame_orderly h
  · split
    · extract_lets u
      have hu : Orderly u := skipWaiting_orderly h
      split
      · split
        · exact setJob_orderly hu
        · exact hu
      · exact hu
    · exact setJob_orderly (postCompl_orderly h)

theorem execFrameRelease_keeps {job : JobId} {s : State} : Keeps s (execFrameRelease job s) := by
  unfold execFrameRelease
  extract_lets j
  split
  · exact keeps_next id
  · split
    · exact keeps_next id
    · extract_lets k rel whole st1 x1
      split
      · exact keeps_next id
      · split
        · exact keeps_next setJob_orderly
        · exact keeps_next fun h1 => releaseFrame_orderly (setJob_orderly (reserve_orderly h1))

theorem execRoundAdvance_keeps {job : JobId} {s : State} : Keeps s (execRoundAdvance job s) := by
  unfold execRoundAdvance
  extract_lets j u
  have hu (h : Orderly s) : Orderly u := nextRound_orderly h
  split
  · exact keeps_next id
  · exact keeps_ite (keeps_next id) (keeps_next fun h => orderly_foldl (fun _ _ => writeTablesOf_orderly) (hu h))

/-! ## Modules and training -/

theorem execModuleInsert_keeps {port_ : PortId} {fourLanes withinPower optics : Bool} {s : State} :
    Keeps s (execModuleInsert port_ fourLanes withinPower optics s) := by
  unfold execModuleInsert
  extract_lets p
  exact keeps_ite (keeps_next id) (keeps_next fun h => startTraining_orderly (modPort_orderly h))

theorem execModuleRemove_keeps {port_ : PortId} {s : State} : Keeps s (execModuleRemove port_ s) := by
  unfold execModuleRemove
  extract_lets p u
  have hu (h : Orderly s) : Orderly u := orderly_ite (portDown_orderly h) h
  exact keeps_next fun h => modPort_orderly (hu h)

theorem sendLctl_orderly {s : State} {p : ℕ} {nak : Bool} (h : Orderly s) : Orderly (sendLctl s p nak) := by
  unfold sendLctl
  extract_lets x
  exact fabSend_orderly (setPort_orderly h)

theorem startLink_orderly {s : State} {p : ℕ} (h : Orderly s) : Orderly (startLink s p) := by
  unfold startLink
  exact sendLctl_orderly (modPort_orderly h)

theorem portUp_orderly {s : State} {p : ℕ} (h : Orderly s) : Orderly (portUp s p) := by
  unfold portUp
  extract_lets u u1 u2
  have hu : Orderly u := modPort_orderly h
  have hu1 : Orderly u1 := linkChange_orderly hu
  have hu2 : Orderly u2 := orderly_foldl (fun _ _ => sendLsr_orderly) hu1
  exact claimAddr_orderly (originateNow_orderly hu2)

theorem execTrainingStep_keeps {port_ : PortId} {s : State} : Keeps s (execTrainingStep port_ s) := by
  unfold execTrainingStep
  extract_lets p
  split
  · exact keeps_next id
  · split
    · split
      · exact keeps_next modPort_orderly
      · split
        · exact keeps_next modPort_orderly
        · split
          · exact keeps_next fun h1 => startLink_orderly (modPort_orderly h1)
          · exact keeps_ite (keeps_next portUp_orderly) (keeps_next id)
    · exact keeps_next id

theorem execTrainingTimeout_keeps {port_ : PortId} {s : State} : Keeps s (execTrainingTimeout port_ s) := by
  unfold execTrainingTimeout
  extract_lets p
  split
  · exact keeps_ite (keeps_next fun h => ctrAdd_orderly (portDown_orderly h)) (keeps_next id)
  · exact keeps_next id

theorem execTrainingRetry_keeps {port_ : PortId} {s : State} : Keeps s (execTrainingRetry port_ s) := by
  unfold execTrainingRetry
  extract_lets p x u
  have hu (h : Orderly s) : Orderly u := setPort_orderly h
  split
  · exact keeps_ite (keeps_next fun h1 => startTraining_orderly (ctrAdd_orderly (hu h1))) (keeps_next hu)
  · exact keeps_next id

theorem execFecLockLoss_keeps {port_ : PortId} {s : State} : Keeps s (execFecLockLoss port_ s) := by
  unfold execFecLockLoss
  exact keeps_ite (keeps_next portDown_orderly) (keeps_next id)

/-! ## The link layer -/

theorem rxFrame_orderly {s : State} {p : ℕ} {f : RxFrame} (h : Orderly s) : Orderly (rxFrame s p f) := by
  unfold rxFrame
  split
  · exact ctrAdd_orderly h
  · extract_lets x want u
    have hu : Orderly u := setPort_orderly h
    exact orderly_ite (orderly_ite (sendLctl_orderly hu) hu) (orderly_ite h (sendLctl_orderly (setPort_orderly h)))

theorem rxCodeword_orderly {s : State} {p : ℕ} {cw : Codeword} (h : Orderly s) : Orderly (rxCodeword s p cw) := by
  unfold rxCodeword
  extract_lets r
  exact orderly_foldl (fun _ _ => rxFrame_orderly) (modPort_orderly h)

theorem execCodewordReceive_keeps {port_ : PortId} {find : EccFind} {cw : Codeword} {s : State} :
    Keeps s (execCodewordReceive port_ find cw s) := by
  unfold execCodewordReceive
  extract_lets p
  split
  · exact keeps_next id
  · split
    · exact keeps_next fun h1 => modPort_orderly (ctrAdd_orderly h1)
    · exact keeps_next fun h1 => rxCodeword_orderly (ctrAdd_orderly h1)
    · exact keeps_next rxCodeword_orderly

theorem resend_orderly {s : State} {p : ℕ} (h : Orderly s) : Orderly (resend s p) := by
  unfold resend
  extract_lets x start u
  have hu : Orderly u := ctrAdd_orderly (setPort_orderly h)
  exact orderly_ite h (orderly_ite (portDown_orderly hu) (fabSend_orderly hu))

theorem execLctl_keeps {port_ : PortId} {nak : Bool} {ackSeq crReq crRsp crMgt : BitVec 16} {s : State} :
    Keeps s (execLctl port_ nak ackSeq crReq crRsp crMgt s) := by
  unfold execLctl
  extract_lets p x rest x1 u u1
  have hu (h : Orderly s) : Orderly u := setPort_orderly h
  have hu1 (h : Orderly s) : Orderly u1 := orderly_ite (resend_orderly (hu h)) (hu h)
  exact keeps_ite (keeps_next id) (keeps_next fun h => modPort_orderly (hu1 h))

theorem execLctlTimer_keeps {port_ : PortId} {s : State} : Keeps s (execLctlTimer port_ s) := by
  unfold execLctlTimer
  exact keeps_ite (keeps_next sendLctl_orderly) (keeps_next id)

theorem execReplayTimeout_keeps {port_ : PortId} {s : State} : Keeps s (execReplayTimeout port_ s) := by
  unfold execReplayTimeout
  exact keeps_ite (keeps_next resend_orderly) (keeps_next id)

theorem execAgeDrop_keeps {port_ : PortId} {s : State} : Keeps s (execAgeDrop port_ s) := by
  unfold execAgeDrop
  extract_lets p x
  split
  · exact keeps_next id
  · split
    · exact keeps_next fun h1 => ctrAdd_orderly (setPort_orderly h1)
    · exact keeps_next id

/-! ## HELLO -/

theorem execHello_keeps {port_ : PortId} {uid heardUid : ℕ} {node : BitVec 12} {nport : PortId} {tentative : Bool} {s : State} :
    Keeps s (execHello port_ uid heardUid node nport tentative s) := by
  unfold execHello
  extract_lets p x two u
  have hu (h : Orderly s) : Orderly u := setPort_orderly h
  split
  · exact keeps_next id
  · split
    · exact keeps_next portDown_orderly
    · exact keeps_next fun h1 => orderly_ite (sendHello_orderly (hu h1)) (hu h1)

theorem execHelloTimer_keeps {port_ : PortId} {s : State} : Keeps s (execHelloTimer port_ s) := by
  unfold execHelloTimer
  exact keeps_ite (keeps_next sendHello_orderly) (keeps_next id)

/-! ## Link-state records -/

theorem storeLsr_orderly {s : State} {p : ℕ} {r : LsrRec} (h : Orderly s) : Orderly (storeLsr s p r) := by
  unfold storeLsr
  extract_lets old lostLink _ u u1 u2 u3
  have hu : Orderly u := orderly_update h.wf
  have hu1 : Orderly u1 := floodLsr_orderly hu
  have hu2 : Orderly u2 := by
    unfold u2
    split
    · exact orderly_ite (revertRoutes_orderly hu1) (orderly_ite (revertRoutes_orderly hu1) hu1)
    · exact hu1
  have hu3 : Orderly u3 := checkReach_orderly hu2
  exact orderly_ite (yieldAddr_orderly hu3) hu3

theorem execLsr_keeps {port_ : PortId} {rec : LsrRec} {s : State} : Keeps s (execLsr port_ rec s) := by
  unfold execLsr
  extract_lets p
  split
  · exact keeps_next id
  · split
    · exact keeps_ite (keeps_next fun h1 => originateNow_orderly (orderly_update h1.wf)) (keeps_next id)
    · split
      · exact keeps_ite (keeps_next storeLsr_orderly) (keeps_next id)
      · exact keeps_ite (keeps_next ctrAdd_orderly) (keeps_next storeLsr_orderly)

theorem execLsrRefresh_keeps {s : State} : Keeps s (execLsrRefresh s) := by
  unfold execLsrRefresh
  exact keeps_ite (keeps_next originateNow_orderly) (keeps_next id)

theorem execLsrAgeExpiry_keeps {uid : ℕ} {s : State} : Keeps s (execLsrAgeExpiry uid s) := by
  unfold execLsrAgeExpiry
  split
  · exact keeps_next id
  · extract_lets age
    exact keeps_ite (keeps_next id) (keeps_next fun h => orderly_update h.wf)

theorem execAddrFirm_keeps {s : State} : Keeps s (execAddrFirm s) := by
  unfold execAddrFirm
  exact keeps_ite (keeps_next fun h => originate_orderly (orderly_update h.wf)) (keeps_next id)

/-! ## Routes -/

theorem execRouteCompute_keeps {s : State} : Keeps s (execRouteCompute s) := by
  unfold execRouteCompute
  split
  · exact keeps_ite (keeps_next fun h1 => orderly_update h1.wf) (keeps_next fun h1 => orderly_update h1.wf)
  · exact keeps_next id

theorem quenchLost_orderly {s : State} (h : Orderly s) : Orderly (quenchLost s) := by
  unfold quenchLost
  extract_lets gone hit u jobs
  have hu : Orderly u := quenchWhere_orderly h
  exact orderly_foldl (fun _ _ => quenchDone_orderly) (orderly_update hu.wf)

theorem afterInstall_orderly {s : State} (h : Orderly s) : Orderly (afterInstall s) := by
  unfold afterInstall
  extract_lets u u1 keep
  have hu : Orderly u := quenchLost_orderly h
  have hu1 : Orderly u1 := orderly_foldl (fun _ _ => freePart_orderly) hu
  exact orderly_update hu1.wf

theorem installTables_orderly {s : State} {t : Tab (Tab ℕ)} (h : Orderly s) : Orderly (installTables s t) := by
  unfold installTables
  extract_lets _ _ u n
  have hu : Orderly u := orderly_update h.wf
  exact afterInstall_orderly (raiseEvent_orderly hu)

theorem execRoutesInstalled_keeps {s : State} : Keeps s (execRoutesInstalled s) := by
  unfold execRoutesInstalled
  exact keeps_ite (keeps_next fun h => installTables_orderly (orderly_update h.wf)) (keeps_next id)

theorem execTxnForward_keeps {port_ : PortId} {frame : FwdFrame} {s : State} : Keeps s (execTxnForward port_ frame s) := by
  unfold execTxnForward
  extract_lets p e o
  split
  · exact keeps_next id
  · split
    · exact keeps_next ctrAdd_orderly
    · exact keeps_ite (keeps_next fun h1 => enqueue_orderly (fabSend_orderly h1)) (keeps_next ctrAdd_orderly)

/-! ## FABRIC_QUERY -/

theorem execFabricQuery_keeps {slot : SlotId} {s : State} : Keeps s (execFabricQuery slot s) := by
  unfold execFabricQuery
  exact keeps_next fun h => runCmd_orderly (fun _ _ hu => hu) h

/-! ## Host routes (R514, R515) -/

theorem execRoutesLoad_keeps {slot : SlotId} {buf : HostRead} {s : State} : Keeps s (execRoutesLoad slot buf s) := by
  unfold execRoutesLoad
  refine keeps_next fun h => runCmd_orderly (fun x u hu => ?_) h
  extract_lets len
  split
  · exact trivial
  · refine cmdOut_guard ?_
    split
    · exact trivial
    · split
      · exact trivial
      · refine cmdOut_guard ?_
        extract_lets u1
        have hu1 : Orderly u1 := orderly_update hu.wf
        exact ledgerCmd_orderly (installTables_orderly hu1)

theorem execRoutesAuto_keeps {slot : SlotId} {s : State} : Keeps s (execRoutesAuto slot s) := by
  unfold execRoutesAuto
  refine keeps_next fun h => runCmd_orderly (fun x u hu => ?_) h
  extract_lets _ u1
  have hu1 : Orderly u1 := orderly_update hu.wf
  exact ledgerCmd_orderly hu1

/-! ## Hot rows (R419 to R422) -/

theorem execHotrowPolicy_keeps {slot : SlotId} {s : State} : Keeps s (execHotrowPolicy slot s) := by
  unfold execHotrowPolicy
  refine keeps_next fun h => runCmd_orderly (fun x u hu => ?_) h
  extract_lets t mode ts rows
  exact cmdOut_guard (cmdOut_guard (ledgerCmd_orderly (orderly_update hu.wf)))

theorem openReplica_orderly {s : State} {t : ℕ} {h : HotTable} (hs : Orderly s) : OptSndOrderly (openReplica s t h) := by
  unfold openReplica
  split
  · exact optSndOrderly_some hs
  · extract_lets x lg size
    split
    · exact optSndOrderly_none
    · split
      · exact optSndOrderly_none
      · rename_i e
        exact optSndOrderly_some ((alloc_orderly hs) _ _ e)

theorem insertHot_orderly {s : State} {t : ℕ} {h : HotTable} {row : ℕ} {bs : List Byte} (hs : Orderly s) :
    OptOrderly (insertHot s t h row bs) := by
  unfold insertHot
  split
  · exact optOrderly_none
  · split
    · exact optOrderly_none
    · rename_i u e
      have hu : Orderly u := (openReplica_orderly hs) _ _ e
      extract_lets cap slot at_ u1
      have hu1 : Orderly u1 := memWrite_orderly hu
      split
      · exact optOrderly_none
      · split
        · exact optOrderly_none
        · extract_lets u2
          have hu2 : Orderly u2 := memWrite_orderly hu1
          exact optOrderly_some (orderly_update hu2.wf)

theorem declineRow_orderly {s : State} {t : ℕ} (h : Orderly s) : Orderly (declineRow s t) := by
  unfold declineRow
  exact pageAdd_orderly h

theorem declineInsert_orderly {s : State} {t : ℕ} (h : Orderly s) : Orderly (declineInsert s t) := by
  unfold declineInsert
  exact declineRow_orderly (orderly_ite (ctrAdd_orderly h) h)

theorem spreadRow_orderly {s : State} {t : ℕ} {h : HotTable} {shard row : ℕ} {bs : List Byte} (hs : Orderly s) :
    Orderly (spreadRow s t h shard row bs) := by
  unfold spreadRow
  extract_lets own to_
  exact orderly_foldl (fun _ _ hu => orderly_ite (orderly_getD (insertHot_orderly hu) (declineInsert_orderly hu))
    (sendTxn_orderly hu)) hs

theorem execHotrowSent_keeps {tcid region : ℕ} {rows : List (ℕ × List Byte)} {s : State} :
    Keeps s (execHotrowSent tcid region rows s) := by
  unfold execHotrowSent
  split
  · exact keeps_next id
  · split
    · exact keeps_next id
    · extract_lets mine todo _ u send
      have hu (h1 : Orderly s) : Orderly u := orderly_update h1.wf
      split
      · exact keeps_next hu
      · exact keeps_next fun h1 => ledgerSelf_orderly (orderly_foldl (fun _ _ => spreadRow_orderly) (hu h1))

theorem execReplicaDrop_keeps {tcid region : ℕ} {s : State} : Keeps s (execReplicaDrop tcid region s) := by
  unfold execReplicaDrop
  extract_lets due
  exact keeps_ite (keeps_next id) (keeps_next dropReplicas_orderly)

end Sys2Proof.Machine
end

section
/-! PROOFS. The drain, loads and stores, sequencer instructions and images keep memory in its canonical form. -/
namespace Sys2Proof.Machine

/-! ## Setup reads -/

theorem loadOps_orderly {c w mv nv fn : ℕ} {l : List DrnOp} {s : State} (h : Orderly s) :
    LoadOps.Orderly (loadOps c w mv nv fn l s) := by
  induction l generalizing s with
  | nil =>
    unfold loadOps
    exact h
  | cons x xs ih =>
    unfold loadOps
    extract_lets rest vec tile
    have hrest : ∀ r v1, Orderly v1 → LoadOps.Orderly (rest r v1) := by
      intro r v1 hv1
      unfold rest
      split
      all_goals
        rename_i u e
        have hu : Orderly u := (ih hv1).at e
        exact hu
    have hvec : ∀ n, LoadOps.Orderly (vec n) := by
      intro n
      unfold vec
      split
      · rename_i u e
        have hu : Orderly u := (engRead_orderly h).at e
        exact hrest _ _ hu
      · rename_i u e
        have hu : Orderly u := (engRead_orderly h).at e
        exact hu
    have htile : ∀ t, LoadOps.Orderly (tile t) := by
      intro t
      unfold tile
      split
      · rename_i u e
        have hu : Orderly u := (readTile_orderly h).at e
        exact hrest _ _ hu
      · rename_i u e
        have hu : Orderly u := (readTile_orderly h).at e
        exact hu
    split
    · exact hvec _
    · exact hvec _
    · exact hvec _
    · exact hvec _
    · exact htile _
    · exact htile _
    · exact hvec _
    · exact hrest _ _ h

/-! ## DRAIN -/

theorem rowWrite_orderly {s : State} {c owner win off : ℕ} {bs : List Byte} (h : Orderly s) :
    Orderly (rowWrite s c owner win off bs) := by
  unfold rowWrite
  split
  · exact h
  · split
    · exact lateDrop_orderly h
    · extract_lets a t
      exact engWriteAs_orderly h

theorem tokenBytes_orderly {c pitch : ℕ} {l : List DrnRow} {s : State} (h : Orderly s) : Orderly (tokenBytes c pitch l s).2 := by
  induction l generalizing s with
  | nil => exact h
  | cons r rs ih =>
    unfold tokenBytes
    extract_lets live u here
    have hu : Orderly u := orderly_ite h (lateDrop_orderly h)
    split
    rename_i v e
    have hv : Orderly v := by
      split at e
      · split at e
        cases e
        exact orderly_of_snd (draw_orderly hu) ‹_›
      · cases e
        exact hu
    split
    rename_i e1
    exact orderly_of_snd (ih hv) e1

theorem sendPieces_orderly {s : State} {c w ord node dcore dreg units tag : ℕ} {bs : List Byte} (h : Orderly s) :
    Orderly (sendPieces s c w ord node dcore dreg units tag bs) := by
  unfold sendPieces
  extract_lets n
  exact orderly_foldl (fun _ _ => sendTxn_orderly) h

theorem drainBody_orderly {c : ℕ} {s : State} {w : ℕ} {q : QEnt} (h : Orderly s) : Orderly (drainBody c s w q) := by
  unfold drainBody
  extract_lets k i p pitch units x y cycles u
  have hu : Orderly u := orderly_ite (setCore_orderly h) h
  split
  · exact invalidField_orderly h
  · split
    · split
      · rename_i e
        exact (loadOps_orderly hu).at e
      · rename_i u1 e
        have hu1 : Orderly u1 := (loadOps_orderly hu).at e
        extract_lets rows u2 u3 u4 u5
        have hu2 : Orderly u2 := by
          unfold u2
          split
          · exact orderly_foldl (fun _ _ => rowWrite_orderly) hu1
          · exact hu1
        have hu3 : Orderly u3 := orderly_ite (modCore_orderly hu2) hu2
        have hu4 : Orderly u4 := countCore_orderly hu3
        have hu5 : Orderly u5 := by
          unfold u5
          refine orderly_foldl (fun u6 x1 hu6 => ?_) hu4
          split
          · exact rowWrite_orderly hu6
          · exact hu6
        split
        · exact orderly_ite hu5 (count_orderly (modCore_orderly (rowFlags_orderly hu5)))
        · split
          · exact hu4
          · split
            · rename_i u6 e1
              have hu6 : Orderly u6 := orderly_of_snd (tokenBytes_orderly hu4) e1
              extract_lets k1 dc n u7 u8 _ node key _ u9
              have hu7 : Orderly u7 := setCore_orderly hu6
              have hu8 : Orderly u8 := modCore_orderly hu7
              have hu9 : Orderly u9 := orderly_update hu7.wf
              exact orderly_ite (orderly_update hu8.wf) (sendPieces_orderly hu9)

theorem execDrainWindow_keeps {core : CoreId} {s : State} : Keeps s (execDrainWindow core s) := by
  unfold execDrainWindow
  exact keeps_next fun h => engineRow_orderly h (fun _ _ _ => drainBody_orderly)

theorem execDrainToken_keeps {core : CoreId} {s : State} : Keeps s (execDrainToken core s) := by
  unfold execDrainToken
  exact keeps_next fun h => engineRow_orderly h (fun _ _ _ => drainBody_orderly)

theorem execDrainFabric_keeps {core : CoreId} {s : State} : Keeps s (execDrainFabric core s) := by
  unfold execDrainFabric
  exact keeps_next fun h => engineRow_orderly h (fun _ _ _ => drainBody_orderly)

/-! ## Where an access goes -/

theorem accessFault_orderly {s : State} {ag : ℕ} {ea : Word} {a owner : ℕ} {write window : Bool} (h : Orderly s) :
    Orderly (accessFault s ag ea a owner write window) := by
  unfold accessFault
  extract_lets u
  have hu : Orderly u := by
    unfold u
    split
    · exact latch_orderly h
    · exact h
  exact trapFatal_orderly hu

theorem accessCheck_orderly {s : State} {ag : ℕ} {ea : Word} {size : ℕ} {write memOnly : Bool} (h : Orderly s) :
    InlOrderly (accessCheck s ag ea size write memOnly) := by
  unfold accessCheck
  split
  · exact inlOrderly_inl (trapFatal_orderly h)
  · split
    · extract_lets window
      split
      · exact inlOrderly_inl (accessFault_orderly h)
      · exact inlOrderly_inl (trapFatal_orderly h)
    · split
      · exact inlOrderly_inl (trapFatal_orderly h)
      · exact inlOrderly_inr
    · exact inlOrderly_inr

/-! ## Buffers -/

theorem gbStore_orderly {s : State} {c a : ℕ} {ds : List Byte} (h : Orderly s) : Orderly (gbStore s c a ds) := by
  unfold gbStore
  extract_lets u la work u1 k gb
  have hu : Orderly u := breakRes_orderly h
  have hu1 : Orderly u1 := by
    unfold u1
    split
    · split
      · exact flushLine_orderly hu
      · exact hu
    · exact hu
  exact orderly_ite hu1 (flushWhere_orderly (setCore_orderly hu1))

theorem writeFault_orderly {s : State} {ag : ℕ} {ws : List ℕ} (h : Orderly s) : Orderly (writeFault s ag ws) := by
  unfold writeFault
  split
  · exact partialFault_orderly h
  · split
    · exact h
    · split
      · rename_i u e
        have hu : Orderly u := orderly_of_snd (draw_orderly h) e
        exact orderly_ite (spFault_orderly hu) (tierFault_orderly hu)

theorem cbFlush_orderly {s : State} {ag : ℕ} {l : Line} (h : Orderly s) : Orderly (cbFlush s ag l) := by
  unfold cbFlush
  extract_lets q u
  have hu : Orderly u := setSeq_orderly h
  split
  · exact h
  · split
    · split
      · rename_i u1 _ e
        have hu1 : Orderly u1 := orderly_of_fst (maskWrite_orderly (breakRes_orderly hu)) e
        exact orderly_ite (writeFault_orderly hu1) hu1
    · exact accessFault_orderly hu
    · exact accessFault_orderly hu

theorem cbFlushWhere_orderly {s : State} {ag : ℕ} {p : Line → Bool} (h : Orderly s) : Orderly (cbFlushWhere s ag p) := by
  unfold cbFlushWhere
  exact orderly_foldl (fun _ _ => cbFlush_orderly) h

theorem cbStore_orderly {s : State} {ag a : ℕ} {ds : List Byte} (h : Orderly s) : Orderly (cbStore s ag a ds) := by
  unfold cbStore
  extract_lets la before has u q cb
  have hu : Orderly u := by
    unfold u
    split
    · split
      · exact cbFlush_orderly h
      · exact h
    · exact h
  exact orderly_ite hu (cbFlushWhere_orderly (setSeq_orderly hu))

/-! ## Performing stores -/

theorem ctlEffect_orderly {s : State} {e : StEnt} (h : Orderly s) : Orderly (ctlEffect s e) := by
  unfold ctlEffect
  exact orderly_ite (ctlStore_orderly h) h

theorem storeEffect_orderly {s : State} {ag : ℕ} {e : StEnt} (h : Orderly s) : OptOrderly (storeEffect s ag e) := by
  unfold storeEffect
  extract_lets n q
  split
  · split
    · exact optOrderly_none
    · split
      · exact optOrderly_some (accessFault_orderly h)
      · exact optOrderly_some (accessFault_orderly h)
      · split
        · exact optOrderly_some (gbStore_orderly h)
        · split
          · rename_i u _ e1
            have hu : Orderly u := orderly_of_fst (memWriteBy_orderly (flushGb_orderly h)) e1
            exact optOrderly_some (orderly_ite (writeFault_orderly hu) hu)
  · split
    · exact optOrderly_some (setSeq_orderly h)
    · exact optOrderly_some (ctlEffect_orderly h)

theorem performHead_orderly {s : State} {ag : ℕ} (h : Orderly s) : OptOrderly (performHead s ag) := by
  unfold performHead
  extract_lets q
  split
  · exact storeEffect_orderly (setSeq_orderly h)
  · split
    · exact optOrderly_some (ctlEffect_orderly (setSeq_orderly h))
    · exact optOrderly_none

theorem execStorePerformed_keeps {ag : Agent} {s : State} : Keeps s (execStorePerformed ag s) := by
  unfold execStorePerformed
  split
  · exact keeps_next id
  · split
    · rename_i u e
      have hu (h1 : Orderly s) : Orderly u := (performHead_orderly h1) _ e
      exact keeps_next fun h1 => waitHold_orderly h1 (settleAg_orderly (hu h1))
    · exact keeps_next id

/-! ## Stores -/

theorem storeRow_keeps {i : Instr} {ag : Agent} {gb ga : RegId} {imm : BitVec 15} {size : ℕ} {s : State} :
    Keeps s (storeRow i ag gb ga imm size s) := by
  unfold storeRow
  refine seqRow_keeps (fun u hu => ?_)
  extract_lets q ea put
  have hput : ∀ a, OptOrderly (put a) := by
    intro a
    unfold put
    split
    · exact optOrderly_none
    · extract_lets e
      exact optOrderly_some (retireNext_orderly (setSeq_orderly hu))
  split
  · rename_i e
    exact optOrderly_some ((accessCheck_orderly hu) _ e)
  · exact hput _
  · exact hput _
  · exact optOrderly_none

theorem execSt1_keeps {ag : Agent} {gb ga : RegId} {imm : BitVec 15} {s : State} : Keeps s (execSt1 ag gb ga imm s) := by
  unfold execSt1
  exact storeRow_keeps

theorem execSt2_keeps {ag : Agent} {gb ga : RegId} {imm : BitVec 15} {s : State} : Keeps s (execSt2 ag gb ga imm s) := by
  unfold execSt2
  exact storeRow_keeps

theorem execSt4_keeps {ag : Agent} {gb ga : RegId} {imm : BitVec 15} {s : State} : Keeps s (execSt4 ag gb ga imm s) := by
  unfold execSt4
  exact storeRow_keeps

theorem execSt8_keeps {ag : Agent} {gb ga : RegId} {imm : BitVec 15} {s : State} : Keeps s (execSt8 ag gb ga imm s) := by
  unfold execSt8
  exact storeRow_keeps

theorem execStnt_keeps {ag : Agent} {gb ga : RegId} {imm : BitVec 15} {s : State} : Keeps s (execStnt ag gb ga imm s) := by
  unfold execStnt
  refine seqRow_keeps (fun u hu => ?_)
  extract_lets q ea ds put
  have hput : ∀ a, OptOrderly (put a) := by
    intro a
    unfold put
    split
    · exact optOrderly_none
    · exact optOrderly_some (retireNext_orderly (setSeq_orderly hu))
  split
  · rename_i e
    exact optOrderly_some ((accessCheck_orderly hu) _ e)
  · split
    · exact hput _
    · split
      · exact optOrderly_none
      · exact optOrderly_some (cbStore_orderly (retireNext_orderly hu))
  · exact hput _
  · exact optOrderly_none

theorem execCbFlushAge_keeps {ag : Agent} {s : State} : Keeps s (execCbFlushAge ag s) := by
  unfold execCbFlushAge
  split
  · exact keeps_next id
  · split
    · exact keeps_next fun h1 => waitHold_orderly h1 (settleAg_orderly (cbFlush_orderly h1))
    · exact keeps_next id

theorem execGbFlushAge_keeps {core_ : CoreId} {s : State} : Keeps s (execGbFlushAge core_ s) := by
  unfold execGbFlushAge
  split
  · exact keeps_next id
  · split
    · exact keeps_next flushLine_orderly
    · exact keeps_next id

/-! ## Loads -/

theorem finishLoad.retireGd_orderly {s : State} {ag gd : ℕ} {v : Word} (h : Orderly s) :
    Orderly (finishLoad.retireGd s ag gd v) := by
  unfold finishLoad.retireGd
  extract_lets q
  exact retireSeq_orderly (setSeq_orderly h)

theorem finishLoad_orderly {s : State} {ag : ℕ} {l : Load} {v : Word} (h : Orderly s) : Orderly (finishLoad s ag l v) := by
  unfold finishLoad
  extract_lets u q
  have hu : Orderly u := finishLoad.retireGd_orderly h
  exact orderly_ite (setSeq_orderly hu) hu

theorem loadRow_keeps {i : Instr} {ag : Agent} {gd ga : RegId} {imm : BitVec 15} {size : ℕ} {signed reserve : Bool} {s : State} :
    Keeps s (loadRow i ag gd ga imm size signed reserve s) := by
  unfold loadRow
  refine seqRow_keeps (fun u hu => ?_)
  extract_lets q ea go
  have hgo : ∀ a v1, Orderly v1 → Orderly (go a v1) := by
    intro a v1 hv1
    unfold go
    extract_lets l
    split
    · exact finishLoad_orderly hv1
    · exact setSeq_orderly hv1
  split
  · rename_i e
    exact optOrderly_some ((accessCheck_orderly hu) _ e)
  · exact optOrderly_some (hgo _ _ hu)
  · exact optOrderly_none
  · split
    · extract_lets u1
      have hu1 : Orderly u1 := cbFlushWhere_orderly hu
      split
      · exact optOrderly_some (hgo _ _ hu1)
      · exact optOrderly_some hu1
    · exact optOrderly_some (accessFault_orderly hu)
    · exact optOrderly_some (accessFault_orderly hu)

theorem execLd1_keeps {ag : Agent} {gd ga : RegId} {imm : BitVec 15} {s : State} : Keeps s (execLd1 ag gd ga imm s) := by
  unfold execLd1
  exact loadRow_keeps

theorem execLd2_keeps {ag : Agent} {gd ga : RegId} {imm : BitVec 15} {s : State} : Keeps s (execLd2 ag gd ga imm s) := by
  unfold execLd2
  exact loadRow_keeps

theorem execLd4_keeps {ag : Agent} {gd ga : RegId} {imm : BitVec 15} {s : State} : Keeps s (execLd4 ag gd ga imm s) := by
  unfold execLd4
  exact loadRow_keeps

theorem execLd8_keeps {ag : Agent} {gd ga : RegId} {imm : BitVec 15} {s : State} : Keeps s (execLd8 ag gd ga imm s) := by
  unfold execLd8
  exact loadRow_keeps

theorem execLd1u_keeps {ag : Agent} {gd ga : RegId} {imm : BitVec 15} {s : State} : Keeps s (execLd1u ag gd ga imm s) := by
  unfold execLd1u
  exact loadRow_keeps

theorem execLd2u_keeps {ag : Agent} {gd ga : RegId} {imm : BitVec 15} {s : State} : Keeps s (execLd2u ag gd ga imm s) := by
  unfold execLd2u
  exact loadRow_keeps

theorem execLd4u_keeps {ag : Agent} {gd ga : RegId} {imm : BitVec 15} {s : State} : Keeps s (execLd4u ag gd ga imm s) := by
  unfold execLd4u
  exact loadRow_keeps

theorem execLdres_keeps {ag : Agent} {gd ga : RegId} {imm : BitVec 15} {s : State} : Keeps s (execLdres ag gd ga imm s) := by
  unfold execLdres
  exact loadRow_keeps

theorem loadError_orderly {s : State} {w : Option ℕ} {ag : ℕ} {l : Load} (h : Orderly s) : Orderly (loadError s w ag l) := by
  unfold loadError
  exact trapFatalOf_orderly h

theorem loadReturn.readNoJob_orderly {find : EccFind} {s : State} {l : Load} (h : Orderly s) :
    Orderly (loadReturn.readNoJob find s l).1 := by
  unfold loadReturn.readNoJob
  extract_lets bad
  have hbad : ∀ syn a1 v2, Orderly v2 → Orderly (bad syn a1 v2).1 := fun _ _ _ hv2 => orderly_ite (spFault_orderly hv2)
    (tierFault_orderly hv2)
  split
  · exact hbad _ _ _ h
  · split
    · split
      · rename_i e
        exact hbad _ _ _ (orderly_of_snd (draw_orderly h) e)
    · exact eccRead_orderly h

theorem loadReturn_orderly {s : State} {ag : ℕ} {l : Load} {find : EccFind} (h : Orderly s) :
    Orderly (loadReturn s ag l find) := by
  unfold loadReturn
  split
  · extract_lets u w
    have hu : Orderly u := orderly_ite h (flushGb_orderly h)
    clear_value w
    split
    rename_i v _ e
    have hv : Orderly v := by
      split at e
      · exact orderly_of_fst (eccRead_orderly hu) e
      · exact orderly_of_fst (loadReturn.readNoJob_orderly hu) e
    exact orderly_ite (loadError_orderly hv) (finishLoad_orderly hv)
  · split
    · split
      · rename_i e
        exact finishLoad_orderly (orderly_of_snd (ctlLoad_orderly h) e)
      · rename_i e
        exact orderly_of_snd (ctlLoad_orderly h) e
    · exact finishLoad_orderly (draw_orderly (w := 64) h)

theorem execLoadDataReturn_keeps {ag : Agent} {find : EccFind} {s : State} : Keeps s (execLoadDataReturn ag find s) := by
  unfold execLoadDataReturn
  split
  · exact keeps_next id
  · split
    · exact keeps_ite (keeps_next fun h1 => settleAg_orderly (loadReturn_orderly h1)) (keeps_next id)
    · exact keeps_next id

theorem execWlkNext_keeps {core_ : CoreId} {n : Fin 8} {gd : RegId} {s : State} : Keeps s (execWlkNext core_ n gd s) := by
  unfold execWlkNext
  split
  · exact keeps_next id
  · split
    · exact keeps_ite (keeps_next fun h1 => settle_orderly (loadReturn_orderly h1)) (keeps_next id)
    · exact keeps_next id

theorem performIf_orderly {s : State} {c : ℕ} {p : ℕ → List Byte → Bool} (h : Orderly s) : Orderly (performIf s c p) := by
  unfold performIf
  split
  · split
    · rename_i e
      exact settle_orderly ((performHead_orderly h) _ e)
    · exact h
  · exact h

theorem execWlkRestart_keeps {core_ : CoreId} {n : Fin 8} {s : State} : Keeps s (execWlkRestart core_ n s) := by
  unfold execWlkRestart
  exact keeps_next performIf_orderly

theorem execChnRelease_keeps {core_ : CoreId} {region : Fin 16} {s : State} : Keeps s (execChnRelease core_ region s) := by
  unfold execChnRelease
  exact keeps_next performIf_orderly

/-! ## Conditional stores -/

theorem execStcond_keeps {ag : Agent} {gd ga gb : RegId} {s : State} : Keeps s (execStcond ag gd ga gb s) := by
  unfold execStcond
  refine seqRow_keeps (fun u hu => ?_)
  extract_lets ea q ds
  split
  · rename_i e
    exact optOrderly_some ((accessCheck_orderly hu) _ e)
  · extract_lets ok u1 _ u2
    have hu1 : Orderly u1 := orderly_ite (memWriteBy_orderly (flushGb_orderly hu)) hu
    have hu2 : Orderly u2 := setSeq_orderly hu1
    split
    · exact optOrderly_none
    · split
      · exact optOrderly_some (accessFault_orderly hu)
      · exact optOrderly_some (accessFault_orderly hu)
      · exact optOrderly_some (retireGd_orderly hu2)
  · exact optOrderly_none

/-! ## Branches -/

theorem execBr_keeps {ag : Agent} {cond : BitVec 3} {ga gb : RegId} {imm : BitVec 12} {s : State} :
    Keeps s (execBr ag cond ga gb imm s) := by
  unfold execBr
  refine seqRow_keeps (fun u hu => ?_)
  extract_lets q
  split
  · exact optOrderly_some (retireJump_orderly hu)
  · exact optOrderly_some (retireNext_orderly (orderly_ite (fetchLine_orderly hu) hu))

theorem execJal_keeps {ag : Agent} {gd : RegId} {imm : BitVec 20} {s : State} : Keeps s (execJal ag gd imm s) := by
  unfold execJal
  refine seqRow_keeps (fun u hu => ?_)
  extract_lets q
  exact optOrderly_some (retireJump_orderly (setSeq_orderly hu))

theorem execJalr_keeps {ag : Agent} {gd ga : RegId} {imm : BitVec 15} {s : State} : Keeps s (execJalr ag gd ga imm s) := by
  unfold execJalr
  refine seqRow_keeps (fun u hu => ?_)
  extract_lets q t
  exact optOrderly_some (retireJump_orderly (setSeq_orderly hu))

/-! ## Barriers -/

theorem syncFlush_orderly {s : State} {ag : ℕ} (h : Orderly s) : Orderly (syncFlush s ag) := by
  unfold syncFlush
  extract_lets u
  have hu : Orderly u := cbFlushWhere_orderly h
  exact orderly_ite (flushWhere_orderly hu) hu

theorem execSync_keeps {ag : Agent} {s : State} : Keeps s (execSync ag s) := by
  unfold execSync
  refine seqRow_keeps (fun u hu => ?_)
  extract_lets u1 q
  have hu1 : Orderly u1 := syncFlush_orderly hu
  split
  · exact optOrderly_some (setSeq_orderly hu1)
  · exact optOrderly_some hu1

theorem execQsync_keeps {ag : Agent} {s : State} : Keeps s (execQsync ag s) := by
  unfold execQsync
  exact seqRow_keeps (fun _ hu => optOrderly_map (fun _ => retireNext_orderly (setCore_orderly hu)))

theorem execEndSection_keeps {ag : Agent} {s : State} : Keeps s (execEndSection ag s) := by
  unfold execEndSection
  refine seqRow_keeps (fun u hu => optOrderly_map (fun x => ?_))
  extract_lets u1 q
  have hu1 : Orderly u1 := syncFlush_orderly (setCore_orderly hu)
  exact orderly_ite (setSeq_orderly hu1) hu1

theorem execSyncWatchdog_keeps {ag : Agent} {s : State} : Keeps s (execSyncWatchdog ag s) := by
  unfold execSyncWatchdog
  extract_lets q us u
  have hu (h : Orderly s) : Orderly u := latch_orderly h
  split
  · exact keeps_next id
  · exact keeps_ite (keeps_next fun h1 => failWorks_orderly (hu h1)) (keeps_next latch_orderly)

/-! ## Tile issue -/

theorem execTiss_keeps {ag : Agent} {ga gb : RegId} {s : State} : Keeps s (execTiss ag ga gb s) := by
  unfold execTiss
  refine seqRow_keeps (fun u hu => ?_)
  extract_lets k lo i k1
  split
  · exact optOrderly_some (trapFatal_orderly hu)
  · split
    · exact optOrderly_none
    · exact optOrderly_some (retireNext_orderly (setCore_orderly hu))

/-! ## Waiting and traps -/

theorem execWait_keeps {ag : Agent} {s : State} : Keeps s (execWait ag s) := by
  unfold execWait
  refine seqRow_keeps (fun u hu => ?_)
  extract_lets q
  exact optOrderly_some (orderly_ite (retireNext_orderly hu) (setSeq_orderly hu))

theorem execEret_keeps {ag : Agent} {s : State} : Keeps s (execEret ag s) := by
  unfold execEret
  refine seqRow_keeps (fun u hu => ?_)
  extract_lets q u1
  have hu1 : Orderly u1 := setSeq_orderly hu
  split
  · exact optOrderly_some (trapFatal_orderly hu)
  · exact optOrderly_some (fetchLine_orderly (retireSeq_orderly hu1))

theorem execBrk_keeps {ag : Agent} {s : State} : Keeps s (execBrk ag s) := by
  unfold execBrk
  refine seqRow_keeps (fun u hu => ?_)
  extract_lets q
  exact optOrderly_some (orderly_ite (trapFatal_orderly hu) (trapHandled_orderly hu))

theorem execSeqTimerExpiry_keeps {ag : Agent} {s : State} : Keeps s (execSeqTimerExpiry ag s) := by
  unfold execSeqTimerExpiry
  extract_lets q
  exact keeps_ite (keeps_next id) (keeps_next fun h => settleAg_orderly (raiseIp_orderly (setSeq_orderly h)))

theorem execInterrupt_keeps {ag : Agent} {s : State} : Keeps s (execInterrupt ag s) := by
  unfold execInterrupt
  extract_lets q
  exact keeps_ite (keeps_next id) (keeps_ite (keeps_next trapHandled_orderly) (keeps_next trapHandled_orderly))

/-! ## Control registers (Tables 11-1 and 11-2) -/

theorem crRead_orderly {s : State} {ag num : ℕ} (h : Orderly s) : OptSndOrderly (crRead s ag num) := by
  unfold crRead
  extract_lets q k val
  have hdraw : OptSndOrderly (some (draw s 64)) := optSndOrderly_of_snd (draw_orderly h)
  have hval (n : ℕ) : OptSndOrderly (val n) := optSndOrderly_ite (optSndOrderly_some h) hdraw
  iterate 6 refine optSndOrderly_ite (optSndOrderly_some h) ?_
  refine optSndOrderly_ite (optSndOrderly_ite (optSndOrderly_some h) hdraw) ?_
  iterate 3 refine optSndOrderly_ite (optSndOrderly_some h) ?_
  iterate 3 refine optSndOrderly_ite (hval _) ?_
  refine optSndOrderly_ite hdraw ?_
  iterate 3 refine optSndOrderly_ite (hval _) ?_
  exact optSndOrderly_none

theorem execCrr_keeps {ag : Agent} {gd : RegId} {num : BitVec 12} {s : State} : Keeps s (execCrr ag gd num s) := by
  unfold execCrr
  refine seqRow_keeps (fun u hu => ?_)
  split
  · rename_i e
    exact optOrderly_some (retireGd_orderly ((crRead_orderly hu) _ _ e))
  · exact optOrderly_some (trapFatal_orderly hu)

theorem execCrw_keeps {ag : Agent} {ga : RegId} {num : BitVec 12} {s : State} : Keeps s (execCrw ag ga num s) := by
  unfold execCrw
  refine seqRow_keeps (fun u hu => ?_)
  extract_lets q
  split
  · exact optOrderly_some (retireNext_orderly (setSeq_orderly hu))
  · exact optOrderly_some (trapFatal_orderly hu)

/-! ## Swifort's registers (R298) -/

theorem execPcrr_keeps {ag : Agent} {gd : RegId} {num : BitVec 12} {s : State} : Keeps s (execPcrr ag gd num s) := by
  unfold execPcrr
  refine seqRow_keeps (fun u hu => ?_)
  extract_lets n
  split
  · exact optOrderly_some (retireGd_orderly hu)
  · split
    · rename_i e
      exact optOrderly_some (retireGd_orderly (orderly_of_snd (draw_orderly hu) e))

theorem execPcrw_keeps {ag : Agent} {ga : RegId} {num : BitVec 12} {s : State} : Keeps s (execPcrw ag ga num s) := by
  unfold execPcrw
  refine seqRow_keeps (fun u hu => ?_)
  extract_lets q n v q1
  exact optOrderly_some (retireNext_orderly (setSeq_orderly hu))

/-! ## Commands -/

theorem execImageRegister_keeps {slot : SlotId} {buf : HostRead} {desc : ImageDesc} {s : State} :
    Keeps s (execImageRegister slot buf desc s) := by
  unfold execImageRegister
  refine keeps_next fun h => runCmd_orderly (fun x u hu => ?_) h
  extract_lets t len size n rid id
  refine cmdOut_guard (cmdOut_guard ?_)
  split
  · exact trivial
  · refine cmdOut_guard ?_
    split
    · exact hu
    · refine cmdOut_guard ?_
      split
      · exact trivial
      · split
        · exact hu
        · refine cmdOut_guard (cmdOut_guard ?_)
          split
          · exact trivial
          · refine cmdOut_guard ?_
            extract_lets bytes g m u1 u2
            have hu1 : Orderly u1 := orderly_update hu.wf
            have hu2 : Orderly u2 := memWrite_orderly hu1
            exact ledgerCmd_orderly hu2

theorem execImageUnregister_keeps {slot : SlotId} {s : State} : Keeps s (execImageUnregister slot s) := by
  unfold execImageUnregister
  refine keeps_next fun h => runCmd_orderly (fun x u hu => ?_) h
  extract_lets id u1 u2
  have hu1 : Orderly u1 := dropImage_orderly hu
  have hu2 : Orderly u2 := orderly_update hu1.wf
  split
  · exact trivial
  · refine cmdOut_guard ?_
    extract_lets fills
    exact ledgerCmd_orderly hu2

theorem execImageQuery_keeps {slot : SlotId} {s : State} : Keeps s (execImageQuery slot s) := by
  unfold execImageQuery
  refine keeps_next fun h => runCmd_orderly (fun x u hu => ?_) h
  extract_lets id
  split
  · exact trivial
  · exact hu

theorem execImageBind_keeps {slot : SlotId} {s : State} : Keeps s (execImageBind slot s) := by
  unfold execImageBind
  refine keeps_next fun h => runCmd_orderly (fun x u hu => ?_) h
  extract_lets id stage
  split
  · exact trivial
  · refine cmdOut_guard (cmdOut_guard ?_)
    extract_lets m1
    exact ledgerCmd_orderly (orderly_update hu.wf)

end Sys2Proof.Machine
end

section
/-! PROOFS. Time-outs, sleep, BAR0, scrubbers, units and Gecko keep memory in its canonical form. -/
namespace Sys2Proof.Machine

/-! ## A command that reaches its class bound -/

theorem movedPart_orderly {s : State} {k : ℕ} {r : Req} {moved : List Byte} (h : Orderly s) :
    OptOrderly (movedPart s k r moved) := by
  unfold movedPart
  extract_lets p
  split
  · split
    · split
      · exact optOrderly_none
      · exact optOrderly_some (ledgerCmd_orderly (loadBytes_orderly h))
    · exact optOrderly_none
  · split
    · split
      · exact optOrderly_none
      · exact optOrderly_some (ledgerCmd_orderly (loadBytes_orderly h))
    · exact optOrderly_none
  · split
    · split
      · exact optOrderly_none
      · exact optOrderly_some (orderly_update h.wf)
    · exact optOrderly_none
  · exact optOrderly_none

theorem execCmdTimeout_keeps {slot : SlotId} {moved : List Byte} {s : State} : Keeps s (execCmdTimeout slot moved s) := by
  unfold execCmdTimeout
  split
  · exact keeps_next id
  · split
    · exact keeps_next id
    · split
      · extract_lets u
        have hu (h1 : Orderly s) : Orderly u := orderly_update h1.wf
        exact keeps_next fun h1 => respond_orderly (hu h1)
      · split
        · exact keeps_next id
        · extract_lets u
          have hu (h1 : Orderly s) : Orderly u := orderly_ite h1 (orderly_getD (movedPart_orderly h1) h1)
          exact keeps_next fun h1 => respond_orderly (hu h1)

/-! ## SLEEP, TORPOR, the scrub wake and the host link's power states -/

theorem setBankPower_orderly {s : State} {f : ℕ → Bank → BankPower} (h : Orderly s) : Orderly (setBankPower s f) := by
  unfold setBankPower
  exact orderly_update h.wf

theorem loseOff_orderly {s : State} {f : ℕ → Bank → BankPower} (h : Orderly s) : Orderly (loseOff s f) := by
  unfold loseOff
  extract_lets off u
  have hu : Orderly u := cure_orderly h
  exact orderly_update (filter_wf _ hu.wf)

theorem endDoze_orderly {s : State} (h : Orderly s) : Orderly (endDoze s) := by
  unfold endDoze
  exact orderly_update h.wf

theorem entryAfter_orderly {s : State} {n : ℕ} (h : Orderly s) : Orderly (entryAfter s n) := by
  unfold entryAfter
  extract_lets old _ _ u u1 u2 _ u3 _ u4
  have hu : Orderly u := orderly_update h.wf
  have hu1 : Orderly u1 := orderly_ite (setBankPower_orderly (loseOff_orderly hu)) hu
  have hu2 : Orderly u2 := orderly_ite (endDoze_orderly hu1) hu1
  have hu3 : Orderly u3 := orderly_update hu2.wf
  have hu4 : Orderly u4 := orderly_ite (settleMgt_orderly (orderly_update hu3.wf)) hu3
  exact orderly_ite (traceTray_orderly hu4) hu4

theorem execSleepEntry_keeps {steps : Fin 6} {s : State} : Keeps s (execSleepEntry steps s) := by
  unfold execSleepEntry
  exact keeps_ite (keeps_next entryAfter_orderly) (keeps_next id)

theorem execWake_keeps {cause : WakeCause} {s : State} : Keeps s (execWake cause s) := by
  unfold execWake
  split
  · exact keeps_next id
  · split
    · exact keeps_next fun h1 => orderly_update h1.wf
    · split
      · extract_lets u _ _ u1
        have hu (h1 : Orderly s) : Orderly u := setBankPower_orderly h1
        have hu1 (h1 : Orderly s) : Orderly u1 := orderly_update (hu h1).wf
        exact keeps_next fun h1 => traceTray_orderly (hu1 h1)
      · extract_lets u
        have hu (h1 : Orderly s) : Orderly u := entryAfter_orderly h1
        exact keeps_next fun h1 => orderly_update (hu h1).wf
    · exact keeps_next id

theorem toActive_orderly {s : State} {old : ℕ} (h : Orderly s) : Orderly (toActive s old) := by
  unfold toActive
  extract_lets u _ _ u1
  have hu : Orderly u := endDoze_orderly (setBankPower_orderly h)
  have hu1 : Orderly u1 := orderly_update hu.wf
  exact flushTrcStaging_orderly (traceTray_orderly hu1)

theorem execScrubWake_keeps {s : State} : Keeps s (execScrubWake s) := by
  unfold execScrubWake
  exact keeps_ite (keeps_next fun h => ctrAdd_orderly (orderly_update h.wf)) (keeps_next id)

theorem dropAllCopies_orderly {s : State} (h : Orderly s) : Orderly (dropAllCopies s) := by
  unfold dropAllCopies
  exact orderly_update (filter_wf _ h.wf)

theorem execTorporEntry_keeps {s : State} : Keeps s (execTorporEntry s) := by
  unfold execTorporEntry
  split
  · extract_lets u u1
    have hu (h1 : Orderly s) : Orderly u := dropPorts_orderly (withdraw_orderly (traceTray_orderly h1))
    have hu1 (h1 : Orderly s) : Orderly u1 := dropAllCopies_orderly (hu h1)
    exact keeps_next fun h1 => orderly_update (hu1 h1).wf
  · exact keeps_next id

theorem restoreCommons_orderly {s : State} (h : Orderly s) : Orderly (restoreCommons s) := by
  unfold restoreCommons
  exact orderly_foldl (fun _ _ hu => orderly_ite (memCopy_orderly hu) hu) h

theorem resumeRow_orderly {s : State} {k : ℕ} (h : Orderly s) : Orderly (resumeRow s k) := by
  unfold resumeRow
  extract_lets _ u
  have hu : Orderly u := orderly_update h.wf
  split
  · exact orderly_update hu.wf
  · exact claimAlone_orderly (trainAll_orderly (rejoin_orderly hu))
  · exact restoreCommons_orderly hu
  · exact hu

theorem resumeTo_orderly {s : State} {n : ℕ} (h : Orderly s) : Orderly (resumeTo s n) := by
  unfold resumeTo
  refine orderly_foldl (fun u x hu => ?_) h
  split
  · exact orderly_ite (resumeRow_orderly hu) hu
  · exact hu

theorem execTorporWake_keeps {s : State} : Keeps s (execTorporWake s) := by
  unfold execTorporWake
  split
  · exact keeps_next id
  · split
    · exact keeps_next resumeTo_orderly
    · exact keeps_next linkExit_orderly

theorem onConfigBanks_orderly {s : State} (h : Orderly s) : Orderly (onConfigBanks s) := by
  unfold onConfigBanks
  exact setBankPower_orderly h

theorem serveLatched_orderly {s : State} (h : Orderly s) : Orderly (serveLatched s) := by
  unfold serveLatched
  exact orderly_foldl (fun _ _ => takeSlot_orderly) (orderly_update h.wf)

theorem execLinkL1Request_keeps {s : State} : Keeps s (execLinkL1Request s) := by
  unfold execLinkL1Request
  exact keeps_ite (keeps_next fun h => orderly_update h.wf) (keeps_next id)

theorem execLinkL1Exit_keeps {s : State} : Keeps s (execLinkL1Exit s) := by
  unfold execLinkL1Exit
  exact keeps_ite (keeps_next fun h => orderly_update h.wf) (keeps_next id)

/-! ## MSI-X table -/

theorem msixWrite_orderly {s : State} {off size v : ℕ} (h : Orderly s) : Orderly (msixWrite s off size v) := by
  unfold msixWrite
  extract_lets e old
  exact msixFlush_orderly (orderly_update h.wf)

/-! ## Register writes without a row of their own -/

theorem sysWrite_orderly {s : State} {o size v : ℕ} (h : Orderly s) : Orderly (sysWrite s o size v) := by
  unfold sysWrite
  split
  · exact orderly_ite (sysErr_orderly h) (orderly_ite (orderly_update h.wf) (orderly_ite (sysErr_orderly h) h))
  · exact orderly_ite h (orderly_ite (sysErr_orderly h) (msixWrite_orderly h))

theorem mbxWrite_orderly {s : State} {o size v : ℕ} (h : Orderly s) : Orderly (mbxWrite s o size v) := by
  unfold mbxWrite
  split
  · extract_lets k
    exact orderly_ite (orderly_update h.wf) (sysErr_orderly h)
  · exact orderly_ite h (sysErr_orderly h)

theorem dbWrite_orderly {s : State} {o : ℕ} (h : Orderly s) : Orderly (dbWrite s o) := by
  unfold dbWrite
  exact orderly_ite (sysErr_orderly h) h

theorem obsWrite_orderly {s : State} {o : ℕ} (h : Orderly s) : Orderly (obsWrite s o) := by
  unfold obsWrite
  exact orderly_ite h (sysErr_orderly h)

theorem execBar0Write_keeps {offset size : ℕ} {value : Word} {poisoned : Bool} {s : State} :
    Keeps s (execBar0Write offset size value poisoned s) := by
  unfold execBar0Write
  extract_lets u b
  have hu (h : Orderly s) : Orderly u := linkExit_orderly h
  split
  · exact keeps_next hu
  · split
    · exact keeps_next fun h => unsupportedRequest_orderly (hu h)
    · split
      · exact keeps_next fun h => aerReport_orderly (hu h)
      · split
        · exact keeps_next hu
        · split
          · exact keeps_next fun h => sysErr_orderly (hu h)
          · refine keeps_next fun h => ?_
            clear_value u b
            cases b with
            | sys => exact sysWrite_orderly (hu h)
            | mbx => exact mbxWrite_orderly (hu h)
            | db => exact dbWrite_orderly (hu h)
            | obs => exact obsWrite_orderly (hu h)
            | reserved => exact sysErr_orderly (hu h)

/-! ## BAR2 -/

theorem execBar2Resize_keeps {log2GiB : ℕ} {s : State} : Keeps s (execBar2Resize log2GiB s) := by
  unfold execBar2Resize
  extract_lets u
  have hu (h : Orderly s) : Orderly u := linkExit_orderly h
  exact keeps_ite (keeps_next hu) (keeps_next fun h => orderly_update (hu h).wf)

theorem execSysWinBaseWrite_keeps {n : Fin 4} {value : PartWrite} {s : State} : Keeps s (execSysWinBaseWrite n value s) := by
  unfold execSysWinBaseWrite
  extract_lets u w v
  have hu (h : Orderly s) : Orderly u := linkExit_orderly h
  split
  · exact keeps_next hu
  · split
    · exact keeps_next fun h1 => unsupportedRequest_orderly (hu h1)
    · exact keeps_ite (keeps_next fun h1 => sysErr_orderly (hu h1)) (keeps_next fun h1 => orderly_update (hu h1).wf)

theorem execSysWinCtlWrite_keeps {n : Fin 4} {value : W32} {s : State} : Keeps s (execSysWinCtlWrite n value s) := by
  unfold execSysWinCtlWrite
  extract_lets u t
  have hu (h : Orderly s) : Orderly u := linkExit_orderly h
  split
  · exact keeps_next hu
  · split
    · exact keeps_next fun h1 => unsupportedRequest_orderly (hu h1)
    · exact keeps_ite (keeps_next fun h1 => sysErr_orderly (hu h1)) (keeps_next fun h1 => orderly_update (hu h1).wf)

/-! ## Ring doorbells -/

theorem execSqDoorbell_keeps {ring : RingId} {value : W32} {s : State} : Keeps s (execSqDoorbell ring value s) := by
  unfold execSqDoorbell
  extract_lets u g v
  have hu (h : Orderly s) : Orderly u := linkExit_orderly h
  split
  · exact keeps_next hu
  · split
    · exact keeps_next fun h1 => unsupportedRequest_orderly (hu h1)
    · split
      · exact keeps_next fun h1 => sysErr_orderly (hu h1)
      · split
        · exact keeps_next fun h1 => sysErr_orderly (hu h1)
        · exact keeps_ite (keeps_next hu) (keeps_next fun h1 => noteBusy_orderly (setRing_orderly (hu h1)))

theorem execCqHeadWrite_keeps {ring : RingId} {value : W32} {s : State} : Keeps s (execCqHeadWrite ring value s) := by
  unfold execCqHeadWrite
  extract_lets u g v n
  have hu (h : Orderly s) : Orderly u := linkExit_orderly h
  split
  · exact keeps_next hu
  · split
    · exact keeps_next fun h1 => unsupportedRequest_orderly (hu h1)
    · split
      · exact keeps_next fun h1 => sysErr_orderly (hu h1)
      · split
        · exact keeps_next fun h1 => sysErr_orderly (hu h1)
        · exact keeps_ite (keeps_next hu) (keeps_next fun h1 => postReadFault_orderly (setRing_orderly (hu h1)))

/-! ## DOZE, the scrubbers, refresh and the end of a tier zero-fill -/

theorem execCoreDoze_keeps {core_ : CoreId} {s : State} : Keeps s (execCoreDoze core_ s) := by
  unfold execCoreDoze
  extract_lets k u
  have hu (h : Orderly s) : Orderly u := setCore_orderly h
  exact keeps_ite (keeps_next fun h => orderly_ite (traceTray_orderly (hu h)) (hu h)) (keeps_next id)

theorem endPass_orderly {s : State} {c : ℕ} (h : Orderly s) : Orderly (endPass s c) := by
  unfold endPass
  extract_lets u done
  have hu : Orderly u := modCore_orderly h
  exact orderly_ite (orderly_update hu.wf) (orderly_update hu.wf)

theorem layFinds_orderly {s : State} {a words : ℕ} {finds : List (ℕ × EccFind)} (h : Orderly s) :
    Orderly (layFinds s a words finds) := by
  unfold layFinds
  exact orderly_foldl (fun _ _ hu => orderly_ite (eccLay_orderly hu) hu) h

theorem scrubBeat_orderly {s : State} {c group row : ℕ} {finds : List (ℕ × EccFind)} (h : Orderly s) :
    Orderly (scrubBeat s c group row finds) := by
  unfold scrubBeat
  extract_lets a u
  have hu : Orderly u := orderly_ite (eccCheck_orderly (layFinds_orderly (flushGb_orderly h))) h
  exact orderly_ite (endPass_orderly hu) hu

theorem execSpScrub_keeps {core_ : CoreId} {group : Fin 4} {row : Fin 32768} {finds : List (ℕ × EccFind)} {s : State} :
    Keeps s (execSpScrub core_ group row finds s) := by
  unfold execSpScrub
  exact keeps_ite (keeps_next scrubBeat_orderly) (keeps_next id)

theorem execScrubForce_keeps {core_ : CoreId} {group : Fin 4} {row : Fin 32768} {finds : List (ℕ × EccFind)} {s : State} :
    Keeps s (execScrubForce core_ group row finds s) := by
  unfold execScrubForce
  split
  · exact keeps_next id
  · extract_lets c u
    have hu (h1 : Orderly s) : Orderly u := orderly_foldl (fun _ _ => stall_orderly) h1
    exact keeps_next fun h1 => scrubBeat_orderly (hu h1)

theorem execSpScrubDoze_keeps {pass : DozeScrub} {s : State} : Keeps s (execSpScrubDoze pass s) := by
  unfold execSpScrubDoze
  extract_lets c k u u1
  have hu (h : Orderly s) : Orderly u := endPass_orderly (countCore_orderly h)
  have hu1 (h : Orderly s) : Orderly u1 := layFinds_orderly (hu h)
  exact keeps_ite (keeps_next id) (keeps_next fun h => orderly_foldl (fun _ _ => eccCheck_orderly) (hu1 h))

theorem execTierScrub_keeps {addr : ℕ} {find : EccFind} {passEnds : Bool} {s : State} :
    Keeps s (execTierScrub addr find passEnds s) := by
  unfold execTierScrub
  split
  · exact keeps_next id
  · extract_lets a u
    have hu (h1 : Orderly s) : Orderly u := orderly_ite h1 (eccRead_orderly h1)
    exact keeps_next fun h1 => orderly_ite (ctrAdd_orderly (hu h1)) (hu h1)

theorem execRefresh_keeps {_controller : Fin 36} {s : State} : Keeps s (execRefresh _controller s) := by
  unfold execRefresh
  exact keeps_next id

theorem execTierFillDone_keeps {index : ℕ} {s : State} : Keeps s (execTierFillDone index s) := by
  unfold execTierFillDone
  split
  · exact keeps_next id
  · split
    · exact keeps_next id
    · extract_lets u
      have hu (h1 : Orderly s) : Orderly u := memZero_orderly h1
      exact keeps_next fun h1 => answerWaits_orderly (orderly_update (hu h1).wf)

/-! ## Field repair (R329 to R331) -/

theorem startRepair_orderly {s : State} {c : ℕ} (h : Orderly s) : Orderly (startRepair s c) := by
  unfold startRepair
  split
  · exact h
  · extract_lets u was u1
    have hu1 : Orderly u1 := orderly_ite (fenceAdmin_orderly h) h
    exact advanceRepairs_orderly (orderly_update hu1.wf)

theorem repairFailed_orderly {s : State} {c : ℕ} {found : List LineFind} {map : ℕ} (h : Orderly s) :
    Orderly (repairFailed s c found map) := by
  unfold repairFailed
  extract_lets need u
  have hu : Orderly u := orderly_update h.wf
  exact latch_orderly hu

theorem execLineTestDone_keeps {core_ : CoreId} {found : List LineFind} {retestClean : Bool} {s : State} :
    Keeps s (execLineTestDone core_ found retestClean s) := by
  unfold execLineTestDone
  extract_lets c map
  split
  · exact keeps_next id
  · split
    · exact keeps_next id
    · split
      · exact keeps_next repairFailed_orderly
      · split
        · exact keeps_next repairFailed_orderly
        · extract_lets v u seq u1 u2
          have hu (h1 : Orderly s) : Orderly u := orderly_update h1.wf
          have hu1 (h1 : Orderly s) : Orderly u1 := ledgerOwn_orderly (hu h1)
          have hu2 (h1 : Orderly s) : Orderly u2 := raiseEvent_orderly (hu1 h1)
          split
          · exact keeps_next repairFailed_orderly
          · exact keeps_ite (keeps_next ctrAdd_orderly) (keeps_next fun h1 => orderly_update (hu2 h1).wf)

/-! ## Fencing (Table 23-4) -/

theorem fence_orderly {s : State} {u : ℕ} {h : Health} (hs : Orderly s) : Orderly (fence s u h) := by
  unfold fence
  split
  · exact hs
  · exact orderly_ite (portUnitChanged_orderly (fenceAdmin_orderly hs)) (fenceAdmin_orderly hs)
  · split
    · exact startRepair_orderly hs
    · exact orderly_ite (finishFencing_orderly (portUnitChanged_orderly (fenceAdmin_orderly hs))) hs

theorem setBelief_orderly {s : State} {u : ℕ} {h : Health} (hs : Orderly s) : Orderly (setBelief s u h) := by
  unfold setBelief
  exact orderly_update hs.wf

theorem execUnitHealth_keeps {unit : ℕ} {health : Health} {s : State} : Keeps s (execUnitHealth unit health s) := by
  unfold execUnitHealth
  split
  · exact keeps_next id
  · extract_lets queued u
    have hu (h1 : Orderly s) : Orderly u := orderly_ite (hwHealth_orderly h1) h1
    split
    · exact keeps_next hu
    · split
      · exact keeps_next hu
      · extract_lets u1 p0 u2
        have hu1 (h1 : Orderly s) : Orderly u1 := orderly_update (hu h1).wf
        have hu2 (h1 : Orderly s) : Orderly u2 := traceTray_orderly (raiseEvent_orderly (hu1 h1))
        exact keeps_next fun h1 => fence_orderly (setBelief_orderly (hu2 h1))

theorem disagree_orderly {s : State} {u : ℕ} (h : Orderly s) : Orderly (disagree s u) := by
  unfold disagree
  extract_lets r seq u1 u2
  have hu1 : Orderly u1 := raiseEvent_orderly h
  have hu2 : Orderly u2 := ledgerSelf_orderly hu1
  exact orderly_ite h (fence_orderly (setBelief_orderly hu2))

theorem execUnitStatePoll_keeps {silent : List (ℕ × Health)} {s : State} : Keeps s (execUnitStatePoll silent s) := by
  unfold execUnitStatePoll
  extract_lets u
  have hu (h : Orderly s) : Orderly u := orderly_ite (orderly_foldl (fun _ _ => hwHealth_orderly) h) h
  exact keeps_ite (keeps_next fun h => orderly_foldl (fun _ _ => disagree_orderly) (hu h)) (keeps_next hu)

/-! ## Error records -/

theorem execErrorRecord_keeps {s : State} : Keeps s (execErrorRecord s) := by
  unfold execErrorRecord
  split
  · exact keeps_next id
  · split
    · exact keeps_next id
    · extract_lets i _ u u1
      have hu (h1 : Orderly s) : Orderly u := orderly_update h1.wf
      have hu1 (h1 : Orderly s) : Orderly u1 := raiseEvent_orderly (hu h1)
      exact keeps_next fun h1 => orderly_ite (startRepair_orderly (hu1 h1)) (hu1 h1)

/-! ## Commands (Table 7-5) -/

theorem execUnitQuery_keeps {slot : SlotId} {s : State} : Keeps s (execUnitQuery slot s) := by
  unfold execUnitQuery
  refine keeps_next fun h => runCmd_orderly (fun x u hu => ?_) h
  extract_lets u1
  exact cmdOut_guard hu

theorem execUnitList_keeps {slot : SlotId} {hostOk : Bool} {s : State} : Keeps s (execUnitList slot hostOk s) := by
  unfold execUnitList
  exact keeps_next fun h => runCmd_orderly (fun _ _ hu => cmdOut_guard (hostWrite_orderly hu)) h

theorem execUnitSetAdmin_keeps {slot : SlotId} {s : State} : Keeps s (execUnitSetAdmin slot s) := by
  unfold execUnitSetAdmin
  refine keeps_next fun h => runCmd_orderly (fun x u hu => ?_) h
  extract_lets u1 a changed u2 u3 mine u4 u5 u6 u7
  have hu2 : Orderly u2 := writeAdmin_orderly hu
  have hu3 : Orderly u3 := orderly_ite (orderly_update hu2.wf) hu2
  have hu4 : Orderly u4 := orderly_ite (failWorks_orderly (quenchWhere_orderly hu3)) hu3
  have hu5 : Orderly u5 := portUnitChanged_orderly hu4
  have hu6 : Orderly u6 := orderly_ite (startTraining_orderly hu5) hu5
  have hu7 : Orderly u7 := orderly_ite (ledgerCmd_orderly hu6) hu6
  refine cmdOut_guard ?_
  split
  · exact hu
  · exact hu7

theorem returnBanks_orderly {s : State} {c : ℕ} {stillBad : List ℕ} (h : Orderly s) : Orderly (returnBanks s c stillBad) := by
  unfold returnBanks
  exact orderly_update h.wf

theorem execUnitRetest_keeps {slot : SlotId} {pass : Bool} {stillBad : List ℕ} {s : State} :
    Keeps s (execUnitRetest slot pass stillBad s) := by
  unfold execUnitRetest
  refine keeps_next fun h => runCmd_orderly (fun x u hu => ?_) h
  extract_lets u1 u2 u3 u4
  have hu2 : Orderly u2 := hwHealth_orderly hu
  have hu3 : Orderly u3 := orderly_ite (orderly_ite (returnBanks_orderly hu2) hu2) (latch_orderly hu2)
  have hu4 : Orderly u4 := ledgerCmd_orderly hu3
  exact cmdOut_guard (cmdOut_guard hu4)

/-! ## The counter window (Table 25-1) -/

theorem bar0Answer_orderly {s : State} {o size : ℕ} {attr : TlpAttr} (h : Orderly s) : Orderly (bar0Answer s o size attr) := by
  unfold bar0Answer
  extract_lets bs _ u
  have hu : Orderly u := orderly_ite (orderly_update h.wf) h
  exact orderly_update hu.wf

theorem execSysTimeRead_keeps {read : Bar0Read} {s : State} : Keeps s (execSysTimeRead read s) := by
  unfold execSysTimeRead
  extract_lets attr u
  have hu (h : Orderly s) : Orderly u := linkExit_orderly h
  split
  · exact keeps_next fun h1 => frzAbort_orderly (hu h1)
  · split
    · exact keeps_next fun h1 => unsupportedRequest_orderly (hu h1)
    · split
      all_goals
        split
        · exact keeps_next fun h1 => orderly_update (hu h1).wf
        · exact keeps_next fun h1 => bar0Answer_orderly (hu h1)

theorem unpark_orderly {s : State} (h : Orderly s) : Orderly (unpark s) := by
  unfold unpark
  refine orderly_foldl (fun u x hu => ?_) (orderly_update h.wf)
  split
  · exact bar0Answer_orderly hu
  · exact bar2Perform_orderly hu

theorem execWakeDone_keeps {s : State} : Keeps s (execWakeDone s) := by
  unfold execWakeDone
  exact keeps_ite (keeps_next fun h => unpark_orderly (toActive_orderly h)) (keeps_next id)

theorem execTorporWakeDone_keeps {s : State} : Keeps s (execTorporWakeDone s) := by
  unfold execTorporWakeDone
  split
  · split
    · extract_lets u
      have hu (h1 : Orderly s) : Orderly u := resumeTo_orderly h1
      exact keeps_next fun h1 => unpark_orderly (serveLatched_orderly (toActive_orderly (onConfigBanks_orderly (hu h1))))
    · exact keeps_next id
  · exact keeps_next id

theorem execObsTselWrite_keeps {value : Word} {s : State} : Keeps s (execObsTselWrite value s) := by
  unfold execObsTselWrite
  extract_lets u
  have hu (h : Orderly s) : Orderly u := linkExit_orderly h
  split
  · exact keeps_next hu
  · split
    · exact keeps_next fun h1 => unsupportedRequest_orderly (hu h1)
    · exact keeps_next fun h1 => orderly_update (hu h1).wf

theorem execObsTrcHeadWrite_keeps {value : Word} {s : State} : Keeps s (execObsTrcHeadWrite value s) := by
  unfold execObsTrcHeadWrite
  extract_lets u v
  have hu (h : Orderly s) : Orderly u := linkExit_orderly h
  split
  · exact keeps_next hu
  · split
    · exact keeps_next fun h1 => unsupportedRequest_orderly (hu h1)
    · exact keeps_ite (keeps_next fun h1 => sysErr_orderly (hu h1)) (keeps_next fun h1 => orderly_update (hu h1).wf)

/-! ## Trace ring read-out -/

theorem timebaseRec_orderly {s : State} (h : Orderly s) : Orderly (timebaseRec s) := by
  unfold timebaseRec
  exact traceTray_orderly h

theorem execTimebase_keeps {s : State} : Keeps s (execTimebase s) := by
  unfold execTimebase
  exact keeps_ite (keeps_next timebaseRec_orderly) (keeps_next id)

theorem takeRecs_orderly {n : ℕ} {s : State} (h : Orderly s) : Orderly (takeRecs n s).2 := by
  induction n generalizing s with
  | zero =>
    unfold takeRecs
    dsimp -zeta only
    exact h
  | succ n ih =>
    unfold takeRecs
    dsimp -zeta only
    split
    · exact h
    · extract_lets b
      exact ih (orderly_update h.wf)

theorem execTraceExport_keeps {s : State} : Keeps s (execTraceExport s) := by
  unfold execTraceExport
  split
  · exact keeps_next id
  · extract_lets _ u size n
    have hu (h1 : Orderly s) : Orderly u := orderly_ite (timebaseRec_orderly (orderly_update h1.wf)) h1
    split
    · split
      · rename_i u1 e
        have hu1 (h1 : Orderly s) : Orderly u1 := orderly_of_snd (takeRecs_orderly (hu h1)) e
        exact keeps_next fun h1 => orderly_foldl (fun _ _ hu2 => orderly_update hu2.wf) (hu1 h1)
    · split
      · exact keeps_next hu
      · split
        · rename_i u1 e
          have hu1 (h1 : Orderly s) : Orderly u1 := orderly_of_snd (takeRecs_orderly (hu h1)) e
          split
          · exact keeps_next hu1
          · extract_lets u2
            have hu2 (h1 : Orderly s) : Orderly u2 := hostWrite_orderly (hu1 h1)
            exact keeps_next fun h1 => orderly_update (hu2 h1).wf

/-! ## Commands -/

theorem leavePonds_orderly {s : State} {mask : ℕ} (h : Orderly s) : Orderly (leavePonds s mask) := by
  unfold leavePonds
  exact orderly_foldl (fun _ _ hu => ctrAdd_orderly (orderly_update hu.wf)) h

theorem execTraceConfig_keeps {slot : SlotId} {s : State} : Keeps s (execTraceConfig slot s) := by
  unfold execTraceConfig
  refine keeps_next fun h => runCmd_orderly (fun x u hu => ?_) h
  extract_lets mask dest log2 addr u1 moved _ u2
  have hu1 : Orderly u1 := leavePonds_orderly hu
  have hu2 : Orderly u2 := orderly_update hu1.wf
  exact ledgerCmd_orderly hu2

theorem execCounterSnapshot_keeps {slot : SlotId} {hostOk : Bool} {s : State} : Keeps s (execCounterSnapshot slot hostOk s) := by
  unfold execCounterSnapshot
  refine keeps_next fun h => runCmd_orderly (fun x u hu => ?_) h
  extract_lets scope out
  exact cmdOut_guard (cmdOut_guard (hostWrite_orderly hu))

end Sys2Proof.Machine
end

section
/-! PROOFS. Steering, fabric transactions, register instructions and the vector engine keep memory in its canonical form. -/
namespace Sys2Proof.Machine

/-! ## STEER (R440, R441) -/

theorem tokEcc_orderly {s : State} {c w : ℕ} {x : Circ} {n : ℕ} (h : Orderly s) : Orderly (tokEcc s c w x n).1 := by
  unfold tokEcc
  extract_lets room
  split
  · rename_i u e
    have hu : Orderly u := orderly_of_fst (eccRead_orderly h) e
    split
    · exact hu
    · exact eccRead_orderly hu
  · exact eccRead_orderly h

theorem sentTok_orderly {s : State} {toks : List TokMsg} {b : Bool} {c x : ℕ} (h : Orderly s) :
    Orderly (if b then (releaseTok { s with net.toks := toks } c x).getD { s with net.toks := toks } else
      { s with net.toks := toks }) :=
  have hv : Orderly { s with net.toks := toks } := orderly_update h.wf
  orderly_ite (orderly_getD (releaseTok_orderly hv) hv) hv

/-- The endpoint's answer and the read are generalized, for the kernel would evaluate addresses to split on them. -/
theorem steerBody_orderly {c : ℕ} {s : State} {w : ℕ} {q : QEnt} (h : Orderly s) : Orderly (steerBody c s w q) := by
  unfold steerBody
  extract_lets +onlyGivenNames i
  clear_value i
  split
  · exact h
  · refine orderly_ite (invalidField_orderly h) ?_
    extract_lets +onlyGivenNames x
    clear_value x
    generalize circEndpoint s c x (workTcid s w) x.head _ false = p
    cases p with
    | refused o => exact tagFault_orderly h
    | hole => exact tagFault_orderly h
    | ok =>
      have hread {a b n : ℕ} : Orderly (tokEcc (flushGb s a b) c w x n).1 := tokEcc_orderly (flushGb_orderly h)
      generalize hr : tokEcc (flushGb s _ _) c w x _ = r
      have hr' : Orderly r.1 := hr ▸ hread
      obtain ⟨u, good⟩ := r
      cases good with
      | false => exact hr'
      | true => exact sentTok_orderly (countCore_orderly (setCore_orderly hr'))

theorem execRoute_keeps {core : CoreId} {s : State} : Keeps s (execRoute core s) := by
  unfold execRoute
  exact keeps_next fun h => engineRow_orderly h (fun _ _ _ => steerBody_orderly)

/-! ## Feeds (R429) -/

theorem feedRows_orderly {w t base pitch n n1 n2 : ℕ} {s : State} (h : Orderly s) :
    Rd.Orderly (feedRows w t base pitch n n1 n2 s) := by
  induction n1 generalizing n2 s with
  | zero =>
    unfold feedRows
    exact h
  | succ n1 ih =>
    unfold feedRows
    extract_lets a
    split
    · exact tagFault_orderly h
    · exact tagFault_orderly h
    · split
      · rename_i u e
        have hu : Orderly u := orderly_of_fst (eccRead_orderly h) e
        exact hu
      · rename_i u e
        have hu : Orderly u := orderly_of_fst (eccRead_orderly h) e
        split
        all_goals
          rename_i u1 e1
          have hu1 : Orderly u1 := (ih hu).at e1
          exact hu1

theorem execFeedToken_keeps {core_ : CoreId} {feed : Fin 4} {s : State} : Keeps s (execFeedToken core_ feed s) := by
  unfold execFeedToken
  extract_lets c k
  split
  · exact keeps_next id
  · split
    · extract_lets d units ix span f'
      split
      · exact keeps_next id
      · split
        · exact keeps_next id
        · extract_lets off
          split
          · rename_i u e
            have hu (h1 : Orderly s) : Orderly u := (feedRows_orderly h1).at e
            exact keeps_next fun h1 => settle_orderly (hu h1)
          · rename_i u e
            have hu (h1 : Orderly s) : Orderly u := (feedRows_orderly h1).at e
            extract_lets m
            exact keeps_next fun h1 => modCore_orderly (orderly_update (hu h1).wf)
    · exact keeps_next id

/-! ## Landing tokens and credits -/

theorem flitFault_orderly {s : State} {p : ℕ} {w : Option ℕ} (h : Orderly s) : Orderly (flitFault s p w) := by
  unfold flitFault
  extract_lets again _ u u1 u2
  have hu : Orderly u := orderly_update h.wf
  have hu1 : Orderly u1 := orderly_ite (hwHealth_orderly hu) hu
  have hu2 : Orderly u2 := latch_orderly hu1
  split
  · exact failWork_orderly hu2
  · exact hu2

theorem execRemoteWrite_keeps {index : ℕ} {find : EccFind} {s : State} : Keeps s (execRemoteWrite index find s) := by
  unfold execRemoteWrite
  extract_lets u _ u1
  have hu (h : Orderly s) : Orderly u := h
  have hu1 (h : Orderly s) : Orderly u1 := orderly_update h.wf
  split
  · exact keeps_next id
  · split
    · exact keeps_next id
    · extract_lets live u2 u3 u4
      have hu2 (h1 : Orderly s) : Orderly u2 := landTok_orderly (hu1 h1)
      have hu3 (h1 : Orderly s) : Orderly u3 := orderly_ite (modCore_orderly (hu2 h1)) (hu2 h1)
      have hu4 (h1 : Orderly s) : Orderly u4 := by
        unfold u4
        split
        · exact flitFault_orderly (hu1 h1)
        · exact pendDone_orderly (hu3 h1)
      exact keeps_next fun h1 => waitHold_orderly (hu h1) (settle_orderly (settle_orderly (hu4 h1)))

theorem execCreditReturn_keeps {index : ℕ} {s : State} : Keeps s (execCreditReturn index s) := by
  unfold execCreditReturn
  split
  · exact keeps_next id
  · split
    · exact keeps_next id
    · extract_lets _ u
      have hu (h1 : Orderly s) : Orderly u := orderly_update h1.wf
      split
      · exact keeps_next fun h1 => lateDrop_orderly (hu h1)
      · exact keeps_ite (keeps_next fun h1 => modCore_orderly (hu h1)) (keeps_next fun h1 => modCore_orderly (hu h1))

/-! ## Atomic adds (R478, R479) -/

theorem performAdd_orderly {s : State} {a typ val tcid : ℕ} {w : Option ℕ} {find : EccFind} (h : Orderly s) :
    AddOut.Orderly (performAdd s a typ val tcid w find) := by
  unfold performAdd
  extract_lets n refuse u
  have hrefuse (o : ℕ) : (refuse o).Orderly := by
    show Orderly _
    split
    · exact tagFault_orderly h
    · exact h
  have hu : Orderly u := flushGb_orderly h
  split
  · exact hrefuse _
  · exact hrefuse _
  · split
    · rename_i e
      exact orderly_of_fst (eccRead_orderly hu) e
    · rename_i v e
      have hv : Orderly v := orderly_of_fst (eccRead_orderly hu) e
      split
      exact ctrAdd_orderly (memWrite_orderly hv)

theorem landAdd_orderly {s : State} {x : Add} {find : EccFind} (h : Orderly s) : Orderly (landAdd s x find) := by
  unfold landAdd
  split
  · exact lateDrop_orderly h
  · split
    · rename_i e
      exact (performAdd_orderly h).at e
    · rename_i u e
      have hu : Orderly u := (performAdd_orderly h).at e
      exact pendDone_orderly (orderly_ite (flagWork_orderly hu) hu)

theorem execTierAtomicAdd_keeps {arrivals : List ℕ} {find : EccFind} {s : State} :
    Keeps s (execTierAtomicAdd arrivals find s) := by
  unfold execTierAtomicAdd
  extract_lets u ix xs rest _ u1 u2
  have hu (h : Orderly s) : Orderly u := h
  have hu1 (h : Orderly s) : Orderly u1 := orderly_update h.wf
  have hu2 (h : Orderly s) : Orderly u2 := by
    unfold u2
    refine orderly_foldl (fun u3 x hu3 => ?_) (hu1 h)
    split
    · exact landAdd_orderly hu3
    · exact hu3
  split
  · exact keeps_next id
  · exact keeps_next fun h1 => waitHold_orderly (hu h1) (orderly_foldl (fun _ _ => settle_orderly) (hu2 h1))

/-! ## Answers and records -/

theorem answer_orderly {s : State} {h : TxnHdr} {dedup : Bool} {p : Perf} (hs : Orderly s) : Orderly (answer s h dedup p) := by
  unfold answer
  extract_lets src u
  have hu : Orderly u := orderly_ite (recordDup_orderly hs) hs
  exact sendResponse_orderly hu

/-! ## READ and POOL (R530) -/

theorem remoteRead_orderly {s : State} {h : TxnHdr} {a n : ℕ} {find : EccFind} (hs : Orderly s) :
    Orderly (remoteRead s h a n find).1 := by
  unfold remoteRead
  split
  · exact tagFault_orderly hs
  · exact tagFault_orderly hs
  · split
    all_goals
      rename_i e
      exact orderly_of_fst (eccRead_orderly hs) e

theorem performRead_orderly {s : State} {h : TxnHdr} {region offset len : ℕ} {find : EccFind} (hs : Orderly s) :
    Orderly (performRead s h region offset len find) := by
  unfold performRead
  split
  · exact answer_orderly hs
  · split
    · exact answer_orderly hs
    · split
      · rename_i e
        exact answer_orderly (orderly_of_fst (remoteRead_orderly hs) e)

theorem poolRows_orderly {h : TxnHdr} {base rp row0 : ℕ} {l : List ℕ} {a : EccFind} {l1 : List (ℕ × List Byte)} {s : State}
    (hs : Orderly s) : Orderly (poolRows h base rp row0 l a l1 s).1 := by
  induction l generalizing a l1 s with
  | nil =>
    unfold poolRows
    dsimp -zeta only
    exact hs
  | cons x xs ih =>
    unfold poolRows
    split
    · exact ih hs
    · split
      · rename_i e
        exact ih (orderly_of_fst (remoteRead_orderly hs) e)
      · rename_i e
        exact orderly_of_fst (remoteRead_orderly hs) e

theorem performPool_orderly {s : State} {h : TxnHdr} {region row0 etype : ℕ} {weighted : Bool} {dim : ℕ} {entries : List (ℕ × ℕ)}
    {find : EccFind} (hs : Orderly s) : Orderly (performPool s h region row0 etype weighted dim entries find) := by
  unfold performPool
  split
  · exact answer_orderly hs
  · split
    · exact answer_orderly hs
    · extract_lets t rp inside es
      split
      · rename_i u _ e
        have hu : Orderly u := orderly_of_fst (poolRows_orderly hs) e
        extract_lets rowOf
        split
        · exact answer_orderly hu
      · rename_i e
        exact answer_orderly (orderly_of_fst (poolRows_orderly hs) e)

/-! ## WRITE (R527, R528) -/

/-- The function is unfolded as a constant, for the kernel would evaluate addresses to compare the body with its unfolded
  application. -/
theorem landPiece_orderly {s : State} {w c r : ℕ} {tend : Bool} {units offset : ℕ} {data : List Byte} {tag : ℕ} (h : Orderly s) :
    Orderly (landPiece s w c r tend units offset data tag) := by
  generalize hf : @landPiece = f
  delta landPiece at hf
  subst hf
  beta_reduce
  extract_lets x bs
  generalize circAddr c x (x.tail + offset) = a
  split
  · split
    rename_i u _ e
    have hu : Orderly u := orderly_of_fst (circWrite_orderly (flushGb_orderly h)) e
    split
    · exact partHit_orderly hu
    · exact orderly_ite (modCore_orderly (landTail_orderly hu)) hu
  · exact tagFault_orderly h
  · exact tagFault_orderly h

theorem performWrite_orderly {s : State} {h : TxnHdr} {dcore dreg score : ℕ} {tend : Bool} {units offset : ℕ} {data : List Byte}
    {tag : ℕ} (hs : Orderly s) : Orderly (performWrite s h dcore dreg score tend units offset data tag) := by
  unfold performWrite
  extract_lets u
  have hu : Orderly u := by
    unfold u
    split
    · exact lateDrop_orderly (ingressRefused_orderly hs)
    · exact orderly_ite (ingressRefused_orderly hs) (settle_orderly (landPiece_orderly hs))
  exact answer_orderly hu

/-! ## AADD (R529) -/

theorem addAll_orderly {h : TxnHdr} {typ : ℕ} {l : List ℕ} {n : ℕ} {a : EccFind} {a1 : Perf} {s : State} (hs : Orderly s) :
    Orderly (addAll h typ l n a a1 s).1 := by
  induction l generalizing n a a1 s with
  | nil =>
    unfold addAll
    dsimp -zeta only
    exact hs
  | cons x xs ih =>
    unfold addAll
    split
    all_goals
      rename_i e
      exact ih ((performAdd_orderly hs).at e)

theorem performAadd_orderly {s : State} {h : TxnHdr} {target etype : ℕ} {addends : List ℕ} {find : EccFind} (hs : Orderly s) :
    Orderly (performAadd s h target etype addends find) := by
  unfold performAadd
  split
  · exact answer_orderly hs
  · split
    · exact answer_orderly (tagFault_orderly hs)
    · exact answer_orderly (tagFault_orderly hs)
    · split
      · rename_i e
        exact answer_orderly (orderly_of_fst (addAll_orderly hs) e)

/-! ## CLAIM (R524) -/

theorem makePart_orderly {s : State} {h : TxnHdr} {image plan q0 : ℕ} {ext cores : List ℕ} {tag : ℕ} {m : Image} {p : PlanDesc}
    (hs : Orderly s) : Orderly (makePart s h image plan q0 ext cores tag m p) := by
  unfold makePart
  extract_lets src ixs uses r
  split
  · rename_i u e
    have hu : Orderly u := orderly_of_snd (draw_orderly (leaveDoze_orderly (noteBusy_orderly hs))) e
    extract_lets _ _ u1 u2 maps u3
    have hu1 : Orderly u1 := orderly_update hu.wf
    have hu2 : Orderly u2 := ensureCopies_orderly (touch_orderly hu1)
    have hu3 : Orderly u3 := by
      unfold u3
      refine orderly_foldl (fun u4 x1 hu4 => ?_) hu2
      extract_lets c
      exact writeCore_orderly hu4
    exact orderly_foldl (fun _ _ => kick_orderly) hu3

theorem restartPart_orderly {s : State} {p : RPart} (h : Orderly s) : Orderly (restartPart s p) := by
  unfold restartPart
  extract_lets u
  have hu : Orderly u := modPart_orderly (endFlight_orderly h)
  exact orderly_foldl (fun _ _ => kick_orderly) (ensureCopies_orderly (restage_orderly hu))

theorem placeClaim_orderly {s : State} {h : TxnHdr} {image plan q0 npos : ℕ} {ext : List ℕ} {m : Image} {p : PlanDesc}
    (hs : Orderly s) : Orderly (placeClaim s h image plan q0 npos ext m p).1 := by
  unfold placeClaim
  split
  · exact makePart_orderly hs
  · split
    · rename_i u _ _ _ e
      exact makePart_orderly (s := u) (assignFree_orderly hs e)
    · exact hs
    · rename_i e
      exact assignFree_orderly hs e
    · exact hs

theorem dropStale_orderly {s : State} {h : TxnHdr} (hs : Orderly s) : Orderly (dropStale s h) := by
  unfold dropStale
  exact orderly_foldl (fun _ _ => freePart_orderly) hs

theorem performClaim_orderly {s : State} {h : TxnHdr} {image plan q0 npos : ℕ} {ext : List ℕ} (hs : Orderly s) :
    Orderly (performClaim s h image plan q0 npos ext) := by
  unfold performClaim
  extract_lets u
  have hu : Orderly u := dropStale_orderly hs
  split
  · exact answer_orderly (restartPart_orderly hu)
  · split
    · exact answer_orderly hu
    · exact answer_orderly hu
    · split
      · exact answer_orderly hu
      · split
        · exact answer_orderly hu
        · split
          · rename_i e
            exact answer_orderly (orderly_of_fst (placeClaim_orderly hu) e)

/-! ## REPORT, RELEASE, QUENCH (R525, R526) -/

theorem performReport_orderly {s : State} {h : TxnHdr} {status : ℕ} {sat nan : Bool} (hs : Orderly s) :
    Orderly (performReport s h status sat nan) := by
  unfold performReport
  extract_lets u
  have hu : Orderly u := by
    unfold u
    split
    · exact lateDrop_orderly hs
    · split
      · exact lateDrop_orderly hs
      · split
        · exact hs
        · extract_lets ps u1
          have hu1 : Orderly u1 := setJob_orderly hs
          exact orderly_ite hu1 (failJob_orderly hu1)
  exact answer_orderly hu

theorem performRelease_orderly {s : State} {h : TxnHdr} (hs : Orderly s) : Orderly (performRelease s h) := by
  unfold performRelease
  extract_lets u
  have hu : Orderly u := by
    unfold u
    split
    · exact freePart_orderly hs
    · exact hs
  exact answer_orderly hu

theorem performQuench_orderly {s : State} {h : TxnHdr} (hs : Orderly s) : Orderly (performQuench s h) := by
  unfold performQuench
  split
  · exact answer_orderly hs
  · extract_lets w us u
    have hu : Orderly u := cancelStaging_orderly (abandonTxns_orderly (stopChain_orderly hs))
    exact modPart_orderly hu

/-! ## HOTROW (R419, R420) -/

theorem performHotrow_orderly {s : State} {h : TxnHdr} {region row : ℕ} {data : List Byte} (hs : Orderly s) :
    Orderly (performHotrow s h region row data) := by
  unfold performHotrow
  extract_lets t u
  have hu : Orderly u := by
    unfold u
    split
    · exact declineRow_orderly hs
    · split
      · exact hs
      · split
        · rename_i e
          exact ledgerOwn_orderly ((insertHot_orderly hs) _ e)
        · exact declineInsert_orderly hs
  exact answer_orderly hu

/-! ## The performer (R521, R522) -/

theorem performReq_orderly {f : ReqFrame} {s : State} (h : Orderly s) : Orderly (performReq f s) := by
  unfold performReq
  extract_lets h1
  split
  · exact performRead_orderly h
  · exact performWrite_orderly h
  · exact performAadd_orderly h
  · exact performPool_orderly h
  · exact performClaim_orderly h
  · exact performReport_orderly h
  · exact performRelease_orderly h
  · exact performQuench_orderly h
  · exact performHotrow_orderly h

theorem takeFrame_orderly {f : ReqFrame} {s : State} (h : Orderly s) : Orderly (takeFrame f s) := by
  unfold takeFrame
  extract_lets h1 old _ u
  clear_value old
  clear_value h1
  have hu : Orderly u := orderly_update h.wf
  split
  · exact orderly_ite (performReq_orderly hu) (orderly_update hu.wf)
  · split
    · exact hu
    · exact orderly_ite (performReq_orderly hu) (orderly_update hu.wf)

theorem lateFrame_orderly {f : ReqFrame} {s : State} (h : Orderly s) : Orderly (lateFrame f s) := by
  unfold lateFrame
  extract_lets h1 u
  have hu : Orderly u := ctrAdd_orderly h
  split
  · exact takeFrame_orderly h
  · split
    · exact ctrAdd_orderly h
    · split
      · split <;> exact answer_orderly hu
      · exact answer_orderly hu

theorem setExpected_orderly {s : State} {src : ℕ} {e : BitVec 16} (h : Orderly s) : Orderly (setExpected s src e) := by
  unfold setExpected
  exact orderly_update h.wf

theorem arrive_orderly {f : ReqFrame} {s : State} (h : Orderly s) : Orderly (arrive f s) := by
  unfold arrive
  extract_lets src u e
  have hu : Orderly u := orderly_ite (setExpected_orderly h) h
  split
  · exact takeFrame_orderly (setExpected_orderly hu)
  · exact orderly_ite (orderly_ite (orderly_update hu.wf) (ctrAdd_orderly hu)) (lateFrame_orderly hu)

theorem drainReorder_orderly {src n : ℕ} {s : State} (h : Orderly s) : Orderly (drainReorder src n s) := by
  induction n generalizing s with
  | zero =>
    unfold drainReorder
    exact h
  | succ n ih =>
    unfold drainReorder
    split
    · exact h
    · split
      · exact h
      · exact ih (arrive_orderly (orderly_update h.wf))

theorem txnRow_orderly {h : TxnHdr} {op : TxnOp} {find : EccFind} {s : State} (hs : Orderly s) :
    Orderly (txnRow h op find s) := by
  unfold txnRow
  split
  · exact hs
  · extract_lets f u
    have hu : Orderly u := drainReorder_orderly (arrive_orderly hs)
    exact orderly_ite hu (orderly_ite (orderly_update hs.wf) (ctrAdd_orderly hs))

theorem heldFrames_orderly {s : State} (h : Orderly s) : Orderly (heldFrames s) := by
  unfold heldFrames
  exact orderly_foldl (fun _ _ hu => waitHold_orderly hu (drainReorder_orderly hu)) h

theorem execTxnRead_keeps {h : TxnHdr} {region offset len : ℕ} {find : EccFind} {s : State} :
    Keeps s (execTxnRead h region offset len find s) := by
  unfold execTxnRead
  exact keeps_next txnRow_orderly

theorem execTxnWrite_keeps {h : TxnHdr} {dcore : CoreId} {dreg : Fin 16} {score : CoreId} {tend : Bool} {units offset : ℕ}
    {data : List Byte} {tag : Fin 16} {s : State} : Keeps s (execTxnWrite h dcore dreg score tend units offset data tag s) := by
  unfold execTxnWrite
  exact keeps_next txnRow_orderly

theorem execTxnAadd_keeps {h : TxnHdr} {target etype : ℕ} {addends : List W32} {find : EccFind} {s : State} :
    Keeps s (execTxnAadd h target etype addends find s) := by
  unfold execTxnAadd
  exact keeps_next txnRow_orderly

theorem execTxnPool_keeps {h : TxnHdr} {region row0 etype : ℕ} {weighted : Bool} {dim : ℕ} {entries : List PoolEntry}
    {find : EccFind} {s : State} : Keeps s (execTxnPool h region row0 etype weighted dim entries find s) := by
  unfold execTxnPool
  exact keeps_next txnRow_orderly

theorem execTxnClaim_keeps {h : TxnHdr} {image plan q0 npos : ℕ} {ext : List ℕ} {s : State} :
    Keeps s (execTxnClaim h image plan q0 npos ext s) := by
  unfold execTxnClaim
  exact keeps_next txnRow_orderly

theorem execTxnReport_keeps {h : TxnHdr} {status : BitVec 16} {sat nan : Bool} {s : State} :
    Keeps s (execTxnReport h status sat nan s) := by
  unfold execTxnReport
  exact keeps_next txnRow_orderly

theorem execTxnRelease_keeps {h : TxnHdr} {s : State} : Keeps s (execTxnRelease h s) := by
  unfold execTxnRelease
  exact keeps_next txnRow_orderly

theorem execTxnQuench_keeps {h : TxnHdr} {s : State} : Keeps s (execTxnQuench h s) := by
  unfold execTxnQuench
  exact keeps_next txnRow_orderly

theorem execTxnHotrow_keeps {h : TxnHdr} {region row : ℕ} {data : List Byte} {s : State} :
    Keeps s (execTxnHotrow h region row data s) := by
  unfold execTxnHotrow
  exact keeps_next fun h1 => orderly_ite (txnRow_orderly h1) h1

/-! ## CREDIT (R528) -/

theorem execTxnCredit_keeps {h : TxnHdr} {pcore ccore : CoreId} {creg : Fin 16} {total : W32} {s : State} :
    Keeps s (execTxnCredit h pcore ccore creg total s) := by
  unfold execTxnCredit
  extract_lets c key t
  split
  · exact keeps_next id
  · split
    · exact keeps_next lateDrop_orderly
    · exact keeps_ite (keeps_next fun h1 => modCore_orderly (orderly_update h1.wf)) (keeps_next id)

theorem refreshCredits_orderly {s : State} {c : ℕ} (h : Orderly s) : Orderly (refreshCredits s c) := by
  unfold refreshCredits
  exact orderly_foldl (fun _ _ hu => orderly_ite (sendTotal_orderly hu) hu) h

theorem execCreditRefresh_keeps {core_ : CoreId} {s : State} : Keeps s (execCreditRefresh core_ s) := by
  unfold execCreditRefresh
  exact keeps_ite (keeps_next refreshCredits_orderly) (keeps_next id)

/-! ## Responses (R519, R520) -/

theorem resumeGathers_orderly {s : State} (h : Orderly s) : Orderly (resumeGathers s) := by
  unfold resumeGathers
  exact orderly_foldl (fun _ _ hu => settle_orderly (gatherGo_orderly hu)) h

theorem claimAnswered_orderly {s : State} {t : Txn} {q0 : ℕ} {st : PartSt} {cores : List ℕ} (h : Orderly s) :
    Orderly (claimAnswered s t q0 st cores) := by
  unfold claimAnswered
  extract_lets upd rs held u
  have hu : Orderly u := orderly_update h.wf
  split
  · exact orderly_ite hu (lateDrop_orderly hu)
  · split
    · exact orderly_ite hu (lateDrop_orderly hu)
    · extract_lets j u1
      have hu1 : Orderly u1 := setJob_orderly hu
      split
      · extract_lets maps
        exact orderly_foldl (fun _ _ => modCore_orderly) hu1
      · exact failJob_orderly hu1
      · exact orderly_foldl (fun _ _ hu2 => sendTxn_orderly (setJob_orderly hu2)) hu1
      · exact hu1

theorem quenchAnswered_orderly {s : State} {t : Txn} (h : Orderly s) : Orderly (quenchAnswered s t) := by
  unfold quenchAnswered
  split
  · exact lateDrop_orderly h
  · split
    · exact lateDrop_orderly h
    · split
      · exact h
      · split
        · exact h
        · exact quenchDone_orderly (setJob_orderly h)

theorem remoteDone_orderly {s : State} {t : Txn} {status : ℕ} {sat nan : Bool} (h : Orderly s) :
    Orderly (remoteDone s t status sat nan) := by
  unfold remoteDone
  split
  · exact h
  · split
    · exact settle_orderly (failWork_orderly h)
    · exact settle_orderly (pendDone_orderly (orderly_ite (flagWork_orderly h) h))

theorem completeTxn_orderly {s : State} {txid : ℕ} {t : Txn} {r : TxnRsp} {payload : List Byte} (h : Orderly s) :
    Orderly (completeTxn s txid t r payload) := by
  unfold completeTxn
  extract_lets st u
  have hu : Orderly u := by
    unfold u
    split
    · exact lateDrop_orderly h
    · split
      · exact settle_orderly (gatherAnswer_orderly h)
      · exact settle_orderly (gatherAnswer_orderly h)
      · exact remoteDone_orderly h
      · exact remoteDone_orderly h
      · exact orderly_ite (claimAnswered_orderly h) (orderly_ite (claimAnswered_orderly h) (claimAnswered_orderly h))
      · exact quenchAnswered_orderly h
      · exact h
      · exact h
      · exact h
  exact resumeGathers_orderly hu

theorem execTxnResponse_keeps {r : TxnRsp} {s : State} : Keeps s (execTxnResponse r s) := by
  unfold execTxnResponse
  extract_lets id
  clear_value id
  split
  · exact keeps_next fun h => h
  · split
    · exact keeps_next ctrAdd_orderly
    · split
      · exact keeps_next ctrAdd_orderly
      · extract_lets got last
        clear_value last
        clear_value got
        split
        · split
          · extract_lets payload
            clear_value payload
            exact keeps_next fun h1 => completeTxn_orderly (orderly_update h1.wf)
          · exact keeps_next fun h1 => orderly_update h1.wf
        · exact keeps_next fun h1 => orderly_update h1.wf

theorem failTxn_orderly {s : State} {t : Txn} {status : ℕ} (h : Orderly s) : Orderly (failTxn s t status) := by
  unfold failTxn
  extract_lets u
  have hu : Orderly u := by
    unfold u
    split
    · exact h
    · split
      · exact claimAnswered_orderly h
      · split
        · exact failWork_orderly h
        · exact h
  exact resumeGathers_orderly (orderly_ite (settle_orderly hu) hu)

theorem execE2eRetry_keeps {txid : BitVec 32} {s : State} : Keeps s (execE2eRetry txid s) := by
  unfold execE2eRetry
  extract_lets id
  split
  · exact keeps_next fun h => h
  · split
    · exact keeps_next fun h => h
    · split
      · exact keeps_next fun h => h
      · split
        · extract_lets t1
          exact keeps_next fun h1 => sendFrames_orderly (ctrAdd_orderly (orderly_update h1.wf))
        · exact keeps_next fun h1 => failTxn_orderly (orderly_update h1.wf)

theorem execDuplicateRecordExpiry_keeps {src : BitVec 12} {txid : BitVec 32} {s : State} :
    Keeps s (execDuplicateRecordExpiry src txid s) := by
  unfold execDuplicateRecordExpiry
  exact keeps_next fun h => orderly_update h.wf

/-! ## The end of a reserved load's hold, and what has waited for it -/

theorem heldHost_orderly {n : ℕ} {s : State} (h : Orderly s) : Orderly (heldHost n s) := by
  induction n generalizing s with
  | zero =>
    unfold heldHost
    exact h
  | succ n ih =>
    unfold heldHost
    split
    · exact h
    · split
      · extract_lets _ u
        have hu : Orderly u := bar2Perform_orderly (orderly_update h.wf)
        exact orderly_ite h (ih hu)
      · exact ih (bar0Answer_orderly (orderly_update h.wf))
      · exact h

theorem afterHold_orderly {s : State} (h : Orderly s) : Orderly (afterHold s) := by
  unfold afterHold
  exact resumeGathers_orderly (heldFrames_orderly (heldHost_orderly h))

theorem execReservationHoldExpiry_keeps {ag : Agent} {s : State} : Keeps s (execReservationHoldExpiry ag s) := by
  unfold execReservationHoldExpiry
  exact keeps_ite (keeps_next id) (keeps_next fun h => afterHold_orderly (setSeq_orderly h))

/-! ## The acknowledgements of a quench and their bound -/

theorem execQuenchAck_keeps {job : JobId} {ack : AckOf} {s : State} : Keeps s (execQuenchAck job ack s) := by
  unfold execQuenchAck
  extract_lets gen unit j local_
  clear_value local_
  split
  · exact keeps_next id
  · split
    · exact keeps_next fun h => resumeGathers_orderly (quenchDone_orderly (setJob_orderly h))
    · split
      · exact keeps_next fun h => orderly_ite h (lateDrop_orderly h)
      · exact keeps_next fun h => resumeGathers_orderly (partQuenched_orderly (modPart_orderly h))

theorem missedAck_orderly {s : State} {j : ℕ} {x : Job} {q : Quench} {u : ℕ} (h : Orderly s) : Orderly (missedAck s j x q u) := by
  unfold missedAck
  extract_lets us u1
  have hu1 : Orderly u1 := hwHealth_orderly h
  exact orderly_ite (latch_orderly h) (latch_orderly hu1)

theorem execQuenchBoundExpiry_keeps {job : JobId} {moverResetOk : Bool} {s : State} :
    Keeps s (execQuenchBoundExpiry job moverResetOk s) := by
  unfold execQuenchBoundExpiry
  extract_lets j
  split
  · exact keeps_next id
  · split
    · exact keeps_next id
    · split
      · exact keeps_next id
      · extract_lets u u1
        have hu (h1 : Orderly s) : Orderly u := orderly_foldl (fun _ _ => missedAck_orderly) h1
        have hu1 (h1 : Orderly s) : Orderly u1 := resumeGathers_orderly (finishQuench_orderly (hu h1))
        exact keeps_next fun h1 => orderly_ite (fatal_orderly (hu1 h1)) (hu1 h1)

/-! ## The register instructions of the sequencer -/

theorem aluR_keeps {i : Instr} {ag : Agent} {gd ga gb : RegId} {f : Word → Word → Word} {s : State} :
    Keeps s (aluR i ag gd ga gb f s) := by
  unfold aluR
  refine seqRow_keeps (fun u hu => ?_)
  extract_lets q
  exact optOrderly_some (retireGd_orderly hu)

theorem aluI_keeps {i : Instr} {ag : Agent} {gd ga : RegId} {f : Word → Word} {s : State} : Keeps s (aluI i ag gd ga f s) := by
  unfold aluI
  exact seqRow_keeps (fun _ hu => optOrderly_some (retireGd_orderly hu))

theorem execAdd_keeps {ag : Agent} {gd ga gb : RegId} {s : State} : Keeps s (execAdd ag gd ga gb s) := by
  unfold execAdd
  exact aluR_keeps

theorem execSub_keeps {ag : Agent} {gd ga gb : RegId} {s : State} : Keeps s (execSub ag gd ga gb s) := by
  unfold execSub
  exact aluR_keeps

theorem execAnd_keeps {ag : Agent} {gd ga gb : RegId} {s : State} : Keeps s (execAnd ag gd ga gb s) := by
  unfold execAnd
  exact aluR_keeps

theorem execOr_keeps {ag : Agent} {gd ga gb : RegId} {s : State} : Keeps s (execOr ag gd ga gb s) := by
  unfold execOr
  exact aluR_keeps

theorem execXor_keeps {ag : Agent} {gd ga gb : RegId} {s : State} : Keeps s (execXor ag gd ga gb s) := by
  unfold execXor
  exact aluR_keeps

theorem execSll_keeps {ag : Agent} {gd ga gb : RegId} {s : State} : Keeps s (execSll ag gd ga gb s) := by
  unfold execSll
  exact aluR_keeps

theorem execSrl_keeps {ag : Agent} {gd ga gb : RegId} {s : State} : Keeps s (execSrl ag gd ga gb s) := by
  unfold execSrl
  exact aluR_keeps

theorem execSra_keeps {ag : Agent} {gd ga gb : RegId} {s : State} : Keeps s (execSra ag gd ga gb s) := by
  unfold execSra
  exact aluR_keeps

theorem execSlt_keeps {ag : Agent} {gd ga gb : RegId} {s : State} : Keeps s (execSlt ag gd ga gb s) := by
  unfold execSlt
  exact aluR_keeps

theorem execSltu_keeps {ag : Agent} {gd ga gb : RegId} {s : State} : Keeps s (execSltu ag gd ga gb s) := by
  unfold execSltu
  exact aluR_keeps

theorem execMin_keeps {ag : Agent} {gd ga gb : RegId} {s : State} : Keeps s (execMin ag gd ga gb s) := by
  unfold execMin
  exact aluR_keeps

theorem execMax_keeps {ag : Agent} {gd ga gb : RegId} {s : State} : Keeps s (execMax ag gd ga gb s) := by
  unfold execMax
  exact aluR_keeps

theorem execMinu_keeps {ag : Agent} {gd ga gb : RegId} {s : State} : Keeps s (execMinu ag gd ga gb s) := by
  unfold execMinu
  exact aluR_keeps

theorem execMaxu_keeps {ag : Agent} {gd ga gb : RegId} {s : State} : Keeps s (execMaxu ag gd ga gb s) := by
  unfold execMaxu
  exact aluR_keeps

theorem execMul_keeps {ag : Agent} {gd ga gb : RegId} {s : State} : Keeps s (execMul ag gd ga gb s) := by
  unfold execMul
  exact aluR_keeps

theorem execMulh_keeps {ag : Agent} {gd ga gb : RegId} {s : State} : Keeps s (execMulh ag gd ga gb s) := by
  unfold execMulh
  exact aluR_keeps

theorem execMulhu_keeps {ag : Agent} {gd ga gb : RegId} {s : State} : Keeps s (execMulhu ag gd ga gb s) := by
  unfold execMulhu
  exact aluR_keeps

theorem execDiv_keeps {ag : Agent} {gd ga gb : RegId} {s : State} : Keeps s (execDiv ag gd ga gb s) := by
  unfold execDiv
  exact aluR_keeps

theorem execDivu_keeps {ag : Agent} {gd ga gb : RegId} {s : State} : Keeps s (execDivu ag gd ga gb s) := by
  unfold execDivu
  exact aluR_keeps

theorem execRem_keeps {ag : Agent} {gd ga gb : RegId} {s : State} : Keeps s (execRem ag gd ga gb s) := by
  unfold execRem
  exact aluR_keeps

theorem execRemu_keeps {ag : Agent} {gd ga gb : RegId} {s : State} : Keeps s (execRemu ag gd ga gb s) := by
  unfold execRemu
  exact aluR_keeps

theorem execAddi_keeps {ag : Agent} {gd ga : RegId} {imm : BitVec 15} {s : State} : Keeps s (execAddi ag gd ga imm s) := by
  unfold execAddi
  exact aluI_keeps

theorem execAndi_keeps {ag : Agent} {gd ga : RegId} {imm : BitVec 15} {s : State} : Keeps s (execAndi ag gd ga imm s) := by
  unfold execAndi
  exact aluI_keeps

theorem execOri_keeps {ag : Agent} {gd ga : RegId} {imm : BitVec 15} {s : State} : Keeps s (execOri ag gd ga imm s) := by
  unfold execOri
  exact aluI_keeps

theorem execXori_keeps {ag : Agent} {gd ga : RegId} {imm : BitVec 15} {s : State} : Keeps s (execXori ag gd ga imm s) := by
  unfold execXori
  exact aluI_keeps

theorem execSlli_keeps {ag : Agent} {gd ga : RegId} {sh : BitVec 6} {s : State} : Keeps s (execSlli ag gd ga sh s) := by
  unfold execSlli
  exact aluI_keeps

theorem execSrli_keeps {ag : Agent} {gd ga : RegId} {sh : BitVec 6} {s : State} : Keeps s (execSrli ag gd ga sh s) := by
  unfold execSrli
  exact aluI_keeps

theorem execSrai_keeps {ag : Agent} {gd ga : RegId} {sh : BitVec 6} {s : State} : Keeps s (execSrai ag gd ga sh s) := by
  unfold execSrai
  exact aluI_keeps

theorem execSlti_keeps {ag : Agent} {gd ga : RegId} {imm : BitVec 15} {s : State} : Keeps s (execSlti ag gd ga imm s) := by
  unfold execSlti
  exact aluI_keeps

theorem execSltiu_keeps {ag : Agent} {gd ga : RegId} {imm : BitVec 15} {s : State} : Keeps s (execSltiu ag gd ga imm s) := by
  unfold execSltiu
  exact aluI_keeps

theorem execLui_keeps {ag : Agent} {gd : RegId} {imm : BitVec 20} {s : State} : Keeps s (execLui ag gd imm s) := by
  unfold execLui
  exact seqRow_keeps (fun _ hu => optOrderly_some (retireGd_orderly hu))

theorem execAuipc_keeps {ag : Agent} {gd : RegId} {imm : BitVec 20} {s : State} : Keeps s (execAuipc ag gd imm s) := by
  unfold execAuipc
  exact seqRow_keeps (fun _ hu => optOrderly_some (retireGd_orderly hu))

/-! ## Masks and operands -/

theorem readX_orderly {s : State} {c w i : ℕ} (h : Orderly s) : Lanes.Orderly (readX s c w i) := by
  unfold readX
  split
  · extract_lets x f
    exact h
  · split
    all_goals
      rename_i e
      exact (readTile_orderly h).at e

theorem readY_orderly {s : State} {c w i : ℕ} (h : Orderly s) : Lanes.Orderly (readY s c w i) := by
  unfold readY
  split
  all_goals
    rename_i e
    exact (readTile_orderly h).at e

/-! ## Writing -/

theorem writeCols_orderly {s : State} {c w win off : ℕ} {t : EType} {cols vals : List ℕ} (h : Orderly s) :
    Orderly (writeCols s c w win off t cols vals) := by
  unfold writeCols
  extract_lets z
  exact orderly_foldl (fun _ _ hu => orderly_ite hu (engWrite_orderly hu)) h

theorem vecCounts_orderly {s : State} {c sat lim masked pad : ℕ} (h : Orderly s) :
    Orderly (vecCounts s c sat lim masked pad) := by
  unfold vecCounts
  exact countCore_orderly (countCore_orderly (countCore_orderly (countCore_orderly h)))

theorem vecDone_orderly {s : State} {c cycles : ℕ} (h : Orderly s) : Orderly (vecDone s c cycles) := by
  unfold vecDone
  exact orderly_ite h (count_orderly h)

/-! ## Element-wise operations (R391, R392) -/

theorem elementwise_orderly {s : State} {c w i : ℕ} {xs ys : List (List ℕ)} {f : ℕ → ℕ → ℕ → ℕ × Bool} {all : Bool}
    (h : Orderly s) : Orderly (elementwise s c w i xs ys f all) := by
  unfold elementwise
  extract_lets k cols row rows outs hits sat lim u u1
  have hu : Orderly u := orderly_foldl (fun _ _ => writeCols_orderly) h
  have hu1 : Orderly u1 := vecCounts_orderly hu
  exact vecDone_orderly hu1

theorem binBody_orderly {op c : ℕ} {s : State} {w : ℕ} {q : QEnt} (h : Orderly s) : Orderly (binBody op c s w q) := by
  unfold binBody
  extract_lets i
  split
  · exact invalidField_orderly h
  · split
    · rename_i e
      exact (readX_orderly h).at e
    · rename_i u e
      have hu : Orderly u := (readX_orderly h).at e
      split
      · rename_i e1
        exact (readY_orderly hu).at e1
      · rename_i e1
        exact elementwise_orderly ((readY_orderly hu).at e1)

theorem vecRow_keeps {c op : ℕ} {body : State → ℕ → QEnt → State} {s : State}
    (hbody : ∀ u x1 x2, Orderly u → Orderly (body u x1 x2)) : Keeps s (vecRow c op body s) := by
  unfold vecRow
  exact keeps_next fun h => engineRow_orderly h hbody

theorem execVadd_keeps {core : CoreId} {s : State} : Keeps s (execVadd core s) := by
  unfold execVadd
  exact vecRow_keeps (fun _ _ _ => binBody_orderly)

theorem execVsub_keeps {core : CoreId} {s : State} : Keeps s (execVsub core s) := by
  unfold execVsub
  exact vecRow_keeps (fun _ _ _ => binBody_orderly)

theorem execVmul_keeps {core : CoreId} {s : State} : Keeps s (execVmul core s) := by
  unfold execVmul
  exact vecRow_keeps (fun _ _ _ => binBody_orderly)

theorem execVmax_keeps {core : CoreId} {s : State} : Keeps s (execVmax core s) := by
  unfold execVmax
  exact vecRow_keeps (fun _ _ _ => binBody_orderly)

theorem execVmin_keeps {core : CoreId} {s : State} : Keeps s (execVmin core s) := by
  unfold execVmin
  exact vecRow_keeps (fun _ _ _ => binBody_orderly)

theorem vcvtBody_orderly {c : ℕ} {s : State} {w : ℕ} {q : QEnt} (h : Orderly s) : Orderly (vcvtBody c s w q) := by
  unfold vcvtBody
  split
  · exact invalidField_orderly h
  · split
    · rename_i e
      exact (readX_orderly h).at e
    · rename_i e
      exact elementwise_orderly ((readX_orderly h).at e)

theorem execVcvt_keeps {core : CoreId} {s : State} : Keeps s (execVcvt core s) := by
  unfold execVcvt
  exact vecRow_keeps (fun _ _ _ => vcvtBody_orderly)

theorem vselBody_orderly {c : ℕ} {s : State} {w : ℕ} {q : QEnt} (h : Orderly s) : Orderly (vselBody c s w q) := by
  unfold vselBody
  extract_lets i
  split
  · exact invalidField_orderly h
  · split
    · rename_i e
      exact (readX_orderly h).at e
    · rename_i u e
      have hu : Orderly u := (readX_orderly h).at e
      split
      · rename_i e1
        exact (readY_orderly hu).at e1
      · rename_i u1 e1
        have hu1 : Orderly u1 := (readY_orderly hu).at e1
        extract_lets mk
        exact elementwise_orderly hu1

theorem execVsel_keeps {core : CoreId} {s : State} : Keeps s (execVsel core s) := by
  unfold execVsel
  exact vecRow_keeps (fun _ _ _ => vselBody_orderly)

theorem setMask_orderly {s : State} {c reg : ℕ} {cols : List ℕ} {f : ℕ → Bool} (h : Orderly s) :
    Orderly (setMask s c reg cols f) := by
  unfold setMask
  exact modCore_orderly h

theorem vcmpBody_orderly {c : ℕ} {s : State} {w : ℕ} {q : QEnt} (h : Orderly s) : Orderly (vcmpBody c s w q) := by
  unfold vcmpBody
  extract_lets i
  split
  · exact invalidField_orderly h
  · split
    · rename_i e
      exact (readX_orderly h).at e
    · rename_i u e
      have hu : Orderly u := (readX_orderly h).at e
      split
      · rename_i e1
        exact (readY_orderly hu).at e1
      · rename_i u1 e1
        have hu1 : Orderly u1 := (readY_orderly hu).at e1
        extract_lets k x1 y u2
        have hu2 : Orderly u2 := setMask_orderly hu1
        exact vecDone_orderly (vecCounts_orderly hu2)

theorem execVcmp_keeps {core : CoreId} {s : State} : Keeps s (execVcmp core s) := by
  unfold execVcmp
  exact vecRow_keeps (fun _ _ _ => vcmpBody_orderly)

theorem vmaskldBody_orderly {c : ℕ} {s : State} {w : ℕ} {q : QEnt} (h : Orderly s) : Orderly (vmaskldBody c s w q) := by
  unfold vmaskldBody
  extract_lets i
  split
  · rename_i e
    exact (engRead_orderly h).at e
  · rename_i u e
    have hu : Orderly u := (engRead_orderly h).at e
    extract_lets k u1
    have hu1 : Orderly u1 := setMask_orderly hu
    exact vecDone_orderly (vecCounts_orderly hu1)

theorem execVmaskld_keeps {core : CoreId} {s : State} : Keeps s (execVmaskld core s) := by
  unfold execVmaskld
  exact vecRow_keeps (fun _ _ _ => vmaskldBody_orderly)

/-! ## Reductions (R394) -/

theorem reduceBody_orderly {op c : ℕ} {s : State} {w : ℕ} {q : QEnt} (h : Orderly s) : Orderly (reduceBody op c s w q) := by
  unfold reduceBody
  extract_lets i
  split
  · exact invalidField_orderly h
  · split
    · rename_i e
      exact (readX_orderly h).at e
    · rename_i u e
      have hu : Orderly u := (readX_orderly h).at e
      extract_lets k cols rs outs u1 u2
      have hu1 : Orderly u1 := writeCols_orderly hu
      have hu2 : Orderly u2 := vecCounts_orderly hu1
      exact vecDone_orderly hu2

theorem execRsum_keeps {core : CoreId} {s : State} : Keeps s (execRsum core s) := by
  unfold execRsum
  exact vecRow_keeps (fun _ _ _ => reduceBody_orderly)

theorem execRmax_keeps {core : CoreId} {s : State} : Keeps s (execRmax core s) := by
  unfold execRmax
  exact vecRow_keeps (fun _ _ _ => reduceBody_orderly)

theorem execRmin_keeps {core : CoreId} {s : State} : Keeps s (execRmin core s) := by
  unfold execRmin
  exact vecRow_keeps (fun _ _ _ => reduceBody_orderly)

/-! ## Top-k (R395) -/

theorem topkBody_orderly {c : ℕ} {s : State} {w : ℕ} {q : QEnt} (h : Orderly s) : Orderly (topkBody c s w q) := by
  unfold topkBody
  extract_lets i n small
  split
  · exact invalidField_orderly h
  · split
    · rename_i e
      exact (readX_orderly h).at e
    · rename_i u e
      have hu : Orderly u := (readX_orderly h).at e
      extract_lets k best outs u1 u2 u3
      have hu1 : Orderly u1 := by
        unfold u1
        refine orderly_foldl (fun u4 x1 hu4 => ?_) hu
        extract_lets b o vals idxs u5
        have hu5 : Orderly u5 := writeCols_orderly hu4
        exact writeCols_orderly hu5
      have hu2 : Orderly u2 := vecCounts_orderly hu1
      have hu3 : Orderly u3 := countCore_orderly hu2
      exact vecDone_orderly hu3

theorem execTopk_keeps {core : CoreId} {s : State} : Keeps s (execTopk core s) := by
  unfold execTopk
  exact vecRow_keeps (fun _ _ _ => topkBody_orderly)

/-! ## COMBINE (R396) -/

theorem combineBody_orderly {c : ℕ} {s : State} {w : ℕ} {q : QEnt} (h : Orderly s) : Orderly (combineBody c s w q) := by
  unfold combineBody
  extract_lets i t
  split
  · rename_i e
    exact (readX_orderly h).at e
  · rename_i u e
    have hu : Orderly u := (readX_orderly h).at e
    extract_lets k d
    have hd : Rd.Orderly d := by
      unfold d
      split
      · exact engRead_orderly hu
      · exact hu
    clear_value d
    split
    · exact hd
    · exact vecDone_orderly (vecCounts_orderly (writeCols_orderly hd))

theorem execCombine_keeps {core : CoreId} {s : State} : Keeps s (execCombine core s) := by
  unfold execCombine
  exact vecRow_keeps (fun _ _ _ => combineBody_orderly)

/-! ## AADD (R397, R398, R529) -/

theorem aaddBody_orderly {c : ℕ} {s : State} {w : ℕ} {q : QEnt} (h : Orderly s) : Orderly (aaddBody c s w q) := by
  unfold aaddBody
  extract_lets i k t node base u places n p
  have hu : Orderly u := setCore_orderly h
  split
  · exact invalidField_orderly h
  · split
    · rename_i e
      exact dropInstr_orderly ((readX_orderly hu).at e)
    · rename_i u1 e
      have hu1 : Orderly u1 := (readX_orderly hu).at e
      extract_lets val u2 u3 adds
      have hu2 : Orderly u2 := vecCounts_orderly hu1
      have hu3 : Orderly u3 := modCore_orderly hu2
      split
      · exact vecDone_orderly (modCore_orderly hu2)
      · exact orderly_ite (orderly_update hu3.wf) (orderly_foldl (fun _ _ => sendTxn_orderly) hu3)

theorem execAadd_keeps {core : CoreId} {s : State} : Keeps s (execAadd core s) := by
  unfold execAadd
  exact keeps_next fun h => engineRow_orderly h (fun _ _ _ => aaddBody_orderly)

end Sys2Proof.Machine
end

section
/-! PROOFS. Every command answers a next state, and a step keeps memory in its canonical form (R463). -/
namespace Sys2Proof.Machine

/-! ## One arm per command -/

theorem exec_keeps {i : Instr} {s : State} : Keeps s (exec i s) := by
  cases i with
  | powerOn => exact execPowerOn_keeps
  | perst => exact execPerst_keeps
  | hostCold => exact execHostCold_keeps
  | hostWarm => exact execHostWarm_keeps
  | flr => exact execFlr_keeps
  | hotReset => exact execHotReset_keeps
  | eftWatchdog => exact execEftWatchdog_keeps
  | inputUndervoltage => exact execInputUndervoltage_keeps
  | thermalTrip => exact execThermalTrip_keeps
  | pinFreeze => exact execPinFreeze_keeps
  | fatalReport => exact execFatalReport_keeps
  | freezeSequenceStep => exact execFreezeSequenceStep_keeps
  | sroRestart => exact execSroRestart_keeps
  | imageVerifyDone => exact execImageVerifyDone_keeps
  | selftestDone => exact execSelftestDone_keeps
  | trainingDone => exact execTrainingDone_keeps
  | tierInitFillDone => exact execTierInitFillDone_keeps
  | ready => exact execReady_keeps
  | recover => exact execRecover_keeps
  | trialAbandon => exact execTrialAbandon_keeps
  | sleepEntry => exact execSleepEntry_keeps
  | wake => exact execWake_keeps
  | wakeDone => exact execWakeDone_keeps
  | torporEntry => exact execTorporEntry_keeps
  | torporWake => exact execTorporWake_keeps
  | torporWakeDone => exact execTorporWakeDone_keeps
  | coreDoze => exact execCoreDoze_keeps
  | scrubWake => exact execScrubWake_keeps
  | spScrubDoze => exact execSpScrubDoze_keeps
  | monitorSample => exact execMonitorSample_keeps
  | currentWarning => exact execCurrentWarning_keeps
  | fmaxStep => exact execFmaxStep_keeps
  | clockStep => exact execClockStep_keeps
  | powerFloor => exact execPowerFloor_keeps
  | linkL1Request => exact execLinkL1Request_keeps
  | powerMgmtState => exact execPowerMgmtState_keeps
  | bar2Resize => exact execBar2Resize_keeps
  | bar2Access => exact execBar2Access_keeps
  | sysWinBaseWrite => exact execSysWinBaseWrite_keeps
  | sysWinCtlWrite => exact execSysWinCtlWrite_keeps
  | sysTimeRead => exact execSysTimeRead_keeps
  | bar0Write => exact execBar0Write_keeps
  | sqDoorbell => exact execSqDoorbell_keeps
  | cqHeadWrite => exact execCqHeadWrite_keeps
  | mbxDoorbell => exact execMbxDoorbell_keeps
  | mbxDoneClear => exact execMbxDoneClear_keeps
  | mbxEvqBaseWrite => exact execMbxEvqBaseWrite_keeps
  | mbxEvqCtlWrite => exact execMbxEvqCtlWrite_keeps
  | mbxEvqHeadWrite => exact execMbxEvqHeadWrite_keeps
  | cmdTimeout => exact execCmdTimeout_keeps
  | croak => exact execCroak_keeps
  | identify => exact execIdentify_keeps
  | trayStatus => exact execTrayStatus_keeps
  | timeSet => exact execTimeSet_keeps
  | timeQuery => exact execTimeQuery_keeps
  | powerSet => exact execPowerSet_keeps
  | powerQuery => exact execPowerQuery_keeps
  | tenantCreate => exact execTenantCreate_keeps
  | tenantSet => exact execTenantSet_keeps
  | tenantQuery => exact execTenantQuery_keeps
  | tenantSuspend => exact execTenantSuspend_keeps
  | tenantResume => exact execTenantResume_keeps
  | tenantDestroy => exact execTenantDestroy_keeps
  | commonsAlloc => exact execCommonsAlloc_keeps
  | commonsSeal => exact execCommonsSeal_keeps
  | commonsFree => exact execCommonsFree_keeps
  | commonsQuery => exact execCommonsQuery_keeps
  | regionCreate => exact execRegionCreate_keeps
  | regionSeal => exact execRegionSeal_keeps
  | regionFree => exact execRegionFree_keeps
  | regionQuery => exact execRegionQuery_keeps
  | imageUnregister => exact execImageUnregister_keeps
  | imageQuery => exact execImageQuery_keeps
  | imageBind => exact execImageBind_keeps
  | ringConfigure => exact execRingConfigure_keeps
  | ringDestroy => exact execRingDestroy_keeps
  | ringQuery => exact execRingQuery_keeps
  | ringRestart => exact execRingRestart_keeps
  | unitQuery => exact execUnitQuery_keeps
  | unitSetAdmin => exact execUnitSetAdmin_keeps
  | fabricQuery => exact execFabricQuery_keeps
  | routesAuto => exact execRoutesAuto_keeps
  | hotrowPolicy => exact execHotrowPolicy_keeps
  | ledgerQuery => exact execLedgerQuery_keeps
  | ledgerAck => exact execLedgerAck_keeps
  | ledgerAnchor => exact execLedgerAnchor_keeps
  | traceConfig => exact execTraceConfig_keeps
  | freeze => exact execFreeze_keeps
  | fwStageBegin => exact execFwStageBegin_keeps
  | fwStageEnd => exact execFwStageEnd_keeps
  | fwActivate => exact execFwActivate_keeps
  | fwCommit => exact execFwCommit_keeps
  | commonsLoad => exact execCommonsLoad_keeps
  | regionLoad => exact execRegionLoad_keeps
  | routesLoad => exact execRoutesLoad_keeps
  | fwStageData => exact execFwStageData_keeps
  | unitList => exact execUnitList_keeps
  | ledgerRead => exact execLedgerRead_keeps
  | counterSnapshot => exact execCounterSnapshot_keeps
  | imageRegister => exact execImageRegister_keeps
  | unitRetest => exact execUnitRetest_keeps
  | tenantFreed => exact execTenantFreed_keeps
  | descriptorRead => exact execDescriptorRead_keeps
  | admissionCheck => exact execAdmissionCheck_keeps
  | zeroFillDone => exact execZeroFillDone_keeps
  | stagingDone => exact execStagingDone_keeps
  | configLoad => exact execConfigLoad_keeps
  | feedToken => exact execFeedToken_keeps
  | deadlineExpiry => exact execDeadlineExpiry_keeps
  | quenchAck => exact execQuenchAck_keeps
  | quenchBoundExpiry => exact execQuenchBoundExpiry_keeps
  | completionPost => exact execCompletionPost_keeps
  | frameRelease => exact execFrameRelease_keeps
  | roundAdvance => exact execRoundAdvance_keeps
  | unitHealth => exact execUnitHealth_keeps
  | unitStatePoll => exact execUnitStatePoll_keeps
  | lineTestDone => exact execLineTestDone_keeps
  | errorRecord => exact execErrorRecord_keeps
  | add => exact execAdd_keeps
  | sub => exact execSub_keeps
  | and => exact execAnd_keeps
  | or => exact execOr_keeps
  | xor => exact execXor_keeps
  | sll => exact execSll_keeps
  | srl => exact execSrl_keeps
  | sra => exact execSra_keeps
  | slt => exact execSlt_keeps
  | sltu => exact execSltu_keeps
  | min => exact execMin_keeps
  | max => exact execMax_keeps
  | minu => exact execMinu_keeps
  | maxu => exact execMaxu_keeps
  | mul => exact execMul_keeps
  | mulh => exact execMulh_keeps
  | mulhu => exact execMulhu_keeps
  | div => exact execDiv_keeps
  | divu => exact execDivu_keeps
  | rem => exact execRem_keeps
  | remu => exact execRemu_keeps
  | addi => exact execAddi_keeps
  | andi => exact execAndi_keeps
  | ori => exact execOri_keeps
  | xori => exact execXori_keeps
  | slti => exact execSlti_keeps
  | sltiu => exact execSltiu_keeps
  | slli => exact execSlli_keeps
  | srli => exact execSrli_keeps
  | srai => exact execSrai_keeps
  | lui => exact execLui_keeps
  | auipc => exact execAuipc_keeps
  | ld1 => exact execLd1_keeps
  | ld2 => exact execLd2_keeps
  | ld4 => exact execLd4_keeps
  | ld8 => exact execLd8_keeps
  | ld1u => exact execLd1u_keeps
  | ld2u => exact execLd2u_keeps
  | ld4u => exact execLd4u_keeps
  | ldres => exact execLdres_keeps
  | st1 => exact execSt1_keeps
  | st2 => exact execSt2_keeps
  | st4 => exact execSt4_keeps
  | st8 => exact execSt8_keeps
  | stnt => exact execStnt_keeps
  | stcond => exact execStcond_keeps
  | loadDataReturn => exact execLoadDataReturn_keeps
  | storePerformed => exact execStorePerformed_keeps
  | cbFlushAge => exact execCbFlushAge_keeps
  | gbFlushAge => exact execGbFlushAge_keeps
  | reservationHoldExpiry => exact execReservationHoldExpiry_keeps
  | br => exact execBr_keeps
  | jal => exact execJal_keeps
  | jalr => exact execJalr_keeps
  | sync => exact execSync_keeps
  | syncWatchdog => exact execSyncWatchdog_keeps
  | qsync => exact execQsync_keeps
  | tiss => exact execTiss_keeps
  | wait => exact execWait_keeps
  | crr => exact execCrr_keeps
  | crw => exact execCrw_keeps
  | eret => exact execEret_keeps
  | brk => exact execBrk_keeps
  | endSection => exact execEndSection_keeps
  | pcrr => exact execPcrr_keeps
  | pcrw => exact execPcrw_keeps
  | seqTimerExpiry => exact execSeqTimerExpiry_keeps
  | interrupt => exact execInterrupt_keeps
  | wlkNext => exact execWlkNext_keeps
  | wlkRestart => exact execWlkRestart_keeps
  | chnRelease => exact execChnRelease_keeps
  | passCheck => exact execPassCheck_keeps
  | quantumCommit => exact execQuantumCommit_keeps
  | tierAtomicAdd => exact execTierAtomicAdd_keeps
  | gatherRowArrival => exact execGatherRowArrival_keeps
  | remoteWrite => exact execRemoteWrite_keeps
  | creditReturn => exact execCreditReturn_keeps
  | spScrub => exact execSpScrub_keeps
  | scrubForce => exact execScrubForce_keeps
  | tierScrub => exact execTierScrub_keeps
  | refresh controller => exact execRefresh_keeps (_controller := controller)
  | tierFillDone => exact execTierFillDone_keeps
  | hotrowSent => exact execHotrowSent_keeps
  | replicaDrop => exact execReplicaDrop_keeps
  | moduleInsert => exact execModuleInsert_keeps
  | moduleRemove => exact execModuleRemove_keeps
  | trainingStep => exact execTrainingStep_keeps
  | trainingTimeout => exact execTrainingTimeout_keeps
  | trainingRetry => exact execTrainingRetry_keeps
  | fecLockLoss => exact execFecLockLoss_keeps
  | codewordReceive => exact execCodewordReceive_keeps
  | lctl => exact execLctl_keeps
  | lctlTimer => exact execLctlTimer_keeps
  | replayTimeout => exact execReplayTimeout_keeps
  | hello => exact execHello_keeps
  | helloTimer => exact execHelloTimer_keeps
  | lsr => exact execLsr_keeps
  | lsrRefresh => exact execLsrRefresh_keeps
  | lsrAgeExpiry => exact execLsrAgeExpiry_keeps
  | addrFirm => exact execAddrFirm_keeps
  | routeCompute => exact execRouteCompute_keeps
  | routesInstalled => exact execRoutesInstalled_keeps
  | txnForward => exact execTxnForward_keeps
  | ageDrop => exact execAgeDrop_keeps
  | txnRead => exact execTxnRead_keeps
  | txnWrite => exact execTxnWrite_keeps
  | txnAadd => exact execTxnAadd_keeps
  | txnPool => exact execTxnPool_keeps
  | txnClaim => exact execTxnClaim_keeps
  | txnReport => exact execTxnReport_keeps
  | txnRelease => exact execTxnRelease_keeps
  | txnQuench => exact execTxnQuench_keeps
  | txnHotrow => exact execTxnHotrow_keeps
  | txnCredit => exact execTxnCredit_keeps
  | txnResponse => exact execTxnResponse_keeps
  | e2eRetry => exact execE2eRetry_keeps
  | creditRefresh => exact execCreditRefresh_keeps
  | obsTselWrite => exact execObsTselWrite_keeps
  | obsTrcHeadWrite => exact execObsTrcHeadWrite_keeps
  | traceExport => exact execTraceExport_keeps
  | timebase => exact execTimebase_keeps
  | i2cTransaction _ _ written _ => exact execI2cTransaction_keeps (_written := written)
  | tempUpdate => exact execTempUpdate_keeps
  | eftTick => exact execEftTick_keeps
  | perstDeassertion => exact execPerstDeassertion_keeps
  | linkL1Exit => exact execLinkL1Exit_keeps
  | sroClkRisingEdge => exact execSroClkRisingEdge_keeps
  | duplicateRecordExpiry => exact execDuplicateRecordExpiry_keeps
  | overcurrentWarningDeassert => exact execOvercurrentWarningDeassert_keeps
  | mma => exact execMma_keeps
  | preload => exact execPreload_keeps
  | drainWindow => exact execDrainWindow_keeps
  | drainToken => exact execDrainToken_keeps
  | drainFabric => exact execDrainFabric_keeps
  | vadd => exact execVadd_keeps
  | vsub => exact execVsub_keeps
  | vmul => exact execVmul_keeps
  | vmax => exact execVmax_keeps
  | vmin => exact execVmin_keeps
  | vcvt => exact execVcvt_keeps
  | vcmp => exact execVcmp_keeps
  | vmaskld => exact execVmaskld_keeps
  | vsel => exact execVsel_keeps
  | rsum => exact execRsum_keeps
  | rmax => exact execRmax_keeps
  | rmin => exact execRmin_keeps
  | topk => exact execTopk_keeps
  | combine => exact execCombine_keeps
  | aadd => exact execAadd_keeps
  | sdmm => exact execSdmm_keeps
  | dsmm => exact execDsmm_keeps
  | ssmm => exact execSsmm_keeps
  | quanta => exact execQuanta_keeps
  | freq => exact execFreq_keeps
  | gather => exact execGather_keeps
  | route => exact execRoute_keeps

/-! ## One step -/

/-- A step takes the command at the front of the queue. -/
theorem step_keeps {s : State} : Keeps s (step s) := by
  unfold step
  split
  · exact keeps_next id
  · obtain ⟨t, ht, hkept⟩ := exec_keeps
    exact ⟨t, ht, fun h => hkept (orderly_update h.wf)⟩

/-- Settles O60. Each command's lemma `exec…_keeps` names the state it answers, and says that this one is orderly where the old
one is: memory changes only through `mwrite`, `mset` and their folds, which keep the canonical form. -/
theorem commandsCompleteAndKeepMemory : Obligations.CommandsCompleteAndKeepMemory := by
  unfold Obligations.CommandsCompleteAndKeepMemory
  refine ⟨fun i s => ?_, fun s t h e => ?_⟩
  · obtain ⟨t, ht, -⟩ := exec_keeps (i := i) (s := s)
    exact ⟨t, ht⟩
  · obtain ⟨u, hu, hkept⟩ := step_keeps (s := s)
    rw [hu] at e
    cases e
    exact (hkept ⟨h⟩).wf

end Sys2Proof.Machine
end
